-- ==== Sys2Proof/Word.lean ====
section
/-! DEFINITION. The word types of the C9 (R1, R33) and the sparse table type that holds every
register file and every memory of the model. -/

namespace Sys2Proof

abbrev Byte := BitVec 8
abbrev Word32 := BitVec 32
abbrev Word64 := BitVec 64
/-- A vector register (R33). -/
abbrev VReg := BitVec 2048
/-- A vector mask register (R33). -/
abbrev VMask := BitVec 256

/-- A table from numbers to values in one canonical form: keys strictly rising, and no entry equal to
the value that an unlisted key reads as. The operations stand in Machine/Sparse.lean. -/
abbrev Sparse (α : Type) := List (Nat × α)

end Sys2Proof
end

