-- ==== Sys2Proof/Config.lean ====
section
/-! DEFINITION. What an implementation of the C9 fixes or leaves open: uninterpreted constants (no body, so no proof
can use a value of one) and the fixed figures of R13, R21 that the model reads. -/

namespace Sys2Proof.Config

/-- R165: in `.f32`, `VEXP2`, `VLOG2` and `VTANH` give one of the two values that bracket the exact value, and the choice
depends only on the op (0 `VEXP2`, 1 `VLOG2`, 2 `VTANH`) and the input bits; `true` is the bracket of larger magnitude.
Log entry 10. -/
opaque bracketUp : Nat → Word32 → Bool

/-- R308, R332, R240: a choice the manual leaves open (a subscription entry and its serial, a pool entry, a request tag).
The argument is the free counter of the state. Log entry 11. -/
opaque pick : Nat → Nat

/-- R400: bytes that the manual calls undefined (the destinations of an aborted instance). Log entry 11. -/
opaque freeByte : Nat → Byte

/-- R199: the histogram bin of one measured wave; the argument is the free counter. Log entry 12. -/
opaque waveBin : Nat → Fin 8

/-- R359: the destination port to which a local port's path to a physical chip leads, fixed by the fabric manager's
programming. Log entry 46. -/
opaque farPort : Nat → Nat → Nat

/-- R412: the rated voltage limit of a cluster-matrix island, in steps of 5 mV above its voltage at reset; the manual gives no
figure. Log entry 78. -/
opaque voltLimit : Nat → Nat

/-- R410: the TYPE of the event that asks the host for a tree, which the manual does not give. Log entry 91. -/
opaque treeRequest : Nat

/-- R357: where in the device-reserved region a job's route table lies, which the manual does not say. Log entry 86. -/
opaque routeBase : Nat → Nat

/-- R13: cores of the package. -/
abbrev nCores : Nat := 768

/-- R13: cores of a cluster. -/
abbrev coresPerCluster : Nat := 96

/-- R226: physical HBM addresses are 39 bits wide. -/
abbrev hbmBytes : Nat := 549755813888

/-- R13: bytes of one scratchpad. -/
abbrev spBytes : Nat := 1048576

end Sys2Proof.Config
end

