-- ==== Sys2Proof/Machine/Sparse.lean ====
section
/-! DEFINITION. The operations of the sparse tables, and the bit-field, sign-extension and little-endian helpers (R1, R2)
that the whole machine uses. -/

namespace Sys2Proof

/-- The value of key `k`: its entry's, or `d` where it has none. -/
def Sparse.get {α : Type} (d : α) : Sparse α → Nat → α
  | [], _ => d
  | (j, v) :: t, k => if k = j then v else Sparse.get d t k

/-- The table without key `k`. -/
def Sparse.del {α : Type} (k : Nat) : Sparse α → Sparse α
  | [] => []
  | (j, v) :: t => if k = j then Sparse.del k t else (j, v) :: Sparse.del k t

/-- The table with `v` at key `k`, keys kept rising. -/
def Sparse.ins {α : Type} (k : Nat) (v : α) : Sparse α → Sparse α
  | [] => [(k, v)]
  | (j, w) :: t => if k < j then (k, v) :: (j, w) :: t else if k = j then (k, v) :: t else (j, w) :: Sparse.ins k v t

/-- Writes `v` at key `k`; the value `d`, which an unlisted key reads as, removes the entry. -/
def Sparse.set {α : Type} [DecidableEq α] (d : α) (t : Sparse α) (k : Nat) (v : α) : Sparse α :=
  if v = d then Sparse.del k t else Sparse.ins k v t

/-- Every listed value mapped by `f`; a value that becomes `d` leaves the table. -/
def Sparse.mapV {α : Type} [DecidableEq α] (d : α) (f : Nat → α → α) : Sparse α → Sparse α
  | [] => []
  | (j, v) :: t => if f j v = d then Sparse.mapV d f t else (j, f j v) :: Sparse.mapV d f t

/-- The canonical form: every key is above `lo`'s bound, keys rise strictly, no entry holds `d`. -/
def Sparse.wfFrom {α : Type} [DecidableEq α] (d : α) : Nat → Sparse α → Bool
  | _, [] => true
  | lo, (j, v) :: t => decide (lo ≤ j) && !decide (v = d) && Sparse.wfFrom d (j + 1) t

/-- The canonical form of a table. -/
def Sparse.wf {α : Type} [DecidableEq α] (d : α) (t : Sparse α) : Bool := Sparse.wfFrom d 0 t

/-- Bits `h..l` of `x` (R1). -/
def bits (x h l : Nat) : Nat := x / 2 ^ l % 2 ^ (h + 1 - l)

/-- Bit `n` of `x`. -/
def bitOf (x n : Nat) : Bool := x / 2 ^ n % 2 = 1

/-- A Bool as the number of one bit. -/
def b2n (b : Bool) : Nat := if b then 1 else 0

/-- The signed value of the low `w` bits of `x` (R1). -/
def sx (w x : Nat) : Int := (BitVec.ofNat w x).toInt

/-- The 64-bit word of an integer, modulo 2^64. -/
def w64 (x : Int) : Word64 := BitVec.ofInt 64 x

/-- The 64-bit word of a natural number, modulo 2^64. -/
def n64 (x : Nat) : Word64 := BitVec.ofNat 64 x

/-- Bits of `x` as a list of `n` bytes, least significant first (R2). -/
def leBytes : Nat → Nat → List Byte
  | 0, _ => []
  | n + 1, x => BitVec.ofNat 8 x :: leBytes n (x / 256)

/-- The number that a list of bytes holds, least significant first (R2). -/
def leNat : List Byte → Nat
  | [] => 0
  | b :: t => b.toNat + 256 * leNat t

/-- `n` bytes of a list from position `k`; zeros beyond its end. -/
def leAt (l : List Byte) (k n : Nat) : Nat := leNat ((l.drop k).take n)

/-- The list with element `k` replaced, unchanged when it is shorter. -/
def setAt {α : Type} : List α → Nat → α → List α
  | [], _, _ => []
  | _ :: t, 0, v => v :: t
  | h :: t, k + 1, v => h :: setAt t k v

/-- The bytes `bs` written over the list from position `k`. -/
def patch (l : List Byte) (k : Nat) (bs : List Byte) : List Byte := l.take k ++ bs ++ l.drop (k + bs.length)

/-- `n` zero bytes. -/
def zeroBytes (n : Nat) : List Byte := List.replicate n 0

/-- `x` reduced to the multiple of `m` at or below it. -/
def alignDown (x m : Nat) : Nat := x - x % m

end Sys2Proof
end

