-- ==== Sys2Proof/Syntax.lean ====
section
/-! DEFINITION. The operand formats of the slot words (R54), the C9's steps as one inductive: 186 slot ops and
124 event steps, one constructor per row of the table of operations and events. -/

namespace Sys2Proof

/-- Format A: dst 22..17, src1 16..11, src2 10..5, b1 4, b2 3, mod 2..0 (R54). -/
structure ArgA where
  dst : Fin 64
  src1 : Fin 64
  src2 : Fin 64
  b1 : Bool
  b2 : Bool
  mod : Fin 8
  deriving DecidableEq, Repr

/-- Format I; `ext` is the 32-bit immediate (R54, R56). -/
structure ArgI where
  dst : Fin 64
  src1 : Fin 64
  b1 : Bool
  imm : BitVec 10
  ext : Option Word32
  deriving DecidableEq, Repr

/-- Format W (R54). -/
structure ArgW where
  dst : Fin 64
  imm : BitVec 17
  ext : Option Word32
  deriving DecidableEq, Repr

/-- Format B: a signed word offset (R54, R56). -/
structure ArgB where
  pred : Fin 8
  neg : Bool
  ofs : BitVec 19
  ext : Option Word32
  deriving DecidableEq, Repr

/-- Format P (R54); its zero field 19..17 is checked at decode. -/
structure ArgP where
  pd : Fin 8
  src1 : Fin 64
  src2 : Fin 64
  b1 : Bool
  b2 : Bool
  cond : Fin 8
  deriving DecidableEq, Repr

/-- Format Q (R54). -/
structure ArgQ where
  pd : Fin 8
  cond : Fin 8
  src1 : Fin 64
  b1 : Bool
  imm : BitVec 10
  ext : Option Word32
  deriving DecidableEq, Repr

/-- Format PL (R54). -/
structure ArgPL where
  pd : Fin 8
  pa : Fin 8
  pb : Fin 8
  deriving DecidableEq, Repr

/-- Format CS (R54). -/
structure ArgCS where
  dst : Fin 64
  src1 : Fin 64
  b1 : Bool
  index : BitVec 10
  deriving DecidableEq, Repr

/-- Format LP (R54, R105): `levels` and `body` hold the number minus 1. -/
structure ArgLP where
  levels : Fin 8
  body : Fin 32
  abase : Fin 16
  b : Bool
  deriving DecidableEq, Repr

/-- Format K (R54). -/
structure ArgK where
  dst : Fin 64
  pd : Fin 8
  abase : Fin 16
  b : Bool
  deriving DecidableEq, Repr

/-- Format M; `ext` is the signed byte offset (R54, R56). -/
structure ArgM where
  hold : Bool
  reg : Fin 64
  abase : Fin 16
  b : Bool
  ty : Fin 8
  step : BitVec 5
  opt : BitVec 4
  ext : Option Word32
  deriving DecidableEq, Repr

/-- Format G (R54, R130). -/
structure ArgG where
  hold : Bool
  vreg : Fin 32
  abase : Fin 16
  vidx : Fin 32
  b : Bool
  ty : Fin 8
  vm : Fin 8
  ext : Option Word32
  deriving DecidableEq, Repr

/-- Format MX (R54, R191). -/
structure ArgMX where
  hold : Bool
  acc : Fin 16
  sreg : Fin 64
  aa : Fin 16
  ab : Fin 16
  b : Bool
  opt : BitVec 4
  ext : Option Word32
  deriving DecidableEq, Repr

/-- Format X (R54, R316). -/
structure ArgX where
  hold : Bool
  sreg : Fin 64
  adesc : Fin 16
  sarg : Fin 64
  b : Bool
  opt : BitVec 6
  deriving DecidableEq, Repr

/-- Format CV, `FCVTS` only (R54, R124). -/
structure ArgCV where
  dst : Fin 64
  src1 : Fin 64
  b1 : Bool
  dty : Fin 16
  sty : Fin 16
  deriving DecidableEq, Repr

/-- Format A in the V slot, with its extension word (R56, R144). -/
structure ArgV where
  hold : Bool
  dst : Fin 64
  src1 : Fin 64
  src2 : Fin 64
  b1 : Bool
  b2 : Bool
  mod : Fin 8
  ext : Option Word32
  deriving DecidableEq, Repr

/-- A flit on a Wilaro link (R350). The CRC is held as received. -/
structure Flit where
  type : Nat
  last : Bool
  first : Bool
  conf : Bool
  vc : Nat
  seq : Nat
  djob : Nat
  src : Nat
  dst : Nat
  nb : Nat
  addr : Nat
  payload : List Byte
  crc : Word64
  ackSeq : Nat
  ackV : Bool
  ackVc : Nat
  epoch : Nat
  crV : Bool
  crVc : Nat
  crN : Nat
  deriving DecidableEq, Repr

/-- The unit that a stop record or a halt names: KIND and INST of R263. -/
structure UnitId where
  kind : Nat
  inst : Nat
  deriving DecidableEq, Repr

/-- The fields that GCREATE writes (R381, R382), as the host gives them. -/
structure GroupImage where
  vc : Nat
  prio : Nat
  port : Nat
  chunk : Nat
  ranks : List Nat
  zeros : Bool
  deriving DecidableEq, Repr

/-- One result of a commit as the switch multicasts it (R385): the new version, the agreed value, the member count
and, engine by engine of this chip, whether it is a member. -/
structure CommitMsg where
  tree : Nat
  version : Word32
  agreed : Word32
  nmem : Nat
  memb : List Nat
  deriving DecidableEq, Repr

/-- What CREATE_JOB names (R223, R242, R357). -/
structure JobImage where
  own : Nat
  rglog2 : Nat
  keyid : Nat
  segBase : Nat
  rsvBase : Nat
  rsvSize : Nat
  deriving DecidableEq, Repr

/-- The C9's steps: the slot ops (their slot is fixed by the constructor, R53) and, from `bundleIssue` on, the
events of spec/95, those that the package's own units bring about first. The `writeback`, `reasonCleared` and other arguments named `ctx` are CTXID values
(core x 4 + slot); values from 3,072 on name spilled contexts by their save number. -/
inductive Instr where
  /-- R102 -/
  | nop
  /-- R103 -/
  | br (x : ArgB)
  /-- R103 -/
  | brp (x : ArgB)
  /-- R103 -/
  | bri (x : ArgA)
  /-- R103 -/
  | call (x : ArgB)
  /-- R103 -/
  | calli (x : ArgA)
  /-- R103 -/
  | ret
  /-- R107 -/
  | loopn (x : ArgLP)
  /-- R109 -/
  | lexit
  /-- R328 -/
  | haltb
  /-- R275 -/
  | yield
  /-- R275 -/
  | sleepu (x : ArgA)
  /-- R276 -/
  | waitfe (x : ArgA)
  /-- R271 -/
  | trap (x : ArgW)
  /-- R272 -/
  | eret
  /-- R273 -/
  | snapst (x : ArgA)
  /-- R273 -/
  | snapld (x : ArgA)
  /-- R273 -/
  | snaprel
  /-- R236 -/
  | rprobe (x : ArgA)
  /-- R236 -/
  | wprobe (x : ArgA)
  /-- R239 -/
  | pgalloc (x : ArgA)
  /-- R44 -/
  | fmtset (x : ArgA)
  /-- R112 -/
  | csrr (x : ArgCS)
  /-- R112 -/
  | csrw (x : ArgCS)
  /-- R216 -/
  | fence (x : ArgA)
  /-- R271 -/
  | bkpt (x : ArgW)
  /-- R271 -/
  | abort (x : ArgW)
  /-- R332 -/
  | launch (x : ArgK)
  /-- R332 -/
  | launcht (x : ArgK)
  /-- R335 -/
  | kjoin (x : ArgA)
  /-- R332 -/
  | relaunch (x : ArgA)
  /-- R114 -/
  | add (x : ArgA)
  /-- R116 -/
  | addi (x : ArgI)
  /-- R114 -/
  | sub (x : ArgA)
  /-- R114 -/
  | mul (x : ArgA)
  /-- R114 -/
  | mulhi (x : ArgA)
  /-- R114 -/
  | mulhn (x : ArgA)
  /-- R114 -/
  | div (x : ArgA)
  /-- R114 -/
  | divn (x : ArgA)
  /-- R114 -/
  | rem (x : ArgA)
  /-- R114 -/
  | remn (x : ArgA)
  /-- R114 -/
  | min (x : ArgA)
  /-- R114 -/
  | minn (x : ArgA)
  /-- R114 -/
  | max (x : ArgA)
  /-- R114 -/
  | maxn (x : ArgA)
  /-- R114 -/
  | and (x : ArgA)
  /-- R116 -/
  | andi (x : ArgI)
  /-- R114 -/
  | or (x : ArgA)
  /-- R116 -/
  | ori (x : ArgI)
  /-- R114 -/
  | xor (x : ArgA)
  /-- R116 -/
  | xori (x : ArgI)
  /-- R114 -/
  | andn (x : ArgA)
  /-- R114 -/
  | shl (x : ArgA)
  /-- R116 -/
  | shli (x : ArgI)
  /-- R114 -/
  | shr (x : ArgA)
  /-- R116 -/
  | shri (x : ArgI)
  /-- R114 -/
  | sra (x : ArgA)
  /-- R116 -/
  | srai (x : ArgI)
  /-- R114 -/
  | rotl (x : ArgA)
  /-- R115 -/
  | clz (x : ArgA)
  /-- R115 -/
  | ctz (x : ArgA)
  /-- R115 -/
  | popc (x : ArgA)
  /-- R118 -/
  | bfx (x : ArgA)
  /-- R118 -/
  | bfxs (x : ArgA)
  /-- R118 -/
  | bfi (x : ArgA)
  /-- R115 -/
  | sext (x : ArgA)
  /-- R115 -/
  | zext (x : ArgA)
  /-- R115 -/
  | mov (x : ArgA)
  /-- R117 -/
  | movi (x : ArgW)
  /-- R117 -/
  | movhi (x : ArgW)
  /-- R120 -/
  | cmp (x : ArgP)
  /-- R120 -/
  | cmpi (x : ArgQ)
  /-- R118 -/
  | sel (x : ArgA)
  /-- R115 -/
  | abs (x : ArgA)
  /-- R115 -/
  | neg (x : ArgA)
  /-- R121 -/
  | pand (x : ArgPL)
  /-- R121 -/
  | por (x : ArgPL)
  /-- R121 -/
  | pxor (x : ArgPL)
  /-- R121 -/
  | pnot (x : ArgPL)
  /-- R121 -/
  | pmov (x : ArgPL)
  /-- R122 -/
  | fadds (x : ArgA)
  /-- R122 -/
  | fsubs (x : ArgA)
  /-- R122 -/
  | fmuls (x : ArgA)
  /-- R122 -/
  | ffmas (x : ArgA)
  /-- R122 -/
  | fmins (x : ArgA)
  /-- R122 -/
  | fmaxs (x : ArgA)
  /-- R123 -/
  | fcmps (x : ArgP)
  /-- R124 -/
  | fcvts (x : ArgCV)
  /-- R129 -/
  | ld (x : ArgM)
  /-- R129 -/
  | st (x : ArgM)
  /-- R129 -/
  | ldv (x : ArgM)
  /-- R129 -/
  | stv (x : ArgM)
  /-- R129 -/
  | ldvs (x : ArgM)
  /-- R129 -/
  | stvs (x : ArgM)
  /-- R130 -/
  | gath (x : ArgG)
  /-- R130 -/
  | scat (x : ArgG)
  /-- R134 -/
  | ldl (x : ArgM)
  /-- R134 -/
  | stul (x : ArgM)
  /-- R137 -/
  | atom (x : ArgM)
  /-- R137 -/
  | cas (x : ArgM)
  /-- R138 -/
  | aadd (x : ArgA)
  /-- R138 -/
  | amov (x : ArgA)
  /-- R129 -/
  | ldc (x : ArgM)
  /-- R292 -/
  | binit (x : ArgM)
  /-- R292 -/
  | bexpect (x : ArgM)
  /-- R292 -/
  | barrive (x : ArgM)
  /-- R293 -/
  | bwait (x : ArgM)
  /-- R293 -/
  | bwaitp (x : ArgM)
  /-- R292 -/
  | btest (x : ArgM)
  /-- R294 -/
  | cadd (x : ArgM)
  /-- R294 -/
  | cwaitge (x : ArgM)
  /-- R63 -/
  | nopL
  /-- R151 -/
  | vadd (x : ArgV)
  /-- R151 -/
  | vsub (x : ArgV)
  /-- R151 -/
  | vmul (x : ArgV)
  /-- R151 -/
  | vfma (x : ArgV)
  /-- R151 -/
  | vfms (x : ArgV)
  /-- R151 -/
  | vmin (x : ArgV)
  /-- R151 -/
  | vmax (x : ArgV)
  /-- R151 -/
  | vabs (x : ArgV)
  /-- R151 -/
  | vneg (x : ArgV)
  /-- R152 -/
  | vand (x : ArgV)
  /-- R152 -/
  | vor (x : ArgV)
  /-- R152 -/
  | vxor (x : ArgV)
  /-- R152 -/
  | vnot (x : ArgV)
  /-- R152 -/
  | vshl (x : ArgV)
  /-- R152 -/
  | vshr (x : ArgV)
  /-- R152 -/
  | vsra (x : ArgV)
  /-- R153 -/
  | vcmp (x : ArgV)
  /-- R154 -/
  | vsel (x : ArgV)
  /-- R154 -/
  | vmov (x : ArgV)
  /-- R154 -/
  | vmovs (x : ArgV)
  /-- R154 -/
  | vextr (x : ArgV)
  /-- R154 -/
  | vins (x : ArgV)
  /-- R155 -/
  | vperm (x : ArgV)
  /-- R155 -/
  | vslide (x : ArgV)
  /-- R155 -/
  | viota (x : ArgV)
  /-- R155 -/
  | vcompr (x : ArgV)
  /-- R156 -/
  | vcvt (x : ArgV)
  /-- R157 -/
  | vquant (x : ArgV)
  /-- R159 -/
  | vdeq (x : ArgV)
  /-- R161 -/
  | vdot (x : ArgV)
  /-- R162 -/
  | vrsum (x : ArgV)
  /-- R162 -/
  | vrmax (x : ArgV)
  /-- R162 -/
  | vrmin (x : ArgV)
  /-- R163 -/
  | vrmaxi (x : ArgV)
  /-- R163 -/
  | vrmini (x : ArgV)
  /-- R164 -/
  | vscan (x : ArgV)
  /-- R152 -/
  | vpopc (x : ArgV)
  /-- R152 -/
  | vclz (x : ArgV)
  /-- R165 -/
  | vrcp (x : ArgV)
  /-- R165 -/
  | vrsq (x : ArgV)
  /-- R165 -/
  | vexp2 (x : ArgV)
  /-- R165 -/
  | vlog2 (x : ArgV)
  /-- R165 -/
  | vtanh (x : ArgV)
  /-- R167 -/
  | vmset (x : ArgV)
  /-- R168 -/
  | vmops (x : ArgV)
  /-- R63 -/
  | nopV
  /-- R192 -/
  | mma (x : ArgMX)
  /-- R192 -/
  | mmaz (x : ArgMX)
  /-- R192 -/
  | mmas (x : ArgMX)
  /-- R194 -/
  | mcbld (x : ArgMX)
  /-- R195 -/
  | accrd (x : ArgMX)
  /-- R195 -/
  | accwr (x : ArgMX)
  /-- R197 -/
  | accz (x : ArgMX)
  /-- R198 -/
  | mwait (x : ArgMX)
  /-- R199 -/
  | mstat (x : ArgMX)
  /-- R198 -/
  | mdrain (x : ArgMX)
  /-- R63 -/
  | nopM
  /-- R303 -/
  | xcopy (x : ArgX)
  /-- R303 -/
  | xfill (x : ArgX)
  /-- R308 -/
  | xsub (x : ArgX)
  /-- R312 -/
  | xunsub (x : ArgX)
  /-- R311 -/
  | xslot (x : ArgX)
  /-- R373 -/
  | xremw (x : ArgX)
  /-- R374 -/
  | xrcopy (x : ArgX)
  /-- R376 -/
  | xcadd (x : ArgX)
  /-- R314 -/
  | xmcast (x : ArgX)
  /-- R315 -/
  | xmcastSet (x : ArgX)
  /-- R243 -/
  | xmigr (x : ArgX)
  /-- R402 -/
  | xcoll (x : ArgX)
  /-- R387 -/
  | xgjoin (x : ArgX)
  /-- R387 -/
  | xgleave (x : ArgX)
  /-- R387 -/
  | xgagree (x : ArgX)
  /-- R315 -/
  | xcancel (x : ArgX)
  /-- R63 -/
  | nopX
  /-- R39 -/
  | bundleIssue (core : Nat)
  /-- R36 -/
  | writeback (ctx idx : Nat)
  /-- R249 -/
  | reasonCleared (ctx : Nat)
  /-- R251 -/
  | quantum (core : Nat)
  /-- R275 -/
  | sleepWake (ctx : Nat)
  /-- R293 -/
  | promiseWake (ctx : Nat)
  /-- R265 -/
  | watchdog (ctx : Nat)
  /-- R257 -/
  | trapEntry (ctx : Nat)
  /-- R262 -/
  | haltArrival (launch : Nat) (unit : UnitId)
  /-- R262 -/
  | faultCompletion (launch : Nat)
  /-- R252 -/
  | preemptionRequest (idx : Nat)
  /-- R253 -/
  | preload (core : Nat)
  /-- R253 -/
  | swap (core : Nat)
  /-- R253 -/
  | spill (core : Nat)
  /-- R254 -/
  | tileFill (core slot : Nat)
  /-- R404 -/
  | restore (saved : Nat)
  /-- R179 -/
  | entryStart (core : Nat)
  /-- R169 -/
  | wave (core : Nat)
  /-- R181 -/
  | entryComplete (core : Nat)
  /-- R303 -/
  | copyStart (core job : Nat)
  /-- R290 -/
  | byteArrival (core job elem : Nat)
  /-- R306 -/
  | copyComplete (core job : Nat)
  /-- R309 -/
  | ringFill (quay idx n : Nat)
  /-- R310 -/
  | ringPull (quay idx n : Nat)
  /-- R312 -/
  | subscriptionClose (quay idx : Nat)
  /-- R314 -/
  | multicastDelivery (core job mem : Nat)
  /-- R228 -/
  | zeroingComplete (job seg : Nat)
  /-- R228 -/
  | drained (job seg : Nat)
  /-- R233 -/
  | demandFill (job seg page : Nat)
  /-- R233 -/
  | fillTimeout (job seg page : Nat)
  /-- R243 -/
  | migrationAccept (ctx : Nat)
  /-- R243 -/
  | migrationCopy (job seg : Nat)
  /-- R243 -/
  | rebind (job seg : Nat)
  /-- R281 -/
  | packetWaits (q : Nat)
  /-- R283 -/
  | dispatch (part : Nat)
  /-- R323 -/
  | blockLoad (launch : Nat)
  /-- R285 -/
  | predelay (part : Nat)
  /-- R328 -/
  | retirement (ctx : Nat)
  /-- R329 -/
  | launchCompletion (launch : Nat)
  /-- R284 -/
  | eventRecord (q : Nat)
  /-- R360 -/
  | flitSend (port : Nat)
  /-- R355 -/
  | ackTimer (chip vc : Nat)
  /-- R355 -/
  | replay (chip vc : Nat)
  /-- R364 -/
  | routeDead (job lchip cond : Nat)
  /-- R363 -/
  | noPath (job lchip : Nat)
  /-- R354 -/
  | restripe (port : Nat)
  /-- R353 -/
  | trainTimeout (port : Nat)
  /-- R353 -/
  | crcThreshold (port : Nat)
  /-- R353 -/
  | drain (port : Nat)
  /-- R353 -/
  | drainTimeout (port : Nat)
  /-- R359 -/
  | repin (chip vc : Nat)
  /-- R397 -/
  | recordStart (engine : Nat)
  /-- R26 -/
  | relock (cluster : Nat)
  /-- R261 -/
  | haltLine (launch : Nat) (unit : UnitId) (cause : Nat)
  /-- R280 -/
  | qtail (q : Nat) (t : Word32)
  /-- R282 -/
  | enable (q : Nat)
  /-- R282 -/
  | disable (q : Nat)
  /-- R282 -/
  | resume (q : Nat)
  /-- R266 -/
  | kill (q : Nat)
  /-- R227 -/
  | bind (block : Nat)
  /-- R227 -/
  | unbind (block : Nat)
  /-- R227 -/
  | release (block : Nat)
  /-- R227 -/
  | pool (block : Nat)
  /-- R240 -/
  | pageresp (tag : BitVec 16) (refused : Bool)
  /-- R268 -/
  | steprel (ctx : Nat)
  /-- R285 -/
  | preempt (core slot : Nat)
  /-- R277 -/
  | registerWrite (off : Nat) (val : Word64)
  /-- R220 -/
  | hostWrite (job : Nat) (addr : Word64) (data : List Byte)
  /-- R361 -/
  | dataFlit (port : Nat) (flit : Flit)
  /-- R361 -/
  | addFlit (port : Nat) (flit : Flit)
  /-- R355 -/
  | ack (port chip vc seq : Nat)
  /-- R355 -/
  | nak (port chip vc seq reason : Nat)
  /-- R354 -/
  | lossOfLight (port wavelength : Nat)
  /-- R353 -/
  | training (port : Nat) (groups : BitVec 4)
  /-- R353 -/
  | retrain (port : Nat)
  /-- R353 -/
  | fencePort (port : Nat)
  /-- R353 -/
  | disablePort (port : Nat)
  /-- R371 -/
  | qpError (job lchip vc : Nat)
  /-- R358 -/
  | routeWrite (job lchip : Nat) (word : Word64)
  /-- R366 -/
  | keyInstall (job : Nat) (key : BitVec 256)
  /-- R382 -/
  | gcreate (job group : Nat) (image : GroupImage)
  /-- R382 -/
  | gbind (job group : Nat)
  /-- R382 -/
  | gquiesce (job group : Nat)
  /-- R382 -/
  | gresume (job group : Nat)
  /-- R382 -/
  | gevict (job group rank : Nat)
  /-- R382 -/
  | gabort (job group : Nat)
  /-- R382 -/
  | gdestroy (job group : Nat)
  /-- R383 -/
  | treeProgrammed (job group tree status nmem : Nat)
  /-- R385 -/
  | commit (job group : Nat) (msg : CommitMsg)
  /-- R394 -/
  | instanceComplete (engine job group pid inst : Nat)
  /-- R400 -/
  | instanceAbort (job group pid inst code : Nat)
  /-- R407 -/
  | resetCold
  /-- R407 -/
  | resetWarm
  /-- R407 -/
  | resetDie (die : Nat)
  /-- R407 -/
  | resetCluster (cluster : Nat)
  /-- R407 -/
  | resetCore (core : Nat)
  /-- R407 -/
  | resetMatrix (core : Nat)
  /-- R407 -/
  | resetCopy (core : Nat)
  /-- R407 -/
  | resetQuay (quay : Nat)
  /-- R407 -/
  | resetPort (port : Nat)
  /-- R407 -/
  | resetCollective (engine : Nat)
  /-- R406 -/
  | perst
  /-- R406 -/
  | hotReset
  /-- R410 -/
  | setmode (fn : Nat) (host : Bool)
  /-- R411 -/
  | sensorRead (sensor : Nat)
  /-- R411 -/
  | telemetryUpdate (sensor val : Nat)
  /-- R410 -/
  | scrub (addr : Nat)
  /-- R28 -/
  | partition (part : Nat) (cores : List Nat) (slotid : Nat)
  /-- R27 -/
  | powerUp (part : Nat)
  /-- R297 -/
  | slotMask (part : Option Nat) (id : Nat) (mask : Word64)
  /-- R265 -/
  | watchdogLimit (part : Nat) (limit : Word32)
  /-- R23 -/
  | powerCap (watts : Nat)
  /-- R23 -/
  | capWindow (cluster : Nat)
  /-- R26 -/
  | frequencyStep (cluster mhz : Nat)
  /-- R412 -/
  | ageingStep (cluster : Nat)
  /-- R29 -/
  | chipNumber (phys : Nat)
  /-- R413 -/
  | spdmSession (ok : Bool)
  /-- R413 -/
  | firmwareWrite (comp : Nat) (good : Bool)
  /-- R413 -/
  | activate (comp : Nat)
  /-- R413 -/
  | selfCheck (comp : Nat) (ok : Bool)
  /-- R360 -/
  | creditReturn (port dport vc n : Nat)
  /-- R371 -/
  | priorityFlowControl (port prio : Nat) (pause : Bool)
  /-- R223 -/
  | createJob (job : Nat) (image : JobImage)
  /-- R410 -/
  | ageingApproval (cluster : Nat) (approve : Bool)
  deriving DecidableEq, Repr

end Sys2Proof
end

