-- ==== Sys2Proof/WellFormed.lean ====
section
/-! DEFINITION. Which instructions are well formed: the checks of decoding (R55, R56, R59, R70, and each op's own list of
accepted fields). A word whose fields fail them is an illegal op (trap 0x02, REASON 0x00). Events are well formed when the
unit they name exists. -/

namespace Sys2Proof

/-- Format B with EXT: ofs is zero (R56). -/
def extB (x : ArgB) : Bool := x.ext.isNone || x.ofs == 0

/-- Format I with EXT: imm is zero (R56). -/
def extI (x : ArgI) : Bool := x.ext.isNone || x.imm == 0

/-- Format W with EXT: imm is zero (R56). -/
def extW (x : ArgW) : Bool := x.ext.isNone || x.imm == 0

/-- Format Q with EXT: imm is zero (R56). -/
def extQ (x : ArgQ) : Bool := x.ext.isNone || x.imm == 0

/-- The types of `ATOM` and `CAS` (R137): 32- or 64-bit words. -/
def word32or64 (t : Fin 8) : Bool := t == 0 || t == 1 || t == 4 || t == 5

/-- `AMOV`: mod 0 to 4, register fields in their files (R138, R139); a loop counter has no block/trap bit. -/
def amovOk (x : ArgA) : Bool :=
  match x.mod with
  | 0 => decide (x.dst.val ≤ 15)
  | 1 => decide (x.src1.val ≤ 15)
  | 2 => decide (x.dst.val ≤ 5)
  | 3 => decide (x.src1.val ≤ 5) && !x.b1
  | 4 => decide (x.dst.val ≤ 15) && decide (x.src1.val ≤ 15)
  | _ => false

/-- Barrier and counter ops: no hold, ty and step zero (R291). -/
def barOk (x : ArgM) : Bool := !x.hold && x.ty == 0 && x.step == 0

/-- The WAVES extension word has zeros in 31..10 (R191). -/
def wavesOk (x : ArgMX) : Bool :=
  match x.ext with
  | none => true
  | some e => decide (e.toNat < 1024)

/-- The RECT extension word has zeros in 7..0 (R191). -/
def rectOk (x : ArgMX) : Bool :=
  match x.ext with
  | none => true
  | some e => decide (e.toNat % 256 = 0)

/-- An opt whose bits all lie in `m`. -/
def optIn (x : ArgX) (m : Nat) : Bool := x.opt.toNat &&& m == x.opt.toNat

/-- The file a V op's register field names (R150). -/
inductive VFile where
  | v
  | s
  | vm
  | vs
  | none
  deriving DecidableEq, Repr

/-- A row of R150: the files of dst, src1 and src2, the type classes accepted (R146: 1 F, 2 I, 4 N), and the bits of the
extension word that the op uses. -/
structure VSpec where
  d : VFile
  s1 : VFile
  s2 : VFile
  cls : Nat
  ext : Nat
  deriving DecidableEq, Repr

/-- Extension word fields (R144). -/
def xVM : Nat := 0xE0000000
def xTYC : Nat := 0x1E000000
def xZ : Nat := 0x01000000
def xSAT : Nat := 0x00800000
def xSCAL : Nat := 0x00400000
def xOTY : Nat := 0x003C0000
def xPART : Nat := 0x00030000
def xPK : Nat := 0x00008000
def xCB : Nat := 0x00004000
def xNG : Nat := 0x00003E00
def xRNDO : Nat := 0x000001C0
def xSUB : Nat := 0x00000007

/-- The table of R150, by opcode. -/
def vSpec (op : Nat) : VSpec :=
  match op with
  | 0x00 => ⟨.v, .v, .vs, 3, xVM + xTYC + xZ + xSAT + xSCAL + xRNDO⟩
  | 0x01 => ⟨.v, .v, .vs, 3, xVM + xTYC + xZ + xSAT + xSCAL + xRNDO⟩
  | 0x02 => ⟨.v, .v, .vs, 3, xVM + xTYC + xZ + xSAT + xSCAL + xRNDO⟩
  | 0x03 => ⟨.v, .v, .vs, 3, xVM + xTYC + xZ + xSAT + xSCAL + xRNDO⟩
  | 0x04 => ⟨.v, .v, .vs, 3, xVM + xTYC + xZ + xSAT + xSCAL + xRNDO⟩
  | 0x05 => ⟨.v, .v, .vs, 3, xVM + xTYC + xZ + xSCAL⟩
  | 0x06 => ⟨.v, .v, .vs, 3, xVM + xTYC + xZ + xSCAL⟩
  | 0x07 => ⟨.v, .v, .none, 3, xVM + xTYC + xZ + xSAT⟩
  | 0x08 => ⟨.v, .v, .none, 3, xVM + xTYC + xZ + xSAT⟩
  | 0x09 => ⟨.v, .v, .vs, 7, xVM + xTYC + xZ + xSCAL⟩
  | 0x0A => ⟨.v, .v, .vs, 7, xVM + xTYC + xZ + xSCAL⟩
  | 0x0B => ⟨.v, .v, .vs, 7, xVM + xTYC + xZ + xSCAL⟩
  | 0x0C => ⟨.v, .v, .none, 7, xVM + xTYC + xZ⟩
  | 0x0D => ⟨.v, .v, .vs, 2, xVM + xTYC + xZ + xSCAL⟩
  | 0x0E => ⟨.v, .v, .vs, 2, xVM + xTYC + xZ + xSCAL⟩
  | 0x0F => ⟨.v, .v, .vs, 2, xVM + xTYC + xZ + xSCAL⟩
  | 0x10 => ⟨.vm, .v, .vs, 3, xVM + xTYC + xZ + xSCAL + xSUB⟩
  | 0x11 => ⟨.v, .v, .v, 7, xVM + xTYC⟩
  | 0x12 => ⟨.v, .v, .none, 7, xVM + xTYC + xZ⟩
  | 0x13 => ⟨.v, .s, .none, 7, xVM + xTYC + xZ⟩
  | 0x14 => ⟨.s, .v, .s, 7, xTYC⟩
  | 0x15 => ⟨.v, .s, .s, 7, xTYC⟩
  | 0x16 => ⟨.v, .v, .v, 7, xVM + xTYC + xZ⟩
  | 0x17 => ⟨.v, .v, .s, 7, xVM + xTYC + xZ⟩
  | 0x18 => ⟨.v, .s, .s, 2, xVM + xTYC + xZ⟩
  | 0x19 => ⟨.v, .v, .none, 7, xVM + xTYC⟩
  | 0x1A => ⟨.v, .v, .none, 7, xVM + xTYC + xZ + xSAT + xOTY + xPART + xPK + xRNDO⟩
  | 0x1B => ⟨.v, .v, .none, 4, xTYC + xOTY + xPK + xNG + xRNDO⟩
  | 0x1C => ⟨.v, .v, .none, 1, xOTY + xPK + xCB + xNG + xRNDO⟩
  | 0x1D => ⟨.s, .v, .v, 3, xVM + xTYC + xRNDO + xSUB⟩
  | 0x1E => ⟨.s, .v, .none, 3, xVM + xTYC + xRNDO⟩
  | 0x1F => ⟨.s, .v, .none, 3, xVM + xTYC⟩
  | 0x20 => ⟨.s, .v, .none, 3, xVM + xTYC⟩
  | 0x21 => ⟨.s, .v, .none, 3, xVM + xTYC⟩
  | 0x22 => ⟨.s, .v, .none, 3, xVM + xTYC⟩
  | 0x23 => ⟨.v, .v, .none, 3, xVM + xTYC + xZ + xRNDO + xSUB⟩
  | 0x24 => ⟨.v, .v, .none, 2, xVM + xTYC + xZ⟩
  | 0x25 => ⟨.v, .v, .none, 2, xVM + xTYC + xZ⟩
  | 0x26 => ⟨.v, .v, .none, 1, xVM + xTYC + xZ + xRNDO⟩
  | 0x27 => ⟨.v, .v, .none, 1, xVM + xTYC + xZ + xRNDO⟩
  | 0x28 => ⟨.v, .v, .none, 1, xVM + xTYC + xZ⟩
  | 0x29 => ⟨.v, .v, .none, 1, xVM + xTYC + xZ⟩
  | 0x2A => ⟨.v, .v, .none, 1, xVM + xTYC + xZ⟩
  | 0x2B => ⟨.vm, .s, .s, 0, 0⟩
  | _ => ⟨.none, .vm, .none, 0, 0⟩

/-- The extension word of a V op, zero without EXT (R145). -/
def vExt (x : ArgV) : Nat :=
  match x.ext with
  | none => 0
  | some e => e.toNat

/-- The type code of a V op (R57, R144). -/
def vTyc (x : ArgV) : Nat :=
  match x.mod with
  | 0 => 0x0
  | 1 => 0x2
  | 2 => 0x1
  | 3 => 0xA
  | 4 => 0x9
  | 5 => 0x8
  | 6 => 0xE
  | 7 => bits (vExt x) 28 25

/-- The class of a type code (R146); 0 where no class holds it. -/
def tyClass (t : Nat) : Nat :=
  if t ≤ 2 then 1 else if t ≤ 7 then 4 else if t = 0xB ∨ t = 0xF then 0 else 2

/-- A register field within its file (R55, R149). -/
def inFile (f : VFile) (scal : Bool) (r : Fin 64) : Bool :=
  match f with
  | .v => decide (r.val ≤ 31)
  | .s => true
  | .vm => decide (r.val ≤ 7)
  | .vs => scal || decide (r.val ≤ 31)
  | .none => r == 0

/-- What the ops with a type ask of their fields beyond the table (R145, R151, R153, R156, R157, R160, R161, R164). -/
def vTypeOk (op : Nat) (x : ArgV) : Bool :=
  let e := vExt x
  let t := vTyc x
  let o := bits e 21 18
  let sat := bitOf e 23
  let pk := bitOf e 15
  let narrow (k : Nat) : Bool := k == 5 || k == 6 || k == 7
  let isI : Bool := tyClass t == 2
  (tyClass t != 0) && (tyClass t &&& (vSpec op).cls != 0)
  && (x.mod == 7 || bits e 28 25 == 0)
  && decide (bits e 8 6 ≤ 5)
  && (match op with
    | 0x1A => tyClass o != 0 && (!sat || (isI && tyClass o == 2)) && (!pk || narrow o || narrow t)
    | 0x1B => decide (o ≤ 2) && (!pk || narrow t)
    | 0x1C => decide (x.mod.val ≤ 2) && (if bitOf e 14 then o == 0 && !pk else tyClass o == 4 && (!pk || narrow o))
    | 0x1D => decide (bits e 2 0 ≤ 1)
    | 0x23 => bits e 1 0 != 3 && (!isI || bits e 8 6 == 0)
    | 0x10 => !isI || decide (bits e 2 0 ≤ 5)
    | _ => (!sat || isI) && (!isI || bits e 8 6 == 0))

/-- `VMSET` (R167). -/
def vmsetOk (x : ArgV) : Bool :=
  decide (x.mod.val ≤ 2) && decide (x.dst.val ≤ 7) && vExt x == 0 && (x.mod != 0 || (x.src2 == 0 && !x.b2))

/-- `VMOPS` (R168). -/
def vmopsOk (x : ArgV) : Bool :=
  vExt x == 0 && decide (x.src1.val ≤ 7) && (decide (4 < x.mod.val) || decide (x.dst.val ≤ 7))
  && (if x.mod.val < 4 then decide (x.src2.val ≤ 7)
      else !x.b2 && (if x.mod == 7 then decide (x.src2.val ≤ 3) else x.src2 == 0))

/-- A V op's fields (R144 to R150). -/
def vOk (op : Nat) (x : ArgV) : Bool :=
  if op = 0x2B then vmsetOk x
  else if op = 0x2C then vmopsOk x
  else
    let r := vSpec op
    let scal := bitOf (vExt x) 22
    (vExt x &&& r.ext == vExt x) && inFile r.d false x.dst && inFile r.s1 false x.src1 && inFile r.s2 scal x.src2
    && (r.s2 != .none || !x.b2) && vTypeOk op x

/-- The well-formedness of an instruction. -/
def Instr.wf : Instr → Bool
  | .nop => true
  | .br x => x.pred == 0 && !x.neg && extB x
  | .brp x => extB x
  | .bri x => x.dst == 0 && x.mod == 0 && x.src2 == 0 && !x.b2
  | .call x => x.pred == 0 && !x.neg && extB x
  | .calli x => x.dst == 0 && x.mod == 0 && x.src2 == 0 && !x.b2
  | .ret => true
  | .loopn _ => true
  | .lexit => true
  | .haltb => true
  | .yield => true
  | .sleepu x => x.dst == 0 && x.mod == 0 && x.src2 == 0 && !x.b2
  | .waitfe x => x.dst == 0 && x.src2 == 0 && !x.b2
  | .trap x => x.dst == 0 && extW x
  | .eret => true
  | .snapst x => x.dst == 0 && x.mod == 0 && x.src2 == 0 && !x.b2
  | .snapld x => x.dst == 0 && x.mod == 0 && x.src2 == 0 && !x.b2
  | .snaprel => true
  | .rprobe x => x.dst == 0 && decide (x.mod.val ≤ 2)
  | .wprobe x => x.dst == 0 && decide (x.mod.val ≤ 2)
  | .pgalloc x => x.src2 == 0 && !x.b2 && decide (x.mod.val ≤ 1)
  | .fmtset x => x.dst == 0 && x.mod == 0
  | .csrr x => x.src1 == 0 && !x.b1
  | .csrw x => x.dst == 0
  | .fence x => x.dst == 0 && x.src1 == 0 && !x.b1 && x.src2 == 0 && !x.b2 && decide (x.mod.val ≤ 3)
  | .bkpt x => x.dst == 0 && extW x
  | .abort x => x.dst == 0 && extW x
  | .launch x => x.pd == 0
  | .launcht _ => true
  | .kjoin x => x.src2 == 0 && !x.b2 && x.mod == 0
  | .relaunch x => x.src2 == 0 && !x.b2 && x.mod == 0
  | .add _ => true
  | .addi x => extI x
  | .sub _ => true
  | .mul _ => true
  | .mulhi x => decide (x.mod.val ≤ 3)
  | .mulhn x => decide (4 ≤ x.mod.val)
  | .div x => decide (x.mod.val ≤ 3)
  | .divn x => decide (4 ≤ x.mod.val)
  | .rem x => decide (x.mod.val ≤ 3)
  | .remn x => decide (4 ≤ x.mod.val)
  | .min x => decide (x.mod.val ≤ 3)
  | .minn x => decide (4 ≤ x.mod.val)
  | .max x => decide (x.mod.val ≤ 3)
  | .maxn x => decide (4 ≤ x.mod.val)
  | .and _ => true
  | .andi x => extI x
  | .or _ => true
  | .ori x => extI x
  | .xor _ => true
  | .xori x => extI x
  | .andn _ => true
  | .shl _ => true
  | .shli x => x.ext.isNone && decide (x.imm.toNat ≤ 63)
  | .shr x => decide (4 ≤ x.mod.val)
  | .shri x => x.ext.isNone && decide (x.imm.toNat ≤ 63)
  | .sra x => decide (x.mod.val ≤ 3)
  | .srai x => x.ext.isNone && decide (x.imm.toNat ≤ 63)
  | .rotl _ => true
  | .clz x => x.src2 == 0 && !x.b2
  | .ctz x => x.src2 == 0 && !x.b2
  | .popc x => x.src2 == 0 && !x.b2
  | .bfx x => x.mod == 0
  | .bfxs x => x.mod == 0
  | .bfi x => x.mod == 0
  | .sext x => x.src2 == 0 && !x.b2 && decide (x.mod.val ≤ 3)
  | .zext x => x.src2 == 0 && !x.b2 && decide (4 ≤ x.mod.val)
  | .mov x => x.src2 == 0 && !x.b2 && x.mod == 0
  | .movi x => extW x
  | .movhi x => extW x
  | .cmp _ => true
  | .cmpi x => extQ x
  | .sel _ => true
  | .abs x => x.src2 == 0 && !x.b2
  | .neg x => x.src2 == 0 && !x.b2
  | .pand _ => true
  | .por _ => true
  | .pxor _ => true
  | .pnot x => x.pb == 0
  | .pmov x => x.pb == 0
  | .fadds x => decide (x.mod.val ≤ 2)
  | .fsubs x => decide (x.mod.val ≤ 2)
  | .fmuls x => decide (x.mod.val ≤ 2)
  | .ffmas x => decide (x.mod.val ≤ 2)
  | .fmins x => decide (x.mod.val ≤ 2)
  | .fmaxs x => decide (x.mod.val ≤ 2)
  | .fcmps _ => true
  | .fcvts _ => true
  | .ld x => decide (x.opt.toNat ≤ 1)
  | .st x => x.opt == 0
  | .ldv x => decide (x.reg.val ≤ 31) && x.ty == 0 && decide (x.opt.toNat ≤ 1)
  | .stv x => decide (x.reg.val ≤ 31) && x.ty == 0 && x.opt == 0
  | .ldvs x => decide (x.reg.val ≤ 31) && decide (x.opt.toNat ≤ 1) && x.abase.val % 2 == 0
  | .stvs x => decide (x.reg.val ≤ 31) && x.opt == 0 && x.abase.val % 2 == 0
  | .gath x => decide (x.ty.val ≤ 6)
  | .scat x => decide (x.ty.val ≤ 6)
  | .ldl x => !x.hold && x.opt == 0 && x.step == 0
  | .stul x => !x.hold && x.opt == 0 && x.step == 0
  | .atom x => !x.hold && x.step == 0 && word32or64 x.ty && decide (x.opt.toNat ≤ 6)
  | .cas x => !x.hold && x.step == 0 && word32or64 x.ty && x.opt == 0 && x.reg.val % 2 == 0 && x.reg != 0
  | .aadd x => decide (x.dst.val ≤ 15) && decide (x.src1.val ≤ 15)
  | .amov x => x.src2 == 0 && !x.b2 && amovOk x
  | .ldc x => x.opt == 0
  | .binit x => barOk x && x.opt == 0
  | .bexpect x => barOk x && decide (x.opt.toNat ≤ 1)
  | .barrive x => barOk x && decide (x.opt.toNat ≤ 1)
  | .bwait x => barOk x && x.opt == 0
  | .bwaitp x => barOk x && x.opt == 0
  | .btest x => barOk x && decide (x.opt.toNat ≤ 1)
  | .cadd x => barOk x && x.opt == 0
  | .cwaitge x => barOk x && x.opt == 0
  | .nopL => true
  | .vadd x => vOk 0 x
  | .vsub x => vOk 1 x
  | .vmul x => vOk 2 x
  | .vfma x => vOk 3 x
  | .vfms x => vOk 4 x
  | .vmin x => vOk 5 x
  | .vmax x => vOk 6 x
  | .vabs x => vOk 7 x
  | .vneg x => vOk 8 x
  | .vand x => vOk 9 x
  | .vor x => vOk 10 x
  | .vxor x => vOk 11 x
  | .vnot x => vOk 12 x
  | .vshl x => vOk 13 x
  | .vshr x => vOk 14 x
  | .vsra x => vOk 15 x
  | .vcmp x => vOk 16 x
  | .vsel x => vOk 17 x
  | .vmov x => vOk 18 x
  | .vmovs x => vOk 19 x
  | .vextr x => vOk 20 x
  | .vins x => vOk 21 x
  | .vperm x => vOk 22 x
  | .vslide x => vOk 23 x
  | .viota x => vOk 24 x
  | .vcompr x => vOk 25 x
  | .vcvt x => vOk 26 x
  | .vquant x => vOk 27 x
  | .vdeq x => vOk 28 x
  | .vdot x => vOk 29 x
  | .vrsum x => vOk 30 x
  | .vrmax x => vOk 31 x
  | .vrmin x => vOk 32 x
  | .vrmaxi x => vOk 33 x
  | .vrmini x => vOk 34 x
  | .vscan x => vOk 35 x
  | .vpopc x => vOk 36 x
  | .vclz x => vOk 37 x
  | .vrcp x => vOk 38 x
  | .vrsq x => vOk 39 x
  | .vexp2 x => vOk 40 x
  | .vlog2 x => vOk 41 x
  | .vtanh x => vOk 42 x
  | .vmset x => vOk 43 x
  | .vmops x => vOk 44 x
  | .nopV => true
  | .mma x => x.opt == 0 && wavesOk x
  | .mmaz x => x.opt == 0 && wavesOk x
  | .mmas x => x.opt == 0 && wavesOk x
  | .mcbld x => !x.hold && x.ext.isNone && x.acc == 0 && x.ab == 0 && x.opt == 0
  | .accrd x => !x.hold && rectOk x && x.opt == 0
  | .accwr x => !x.hold && rectOk x && decide (x.opt.toNat ≤ 1)
  | .accz x => !x.hold && x.ext.isNone && x.aa == 0 && x.ab == 0 && !x.b && decide (x.opt.toNat ≤ 1)
  | .mwait x => !x.hold && x.ext.isNone && x.acc == 0 && x.aa == 0 && x.ab == 0 && x.opt == 0
  | .mstat x => !x.hold && x.ext.isNone && x.acc == 0 && x.aa == 0 && x.ab == 0 && !x.b && decide (x.opt.toNat ≤ 10)
  | .mdrain x => !x.hold && x.ext.isNone && x.acc == 0 && x.sreg == 0 && x.aa == 0 && x.ab == 0 && !x.b && x.opt == 0
  | .nopM => true
  | .xcopy x => optIn x 15
  | .xfill x => optIn x 12
  | .xsub x => !x.hold && x.sarg == 0 && optIn x 11
  | .xunsub x => !x.hold && x.sreg == 0 && optIn x 0
  | .xslot x => x.adesc == 0 && optIn x 0
  | .xremw x => decide (x.sreg.val ≤ 31) && optIn x 15
  | .xrcopy x => !x.hold && optIn x 63
  | .xcadd x => !x.hold && x.sreg == 0 && optIn x 7
  | .xmcast x => !x.hold && optIn x 27
  | .xmcastSet x => !x.hold && x.sreg == 0 && x.opt == 32
  | .xmigr x => !x.hold && optIn x 0
  | .xcoll x => !x.hold && optIn x 3
  | .xgjoin x => !x.hold && optIn x 0
  | .xgleave x => !x.hold && x.adesc == 0 && optIn x 0
  | .xgagree x => !x.hold && optIn x 0
  | .xcancel x => !x.hold && x.adesc == 0 && (x.opt == 2 || (x.opt == 1 && x.sarg == 0 && !x.b))
  | .nopX => true
  | .bundleIssue core => decide (core < Config.nCores)
  | .writeback _ _ => true
  | .reasonCleared _ => true
  | .quantum core => decide (core < Config.nCores)
  | .sleepWake _ => true
  | .promiseWake _ => true
  | .watchdog _ => true
  | .trapEntry _ => true
  | .haltLine _ _ _ => true
  | .haltArrival _ _ => true
  | .faultCompletion _ => true
  | .preemptionRequest _ => true
  | .preload core => decide (core < Config.nCores)
  | .swap core => decide (core < Config.nCores)
  | .spill core => decide (core < Config.nCores)
  | .tileFill core _ => decide (core < Config.nCores)
  | .restore _ => true
  | .entryStart core => decide (core < Config.nCores)
  | .wave core => decide (core < Config.nCores)
  | .entryComplete core => decide (core < Config.nCores)
  | .copyStart core _ => decide (core < Config.nCores)
  | .byteArrival core _ _ => decide (core < Config.nCores)
  | .copyComplete core _ => decide (core < Config.nCores)
  | .ringFill quay _ _ => decide (quay < 8)
  | .ringPull quay _ _ => decide (quay < 8)
  | .subscriptionClose quay _ => decide (quay < 8)
  | .multicastDelivery core _ _ => decide (core < Config.nCores)
  | .zeroingComplete _ _ => true
  | .drained _ _ => true
  | .demandFill _ _ _ => true
  | .fillTimeout _ _ _ => true
  | .migrationAccept _ => true
  | .migrationCopy _ _ => true
  | .rebind _ _ => true
  | .qtail q _ => decide (q < 8192)
  | .enable q => decide (q < 8192)
  | .disable q => decide (q < 8192)
  | .resume q => decide (q < 8192)
  | .kill q => decide (q < 8192)
  | .packetWaits q => decide (q < 8192)
  | .dispatch part => decide (part < 32)
  | .blockLoad _ => true
  | .predelay part => decide (part < 32)
  | .retirement _ => true
  | .launchCompletion _ => true
  | .eventRecord q => decide (q < 8192)
  | .bind _ => true
  | .unbind _ => true
  | .release _ => true
  | .pool _ => true
  | .pageresp _ _ => true
  | .steprel _ => true
  | .preempt core _ => decide (core < Config.nCores)
  | .registerWrite _ _ => true
  | .hostWrite _ _ _ => true
  | .flitSend port => decide (port < 24)
  | .dataFlit port _ => decide (port < 24)
  | .addFlit port _ => decide (port < 24)
  | .ack port _ _ _ => decide (port < 24)
  | .nak port _ _ _ _ => decide (port < 24)
  | .ackTimer _ _ => true
  | .replay _ _ => true
  | .routeDead _ _ _ => true
  | .noPath _ _ => true
  | .lossOfLight port _ => decide (port < 16)
  | .restripe port => decide (port < 16)
  | .training port _ => decide (port < 16)
  | .trainTimeout port => decide (port < 16)
  | .crcThreshold port => decide (port < 16)
  | .drain port => decide (port < 16)
  | .drainTimeout port => decide (port < 16)
  | .retrain port => decide (port < 16)
  | .fencePort port => decide (port < 16)
  | .disablePort port => decide (port < 16)
  | .repin _ _ => true
  | .qpError _ _ _ => true
  | .routeWrite _ _ _ => true
  | .keyInstall _ _ => true
  | .gcreate _ _ _ => true
  | .gbind _ _ => true
  | .gquiesce _ _ => true
  | .gresume _ _ => true
  | .gevict _ _ _ => true
  | .gabort _ _ => true
  | .gdestroy _ _ => true
  | .treeProgrammed _ _ _ _ _ => true
  | .recordStart engine => decide (engine < 8)
  | .commit _ _ _ => true
  | .instanceComplete engine _ _ _ _ => decide (engine < 8)
  | .instanceAbort _ _ _ _ _ => true
  | .resetCold => true
  | .resetWarm => true
  | .resetDie die => decide (die < 4)
  | .resetCluster cluster => decide (cluster < 8)
  | .resetCore core => decide (core < Config.nCores)
  | .resetMatrix core => decide (core < Config.nCores)
  | .resetCopy core => decide (core < Config.nCores)
  | .resetQuay quay => decide (quay < 8)
  | .resetPort port => decide (port < 16)
  | .resetCollective engine => decide (engine < 8)
  | .perst => true
  | .hotReset => true
  | .setmode _ _ => true
  | .sensorRead _ => true
  | .telemetryUpdate _ _ => true
  | .scrub _ => true
  | .partition part _ _ => decide (part < 32)
  | .powerUp part => decide (part < 32)
  | .slotMask _ _ _ => true
  | .watchdogLimit part _ => decide (part < 32)
  | .powerCap _ => true
  | .capWindow cluster => decide (cluster < 8)
  | .frequencyStep cluster _ => decide (cluster < 8)
  | .relock cluster => decide (cluster < 8)
  | .ageingStep cluster => decide (cluster < 8)
  | .chipNumber _ => true
  | .spdmSession _ => true
  | .firmwareWrite _ _ => true
  | .activate _ => true
  | .selfCheck _ _ => true
  | .creditReturn port _ _ _ => decide (port < 16)
  | .priorityFlowControl port _ _ => decide (port < 8)
  | .createJob _ _ => true
  | .ageingApproval cluster _ => decide (cluster < 8)

end Sys2Proof
end

