-- ==== Sys2Proof/Decode.lean ====
section
/-! DEFINITION. The decoder and the encoder of slot words (R53 to R56, R70): field extraction per format, one decoder per
slot class, total on any word, and the words of an instruction. The slot classes are 0 C, 1 S, 3 L, 4 V, 5 M, 6 X, in the
SLOT codes of R37 (S1, code 2, decodes as class 1). -/

namespace Sys2Proof

/-! ### Fields of the formats (R54) -/

/-- EXT and the extension word. -/
def extOf (n : Nat) (e : Word32) : Option Word32 := if n / 2 ^ 31 % 2 = 1 then some e else none

/-- A slot word without EXT and HOLD. -/
def bare (n : Nat) : Bool := n / 2 ^ 30 == 0

/-- A slot word without HOLD. -/
def unheld (n : Nat) : Bool := n / 2 ^ 30 % 2 == 0

def getA (n : Nat) : Option ArgA :=
  if bare n then some
    { dst := Fin.ofNat 64 (n / 2 ^ 17), src1 := Fin.ofNat 64 (n / 2 ^ 11), src2 := Fin.ofNat 64 (n / 2 ^ 5),
      b1 := bitOf n 4, b2 := bitOf n 3, mod := Fin.ofNat 8 n }
  else none

def getI (n : Nat) (e : Word32) : Option ArgI :=
  if unheld n then some
    { dst := Fin.ofNat 64 (n / 2 ^ 17), src1 := Fin.ofNat 64 (n / 2 ^ 11), b1 := bitOf n 10, imm := BitVec.ofNat 10 n,
      ext := extOf n e }
  else none

def getW (n : Nat) (e : Word32) : Option ArgW :=
  if unheld n then some { dst := Fin.ofNat 64 (n / 2 ^ 17), imm := BitVec.ofNat 17 n, ext := extOf n e } else none

def getB (n : Nat) (e : Word32) : Option ArgB :=
  if unheld n then some
    { pred := Fin.ofNat 8 (n / 2 ^ 20), neg := bitOf n 19, ofs := BitVec.ofNat 19 n, ext := extOf n e }
  else none

def getP (n : Nat) : Option ArgP :=
  if bare n && n / 2 ^ 17 % 8 == 0 then some
    { pd := Fin.ofNat 8 (n / 2 ^ 20), src1 := Fin.ofNat 64 (n / 2 ^ 11), src2 := Fin.ofNat 64 (n / 2 ^ 5),
      b1 := bitOf n 4, b2 := bitOf n 3, cond := Fin.ofNat 8 n }
  else none

def getQ (n : Nat) (e : Word32) : Option ArgQ :=
  if unheld n then some
    { pd := Fin.ofNat 8 (n / 2 ^ 20), cond := Fin.ofNat 8 (n / 2 ^ 17), src1 := Fin.ofNat 64 (n / 2 ^ 11),
      b1 := bitOf n 10, imm := BitVec.ofNat 10 n, ext := extOf n e }
  else none

def getPL (n : Nat) : Option ArgPL :=
  if bare n && n % 2 ^ 14 == 0 then some
    { pd := Fin.ofNat 8 (n / 2 ^ 20), pa := Fin.ofNat 8 (n / 2 ^ 17), pb := Fin.ofNat 8 (n / 2 ^ 14) }
  else none

def getCS (n : Nat) : Option ArgCS :=
  if bare n then some
    { dst := Fin.ofNat 64 (n / 2 ^ 17), src1 := Fin.ofNat 64 (n / 2 ^ 11), b1 := bitOf n 10, index := BitVec.ofNat 10 n }
  else none

def getLP (n : Nat) : Option ArgLP :=
  if bare n && n % 2 ^ 10 == 0 then some
    { levels := Fin.ofNat 8 (n / 2 ^ 20), body := Fin.ofNat 32 (n / 2 ^ 15), abase := Fin.ofNat 16 (n / 2 ^ 11),
      b := bitOf n 10 }
  else none

def getK (n : Nat) : Option ArgK :=
  if bare n && n % 2 ^ 9 == 0 then some
    { dst := Fin.ofNat 64 (n / 2 ^ 17), pd := Fin.ofNat 8 (n / 2 ^ 14), abase := Fin.ofNat 16 (n / 2 ^ 10),
      b := bitOf n 9 }
  else none

def getM (n : Nat) (e : Word32) : Option ArgM := some
  { hold := bitOf n 30, reg := Fin.ofNat 64 (n / 2 ^ 17), abase := Fin.ofNat 16 (n / 2 ^ 13), b := bitOf n 12,
    ty := Fin.ofNat 8 (n / 2 ^ 9), step := BitVec.ofNat 5 (n / 2 ^ 4), opt := BitVec.ofNat 4 n, ext := extOf n e }

def getG (n : Nat) (e : Word32) : Option ArgG :=
  if n % 4 == 0 then some
    { hold := bitOf n 30, vreg := Fin.ofNat 32 (n / 2 ^ 18), abase := Fin.ofNat 16 (n / 2 ^ 14),
      vidx := Fin.ofNat 32 (n / 2 ^ 9), b := bitOf n 8, ty := Fin.ofNat 8 (n / 2 ^ 5), vm := Fin.ofNat 8 (n / 2 ^ 2),
      ext := extOf n e }
  else none

def getMX (n : Nat) (e : Word32) : Option ArgMX := some
  { hold := bitOf n 30, acc := Fin.ofNat 16 (n / 2 ^ 19), sreg := Fin.ofNat 64 (n / 2 ^ 13),
    aa := Fin.ofNat 16 (n / 2 ^ 9), ab := Fin.ofNat 16 (n / 2 ^ 5), b := bitOf n 4, opt := BitVec.ofNat 4 n,
    ext := extOf n e }

def getX (n : Nat) : Option ArgX :=
  if n / 2 ^ 31 % 2 == 0 then some
    { hold := bitOf n 30, sreg := Fin.ofNat 64 (n / 2 ^ 17), adesc := Fin.ofNat 16 (n / 2 ^ 13),
      sarg := Fin.ofNat 64 (n / 2 ^ 7), b := bitOf n 6, opt := BitVec.ofNat 6 n }
  else none

def getCV (n : Nat) : Option ArgCV :=
  if bare n && n / 2 ^ 9 % 4 == 0 then some
    { dst := Fin.ofNat 64 (n / 2 ^ 17), src1 := Fin.ofNat 64 (n / 2 ^ 11), b1 := bitOf n 4,
      dty := Fin.ofNat 16 (n / 2 ^ 5), sty := Fin.ofNat 16 n }
  else none

def getV (n : Nat) (e : Word32) : Option ArgV := some
  { hold := bitOf n 30, dst := Fin.ofNat 64 (n / 2 ^ 17), src1 := Fin.ofNat 64 (n / 2 ^ 11),
    src2 := Fin.ofNat 64 (n / 2 ^ 5), b1 := bitOf n 4, b2 := bitOf n 3, mod := Fin.ofNat 8 n, ext := extOf n e }

/-- A format N word: nothing but its opcode. -/
def getN (n op : Nat) (i : Instr) : Option Instr := if n = op * 2 ^ 23 then some i else none

/-- `XMCAST` and `XMCAST.set` share an opcode; opt bit 5 tells them apart (R316). -/
def getMcast (n : Nat) : Option Instr :=
  (getX n).map (fun x => if bitOf x.opt.toNat 5 then Instr.xmcastSet x else Instr.xmcast x)

/-! ### Slot classes (R70) -/

/-- The fields of a word of the C slot. -/
def rawC (n : Nat) (e : Word32) : Option Instr :=
  match n / 2 ^ 23 % 128 with
  | 0x00 => getN n 0x00 .nop
  | 0x01 => (getB n e).map .br
  | 0x02 => (getB n e).map .brp
  | 0x03 => (getA n).map .bri
  | 0x04 => (getB n e).map .call
  | 0x05 => (getA n).map .calli
  | 0x06 => getN n 0x06 .ret
  | 0x07 => (getLP n).map .loopn
  | 0x08 => getN n 0x08 .lexit
  | 0x09 => getN n 0x09 .haltb
  | 0x0A => getN n 0x0A .yield
  | 0x0B => (getA n).map .sleepu
  | 0x0C => (getA n).map .waitfe
  | 0x0D => (getW n e).map .trap
  | 0x0E => getN n 0x0E .eret
  | 0x0F => (getA n).map .snapst
  | 0x10 => (getA n).map .snapld
  | 0x11 => getN n 0x11 .snaprel
  | 0x12 => (getA n).map .rprobe
  | 0x13 => (getA n).map .wprobe
  | 0x14 => (getA n).map .pgalloc
  | 0x15 => (getA n).map .fmtset
  | 0x16 => (getCS n).map .csrr
  | 0x17 => (getCS n).map .csrw
  | 0x18 => (getA n).map .fence
  | 0x19 => (getW n e).map .bkpt
  | 0x1A => (getW n e).map .abort
  | 0x1B => (getK n).map .launch
  | 0x1C => (getK n).map .launcht
  | 0x1D => (getA n).map .kjoin
  | 0x1E => (getA n).map .relaunch
  | _ => none

/-- The fields of a word of the S0 and S1 slots. -/
def rawS (n : Nat) (e : Word32) : Option Instr :=
  match n / 2 ^ 23 % 128 with
  | 0x00 => (getA n).map .add
  | 0x01 => (getI n e).map .addi
  | 0x02 => (getA n).map .sub
  | 0x03 => (getA n).map .mul
  | 0x04 => (getA n).map .mulhi
  | 0x05 => (getA n).map .mulhn
  | 0x06 => (getA n).map .div
  | 0x07 => (getA n).map .divn
  | 0x08 => (getA n).map .rem
  | 0x09 => (getA n).map .remn
  | 0x0A => (getA n).map .min
  | 0x0B => (getA n).map .minn
  | 0x0C => (getA n).map .max
  | 0x0D => (getA n).map .maxn
  | 0x0E => (getA n).map .and
  | 0x0F => (getI n e).map .andi
  | 0x10 => (getA n).map .or
  | 0x11 => (getI n e).map .ori
  | 0x12 => (getA n).map .xor
  | 0x13 => (getI n e).map .xori
  | 0x14 => (getA n).map .andn
  | 0x15 => (getA n).map .shl
  | 0x16 => (getI n e).map .shli
  | 0x17 => (getA n).map .shr
  | 0x18 => (getI n e).map .shri
  | 0x19 => (getA n).map .sra
  | 0x1A => (getI n e).map .srai
  | 0x1B => (getA n).map .rotl
  | 0x1C => (getA n).map .clz
  | 0x1D => (getA n).map .ctz
  | 0x1E => (getA n).map .popc
  | 0x1F => (getA n).map .bfx
  | 0x20 => (getA n).map .bfxs
  | 0x21 => (getA n).map .bfi
  | 0x22 => (getA n).map .sext
  | 0x23 => (getA n).map .zext
  | 0x24 => (getA n).map .mov
  | 0x25 => (getW n e).map .movi
  | 0x26 => (getW n e).map .movhi
  | 0x27 => (getP n).map .cmp
  | 0x28 => (getQ n e).map .cmpi
  | 0x29 => (getA n).map .sel
  | 0x2A => (getA n).map .abs
  | 0x2B => (getA n).map .neg
  | 0x2C => (getPL n).map .pand
  | 0x2D => (getPL n).map .por
  | 0x2E => (getPL n).map .pxor
  | 0x2F => (getPL n).map .pnot
  | 0x30 => (getPL n).map .pmov
  | 0x31 => (getA n).map .fadds
  | 0x32 => (getA n).map .fsubs
  | 0x33 => (getA n).map .fmuls
  | 0x34 => (getA n).map .ffmas
  | 0x35 => (getA n).map .fmins
  | 0x36 => (getA n).map .fmaxs
  | 0x37 => (getP n).map .fcmps
  | 0x38 => (getCV n).map .fcvts
  | _ => none

/-- The fields of a word of the L slot. -/
def rawL (n : Nat) (e : Word32) : Option Instr :=
  match n / 2 ^ 23 % 128 with
  | 0x00 => (getM n e).map .ld
  | 0x01 => (getM n e).map .st
  | 0x02 => (getM n e).map .ldv
  | 0x03 => (getM n e).map .stv
  | 0x04 => (getM n e).map .ldvs
  | 0x05 => (getM n e).map .stvs
  | 0x06 => (getG n e).map .gath
  | 0x07 => (getG n e).map .scat
  | 0x08 => (getM n e).map .ldl
  | 0x09 => (getM n e).map .stul
  | 0x0A => (getM n e).map .atom
  | 0x0B => (getM n e).map .cas
  | 0x0C => (getA n).map .aadd
  | 0x0D => (getA n).map .amov
  | 0x0E => (getM n e).map .ldc
  | 0x10 => (getM n e).map .binit
  | 0x11 => (getM n e).map .bexpect
  | 0x12 => (getM n e).map .barrive
  | 0x13 => (getM n e).map .bwait
  | 0x14 => (getM n e).map .bwaitp
  | 0x15 => (getM n e).map .btest
  | 0x16 => (getM n e).map .cadd
  | 0x17 => (getM n e).map .cwaitge
  | 0x7F => getN n 0x7F .nopL
  | _ => none

/-- The fields of a word of the V slot. -/
def rawV (n : Nat) (e : Word32) : Option Instr :=
  match n / 2 ^ 23 % 128 with
  | 0x00 => (getV n e).map .vadd
  | 0x01 => (getV n e).map .vsub
  | 0x02 => (getV n e).map .vmul
  | 0x03 => (getV n e).map .vfma
  | 0x04 => (getV n e).map .vfms
  | 0x05 => (getV n e).map .vmin
  | 0x06 => (getV n e).map .vmax
  | 0x07 => (getV n e).map .vabs
  | 0x08 => (getV n e).map .vneg
  | 0x09 => (getV n e).map .vand
  | 0x0A => (getV n e).map .vor
  | 0x0B => (getV n e).map .vxor
  | 0x0C => (getV n e).map .vnot
  | 0x0D => (getV n e).map .vshl
  | 0x0E => (getV n e).map .vshr
  | 0x0F => (getV n e).map .vsra
  | 0x10 => (getV n e).map .vcmp
  | 0x11 => (getV n e).map .vsel
  | 0x12 => (getV n e).map .vmov
  | 0x13 => (getV n e).map .vmovs
  | 0x14 => (getV n e).map .vextr
  | 0x15 => (getV n e).map .vins
  | 0x16 => (getV n e).map .vperm
  | 0x17 => (getV n e).map .vslide
  | 0x18 => (getV n e).map .viota
  | 0x19 => (getV n e).map .vcompr
  | 0x1A => (getV n e).map .vcvt
  | 0x1B => (getV n e).map .vquant
  | 0x1C => (getV n e).map .vdeq
  | 0x1D => (getV n e).map .vdot
  | 0x1E => (getV n e).map .vrsum
  | 0x1F => (getV n e).map .vrmax
  | 0x20 => (getV n e).map .vrmin
  | 0x21 => (getV n e).map .vrmaxi
  | 0x22 => (getV n e).map .vrmini
  | 0x23 => (getV n e).map .vscan
  | 0x24 => (getV n e).map .vpopc
  | 0x25 => (getV n e).map .vclz
  | 0x26 => (getV n e).map .vrcp
  | 0x27 => (getV n e).map .vrsq
  | 0x28 => (getV n e).map .vexp2
  | 0x29 => (getV n e).map .vlog2
  | 0x2A => (getV n e).map .vtanh
  | 0x2B => (getV n e).map .vmset
  | 0x2C => (getV n e).map .vmops
  | 0x7F => getN n 0x7F .nopV
  | _ => none

/-- The fields of a word of the M slot. -/
def rawM (n : Nat) (e : Word32) : Option Instr :=
  match n / 2 ^ 23 % 128 with
  | 0x00 => (getMX n e).map .mma
  | 0x01 => (getMX n e).map .mmaz
  | 0x02 => (getMX n e).map .mmas
  | 0x03 => (getMX n e).map .mcbld
  | 0x04 => (getMX n e).map .accrd
  | 0x05 => (getMX n e).map .accwr
  | 0x06 => (getMX n e).map .accz
  | 0x07 => (getMX n e).map .mwait
  | 0x08 => (getMX n e).map .mstat
  | 0x09 => (getMX n e).map .mdrain
  | 0x7F => getN n 0x7F .nopM
  | _ => none

/-- The fields of a word of the X slot. -/
def rawX (n : Nat) (_e : Word32) : Option Instr :=
  match n / 2 ^ 23 % 128 with
  | 0x00 => (getX n).map .xcopy
  | 0x01 => (getX n).map .xfill
  | 0x02 => (getX n).map .xsub
  | 0x03 => (getX n).map .xunsub
  | 0x04 => (getX n).map .xslot
  | 0x05 => (getX n).map .xremw
  | 0x06 => (getX n).map .xrcopy
  | 0x07 => (getX n).map .xcadd
  | 0x08 => getMcast n
  | 0x09 => (getX n).map .xmigr
  | 0x0A => (getX n).map .xcoll
  | 0x0B => (getX n).map .xgjoin
  | 0x0C => (getX n).map .xgleave
  | 0x0D => (getX n).map .xgagree
  | 0x0E => (getX n).map .xcancel
  | 0x7F => getN n 0x7F .nopX
  | _ => none

/-- The fields of a slot word, by slot. -/
def rawSlot (slot n : Nat) (e : Word32) : Option Instr :=
  match slot with
  | 0 => rawC n e
  | 1 => rawS n e
  | 2 => rawS n e
  | 3 => rawL n e
  | 4 => rawV n e
  | 5 => rawM n e
  | 6 => rawX n e
  | _ => none

/-- The decoder: the instruction of a slot word and of the word that follows it (used when EXT is 1), or none, which is
trap 0x02 with REASON 0x00 (R55). -/
def decode (slot : Nat) (w e : Word32) : Option Instr :=
  match rawSlot slot w.toNat e with
  | some i => if i.wf then some i else none
  | none => none

/-! ### The encoder -/

/-- EXT and HOLD of a word. -/
def topBits (hold : Bool) (ext : Option Word32) : Nat := (if ext.isSome then 2 ^ 31 else 0) + b2n hold * 2 ^ 30

def putA (x : ArgA) : Nat :=
  x.dst.val * 2 ^ 17 + x.src1.val * 2 ^ 11 + x.src2.val * 2 ^ 5 + b2n x.b1 * 2 ^ 4 + b2n x.b2 * 2 ^ 3 + x.mod.val

def putI (x : ArgI) : Nat :=
  topBits false x.ext + x.dst.val * 2 ^ 17 + x.src1.val * 2 ^ 11 + b2n x.b1 * 2 ^ 10 + x.imm.toNat

def putW (x : ArgW) : Nat := topBits false x.ext + x.dst.val * 2 ^ 17 + x.imm.toNat

def putB (x : ArgB) : Nat := topBits false x.ext + x.pred.val * 2 ^ 20 + b2n x.neg * 2 ^ 19 + x.ofs.toNat

def putP (x : ArgP) : Nat :=
  x.pd.val * 2 ^ 20 + x.src1.val * 2 ^ 11 + x.src2.val * 2 ^ 5 + b2n x.b1 * 2 ^ 4 + b2n x.b2 * 2 ^ 3 + x.cond.val

def putQ (x : ArgQ) : Nat :=
  topBits false x.ext + x.pd.val * 2 ^ 20 + x.cond.val * 2 ^ 17 + x.src1.val * 2 ^ 11 + b2n x.b1 * 2 ^ 10 + x.imm.toNat

def putPL (x : ArgPL) : Nat := x.pd.val * 2 ^ 20 + x.pa.val * 2 ^ 17 + x.pb.val * 2 ^ 14

def putCS (x : ArgCS) : Nat := x.dst.val * 2 ^ 17 + x.src1.val * 2 ^ 11 + b2n x.b1 * 2 ^ 10 + x.index.toNat

def putLP (x : ArgLP) : Nat := x.levels.val * 2 ^ 20 + x.body.val * 2 ^ 15 + x.abase.val * 2 ^ 11 + b2n x.b * 2 ^ 10

def putK (x : ArgK) : Nat := x.dst.val * 2 ^ 17 + x.pd.val * 2 ^ 14 + x.abase.val * 2 ^ 10 + b2n x.b * 2 ^ 9

def putM (x : ArgM) : Nat :=
  topBits x.hold x.ext + x.reg.val * 2 ^ 17 + x.abase.val * 2 ^ 13 + b2n x.b * 2 ^ 12 + x.ty.val * 2 ^ 9
    + x.step.toNat * 2 ^ 4 + x.opt.toNat

def putG (x : ArgG) : Nat :=
  topBits x.hold x.ext + x.vreg.val * 2 ^ 18 + x.abase.val * 2 ^ 14 + x.vidx.val * 2 ^ 9 + b2n x.b * 2 ^ 8
    + x.ty.val * 2 ^ 5 + x.vm.val * 2 ^ 2

def putMX (x : ArgMX) : Nat :=
  topBits x.hold x.ext + x.acc.val * 2 ^ 19 + x.sreg.val * 2 ^ 13 + x.aa.val * 2 ^ 9 + x.ab.val * 2 ^ 5 + b2n x.b * 2 ^ 4
    + x.opt.toNat

def putX (x : ArgX) : Nat :=
  topBits x.hold none + x.sreg.val * 2 ^ 17 + x.adesc.val * 2 ^ 13 + x.sarg.val * 2 ^ 7 + b2n x.b * 2 ^ 6 + x.opt.toNat

def putCV (x : ArgCV) : Nat :=
  x.dst.val * 2 ^ 17 + x.src1.val * 2 ^ 11 + x.dty.val * 2 ^ 5 + b2n x.b1 * 2 ^ 4 + x.sty.val

def putV (x : ArgV) : Nat :=
  topBits x.hold x.ext + x.dst.val * 2 ^ 17 + x.src1.val * 2 ^ 11 + x.src2.val * 2 ^ 5 + b2n x.b1 * 2 ^ 4
    + b2n x.b2 * 2 ^ 3 + x.mod.val

/-- The words of a slot op: its slot class, its slot word, its extension word (zero without EXT). -/
structure SlotWords where
  slot : Nat
  word : Word32
  ext : Word32
  deriving DecidableEq, Repr

/-- A slot word from its opcode and its other bits. -/
def slotWords (slot op rest : Nat) (ext : Option Word32) : Option SlotWords :=
  some { slot := slot, word := BitVec.ofNat 32 (op * 2 ^ 23 + rest), ext := ext.getD 0 }

/-- The words of an instruction; an event has none. -/
def encode : Instr → Option SlotWords
  | .nop => slotWords 0 0x00 0 none
  | .br x => slotWords 0 0x01 (putB x) x.ext
  | .brp x => slotWords 0 0x02 (putB x) x.ext
  | .bri x => slotWords 0 0x03 (putA x) none
  | .call x => slotWords 0 0x04 (putB x) x.ext
  | .calli x => slotWords 0 0x05 (putA x) none
  | .ret => slotWords 0 0x06 0 none
  | .loopn x => slotWords 0 0x07 (putLP x) none
  | .lexit => slotWords 0 0x08 0 none
  | .haltb => slotWords 0 0x09 0 none
  | .yield => slotWords 0 0x0A 0 none
  | .sleepu x => slotWords 0 0x0B (putA x) none
  | .waitfe x => slotWords 0 0x0C (putA x) none
  | .trap x => slotWords 0 0x0D (putW x) x.ext
  | .eret => slotWords 0 0x0E 0 none
  | .snapst x => slotWords 0 0x0F (putA x) none
  | .snapld x => slotWords 0 0x10 (putA x) none
  | .snaprel => slotWords 0 0x11 0 none
  | .rprobe x => slotWords 0 0x12 (putA x) none
  | .wprobe x => slotWords 0 0x13 (putA x) none
  | .pgalloc x => slotWords 0 0x14 (putA x) none
  | .fmtset x => slotWords 0 0x15 (putA x) none
  | .csrr x => slotWords 0 0x16 (putCS x) none
  | .csrw x => slotWords 0 0x17 (putCS x) none
  | .fence x => slotWords 0 0x18 (putA x) none
  | .bkpt x => slotWords 0 0x19 (putW x) x.ext
  | .abort x => slotWords 0 0x1A (putW x) x.ext
  | .launch x => slotWords 0 0x1B (putK x) none
  | .launcht x => slotWords 0 0x1C (putK x) none
  | .kjoin x => slotWords 0 0x1D (putA x) none
  | .relaunch x => slotWords 0 0x1E (putA x) none
  | .add x => slotWords 1 0x00 (putA x) none
  | .addi x => slotWords 1 0x01 (putI x) x.ext
  | .sub x => slotWords 1 0x02 (putA x) none
  | .mul x => slotWords 1 0x03 (putA x) none
  | .mulhi x => slotWords 1 0x04 (putA x) none
  | .mulhn x => slotWords 1 0x05 (putA x) none
  | .div x => slotWords 1 0x06 (putA x) none
  | .divn x => slotWords 1 0x07 (putA x) none
  | .rem x => slotWords 1 0x08 (putA x) none
  | .remn x => slotWords 1 0x09 (putA x) none
  | .min x => slotWords 1 0x0A (putA x) none
  | .minn x => slotWords 1 0x0B (putA x) none
  | .max x => slotWords 1 0x0C (putA x) none
  | .maxn x => slotWords 1 0x0D (putA x) none
  | .and x => slotWords 1 0x0E (putA x) none
  | .andi x => slotWords 1 0x0F (putI x) x.ext
  | .or x => slotWords 1 0x10 (putA x) none
  | .ori x => slotWords 1 0x11 (putI x) x.ext
  | .xor x => slotWords 1 0x12 (putA x) none
  | .xori x => slotWords 1 0x13 (putI x) x.ext
  | .andn x => slotWords 1 0x14 (putA x) none
  | .shl x => slotWords 1 0x15 (putA x) none
  | .shli x => slotWords 1 0x16 (putI x) x.ext
  | .shr x => slotWords 1 0x17 (putA x) none
  | .shri x => slotWords 1 0x18 (putI x) x.ext
  | .sra x => slotWords 1 0x19 (putA x) none
  | .srai x => slotWords 1 0x1A (putI x) x.ext
  | .rotl x => slotWords 1 0x1B (putA x) none
  | .clz x => slotWords 1 0x1C (putA x) none
  | .ctz x => slotWords 1 0x1D (putA x) none
  | .popc x => slotWords 1 0x1E (putA x) none
  | .bfx x => slotWords 1 0x1F (putA x) none
  | .bfxs x => slotWords 1 0x20 (putA x) none
  | .bfi x => slotWords 1 0x21 (putA x) none
  | .sext x => slotWords 1 0x22 (putA x) none
  | .zext x => slotWords 1 0x23 (putA x) none
  | .mov x => slotWords 1 0x24 (putA x) none
  | .movi x => slotWords 1 0x25 (putW x) x.ext
  | .movhi x => slotWords 1 0x26 (putW x) x.ext
  | .cmp x => slotWords 1 0x27 (putP x) none
  | .cmpi x => slotWords 1 0x28 (putQ x) x.ext
  | .sel x => slotWords 1 0x29 (putA x) none
  | .abs x => slotWords 1 0x2A (putA x) none
  | .neg x => slotWords 1 0x2B (putA x) none
  | .pand x => slotWords 1 0x2C (putPL x) none
  | .por x => slotWords 1 0x2D (putPL x) none
  | .pxor x => slotWords 1 0x2E (putPL x) none
  | .pnot x => slotWords 1 0x2F (putPL x) none
  | .pmov x => slotWords 1 0x30 (putPL x) none
  | .fadds x => slotWords 1 0x31 (putA x) none
  | .fsubs x => slotWords 1 0x32 (putA x) none
  | .fmuls x => slotWords 1 0x33 (putA x) none
  | .ffmas x => slotWords 1 0x34 (putA x) none
  | .fmins x => slotWords 1 0x35 (putA x) none
  | .fmaxs x => slotWords 1 0x36 (putA x) none
  | .fcmps x => slotWords 1 0x37 (putP x) none
  | .fcvts x => slotWords 1 0x38 (putCV x) none
  | .ld x => slotWords 3 0x00 (putM x) x.ext
  | .st x => slotWords 3 0x01 (putM x) x.ext
  | .ldv x => slotWords 3 0x02 (putM x) x.ext
  | .stv x => slotWords 3 0x03 (putM x) x.ext
  | .ldvs x => slotWords 3 0x04 (putM x) x.ext
  | .stvs x => slotWords 3 0x05 (putM x) x.ext
  | .gath x => slotWords 3 0x06 (putG x) x.ext
  | .scat x => slotWords 3 0x07 (putG x) x.ext
  | .ldl x => slotWords 3 0x08 (putM x) x.ext
  | .stul x => slotWords 3 0x09 (putM x) x.ext
  | .atom x => slotWords 3 0x0A (putM x) x.ext
  | .cas x => slotWords 3 0x0B (putM x) x.ext
  | .aadd x => slotWords 3 0x0C (putA x) none
  | .amov x => slotWords 3 0x0D (putA x) none
  | .ldc x => slotWords 3 0x0E (putM x) x.ext
  | .binit x => slotWords 3 0x10 (putM x) x.ext
  | .bexpect x => slotWords 3 0x11 (putM x) x.ext
  | .barrive x => slotWords 3 0x12 (putM x) x.ext
  | .bwait x => slotWords 3 0x13 (putM x) x.ext
  | .bwaitp x => slotWords 3 0x14 (putM x) x.ext
  | .btest x => slotWords 3 0x15 (putM x) x.ext
  | .cadd x => slotWords 3 0x16 (putM x) x.ext
  | .cwaitge x => slotWords 3 0x17 (putM x) x.ext
  | .nopL => slotWords 3 0x7F 0 none
  | .vadd x => slotWords 4 0x00 (putV x) x.ext
  | .vsub x => slotWords 4 0x01 (putV x) x.ext
  | .vmul x => slotWords 4 0x02 (putV x) x.ext
  | .vfma x => slotWords 4 0x03 (putV x) x.ext
  | .vfms x => slotWords 4 0x04 (putV x) x.ext
  | .vmin x => slotWords 4 0x05 (putV x) x.ext
  | .vmax x => slotWords 4 0x06 (putV x) x.ext
  | .vabs x => slotWords 4 0x07 (putV x) x.ext
  | .vneg x => slotWords 4 0x08 (putV x) x.ext
  | .vand x => slotWords 4 0x09 (putV x) x.ext
  | .vor x => slotWords 4 0x0A (putV x) x.ext
  | .vxor x => slotWords 4 0x0B (putV x) x.ext
  | .vnot x => slotWords 4 0x0C (putV x) x.ext
  | .vshl x => slotWords 4 0x0D (putV x) x.ext
  | .vshr x => slotWords 4 0x0E (putV x) x.ext
  | .vsra x => slotWords 4 0x0F (putV x) x.ext
  | .vcmp x => slotWords 4 0x10 (putV x) x.ext
  | .vsel x => slotWords 4 0x11 (putV x) x.ext
  | .vmov x => slotWords 4 0x12 (putV x) x.ext
  | .vmovs x => slotWords 4 0x13 (putV x) x.ext
  | .vextr x => slotWords 4 0x14 (putV x) x.ext
  | .vins x => slotWords 4 0x15 (putV x) x.ext
  | .vperm x => slotWords 4 0x16 (putV x) x.ext
  | .vslide x => slotWords 4 0x17 (putV x) x.ext
  | .viota x => slotWords 4 0x18 (putV x) x.ext
  | .vcompr x => slotWords 4 0x19 (putV x) x.ext
  | .vcvt x => slotWords 4 0x1A (putV x) x.ext
  | .vquant x => slotWords 4 0x1B (putV x) x.ext
  | .vdeq x => slotWords 4 0x1C (putV x) x.ext
  | .vdot x => slotWords 4 0x1D (putV x) x.ext
  | .vrsum x => slotWords 4 0x1E (putV x) x.ext
  | .vrmax x => slotWords 4 0x1F (putV x) x.ext
  | .vrmin x => slotWords 4 0x20 (putV x) x.ext
  | .vrmaxi x => slotWords 4 0x21 (putV x) x.ext
  | .vrmini x => slotWords 4 0x22 (putV x) x.ext
  | .vscan x => slotWords 4 0x23 (putV x) x.ext
  | .vpopc x => slotWords 4 0x24 (putV x) x.ext
  | .vclz x => slotWords 4 0x25 (putV x) x.ext
  | .vrcp x => slotWords 4 0x26 (putV x) x.ext
  | .vrsq x => slotWords 4 0x27 (putV x) x.ext
  | .vexp2 x => slotWords 4 0x28 (putV x) x.ext
  | .vlog2 x => slotWords 4 0x29 (putV x) x.ext
  | .vtanh x => slotWords 4 0x2A (putV x) x.ext
  | .vmset x => slotWords 4 0x2B (putV x) x.ext
  | .vmops x => slotWords 4 0x2C (putV x) x.ext
  | .nopV => slotWords 4 0x7F 0 none
  | .mma x => slotWords 5 0x00 (putMX x) x.ext
  | .mmaz x => slotWords 5 0x01 (putMX x) x.ext
  | .mmas x => slotWords 5 0x02 (putMX x) x.ext
  | .mcbld x => slotWords 5 0x03 (putMX x) x.ext
  | .accrd x => slotWords 5 0x04 (putMX x) x.ext
  | .accwr x => slotWords 5 0x05 (putMX x) x.ext
  | .accz x => slotWords 5 0x06 (putMX x) x.ext
  | .mwait x => slotWords 5 0x07 (putMX x) x.ext
  | .mstat x => slotWords 5 0x08 (putMX x) x.ext
  | .mdrain x => slotWords 5 0x09 (putMX x) x.ext
  | .nopM => slotWords 5 0x7F 0 none
  | .xcopy x => slotWords 6 0x00 (putX x) none
  | .xfill x => slotWords 6 0x01 (putX x) none
  | .xsub x => slotWords 6 0x02 (putX x) none
  | .xunsub x => slotWords 6 0x03 (putX x) none
  | .xslot x => slotWords 6 0x04 (putX x) none
  | .xremw x => slotWords 6 0x05 (putX x) none
  | .xrcopy x => slotWords 6 0x06 (putX x) none
  | .xcadd x => slotWords 6 0x07 (putX x) none
  | .xmcast x => slotWords 6 0x08 (putX x) none
  | .xmcastSet x => slotWords 6 0x08 (putX x) none
  | .xmigr x => slotWords 6 0x09 (putX x) none
  | .xcoll x => slotWords 6 0x0A (putX x) none
  | .xgjoin x => slotWords 6 0x0B (putX x) none
  | .xgleave x => slotWords 6 0x0C (putX x) none
  | .xgagree x => slotWords 6 0x0D (putX x) none
  | .xcancel x => slotWords 6 0x0E (putX x) none
  | .nopX => slotWords 6 0x7F 0 none
  | .bundleIssue _ => none
  | .writeback _ _ => none
  | .reasonCleared _ => none
  | .quantum _ => none
  | .sleepWake _ => none
  | .promiseWake _ => none
  | .watchdog _ => none
  | .trapEntry _ => none
  | .haltLine _ _ _ => none
  | .haltArrival _ _ => none
  | .faultCompletion _ => none
  | .preemptionRequest _ => none
  | .preload _ => none
  | .swap _ => none
  | .spill _ => none
  | .tileFill _ _ => none
  | .restore _ => none
  | .entryStart _ => none
  | .wave _ => none
  | .entryComplete _ => none
  | .copyStart _ _ => none
  | .byteArrival _ _ _ => none
  | .copyComplete _ _ => none
  | .ringFill _ _ _ => none
  | .ringPull _ _ _ => none
  | .subscriptionClose _ _ => none
  | .multicastDelivery _ _ _ => none
  | .zeroingComplete _ _ => none
  | .drained _ _ => none
  | .demandFill _ _ _ => none
  | .fillTimeout _ _ _ => none
  | .migrationAccept _ => none
  | .migrationCopy _ _ => none
  | .rebind _ _ => none
  | .qtail _ _ => none
  | .enable _ => none
  | .disable _ => none
  | .resume _ => none
  | .kill _ => none
  | .packetWaits _ => none
  | .dispatch _ => none
  | .blockLoad _ => none
  | .predelay _ => none
  | .retirement _ => none
  | .launchCompletion _ => none
  | .eventRecord _ => none
  | .bind _ => none
  | .unbind _ => none
  | .release _ => none
  | .pool _ => none
  | .pageresp _ _ => none
  | .steprel _ => none
  | .preempt _ _ => none
  | .registerWrite _ _ => none
  | .hostWrite _ _ _ => none
  | .flitSend _ => none
  | .dataFlit _ _ => none
  | .addFlit _ _ => none
  | .ack _ _ _ _ => none
  | .nak _ _ _ _ _ => none
  | .ackTimer _ _ => none
  | .replay _ _ => none
  | .routeDead _ _ _ => none
  | .noPath _ _ => none
  | .lossOfLight _ _ => none
  | .restripe _ => none
  | .training _ _ => none
  | .trainTimeout _ => none
  | .crcThreshold _ => none
  | .drain _ => none
  | .drainTimeout _ => none
  | .retrain _ => none
  | .fencePort _ => none
  | .disablePort _ => none
  | .repin _ _ => none
  | .qpError _ _ _ => none
  | .routeWrite _ _ _ => none
  | .keyInstall _ _ => none
  | .gcreate _ _ _ => none
  | .gbind _ _ => none
  | .gquiesce _ _ => none
  | .gresume _ _ => none
  | .gevict _ _ _ => none
  | .gabort _ _ => none
  | .gdestroy _ _ => none
  | .treeProgrammed _ _ _ _ _ => none
  | .recordStart _ => none
  | .commit _ _ _ => none
  | .instanceComplete _ _ _ _ _ => none
  | .instanceAbort _ _ _ _ _ => none
  | .resetCold => none
  | .resetWarm => none
  | .resetDie _ => none
  | .resetCluster _ => none
  | .resetCore _ => none
  | .resetMatrix _ => none
  | .resetCopy _ => none
  | .resetQuay _ => none
  | .resetPort _ => none
  | .resetCollective _ => none
  | .perst => none
  | .hotReset => none
  | .setmode _ _ => none
  | .sensorRead _ => none
  | .telemetryUpdate _ _ => none
  | .scrub _ => none
  | .partition _ _ _ => none
  | .powerUp _ => none
  | .slotMask _ _ _ => none
  | .watchdogLimit _ _ => none
  | .powerCap _ => none
  | .capWindow _ => none
  | .frequencyStep _ _ => none
  | .relock _ => none
  | .ageingStep _ => none
  | .chipNumber _ => none
  | .spdmSession _ => none
  | .firmwareWrite _ _ => none
  | .activate _ => none
  | .selfCheck _ _ => none
  | .creditReturn _ _ _ _ => none
  | .priorityFlowControl _ _ _ => none
  | .createJob _ _ => none
  | .ageingApproval _ _ => none

/-! ### A table word -/

/-- The slots in the order in which `decodeTableWord` tries them (log entry 6). -/
def tableSlots : List Nat := [6, 5, 4, 3, 0, 1]

/-- The instruction of a word whose slot is not known: each slot class has its own opcode space (R53), so the word is tried
in the slots of `tableSlots` and the first that accepts it answers; an extension word is zero. Log entry 6. -/
def decodeIn (w : Word32) : List Nat → Option (Nat × Instr)
  | [] => none
  | k :: t => match decode k w 0 with
    | some i => some (k, i)
    | none => decodeIn w t

/-- The instruction of a table word (bits above `nbits` are 0; the table gives every slot op 32 bits). -/
def decodeTableWord (nbits w : Nat) : Option Instr :=
  (decodeIn (BitVec.ofNat 32 (w % 2 ^ nbits)) tableSlots).map Prod.snd

end Sys2Proof
end

