-- ==== Sys2Proof/Machine/Flags.lean ====
section
/-! DEFINITION. The arithmetic of the C9: integer types and their narrowing (R73, R74), floating-point types, rounding,
overflow, NaNs and flags (R75 to R87, R99), maximum and minimum, conversions, block scales and codebook entries (R88 to
R94), and the accumulation of a matrix cell (R95, R96). -/

namespace Sys2Proof.Machine

open Sys2Proof

/-! ### Flags (R45) -/

/-- `FLAGS` bits: NV 0, DZ 1, OF 2, UF 3, NX 4. -/
abbrev FlagSet := BitVec 5

def flNV : FlagSet := 1
def flDZ : FlagSet := 2
def flOF : FlagSet := 4
def flUF : FlagSet := 8
def flNX : FlagSet := 16

/-- A flag set when a condition holds. -/
def flagIf (b : Bool) (f : FlagSet) : FlagSet := if b then f else 0

/-! ### Integers -/

/-- An integer type (R73). -/
structure ITy where
  w : Nat
  sg : Bool
  deriving DecidableEq, Repr

/-- The S-slot integer column of R57. -/
def intTy (m : Nat) : ITy :=
  match m with
  | 0 => ⟨64, true⟩
  | 1 => ⟨32, true⟩
  | 2 => ⟨16, true⟩
  | 3 => ⟨8, true⟩
  | 4 => ⟨64, false⟩
  | 5 => ⟨32, false⟩
  | 6 => ⟨16, false⟩
  | _ => ⟨8, false⟩

/-- The least value of an integer type. -/
def ITy.min (t : ITy) : Int := if t.sg then -(2 ^ (t.w - 1) : Nat) else 0

/-- The greatest value of an integer type. -/
def ITy.max (t : ITy) : Int := if t.sg then (2 ^ (t.w - 1) : Nat) - 1 else (2 ^ t.w : Nat) - 1

/-- The low `w` bits of a pattern read as the type (R113). -/
def ITy.read (t : ITy) (x : Nat) : Int := if t.sg then sx t.w x else ((x % 2 ^ t.w : Nat) : Int)

/-- `bits_int` (R74): an integer as `w` raw bits. -/
def bitsInt (x : Int) (w : Nat) : Nat := (x % ((2 ^ w : Nat) : Int)).toNat

/-- `wrap_int` (R74). -/
def ITy.wrap (t : ITy) (x : Int) : Int := t.read (bitsInt x t.w)

/-- Whether an exact value lies outside the type. -/
def ITy.out (t : ITy) (x : Int) : Bool := decide (x < t.min) || decide (t.max < x)

/-- `sat_int` (R74). -/
def ITy.sat (t : ITy) (x : Int) : Int := if x < t.min then t.min else if t.max < x then t.max else x

/-- The `w`-bit pattern of a value (R113). -/
def ITy.pat (t : ITy) (x : Int) : Nat := bitsInt x t.w

/-- `ext(x, ty)` (R113): a value of the type as 64 bits. -/
def ITy.ext (t : ITy) (x : Int) : Word64 := w64 (t.wrap x)

/-- Number of one bits among the low `n` bits. -/
def popcount : Nat → Nat → Nat
  | 0, _ => 0
  | n + 1, x => x % 2 + popcount n (x / 2)

/-- Leading zeros of a `w`-bit pattern; `w` for zero (R115). -/
def clz (w x : Nat) : Nat := if x = 0 then w else w - 1 - Nat.log2 x

/-- Trailing zeros of a `w`-bit pattern; `w` for zero (R115). -/
def ctz : Nat → Nat → Nat
  | 0, _ => 0
  | n + 1, x => if x % 2 = 1 then 0 else 1 + ctz n (x / 2)

/-! ### Floating point -/

/-- A floating-point type (R75): width, M bits, bias, the code of its largest finite magnitude, and whether it has
infinities and NaNs. -/
structure FTy where
  w : Nat
  m : Nat
  bias : Nat
  maxCode : Nat
  hasInf : Bool
  hasNan : Bool
  deriving DecidableEq, Repr

def f32 : FTy := ⟨32, 23, 127, 0x7F7FFFFF, true, true⟩
def f16 : FTy := ⟨16, 10, 15, 0x7BFF, true, true⟩
def bf16 : FTy := ⟨16, 7, 127, 0x7F7F, true, true⟩
def e4m3 : FTy := ⟨8, 3, 7, 0x7E, false, true⟩
def e5m2 : FTy := ⟨8, 2, 15, 0x7B, true, true⟩
def e2m3 : FTy := ⟨6, 3, 1, 0x1F, false, false⟩
def e3m2 : FTy := ⟨6, 2, 3, 0x1F, false, false⟩
def e2m1 : FTy := ⟨4, 1, 1, 0x7, false, false⟩

/-- An element type by its TYC (R46). -/
inductive ElTy where
  | fl (t : FTy)
  | it (t : ITy)
  deriving DecidableEq, Repr

/-- The TYC table (R46). -/
def tyOf (tyc : Nat) : ElTy :=
  match tyc with
  | 0 => .fl f32
  | 1 => .fl f16
  | 2 => .fl bf16
  | 3 => .fl e4m3
  | 4 => .fl e5m2
  | 5 => .fl e2m3
  | 6 => .fl e3m2
  | 7 => .fl e2m1
  | 8 => .it ⟨8, true⟩
  | 9 => .it ⟨16, true⟩
  | 10 => .it ⟨32, true⟩
  | 11 => .it ⟨64, true⟩
  | 12 => .it ⟨8, false⟩
  | 13 => .it ⟨16, false⟩
  | 14 => .it ⟨32, false⟩
  | _ => .it ⟨64, false⟩

/-- The width of an element type. -/
def ElTy.w : ElTy → Nat
  | .fl t => t.w
  | .it t => t.w

/-- A floating-point datum: a NaN with sign, payload, payload width and whether it signals; an infinity; or the exact
value ± mag x 2^exp, with a signed zero. -/
inductive Num where
  | nan (neg : Bool) (pay pw : Nat) (sig : Bool)
  | inf (neg : Bool)
  | fin (neg : Bool) (mag : Nat) (exp : Int)
  deriving DecidableEq, Repr

/-- The NaN that an invalid operation makes; it becomes the canonical NaN in every type (R77). -/
def madeNan : Num := .nan false 1 1 false

/-- The datum of an encoding (R75, R77). The `.e4m3` NaN is quiet and keeps only its sign and upper payload bit (R82). -/
def FTy.decode (t : FTy) (x : Nat) : Num :=
  let neg := bitOf x (t.w - 1)
  let code := x % 2 ^ (t.w - 1)
  if code ≤ t.maxCode then
    let e := code / 2 ^ t.m
    let f := code % 2 ^ t.m
    if e = 0 then .fin neg f (1 - t.bias - t.m) else .fin neg (2 ^ t.m + f) ((e : Int) - t.bias - t.m)
  else if t.hasInf then
    if code = t.maxCode + 1 then .inf neg
    else .nan neg (code % 2 ^ t.m) t.m (!bitOf code (t.m - 1))
  else .nan neg (2 ^ (t.m - 1)) t.m false

def Num.isNan : Num → Bool
  | .nan .. => true
  | _ => false

def Num.isSig : Num → Bool
  | .nan _ _ _ s => s
  | _ => false

def Num.neg : Num → Bool
  | .nan n .. => n
  | .inf n => n
  | .fin n .. => n

/-- The negative of a number; a NaN stays as it is (R77). -/
def Num.negate : Num → Num
  | .nan n p w s => .nan n p w s
  | .inf n => .inf (!n)
  | .fin n m e => .fin (!n) m e

def Num.isZero : Num → Bool
  | .fin _ 0 _ => true
  | _ => false

/-- The sign bit of an encoding. -/
def FTy.signBit (t : FTy) (neg : Bool) : Nat := if neg then 2 ^ (t.w - 1) else 0

/-- The canonical NaN (R77); a type without NaN gives +0 (R82). -/
def FTy.canon (t : FTy) : Nat :=
  if t.hasInf then t.maxCode + 1 + 2 ^ (t.m - 1) else if t.hasNan then t.maxCode + 1 else 0

/-- What `FMT` says about arithmetic (R43): RND, SAT and NANM. -/
structure FEnv where
  rnd : Nat
  sat : Bool
  nanm : Bool
  deriving DecidableEq, Repr

/-- The arithmetic fields of a `FMT` value (R43). -/
def FEnv.ofFmt (x : Word64) : FEnv := { rnd := bits x.toNat 16 14, sat := bitOf x.toNat 17, nanm := bitOf x.toNat 18 }

/-- The environment of the matrix engine, the switch, and every rule that names RNE: no saturation, canonical NaNs. -/
def FEnv.rne : FEnv := { rnd := 0, sat := false, nanm := false }

/-- A NaN result (R77): canonical, or the sign and quieted payload of the operand. -/
def FTy.nanOut (t : FTy) (env : FEnv) (x : Num) : Nat :=
  match x with
  | .nan neg pay pw _ =>
    if !t.hasNan then 0
    else if !env.nanm then t.canon
    else if t.hasInf then
      let p := if t.m ≤ pw then pay / 2 ^ (pw - t.m) else pay * 2 ^ (t.m - pw)
      t.signBit neg + (t.maxCode + 1) + (p % 2 ^ (t.m - 1) + 2 ^ (t.m - 1))
    else t.signBit neg + t.canon
  | _ => t.canon

/-- Whether a fraction rounds its magnitude up (R80): `r / 2^sh` with more below it when `sticky`, `odd` the kept bit, `d`
the 16 bits drawn for stochastic rounding (R86). -/
def roundUp (rnd : Nat) (neg odd : Bool) (r sh : Nat) (sticky : Bool) (d : Nat) : Bool :=
  if r = 0 ∧ sticky = false then false else
  match rnd with
  | 0 => decide (2 ^ sh < 2 * r) || (decide (2 * r = 2 ^ sh) && (sticky || odd))
  | 1 => false
  | 2 => !neg
  | 3 => neg
  | _ => decide (2 ^ 16 ≤ r * 2 ^ 16 / 2 ^ sh + d)

/-- Overflow (R81): the code delivered. -/
def FTy.overflow (t : FTy) (env : FEnv) (neg : Bool) : Nat :=
  if t.hasInf then
    if (env.sat && decide (t.w ≠ 32)) || env.rnd == 1 || (env.rnd == 2 && neg) || (env.rnd == 3 && !neg) then
      t.signBit neg + t.maxCode
    else t.signBit neg + t.maxCode + 1
  else if t.hasNan && !env.sat then t.signBit neg + t.canon
  else t.signBit neg + t.maxCode

/-- `round_fp` of a finite ± mag x 2^exp (R80), with more below when `sticky`: the encoding and the flags (R84). -/
def FTy.roundFin (t : FTy) (env : FEnv) (neg : Bool) (mag : Nat) (exp : Int) (sticky : Bool) (d : Nat) : Nat × FlagSet :=
  if mag = 0 ∧ sticky = false then (t.signBit neg, 0) else
  let e : Int := max (exp + Nat.log2 mag) (1 - t.bias)
  let q : Int := e - t.m
  let up := (exp - q).toNat
  let sh := (q - exp).toNat
  let n0 := mag * 2 ^ up / 2 ^ sh
  let r := mag * 2 ^ up % 2 ^ sh
  let inc := roundUp env.rnd neg (n0 % 2 == 1) r sh sticky d
  let n := if inc then n0 + 1 else n0
  let inexact := decide (r ≠ 0) || sticky
  let code := (e + t.bias - 1).toNat * 2 ^ t.m + n
  if t.maxCode < code then (t.overflow env neg, flOF ||| flNX)
  else (t.signBit neg + code, flagIf inexact flNX ||| flagIf (inexact && decide (code < 2 ^ t.m)) flUF)

/-- Rounding of any datum to a type (R80 to R82, R84). An infinity into a type without one sets OF (R82), and NX, since what is
delivered differs from it (R84). -/
def FTy.round (t : FTy) (env : FEnv) (x : Num) (d : Nat) : Nat × FlagSet :=
  match x with
  | .nan _ _ _ sig => (t.nanOut env x, flagIf (sig || !t.hasNan) flNV)
  | .inf neg =>
    if t.hasInf then (t.signBit neg + t.maxCode + 1, 0)
    else if t.hasNan && !env.sat then (t.signBit neg + t.canon, flOF ||| flNX)
    else (t.signBit neg + t.maxCode, flOF ||| flNX)
  | .fin neg mag exp => t.roundFin env neg mag exp false d

/-- The signed magnitude of a finite datum on the grid 2^e. -/
def onGrid (neg : Bool) (mag : Nat) (exp e : Int) : Int :=
  let v : Int := (mag * 2 ^ (exp - e).toNat : Nat)
  if neg then -v else v

/-- An exact finite value from a signed integer on the grid 2^e; `zneg` is the sign of an exact zero. -/
def ofGrid (v : Int) (e : Int) (zneg : Bool) : Num :=
  if v = 0 then .fin zneg 0 e else .fin (decide (v < 0)) v.natAbs e

/-- The exact sum of two data; `rd` says that the mode is RD, where an exact zero of opposite signs is -0 (R122). -/
def Num.add (rd : Bool) : Num → Num → Num × FlagSet
  | .nan a b c s, _ => (.nan a b c s, 0)
  | .inf _, .nan a b c s => (.nan a b c s, 0)
  | .fin .., .nan a b c s => (.nan a b c s, 0)
  | .inf a, .inf b => if a = b then (.inf a, 0) else (madeNan, flNV)
  | .inf a, .fin .. => (.inf a, 0)
  | .fin .., .inf b => (.inf b, 0)
  | .fin na ma ea, .fin nb mb eb =>
    let e := min ea eb
    let v := onGrid na ma ea e + onGrid nb mb eb e
    let zneg := if ma = 0 ∧ mb = 0 ∧ na = nb then na else rd
    (ofGrid v e zneg, 0)

/-- The exact product of two data (R122): 0 x infinity is NaN and sets NV. -/
def Num.mul : Num → Num → Num × FlagSet
  | .nan a b c s, _ => (.nan a b c s, 0)
  | .inf _, .nan a b c s => (.nan a b c s, 0)
  | .fin .., .nan a b c s => (.nan a b c s, 0)
  | .inf a, .inf b => (.inf (a ^^ b), 0)
  | .inf a, .fin b mb _ => if mb = 0 then (madeNan, flNV) else (.inf (a ^^ b), 0)
  | .fin a ma _, .inf b => if ma = 0 then (madeNan, flNV) else (.inf (a ^^ b), 0)
  | .fin na ma ea, .fin nb mb eb => (.fin (na ^^ nb) (ma * mb) (ea + eb), 0)

/-- The first NaN among operands, in operand order (R77). -/
def firstNan : List Num → Option Num
  | [] => none
  | x :: t => if x.isNan then some x else firstNan t

/-- NV for a signalling operand (R84). -/
def sigFlag (l : List Num) : FlagSet := flagIf (l.any Num.isSig) flNV

/-- An arithmetic result: a NaN operand's NaN first, else the exact value rounded (R77, R84). -/
def FTy.result (t : FTy) (env : FEnv) (ops : List Num) (r : Num × FlagSet) (d : Nat) : Nat × FlagSet :=
  match firstNan ops with
  | some x => (t.nanOut env x, sigFlag ops)
  | none => let q := t.round env r.1 d; (q.1, q.2 ||| r.2)

/-- `x + y` rounded (R122). -/
def FTy.fadd (t : FTy) (env : FEnv) (x y d : Nat) : Nat × FlagSet :=
  let a := t.decode x
  let b := t.decode y
  t.result env [a, b] (a.add (env.rnd == 3) b) d

/-- `x - y` rounded (R122). -/
def FTy.fsub (t : FTy) (env : FEnv) (x y d : Nat) : Nat × FlagSet :=
  let a := t.decode x
  let b := t.decode y
  t.result env [a, b] (a.add (env.rnd == 3) b.negate) d

/-- `x * y` rounded (R122). -/
def FTy.fmul (t : FTy) (env : FEnv) (x y d : Nat) : Nat × FlagSet :=
  let a := t.decode x
  let b := t.decode y
  t.result env [a, b] (a.mul b) d

/-- `c + x * y`, or `c - x * y` when `sub`, with one rounding (R122); operand order x, y, c (R77). -/
def FTy.ffma (t : FTy) (env : FEnv) (sub : Bool) (x y c d : Nat) : Nat × FlagSet :=
  let a := t.decode x
  let b := t.decode y
  let z := t.decode c
  let p := a.mul b
  let pv := if sub then p.1.negate else p.1
  let s := z.add (env.rnd == 3) pv
  t.result env [a, b, z] (s.1, s.2 ||| p.2) d

/-- The order of two data that are not NaN, zeros equal: -1, 0 or 1. -/
def Num.cmp : Num → Num → Int
  | .nan .., _ => 0
  | _, .nan .. => 0
  | .inf a, .inf b => if a = b then 0 else if a then -1 else 1
  | .inf a, .fin .. => if a then -1 else 1
  | .fin .., .inf b => if b then 1 else -1
  | .fin na ma ea, .fin nb mb eb =>
    let e := min ea eb
    let x := onGrid na ma ea e
    let y := onGrid nb mb eb e
    if x < y then -1 else if y < x then 1 else 0

/-- Whether the second operand wins a maximum (R99): strictly greater, or +0 over -0. -/
def Num.beatsMax (a b : Num) : Bool :=
  decide (Num.cmp a b = -1) || (Num.cmp a b == 0 && a.isZero && b.isZero && a.neg && !b.neg)

/-- Whether the second operand wins a minimum (R99). -/
def Num.beatsMin (a b : Num) : Bool :=
  decide (Num.cmp a b = 1) || (Num.cmp a b == 0 && a.isZero && b.isZero && !a.neg && b.neg)

/-- Floating maximum or minimum of two patterns (R99). -/
def FTy.fminmax (t : FTy) (env : FEnv) (mx : Bool) (x y : Nat) : Nat × FlagSet :=
  let a := t.decode x
  let b := t.decode y
  match firstNan [a, b] with
  | some n => (t.nanOut env n, sigFlag [a, b])
  | none => (if (if mx then a.beatsMax b else a.beatsMin b) then y else x, 0)

/-- A floating compare (R123): the result and NV. Conditions 2 to 5 set NV on any NaN. -/
def fcmp (cond : Nat) (a b : Num) : Bool × FlagSet :=
  let un := a.isNan || b.isNan
  let sig := sigFlag [a, b]
  let c := Num.cmp a b
  match cond with
  | 0 => (!un && c == 0, sig)
  | 1 => (un || c != 0, sig)
  | 2 => (!un && c == -1, flagIf un flNV)
  | 3 => (!un && c != -1, flagIf un flNV)
  | 4 => (!un && c != 1, flagIf un flNV)
  | 5 => (!un && c == 1, flagIf un flNV)
  | 6 => (un, sig)
  | _ => (!un, sig)

/-- Floating point to integer (R83): the value rounded on a grid of spacing 1 and clamped. -/
def toInt (t : ITy) (rnd : Nat) (x : Num) (d : Nat) : Int × FlagSet :=
  match x with
  | .nan .. => (0, flNV)
  | .inf neg => (if neg then t.min else t.max, flNV)
  | .fin neg mag exp =>
    let up := exp.toNat
    let sh := (-exp).toNat
    let n0 := mag * 2 ^ up / 2 ^ sh
    let r := mag * 2 ^ up % 2 ^ sh
    let n : Int := if roundUp rnd neg (n0 % 2 == 1) r sh false d then n0 + 1 else n0
    let v := if neg then -n else n
    if t.out v then (t.sat v, flNV) else (v, flagIf (decide (r ≠ 0)) flNX)

/-- An integer as a datum. -/
def ofInt (v : Int) : Num := .fin (decide (v < 0)) v.natAbs 0

/-- A conversion between element types (R80 to R83): the pattern in the target's width, and the flags. Integer to integer
saturates when `isat`, else wraps. -/
def convert (env : FEnv) (isat : Bool) (sty dty : ElTy) (x d : Nat) : Nat × FlagSet :=
  match sty, dty with
  | .fl a, .fl b =>
    let n := a.decode x
    if n.isNan then (b.nanOut env n, flagIf (n.isSig || !b.hasNan) flNV) else b.round env n d
  | .fl a, .it b => let r := toInt b env.rnd (a.decode x) d; (b.pat r.1, r.2)
  | .it a, .fl b => b.round env (ofInt (a.read x)) d
  | .it a, .it b =>
    let v := a.read x
    (b.pat (if isat then b.sat v else b.wrap v), flagIf (b.out v) flOF)

/-- Whether a conversion draws from `SEED` under SR (R87): every one that rounds, and none between integers. -/
def convDraws (sty dty : ElTy) : Bool :=
  match sty, dty with
  | .it _, .it _ => false
  | _, _ => true

/-! ### Draws (R85 to R87) -/

/-- What an instruction accumulates over its elements: flags and `SEED`. -/
structure Draw where
  fl : FlagSet
  seed : BitVec 16
  deriving DecidableEq, Repr

/-- One step of the LFSR (R85). -/
def lfsr (x : BitVec 16) : BitVec 16 :=
  let fb := x.getLsbD 15 ^^ x.getLsbD 13 ^^ x.getLsbD 12 ^^ x.getLsbD 10
  (x <<< 1) ||| (if fb then 1 else 0)

/-- One rounding: `SEED` steps before it when the mode is SR (R86), and the flags are ORed. -/
def Draw.run (a : Draw) (draws : Bool) (rnd : Nat) (f : Nat → Nat × FlagSet) : Nat × Draw :=
  let s := if draws && rnd == 4 then lfsr a.seed else a.seed
  let r := f s.toNat
  (r.1, { fl := a.fl ||| r.2, seed := s })

/-! ### Block scales (R79, R88 to R91) -/

/-- The product of a datum with 2^k, exact. -/
def Num.scale (x : Num) (k : Int) : Num :=
  match x with
  | .fin n m e => .fin n m (e + k)
  | y => y

/-- The datum of an element times an E8M0 scale; 0xFF is NaN (R79, R90). -/
def scaled (x : Num) (code : Nat) : Num := if code = 255 then madeNan else x.scale ((code : Int) - 127)

/-- floor(log2) of a non-zero magnitude. -/
def Num.flog2 : Num → Int
  | .fin _ m e => e + Nat.log2 m
  | _ => 0

/-- The scale exponent of a block before its clamp (R88): `emax` and the largest finite magnitude `fmag` x 2^`fexp` of the element
type. -/
def scaleRaw (srule : Nat) (emax : Int) (fmag : Nat) (fexp : Int) (amax : Num) : Int :=
  match amax with
  | .fin _ m e =>
    let fl := e + Nat.log2 m
    if srule = 0 then fl - emax
    else
      let k := fl - (fexp + Nat.log2 fmag)
      let c (j : Int) : Bool := Num.cmp (.fin false m e) (.fin false fmag (fexp + j)) != 1
      if c (k - 1) then k - 1 else if c k then k else k + 1
  | _ => 127

/-- The clamp of a scale exponent (R88). -/
def scaleClamp (se : Int) : Int := max (-127) (min 127 se)

/-- emax of R88 for a floating type. -/
def FTy.emax (t : FTy) : Int :=
  match t.decode t.maxCode with
  | .fin _ m e => e + Nat.log2 m
  | _ => 0

/-- The largest finite magnitude of a type, as magnitude and exponent. -/
def FTy.fmax (t : FTy) : Nat × Int :=
  match t.decode t.maxCode with
  | .fin _ m e => (m, e)
  | _ => (1, 0)

/-- Weight `i` of a codebook index (R94): twice the weight, with its sign. -/
def cbWeight (entry : Word32) (idx i : Nat) : Num :=
  let h := idx % 2
  let mag := entry.toNat / 2 ^ (4 * i) % 16 + h
  let neg := if i < 7 then bitOf idx (i + 1) else popcount 7 (idx / 2) % 2 == 1
  if mag = 0 then .fin false 0 (-1) else .fin neg mag (-1)

/-! ### Matrix accumulation (R95, R96) -/

/-- The exact sum of data on one grid, zeros aside: the signed total, with NaN and infinity marks. -/
structure SumAcc where
  nan : Bool
  pinf : Bool
  ninf : Bool
  nv : Bool
  sum : Int
  exp : Int
  allNegZero : Bool
  deriving DecidableEq, Repr

/-- One exact term is added; a signalling NaN sets NV (R77). -/
def SumAcc.add (a : SumAcc) (x : Num) : SumAcc :=
  match x with
  | .nan _ _ _ sig => { a with nan := true, nv := a.nv || sig, allNegZero := false }
  | .inf true => { a with ninf := true, allNegZero := false }
  | .inf false => { a with pinf := true, allNegZero := false }
  | .fin n m e =>
    if m = 0 then { a with allNegZero := a.allNegZero && n }
    else
      let g := min a.exp e
      { a with sum := a.sum * ((2 ^ (a.exp - g).toNat : Nat) : Int) + onGrid n m e g, exp := g, allNegZero := false }

/-- The empty sum. -/
def SumAcc.zero : SumAcc :=
  { nan := false, pinf := false, ninf := false, nv := false, sum := 0, exp := 0, allNegZero := true }

/-- A product is added; 0 x infinity and a signalling NaN set NV (R77, R95). -/
def SumAcc.addMul (a : SumAcc) (x y : Num) : SumAcc :=
  let p := x.mul y
  let b := a.add p.1
  { b with nv := b.nv || p.2 == flNV || x.isSig || y.isSig }

/-- The datum of a sum: infinities of both signs are NaN and set NV; an exact zero is -0 only when every term was -0. -/
def SumAcc.num (a : SumAcc) (rd : Bool) : Num × FlagSet :=
  let clash := a.pinf && a.ninf
  let nv := flagIf (a.nv || clash) flNV
  if a.nan || clash then (madeNan, nv)
  else if a.pinf then (.inf false, nv)
  else if a.ninf then (.inf true, nv)
  else (ofGrid a.sum a.exp (a.allNegZero || rd), nv)

/-- The flags that matrix accumulation sets: NV and OF only (R95). -/
def accFlags (f : FlagSet) : FlagSet := f &&& (flNV ||| flOF)

end Sys2Proof.Machine
end

