-- ==== Sys2Proof/Machine/State.lean ====
section
/-! DEFINITION. The state of the whole package as plain data, what a step can end in, and the state after a cold
reset (R407). Every table is a `Sparse`: an unlisted key reads as the default named beside the field. -/

namespace Sys2Proof.Machine

/-- Context states, in the code order of R247. -/
inductive CtxState where
  | empty | ready | running | blocked | sleeping | trap1 | trap2 | mewsIn | mewsOut | halted | killed | retired
  deriving DecidableEq, Repr

/-- Register files that carry full/empty state, in the code order of R33 (codes 0 to 4). -/
inductive RegFile where
  | s | a | p | v | vm
  deriving DecidableEq, Repr

/-- A pending register writeback (R36): the youngest entry of a register is the last in the list. -/
structure Pending where
  file : RegFile
  reg : Nat
  val : VReg
  deriving DecidableEq, Repr

/-- A held op: its slot word and its extension word, zero when it has none (R59, R258). -/
structure HeldOp where
  word : Word32
  ext : Word32
  deriving DecidableEq, Repr

/-- The held ops of the four slots that can hold one (R59). -/
structure Held where
  l : Option HeldOp
  v : Option HeldOp
  m : Option HeldOp
  x : Option HeldOp
  deriving DecidableEq, Repr

/-- A stride record of R106 as loop state holds it: bytes 0..7, and STRIDE0-7. -/
structure StrideRec where
  head : Word64
  strides : List Word32
  deriving DecidableEq, Repr

/-- Loop state (R67) and the loop buffer (R66): `levels` and `body` are the numbers minus 1, `first` is the address of
the first body bundle, `pos` the position in the body, and `buf` maps a position to the words of its bundle. -/
structure Nest where
  active : Bool
  levels : Nat
  body : Nat
  first : Word64
  pos : Nat
  trip : List Word32
  recs : List StrideRec
  buf : Sparse (List Word32)
  deriving DecidableEq, Repr

/-- The snapshot copy (R256, R258); `fmtPend` lists the pending `FMT` values with their counts FREM, and `pends` and
`pendo` are the PENDS and PENDO words. -/
structure Snap where
  ctxid : Nat
  level : Nat
  repn : Nat
  held : Held
  fmtCur : Word64
  fmtPend : List (Nat × Word64)
  pends : Word64
  pendo : Word64
  nest : Nest
  deriving DecidableEq, Repr

/-- A trap that has been raised: its cause, its EVA and EINFO (R260), whether `SNAPST` raised it (R259), and its return
point in the layout of R258. -/
structure TrapInfo where
  code : Nat
  eva : Word64
  einfo : Word64
  snapst : Bool
  ret : Word64
  pends : Word64
  pendo : Word64
  repn : Nat
  deriving DecidableEq, Repr

/-- A lock slot (R134). -/
structure LockSlot where
  core : Nat
  idx : Nat
  count : Nat
  deriving DecidableEq, Repr

/-- What stands after a bundle's issue before the context can go on: nothing, a fence (its scope and the number of the
first engine job it does not cover, R216), a block's end (R328), a trap entry (R257), a host-mode step stop (R268), the write
of a `SNAPST` to its save area, the read of a `SNAPLD` (R273). -/
inductive After where
  | none
  | fence (scope bound : Nat)
  | haltb
  | trapEntry (t : TrapInfo)
  | step
  | snapst (area : Word64)
  | snapld
  deriving DecidableEq, Repr

/-- A step stop that waits for a fence or a sleep to end (R218, R268): its information, its promise, and whether it goes to
the host. -/
structure Owed where
  info : Word64
  promise : Word64
  host : Bool
  deriving DecidableEq, Repr

/-- The claim of a waiter on a barrier (R293): the barrier's physical address, the promise of a `BWAITP`, whether a
completion has released it, and whether a `BINIT` has made it try again. -/
structure Claim where
  addr : Nat
  promise : Option Nat
  woken : Bool
  retry : Bool
  deriving DecidableEq, Repr

/-- A range entry of a trace record (R338). -/
structure TraceRange where
  seg : Nat
  first : Nat
  count : Nat
  deriving DecidableEq, Repr

/-- The trace record being formed for a block (R338, R339). -/
structure TraceRec where
  entries : List TraceRange
  untrk : Bool
  ovf : Bool
  deriving DecidableEq, Repr

/-- Where a `PGALLOC.host` or an `XMIGR` of a context stands (R239, R243): `asked` holds the tag of the request (0 for an
`XMIGR`), `done` the status of the page, or the REASON
of a refused migration, 0 when it was accepted. -/
inductive Grant where
  | none
  | asked (tag : Nat)
  | done (st : Nat)
  | refused
  deriving DecidableEq, Repr

/-- The fault that a context has raised, for its own stop record (R263, R264): TCAUSE, DETAIL, DADDR and the faulting bundle. -/
structure FaultInfo where
  tcause : Nat
  detail : Word64
  daddr : Word64
  pc : Word64
  deriving DecidableEq, Repr

/-- A context: registers, control registers, hold, loop and trap state (R33, R41, R247, R256), as resident and as spilled.
`triedS` and `triedO` are PENDS and PENDO when the last bundle that issued was tried, and `lastPoint` that bundle (R257, R263);
`waitSrc` is the source, by file code and number, for which reason 1 stands (R248); `spared` says that the watchdog limit passed
under reason 11 or 14 (R265). -/
structure Context where
  st : CtxState
  reason : Nat
  after : After
  owed : Option Owed
  pc : Word64
  rep : Nat
  s : Sparse Word64
  a : Sparse Word64
  p : Sparse Bool
  v : Sparse VReg
  vm : Sparse VMask
  lc : Sparse Word32
  pend : List Pending
  fmt : Word64
  fmtPend : List (Nat × Word64)
  flags : BitVec 5
  seed : BitVec 16
  merr : Word64
  tlevel : Nat
  mask : Bool
  snapv : Bool
  l2snap : Bool
  snap : Snap
  tvec : Word64
  cause1 : Byte
  cause2 : Byte
  epc1 : Word64
  epc2 : Word64
  eva1 : Word64
  eva2 : Word64
  einfo1 : Word64
  einfo2 : Word64
  blockid : Word64
  lidx : List Word32
  kdesc : Word64
  param : Word64
  slotid : Nat
  stepctl : Word64
  held : Held
  nest : Nest
  locks : List LockSlot
  iseq : BitVec 8
  out : Nat
  loss : Nat
  firstLost : Nat
  sleepTo : Nat
  claim : Option Claim
  lockWait : Option (Nat × Nat)
  grant : Grant
  mgrant : Grant
  blockedAt : Nat
  constBuf : List Byte
  launch : Option Nat
  trec : Option TraceRec
  brSrc : Word64
  triedS : Word64
  triedO : Word64
  lastPoint : Word64
  waitSrc : Option (Nat × Nat)
  spared : Bool
  fault : Option FaultInfo
  deriving DecidableEq, Repr

/-- One bit of the 4,096 lock bits of a scratchpad (R133): clear, held by a context (CTXID), or granted to a waiter that
has not yet issued its `LDL` again (R135). -/
inductive LockBit where
  | clear
  | held (ctx : Nat)
  | granted (ctx : Nat)
  deriving DecidableEq, Repr

/-- An accumulator tile (R177): lanes keyed by 64 x row + column, IMODE, and whether it waits for a Mews fill (R254). -/
structure Tile where
  lanes : Sparse Word32
  imode : Bool
  unfilled : Bool
  deriving DecidableEq, Repr

/-- The footprint of an engine job (R206): byte ranges read and written, half open, in canonical addresses. -/
structure Foot where
  rd : List (Int × Int)
  wr : List (Int × Int)
  deriving DecidableEq, Repr

/-- A matrix operation in the command queue or saved with a spilled context (R179, R187, R192): its M-slot opcode, the
issuing context, launch and bundle, its tile, its operand addresses as read at issue, W, FMT, token, rectangle, INT, the
SEED before its draws, the number of the first wave not performed, whether it has begun, and its issue number. -/
structure MEntry where
  opc : Nat
  ctx : Nat
  launch : Nat
  job : Nat
  bundle : Word64
  tile : Nat
  owned : Bool
  pa : Nat
  pb : Word64
  sa : Nat
  sb : Nat
  waves : Nat
  fmt : Word64
  token : Nat
  row0 : Nat
  nr : Nat
  col0 : Nat
  nc : Nat
  int : Bool
  seed : BitVec 16
  wave : Nat
  begun : Bool
  num : Nat
  foot : Foot
  deriving DecidableEq, Repr

/-- A copy descriptor as read (R299), with the `.sofs` and `.dofs` offsets added. -/
structure Box where
  src : Word64
  dst : Word64
  bar : Word64
  ctr : Word64
  cval : Word64
  ndim : Nat
  esz : Nat
  bound : Bool
  fill : Word32
  ext : List Nat
  orig : List Int
  tdim : List Nat
  sstr : List Int
  dstr : List Int
  deriving DecidableEq, Repr

/-- The engine jobs of the copy engine's time buffer (R206). -/
inductive JobKind where
  | copy | fill | rcopy | remw | cadd | mcast
  deriving DecidableEq, Repr

/-- A job of a copy engine (R303, R314, R373 to R376). `num` is the package-wide issue number, `data` holds the bytes of an
`XREMW` and the addend of an `XCADD`, `done` the elements (or runs, or members) performed, `snap` the source bytes of an
overlapping job (R305), `bound` whether its BUSY counts are taken (R232), `slotted` whether its path is (R302), and `start` the cycle in which it
began. -/
structure CopyJob where
  num : Nat
  kind : JobKind
  ctx : Nat
  launch : Nat
  job : Nat
  part : Nat
  bundle : Word64
  box : Box
  inv : Bool
  first : Nat
  cycles : List (Nat × Nat)
  promise : Nat
  data : List Byte
  vc : Nat
  conf : Bool
  noexp : Bool
  group : Nat
  members : List Nat
  segs : List Nat
  bound : Bool
  slotted : Bool
  start : Nat
  began : Bool
  done : List Nat
  snap : Option (List Byte)
  handed : Bool
  dead : Bool
  lost : Bool
  foot : Foot
  deriving DecidableEq, Repr

/-- What the Mews bank of a core is doing (R253, R404). -/
inductive MewsPhase where
  | idle
  | preloading
  | loaded
  | spilling
  deriving DecidableEq, Repr

/-- The context that a pre-emption brings in: a new block of a launch, or a saved context (R252). -/
inductive Incoming where
  | block (launch blk : Nat)
  | saved (id : Nat)
  deriving DecidableEq, Repr

/-- The Mews bank (R252, R253): outgoing slot, incoming context, and the contents that tiles waiting for their fill take
(R254). -/
structure Mews where
  phase : MewsPhase
  slot : Nat
  inc : Option Incoming
  fill : Sparse Tile
  deriving DecidableEq, Repr

/-- One core (R13, R39, R179, R199, R250, R302). The holder's quantum (R251) runs from cycle `quantum` at the cluster's present
frequency, after `qused` cycles x MHz at earlier ones. -/
structure Core where
  ctxs : Sparse Context
  holder : Option Nat
  lastHolder : Nat
  quantum : Nat
  qused : Nat
  locks : Sparse LockBit
  tiles : Sparse Tile
  codebook : Sparse Word32
  mq : List MEntry
  savedOps : List MEntry
  waveTot : Nat
  errTot : Nat
  corrTot : Nat
  hist : Sparse Nat
  jobs : List CopyJob
  cal : List (Nat × Nat)
  mews : Mews
  deriving DecidableEq, Repr

/-- A context that is not resident (R253): its core and slot, its spilled tiles, its matrix operations (R187), whether its
spill is complete, the state that it takes in its slot, and whether it is a new block that is being preloaded. -/
structure Saved where
  id : Nat
  core : Nat
  slot : Nat
  ctx : Context
  tiles : Sparse Tile
  ops : List MEntry
  spilled : Bool
  prevSt : CtxState
  fresh : Bool
  deriving DecidableEq, Repr

/-- Segment states (R228). -/
inductive SegState where
  | free | zeroing | bound | migrating | draining | revoked
  deriving DecidableEq, Repr

/-- A segment table entry (R224, R225). -/
structure Seg where
  tier : Bool
  vbase : Nat
  len : Nat
  pbase : Nat
  busy : Nat
  st : SegState
  r : Bool
  w : Bool
  a : Bool
  x : Bool
  inv : Bool
  conf : Bool
  dz : Bool
  mig : Bool
  trk : Bool
  planes : Nat
  deriving DecidableEq, Repr

/-- A job on this chip (R223, R242, R357): the route table header and the migration reserve. -/
structure Job where
  present : Bool
  own : Nat
  rglog2 : Nat
  keyid : Nat
  segBase : Nat
  rsvBase : Nat
  rsvSize : Nat
  deriving DecidableEq, Repr

/-- An unanswered page request or a fill waiting for a page (R233, R240). `ctx` is 0xFFFF for an engine or a port; `port` says
whether a port's arrival waits for it. -/
structure FillReq where
  job : Nat
  seg : Nat
  page : Nat
  ctx : Nat
  tag : Option Nat
  since : Nat
  port : Bool
  deriving DecidableEq, Repr

/-- A migration in progress (R243): `dst` is the new physical base, `core` the issuing core of a short counter address. -/
structure Migration where
  job : Nat
  seg : Nat
  dst : Nat
  ctr : Word64
  deadline : Word64
  core : Nat
  part : Nat
  copied : Bool
  deriving DecidableEq, Repr

/-- A partition (R28, R244, R265, R297). -/
structure Partition where
  cores : List Nat
  slotid : Nat
  watchdog : Word32
  slip : Word32
  ready : Bool
  deriving DecidableEq, Repr

/-- Queue states, in the code order of R278. -/
inductive QState where
  | disabled | idle | ready | running | blocked | faulted | draining
  deriving DecidableEq, Repr

/-- A loop level of a kernel descriptor (R319). -/
structure Level where
  kind : Nat
  trip : Nat
  deriving DecidableEq, Repr

/-- A kernel descriptor as read at dispatch (R318). -/
structure KDesc where
  codebase : Word64
  entry : Nat
  tvofs : Nat
  parambase : Word64
  plen : Nat
  mode : Nat
  cpc : Nat
  tpc : Nat
  prio : Nat
  part : Nat
  slotid : Nat
  spb : Nat
  quota : Nat
  step : Bool
  relaunchable : Bool
  traced : Bool
  tracebase : Word64
  tracesize : Nat
  plane : Nat
  ltbase : Word64
  levels : List Level
  mctab : Word64
  zeros : Bool
  deriving DecidableEq, Repr

/-- A launch packet (R279). -/
structure Packet where
  type : Nat
  flags : Nat
  nwait : Nat
  kdesc : Word64
  param : Word64
  cctr : Word64
  caddv : Word64
  wctr0 : Word64
  wval0 : Word64
  wctr1 : Word64
  wval1 : Word64
  zeros : Bool
  deriving DecidableEq, Repr

/-- A host queue and its BAR0 registers (R277, R278, R284). `evtWr` is the index of the next event record to write,
`stopWr` the write position of the stop area, `waiting` the records that wait for room, with the MSI-X they carry, `pkt` the
packet at the head, `launch` the launch in progress or halted, and `readyAt` the cycle (plus 1) since which its head packet has lacked room (R285). -/
structure Queue where
  tail : Word32
  base : Word64
  ctl : Word64
  st : QState
  head : Word32
  evt : Word64
  evtHd : Word64
  stop : Word64
  evtWr : Nat
  stopWr : Nat
  waiting : List (List Byte × Bool)
  pkt : Option Packet
  launch : Option Nat
  readyAt : Nat
  deriving DecidableEq, Repr

/-- The halt line of a launch once raised (R261, R262): the unit that raised it, its cause, and the detail and address of a
port's record, the units that have yet to stop, those that have, and the records produced. -/
structure Halt where
  unit : UnitId
  cause : Nat
  detail : Word64
  daddr : Word64
  waiting : List UnitId
  done : List UnitId
  nstop : Nat
  fstop : Nat
  posted : Bool
  killed : Bool
  deriving DecidableEq, Repr

/-- A launch in progress (R320 to R344). `next` is the next BLOCKID to load, per home set (R324), with
`extra` those loaded ahead of it, `todo` what remains to be loaded of the rerun set of a round, `loaded` and `retired` count blocks, `left` is what remains of the reservation (R330). -/
structure Launch where
  id : Nat
  queue : Nat
  index : Nat
  job : Nat
  part : Nat
  prio : Nat
  kd : KDesc
  pkt : Packet
  paramAddr : Word64
  nblk : Nat
  todo : Option (List Nat)
  next : Sparse Nat
  extra : List Nat
  loaded : Nat
  retired : Nat
  left : List Nat
  entry : Option Nat
  parent : Option Nat
  mc : Sparse (List Nat)
  halt : Option Halt
  lost : Bool
  relaunch : Bool
  deriving DecidableEq, Repr

/-- Who holds an entry of the pending-launch pool (R330, R332, R334): free, reserved by a launch, waiting as a child,
dispatched, or ended with its join status (R336). -/
inductive PoolState where
  | free
  | reserved (launch : Nat)
  | waiting (pkt : Packet) (parent prio since job part queue index : Nat)
  | running (parent launch : Nat)
  | ended (parent : Nat) (status : Word64)
  deriving DecidableEq, Repr

/-- One entry of the pending-launch pool: SER and its state. -/
structure PoolEntry where
  ser : BitVec 16
  st : PoolState
  deriving DecidableEq, Repr

/-- A ring descriptor as read (R307). -/
structure Ring where
  geom : Box
  rbase : Nat
  barbase : Nat
  slotsz : Nat
  nslot : Nat
  storer : Bool
  grid : List Nat
  deriving DecidableEq, Repr

/-- A quay subscription (R308 to R312): `cursor` is the consumer cursor c, `next` the next tile not started, `prog` the
tile in progress with its elements performed, `tnums` the issue number plus 1 of the op that let each live tile start. -/
structure Sub where
  serial : Nat
  ring : Ring
  core : Nat
  ctx : Nat
  launch : Nat
  job : Nat
  part : Nat
  inv : Bool
  bundle : Word64
  num : Nat
  segs : List Nat
  bound : Bool
  cursor : Nat
  next : Nat
  prog : Option (Nat × Nat)
  tnums : Sparse Nat
  closing : Bool
  ctr : Word64
  blk : Word64
  deriving DecidableEq, Repr

/-- A quay (R15, R308) with its open subscriptions, keyed by INDEX, and the ring that it served last (R286). -/
structure Quay where
  rr : Nat
  subs : Sparse (Option Sub)
  deriving DecidableEq, Repr

/-- Port states, in the code order of R352. -/
inductive PortState where
  | off | train | up16 | up12 | up8 | up4 | drain | fenced | down
  deriving DecidableEq, Repr

/-- A flit in a replay buffer (R355): the triple's target (2,048 and more for the tree traffic of a port, R380), the operation's
context, launch, partition, job, logical target and issue number (for R298, R364), whether it has been sent since it was last
queued for sending, and whether its operation is counted lost. -/
structure Sent where
  chip : Nat
  flit : Flit
  ctx : Nat
  launch : Nat
  part : Nat
  job : Nat
  lchip : Nat
  op : Nat
  sent : Bool
  lost : Bool
  deriving DecidableEq, Repr

/-- A Wilaro port (R349 to R355, R360). `lit` is the set of laser groups with light, `used` the credit used per
(destination port x 8 + VC), `want` the state requested of a drain, `dark` a restripe in progress and `detect` its DETCYC,
`since` the cycle of the last state change and `upEnd` that of leaving the UP states, `crc` the CRC failures that R353 counts and
`crcTot` all of them (R351), `units` the 16-byte units sent since the mask was last set (R349), and `held` the arrivals that wait,
in order (R360, R361). Keys 16 to 23 are the Ethernet ports (R371), which use `buf`, `held` and `paused` alone. -/
structure Port where
  st : PortState
  mask : BitVec 16
  lit : BitVec 4
  buf : List Sent
  used : Sparse Nat
  rr : Nat
  want : PortState
  dark : Bool
  detect : Nat
  since : Nat
  upEnd : Nat
  crc : List Nat
  crcTot : Nat
  units : Nat
  held : List Flit
  paused : List Nat
  deriving DecidableEq, Repr

/-- The sending side of a triple (R355, R356, R359, R367): its extended sequence, whose low 16 bits are the next SEQ, the
pinned port plus 1 (0 for none), whether its route entry has changed since (R359), and the cycles of the last acknowledgement
progress and of the last replay or progress. Keyed by (chip x 8 + VC) x 256 + epoch. -/
structure Triple where
  ext : Nat
  path : Nat
  stale : Bool
  progress : Nat
  replayAt : Nat
  deriving DecidableEq, Repr

/-- The receiving window of a (source chip, VC) and route epoch (R361 to R363), keyed as a triple: its extended sequence,
whose low 16 bits are the expected SEQ, accepted flits not yet acknowledged, the cycle of the oldest of them and the port that
took the last, and whether the current operation is rejected. -/
structure Window where
  ext : Nat
  unacked : Nat
  since : Nat
  port : Nat
  rejected : Bool
  deriving DecidableEq, Repr

/-- Group states, in the code order of R381. -/
inductive GState where
  | unbound | creating | active | agreeing | quiesced | destroyed
  deriving DecidableEq, Repr

/-- A group entry (R381); `used` is false for an unused entry. -/
structure Group where
  used : Bool
  tree : Nat
  st : GState
  vc : Nat
  prio : Nat
  version : Word32
  nmem : Nat
  port : Nat
  stale : Bool
  chunk : Nat
  ranks : List Nat
  memb : List Nat
  joinp : List Nat
  leavep : List Nat
  agreed : Word32
  evicted : List Nat
  deriving DecidableEq, Repr

/-- A collective record as read (R390). -/
structure CollRec where
  op : Nat
  rop : Nat
  ety : Nat
  nlev : Nat
  pid : Nat
  chunk : Nat
  pn : Nat
  pbase : Nat
  pb : Int
  pc : Int
  src : Word64
  dst : Word64
  ctr : Word64
  sctr : Word64
  pstr : Int
  bounds : List Nat
  sstr : List Int
  dstr : List Int
  pa : List Int
  zeros : Bool
  deriving DecidableEq, Repr

/-- What a group queue holds (R396). -/
inductive RecKind where
  | coll (r : CollRec) (inst : Nat)
  | join (res : Word64)
  | agree (res : Word64) (val : Word32)
  deriving DecidableEq, Repr

/-- A record of a group queue (R387, R396, R402): `chunk` is the next chunk to send, `version` the version it started under,
`owed` the adds to its CTR that the switch still has to make (R394), `bound` whether its addresses have been translated and its
BUSY counts taken (R231, R232), and `aborted` whether its instance was aborted after it had started (R400). -/
structure GRec where
  num : Nat
  job : Nat
  group : Nat
  kind : RecKind
  ctx : Nat
  launch : Nat
  part : Nat
  core : Nat
  bundle : Word64
  started : Bool
  version : Word32
  chunk : Nat
  segs : List Nat
  bound : Bool
  owed : Nat
  aborted : Bool
  foot : Foot
  deriving DecidableEq, Repr

/-- A collective engine (R396): its group queues in one list in queue order, the records that are sent and not yet
complete, the instances appended and the instances with their complete notice per (job, group, PID), and the group last
served per priority; `cur` is the record whose chunk is being sent and `sentB` the bytes of it sent, and `caught` the record and
the chunk in which a halt line found the engine (R399). -/
structure CollEngine where
  queue : List GRec
  flying : List GRec
  count : Sparse Nat
  complete : Sparse Nat
  lastServed : Sparse Nat
  cur : Option Nat
  sentB : Nat
  caught : Option (Nat × Nat)
  deriving DecidableEq, Repr

/-- Sorric's own state (R20, R23 to R29, R406 to R413): island voltages in steps of 5 mV from those at reset, frequencies,
the cycle (plus 1) at which a cluster's relock pause began, gating, caps, function modes, firmware banks, sensors, the waves per
cluster and bin that engines counted before they were reset and the errors counted per sensor (R411), the units held in reset, and the last
command's status. `asked` holds the mode changes that wait for their function's next idle point (R410), `aged` the cycle (plus 1) of a
cluster's last ageing step (R412), and `lagging` the collective engines that have still to finish, under the other bank, the chunk in
which a switch of their microcode found them (R413). -/
structure Sorric where
  freq : Sparse Nat
  relock : Sparse Nat
  volt : Sparse Int
  gated : List Nat
  cap : Nat
  phys : Nat
  modes : List Nat
  asked : List (Nat × Bool)
  session : Bool
  active : Sparse Nat
  image : Sparse Bool
  swapped : List Nat
  lagging : List Nat
  aged : Sparse Nat
  sensors : Sparse Nat
  waves : Sparse Nat
  eccs : Sparse Nat
  log : List (List Byte)
  proposals : List Nat
  inReset : List UnitId
  status : Nat
  deriving DecidableEq, Repr

/-- A pre-emption request (R252, R285); a host's may wait with its incoming context not yet chosen. -/
structure PreReq where
  core : Nat
  slot : Nat
  inc : Option Incoming
  host : Bool
  deriving DecidableEq, Repr

/-- The model's own: an event that comes next, and the cycles that pass before it. Log entry 2. -/
structure Tick where
  dt : Nat
  ev : Instr
  deriving DecidableEq, Repr

/-- The bundle being issued: the address of the bundle that follows it, its REP, LBE and words, the scope of its fence
(R215), a trap to raise after its issue (R58), a transfer's target and repetition, whether that is an `ERET`'s, whether the
nest is left (R109), the nest that `LOOPN` enters, whether a step stop follows (R268) and its information (R269), and
whether it yields. The model's own; it is written at each issue. -/
structure Latch where
  next : Word64
  repn : Nat
  lbe : Bool
  words : List Word32
  fence : Option Nat
  post : Option (Nat × Word64)
  target : Option Word64
  tgtRep : Nat
  eret : Bool
  exitNest : Bool
  enter : Nest
  step : Bool
  stepHost : Bool
  info : Word64
  promise : Word64
  yielded : Bool
  deriving DecidableEq, Repr

/-- A write of an X op to a barrier (R287, R288): the barrier of a ring slot as `XSUB` leaves it (R308), the expectation of a
copy, which traps with these words when it overflows (R289), an expectation that then sets OVF, and an update. -/
inductive BarOp where
  | init (pa n : Nat)
  | post (pa : Nat) (dp : Int) (eva einfo : Word64)
  | expect (pa : Nat) (dp : Int)
  | update (pa : Nat) (dp : Int) (da : Nat)
  deriving DecidableEq, Repr

/-- The memory writes of one op of a `FENCE` bundle that wait for the fence (R216): an L op, with its context as it stood at the
issue, or the barrier writes of an X op. -/
structure Deferred where
  ctx : Nat
  op : Option Instr
  pre : Context
  bars : List BarOp
  deriving DecidableEq, Repr

/-- What the host has posted that is held back (R220, R230, R280): a write to device memory and a `QTAIL` write behind it. -/
inductive HostOp where
  | write (job : Nat) (addr : Word64) (data : List Byte)
  | tail (q : Nat) (v : Word32)
  deriving DecidableEq, Repr

/-- An engine's add to a counter whose demand-zero page is still to be filled (R233): its job, the core of a short address, the
counter and the value. -/
structure OwedAdd where
  job : Nat
  core : Nat
  ctr : Word64
  val : Nat
  deriving DecidableEq, Repr

/-- The queue pair that the host configures through Sorric for a (route entry, VC) over Ethernet (R371): the packet sequence
numbers at which it starts to send and to receive. -/
structure Qp where
  psn : Nat
  rpsn : Nat
  deriving DecidableEq, Repr

/-- An RDMA WRITE of the RoCE v2 subset (R371): the queue pair as (job, logical chip, VC), its packet sequence number, the
immediate that names a counter's slot, the address and the payload. -/
structure Rdma where
  job : Nat
  lchip : Nat
  vc : Nat
  psn : Nat
  imm : Option Nat
  addr : Nat
  payload : List Byte
  deriving DecidableEq, Repr

/-- What leaves on a port: a flit, with its 16-byte units each on its wavelength (R349), or the message that carries it over
Ethernet (R371). -/
structure Wire where
  port : Nat
  flit : Flit
  lanes : List (Nat × List Byte)
  rdma : Option Rdma
  deriving DecidableEq, Repr

/-- A single-bit error that the check bits correct (R183): in an 8-byte word of memory, a lane of a core's tile, or an entry of
a core's codebook RAM. -/
inductive SoftErr where
  | word (n : Nat)
  | lane (core tile n : Nat)
  | entry (core m : Nat)
  deriving DecidableEq, Repr

/-- The whole package. `ctrSlots` is this chip's counter table (slot, job, address) and `peerSlots` those of its peers (chip, slot,
job, address), as set through Sorric (R371); `extBase` holds the extended sequence at which a job's key was installed, per triple
and direction (R367); `noCredit` the (tree, PID, instance) for which some switch of the tree has no buffer free, so that its credit is
out (R398); `commits` the commits, by job and group, whose result records wait for their pages (R233, R385); `soft` the correctable errors of storage, beside `eccWords`, `eccLanes` and `eccCb`. -/
structure State where
  cyc : Word64
  mem : List Host.Cell
  cores : Sparse Core
  saved : List Saved
  segs : Sparse Seg
  jobs : Sparse Job
  routes : Sparse Word64
  keys : Sparse (Option (BitVec 256))
  dzPool : List Nat
  fills : List FillReq
  fillFail : List (Nat × Nat × Nat)
  migs : List Migration
  owedAdds : List OwedAdd
  hostHeld : List HostOp
  slotMasks : Sparse Word64
  parts : Sparse (Option Partition)
  queues : Sparse Queue
  segStat : Nat
  preStat : Nat
  rsvBase : Word64
  rsvSize : Word64
  preDelay : Word64
  launches : List Launch
  pool : Sparse PoolEntry
  planeOwner : Sparse (Option (Nat × Nat))
  msix : List Nat
  preReqs : List PreReq
  lastDisp : Sparse Nat
  quays : Sparse Quay
  ports : Sparse Port
  triples : Sparse Triple
  windows : Sparse Window
  qps : Sparse (Option Qp)
  qpErr : List (Nat × Nat × Nat)
  ctrSlots : List (Nat × Nat × Nat)
  peerSlots : List (Nat × Nat × Nat × Nat)
  extBase : Sparse Nat
  groups : Sparse Group
  coll : Sparse CollEngine
  noCredit : List (Nat × Nat × Nat)
  commits : List (Nat × Nat × CommitMsg)
  sorric : Sorric
  eccWords : List Nat
  soft : List SoftErr
  eccLanes : List (Nat × Nat × Nat)
  eccCb : List (Nat × Nat)
  agenda : List Tick
  free : Nat
  num : Nat
  cur : Nat
  latch : Latch
  deferred : List Deferred
  wireOut : List Wire
  deriving DecidableEq, Repr

/-- Why the machine stops with a fault. The C9 answers every event of the manual with a next state (a fault of R260 is a
halt of the launch, not of the package), so the one reason here is an event that names a unit the package lacks. -/
inductive Fault where
  /-- Raised by `withUnit` (Machine/Ops.lean) for an event whose core, quay, port, queue, partition, cluster or engine number
  is beyond the package's (R13, R15, R16, R28, R277): no such event exists. Safe: the model stops. -/
  | noSuchUnit (n : Nat)
  deriving DecidableEq, Repr

/-- Why a step has no meaning. -/
inductive Refusal where
  /-- Raised by `exec` for an instruction that has no meaning yet. Safe: the model stops. -/
  | notModelled (mnemonic : String)
  deriving DecidableEq, Repr

/-- No held op. -/
def Held.none : Held := { l := .none, v := .none, m := .none, x := .none }

/-- No nest. -/
def Nest.none : Nest :=
  { active := false, levels := 0, body := 0, first := 0, pos := 0, trip := [], recs := [], buf := [] }

/-- A snapshot copy that holds nothing. -/
def Snap.zero : Snap :=
  { ctxid := 0, level := 0, repn := 0, held := .none, fmtCur := 0, fmtPend := [], pends := 0, pendo := 0, nest := .none }

/-- A context with no block (R34, R407): every register zero and full. `SEED` is 1 (log entry 3). -/
def Context.empty : Context :=
  { st := .empty, reason := 0, after := .none, owed := .none, pc := 0, rep := 0, s := [], a := [], p := [], v := [], vm := [], lc := [],
    pend := [], fmt := 0, fmtPend := [], flags := 0, seed := 1, merr := 0, tlevel := 0, mask := false, snapv := false,
    l2snap := false, snap := .zero, tvec := 0, cause1 := 0, cause2 := 0, epc1 := 0, epc2 := 0, eva1 := 0, eva2 := 0,
    einfo1 := 0, einfo2 := 0, blockid := 0, lidx := [], kdesc := 0, param := 0, slotid := 0, stepctl := 0,
    held := .none, nest := .none, locks := [], iseq := 0, out := 0, loss := 0, firstLost := 0, sleepTo := 0,
    claim := .none, lockWait := .none, grant := .none, mgrant := .none, blockedAt := 0, constBuf := [], launch := .none, trec := .none, brSrc := 0,
    triedS := 0, triedO := 0, lastPoint := 0, waitSrc := .none, spared := false, fault := .none }

/-- A tile of zeros (R34). -/
def Tile.zero : Tile := { lanes := [], imode := false, unfilled := false }

/-- An idle Mews bank. -/
def Mews.idle : Mews := { phase := .idle, slot := 0, inc := .none, fill := [] }

/-- A core after a reset (R407); the Roundabout starts its search at slot 0 (log entry 3). -/
def Core.cold : Core :=
  { ctxs := [], holder := .none, lastHolder := 3, quantum := 0, qused := 0, locks := [], tiles := [],
    codebook := [], mq := [], savedOps := [], waveTot := 0, errTot := 0, corrTot := 0, hist := [], jobs := [], cal := [],
    mews := .idle }

/-- A FREE segment entry. -/
def Seg.free : Seg :=
  { tier := false, vbase := 0, len := 0, pbase := 0, busy := 0, st := .free, r := false, w := false, a := false,
    x := false, inv := false, conf := false, dz := false, mig := false, trk := false, planes := 0 }

/-- A job that the chip does not hold. -/
def Job.none : Job :=
  { present := false, own := 0, rglog2 := 0, keyid := 0, segBase := 0, rsvBase := 0, rsvSize := 0 }

/-- A queue after reset (R277). -/
def Queue.cold : Queue :=
  { tail := 0, base := 0, ctl := 0, st := .disabled, head := 0, evt := 0, evtHd := 0, stop := 0, evtWr := 0,
    stopWr := 0, waiting := [], pkt := .none, launch := .none, readyAt := 0 }

/-- A free entry of the pending-launch pool; SER starts at 0 (log entry 3). -/
def PoolEntry.free : PoolEntry := { ser := 0, st := .free }

/-- A quay with no subscription. -/
def Quay.cold : Quay := { rr := 63, subs := [] }

/-- A port after reset: OFF (log entry 3). -/
def Port.cold : Port :=
  { st := .off, mask := 0, lit := 0, buf := [], used := [], rr := 0, want := .off, dark := false, detect := 0,
    since := 0, upEnd := 0, crc := [], crcTot := 0, units := 0, held := [], paused := [] }

/-- The sending side of a triple after reset (R356). -/
def Triple.cold : Triple := { ext := 0, path := 0, stale := false, progress := 0, replayAt := 0 }

/-- A receiving window after reset (R361). -/
def Window.cold : Window := { ext := 0, unacked := 0, since := 0, port := 0, rejected := false }

/-- An unused group entry, at the Reset column of R381. -/
def Group.unused : Group :=
  { used := false, tree := 0, st := .unbound, vc := 0, prio := 0, version := 0, nmem := 0, port := 0, stale := false,
    chunk := 65536, ranks := List.replicate 8 0xFFFF, memb := [], joinp := [], leavep := [], agreed := 0,
    evicted := [] }

/-- A collective engine after reset. -/
def CollEngine.cold : CollEngine :=
  { queue := [], flying := [], count := [], complete := [], lastServed := [], cur := .none, sentB := 0, caught := .none }

/-- Sorric after a cold reset (R23, R25, R27, R410, R413): a cap of 2,800 W, every function at its default mode (tree
creation, function 3, is the host-assisted one), every cluster gated. Frequencies read as 2,000 MHz (log entry 3). -/
def Sorric.cold : Sorric :=
  { freq := [], relock := [], volt := [], gated := [0, 1, 2, 3, 4, 5, 6, 7], cap := 2800, phys := 0, modes := [3], asked := [], session := false,
    active := [], image := [], swapped := [], lagging := [], aged := [], sensors := [], waves := [], eccs := [], log := [], proposals := [], inReset := [],
    status := 0 }

/-- The issue latch before any issue. -/
def Latch.none : Latch :=
  { next := 0, repn := 0, lbe := false, words := [], fence := .none, post := .none, target := .none, tgtRep := 0,
    eret := false, exitNest := false, enter := .none, step := false, stepHost := false, info := 0, promise := 0, yielded := false }

/-- The package after a cold reset (R407): everything zero, `CYC` at 0, no partition, no job, every queue DISABLED, every
context EMPTY. Values that the manual does not give are those of log entries 1, 2 and 3. -/
def State.reset : State :=
  { cyc := 0, mem := [], cores := [], saved := [], segs := [], jobs := [], routes := [], keys := [], dzPool := [],
    fills := [], fillFail := [], migs := [], owedAdds := [], hostHeld := [], slotMasks := [], parts := [], queues := [], segStat := 0, preStat := 0, rsvBase := 0,
    rsvSize := 0, preDelay := 0, launches := [], pool := [], planeOwner := [], msix := [], preReqs := [],
    lastDisp := [], quays := [], ports := [], triples := [], windows := [], qps := [], qpErr := [], ctrSlots := [], peerSlots := [], extBase := [], groups := [], coll := [], noCredit := [], commits := [],
    sorric := .cold, eccWords := [], soft := [], eccLanes := [], eccCb := [], agenda := [], free := 0, num := 0, cur := 0,
    latch := .none, deferred := [], wireOut := [] }

end Sys2Proof.Machine
end

