-- ==== Sys2Proof/Machine/Ops.lean ====
section
/-! DEFINITION. The named operations over the package's memory, cores, contexts and registers; translation (R231); blocking
(R249); records to the host (R263, R284); raising the halt line (R261); and taking a trap (R257, R259), which every trap of
the machine uses. -/

namespace Sys2Proof.Machine

open Sys2Proof

/-- An event of unit `n` of the package's `bound` units of its kind. -/
def withUnit (n bound : Nat) (s : State) : Host.Outcome State Fault Refusal :=
  if n < bound then .next s else .fault (.noSuchUnit n)

/-! ### Memory -/

/-- The byte at physical address `pa`; an unlisted one reads 0 (log entry 1). -/
def State.byte (s : State) (pa : Nat) : Byte := Sparse.get 0 s.mem pa

/-- The state with byte `b` at physical address `pa`. -/
def State.setByte (s : State) (pa : Nat) (b : Byte) : State := { s with mem := Sparse.set 0 s.mem pa b }

/-- The canonical form of memory: addresses strictly rising, no byte that reads as an unlisted one does. -/
def Memory.wf (m : List Host.Cell) : Bool := Sparse.wf 0 m

/-- The memory of the state is in its canonical form. -/
def State.memWf (s : State) : Bool := Memory.wf s.mem

/-- `n` bytes from `pa` upward. -/
def rdBytes (s : State) : Nat → Nat → List Byte
  | _, 0 => []
  | pa, n + 1 => s.byte pa :: rdBytes s (pa + 1) n

/-- The bytes `bs` written from `pa` upward. -/
def wrBytes (s : State) : Nat → List Byte → State
  | _, [] => s
  | pa, b :: t => wrBytes (s.setByte pa b) (pa + 1) t

/-- The little-endian number of `n` bytes at `pa` (R2). -/
def rd (s : State) (pa n : Nat) : Nat := leNat (rdBytes s pa n)

/-- The low `n` bytes of `v` written little-endian at `pa` (R2). -/
def wr (s : State) (pa n v : Nat) : State := wrBytes s pa (leBytes n v)

/-- The physical address of byte `ofs` of the scratchpad of core `g`: above the HBM's 39 bits. -/
def spAddr (g ofs : Nat) : Nat := Config.hbmBytes + g * Config.spBytes + ofs

/-- An HBM physical address is 39 bits wide (R226); a sum wraps there (log entry 4). -/
def hbmAddr (pa : Nat) : Nat := pa % Config.hbmBytes

/-- The latch of the issue in progress changed. -/
def State.latched (s : State) (f : Latch → Latch) : State := { s with latch := f s.latch }

/-- A free value's number, and the state with the counter advanced. -/
def State.tick (s : State) : State := { s with free := s.free + 1 }

/-! ### Cores and contexts -/

/-- Core `g`. -/
def State.core (s : State) (g : Nat) : Core := Sparse.get Core.cold s.cores g

/-- The state with core `g` replaced. -/
def State.setCore (s : State) (g : Nat) (c : Core) : State := { s with cores := Sparse.set Core.cold s.cores g c }

/-- The state with core `g` updated. -/
def State.updCore (s : State) (g : Nat) (f : Core → Core) : State := s.setCore g (f (s.core g))

/-- Numbers from 3,072 on name contexts that are not resident. -/
abbrev residents : Nat := 3072

/-- The global core of a `CTXID` (R41). -/
def coreOf (cid : Nat) : Nat := cid / 4

/-- The context slot of a `CTXID` (R41). -/
def slotOf (cid : Nat) : Nat := cid % 4

/-- The context numbered `cid`: resident below 3,072, else a saved one. -/
def State.ctx (s : State) (cid : Nat) : Context :=
  if cid < residents then Sparse.get Context.empty (s.core (coreOf cid)).ctxs (slotOf cid)
  else match s.saved.find? (fun x => x.id == cid) with
    | some x => x.ctx
    | none => Context.empty

/-- The state with context `cid` replaced. -/
def State.setCtx (s : State) (cid : Nat) (c : Context) : State :=
  if cid < residents then
    s.updCore (coreOf cid) (fun k => { k with ctxs := Sparse.set Context.empty k.ctxs (slotOf cid) c })
  else { s with saved := s.saved.map (fun x => if x.id == cid then { x with ctx := c } else x) }

/-- The state with context `cid` updated. -/
def State.updCtx (s : State) (cid : Nat) (f : Context → Context) : State := s.setCtx cid (f (s.ctx cid))

/-- The context that is issuing. -/
def State.me (s : State) : Context := s.ctx s.cur

/-- The state with the issuing context updated. -/
def State.updMe (s : State) (f : Context → Context) : State := s.updCtx s.cur f

/-- Every context that holds a block, resident or not. -/
def State.liveCtxs (s : State) : List Nat :=
  (s.cores.flatMap (fun p => p.2.ctxs.map (fun q => p.1 * 4 + q.1))) ++ s.saved.map (fun x => x.id)

/-- Numbers from here on stand for contexts that have retired or been killed while their engine work goes on (R328, R364):
`gone` + x x 4,096 + CTXID. -/
abbrev gone : Nat := 2 ^ 40

/-- The core where a context runs, or ran when it was saved or ended. -/
def State.homeCore (s : State) (cid : Nat) : Nat :=
  if cid < residents then coreOf cid
  else if gone ≤ cid then coreOf (cid % 4096)
  else match s.saved.find? (fun x => x.id == cid) with
    | some x => x.core
    | none => 0

/-- The `CTXID` of a context: a saved one keeps that of its slot (R254). -/
def State.ctxid (s : State) (cid : Nat) : Nat :=
  if cid < residents then cid
  else if gone ≤ cid then cid % 4096
  else match s.saved.find? (fun x => x.id == cid) with
    | some x => x.core * 4 + x.slot
    | none => 0

/-! ### Registers (R33) -/

/-- The code of a register file (R33). -/
def RegFile.code : RegFile → Nat
  | .s => 0
  | .a => 1
  | .p => 2
  | .v => 3
  | .vm => 4

/-- `s0`, `p0` and `vm0`: constant, always full, never written (R33). -/
def hardwired (f : RegFile) (r : Nat) : Bool :=
  match f with
  | .s => r == 0
  | .p => r == 0
  | .vm => r == 0
  | .a => false
  | .v => false

/-- A scalar register. -/
def Context.rS (c : Context) (r : Nat) : Word64 := if r = 0 then 0 else Sparse.get 0 c.s r

/-- An address register. -/
def Context.rA (c : Context) (r : Nat) : Word64 := Sparse.get 0 c.a r

/-- A predicate. -/
def Context.rP (c : Context) (r : Nat) : Bool := if r = 0 then true else Sparse.get false c.p r

/-- A vector register. -/
def Context.rV (c : Context) (r : Nat) : VReg := Sparse.get 0 c.v r

/-- A mask register. -/
def Context.rVM (c : Context) (r : Nat) : VMask := if r = 0 then BitVec.allOnes 256 else Sparse.get 0 c.vm r

/-- A loop counter. -/
def Context.rLC (c : Context) (r : Nat) : Word32 := Sparse.get 0 c.lc r

/-- A loop counter written. -/
def Context.wLC (c : Context) (r : Nat) (v : Word32) : Context := { c with lc := Sparse.set 0 c.lc r v }

/-- A value stored in a register, as a completed writeback stores it; a hard-wired register takes nothing. -/
def Context.put (c : Context) (f : RegFile) (r : Nat) (v : VReg) : Context :=
  if hardwired f r then c else
  match f with
  | .s => { c with s := Sparse.set 0 c.s r (v.setWidth 64) }
  | .a => { c with a := Sparse.set 0 c.a r (v.setWidth 64) }
  | .p => { c with p := Sparse.set false c.p r (v.getLsbD 0) }
  | .v => { c with v := Sparse.set 0 c.v r v }
  | .vm => { c with vm := Sparse.set 0 c.vm r (v.setWidth 256) }

/-- Whether a writeback of a register is pending. -/
def Context.pending (c : Context) (f : RegFile) (r : Nat) : Bool := c.pend.any (fun p => p.file == f && p.reg == r)

/-- A register is full unless a writeback of it is pending (R36). -/
def Context.full (c : Context) (f : RegFile) (r : Nat) : Bool := hardwired f r || !c.pending f r

/-- A write of an op: the register is empty from here, and its writeback is pending (R36). -/
def Context.post (c : Context) (f : RegFile) (r : Nat) (v : VReg) : Context :=
  if hardwired f r then c else { c with pend := c.pend ++ [{ file := f, reg := r, val := v }] }

/-- A scalar result. -/
def Context.wS (c : Context) (r : Nat) (v : Word64) : Context := c.post .s r (v.setWidth 2048)

/-- An address-register result. -/
def Context.wA (c : Context) (r : Nat) (v : Word64) : Context := c.post .a r (v.setWidth 2048)

/-- A predicate result. -/
def Context.wP (c : Context) (r : Nat) (v : Bool) : Context := c.post .p r (if v then 1 else 0)

/-- A vector result. -/
def Context.wV (c : Context) (r : Nat) (v : VReg) : Context := c.post .v r v

/-- A mask result. -/
def Context.wVM (c : Context) (r : Nat) (v : VMask) : Context := c.post .vm r (v.setWidth 2048)

/-- A scalar write that completes at issue and leaves the register full (R103, R180). -/
def Context.wSnow (c : Context) (r : Nat) (v : Word64) : Context :=
  { c.put .s r (v.setWidth 2048) with pend := c.pend.filter (fun p => !(p.file == .s && p.reg == r)) }

/-- The last pending entry of a register takes a new value. -/
def stepPend (r : Nat) (d : Word64) : List Pending → List Pending
  | [] => []
  | p :: t =>
    if p.file == .a && p.reg == r && !(t.any (fun q => q.file == .a && q.reg == r)) then
      { p with val := ((p.val.setWidth 64 + d).setWidth 2048) } :: t
    else p :: stepPend r d t

/-- An address step or loop stride: at issue, on top of a write of the same issue (R40, R139). -/
def Context.stepA (c : Context) (r : Nat) (d : Word64) : Context :=
  if c.pending .a r then { c with pend := stepPend r d c.pend } else { c with a := Sparse.set 0 c.a r (c.rA r + d) }

/-- Writeback number `i` completes: the youngest pending write of its register stores its value and makes the register
full, and an older one is discarded (R36). -/
def Context.writeback (c : Context) (i : Nat) : Context :=
  match c.pend[i]? with
  | none => c
  | some p =>
    if (c.pend.drop (i + 1)).any (fun q => q.file == p.file && q.reg == p.reg) then
      { c with pend := c.pend.take i ++ c.pend.drop (i + 1) }
    else { c.put p.file p.reg p.val with pend := c.pend.filter (fun q => !(q.file == p.file && q.reg == p.reg)) }

/-- PENDS of R258: the scalar registers awaiting writeback. -/
def Context.pends (c : Context) : Word64 :=
  c.pend.foldl (fun w p => if p.file == .s then w ||| (1#64 <<< p.reg) else w) 0

/-- PENDO of R258: the other registers awaiting writeback. -/
def Context.pendo (c : Context) : Word64 :=
  c.pend.foldl (fun w p =>
    match p.file with
    | .s => w
    | .a => w ||| (1#64 <<< p.reg)
    | .p => w ||| (1#64 <<< (16 + p.reg))
    | .v => w ||| (1#64 <<< (24 + p.reg))
    | .vm => w ||| (1#64 <<< (56 + p.reg))) 0

/-- The `FMT` value in effect at the next issue: a pending write with count 0 is in effect there (R68, R257). -/
def Context.fmtNow (c : Context) : Word64 := (c.fmtPend.filter (fun p => p.1 == 0)).foldl (fun _ p => p.2) c.fmt

/-! ### Launches, jobs and partitions -/

/-- The launch numbered `id`. -/
def State.launchOf (s : State) (id : Nat) : Option Launch := s.launches.find? (fun l => l.id == id)

/-- The state with launch `id` updated. -/
def State.updLaunch (s : State) (id : Nat) (f : Launch → Launch) : State :=
  { s with launches := s.launches.map (fun l => if l.id == id then f l else l) }

/-- The launch of a context. -/
def State.ctxLaunch (s : State) (cid : Nat) : Option Launch := (s.ctx cid).launch.bind s.launchOf

/-- Whether every block of the round is loaded. -/
def Launch.full (l : Launch) : Bool :=
  match l.todo with
  | some t => t.isEmpty
  | none => l.loaded == l.nblk

/-- Whether a context's launch lets it issue: the blocks of a CONC launch run once all of them are loaded (R325). -/
def State.started (s : State) (cid : Nat) : Bool :=
  match s.ctxLaunch cid with
  | some l => l.kd.mode != 2 || (l.full && !s.saved.any (fun x => x.fresh && x.ctx.launch == some l.id))
  | none => true

/-- The job of a context's launch. -/
def State.jobOf (s : State) (cid : Nat) : Nat := ((s.ctxLaunch cid).map (·.job)).getD 0

/-- The partition of a context's launch. -/
def State.partOf (s : State) (cid : Nat) : Nat := ((s.ctxLaunch cid).map (·.part)).getD 0

/-- The job table entry. -/
def State.job (s : State) (j : Nat) : Job := Sparse.get Job.none s.jobs j

/-- Partition `p`, where it is defined. -/
def State.part (s : State) (p : Nat) : Option Partition := Sparse.get none s.parts p

/-- Whether core `g` belongs to partition `p`. -/
def State.inPart (s : State) (p g : Nat) : Bool := ((s.part p).map (fun x => x.cores.contains g)).getD false

/-- Queue `q`. -/
def State.queue (s : State) (q : Nat) : Queue := Sparse.get Queue.cold s.queues q

/-- The state with queue `q` updated. -/
def State.updQueue (s : State) (q : Nat) (f : Queue → Queue) : State :=
  { s with queues := Sparse.set Queue.cold s.queues q (f (s.queue q)) }

/-! ### Segments and translation (R223 to R231) -/

/-- What an access needs of its segment (R225). -/
structure Need where
  r : Bool
  w : Bool
  a : Bool
  inv : Bool
  x : Bool
  deriving DecidableEq, Repr

/-- An engine's read. -/
def Need.read : Need := { r := true, w := false, a := false, inv := false, x := false }

/-- An engine's write. -/
def Need.write : Need := { r := false, w := true, a := false, inv := false, x := false }

/-- A counter add or wait. -/
def Need.add : Need := { r := false, w := false, a := true, inv := false, x := false }

/-- An invariant read. -/
def Need.invRead : Need := { r := true, w := false, a := false, inv := true, x := false }

/-- An instruction fetch. -/
def Need.fetch : Need := { r := false, w := false, a := false, inv := false, x := true }

/-- No attribute: the lookup of `PGALLOC`. -/
def Need.any : Need := { r := false, w := false, a := false, inv := false, x := false }

/-- What a translation finds (R231): a physical address, an absent demand-zero page, a segment in ZEROING, or a miss with
its KIND and SEG of R237. -/
inductive Xlat where
  | ok (pa seg : Nat)
  | absent (seg page : Nat)
  | zeroing (seg : Nat)
  | miss (kind seg : Nat)
  deriving DecidableEq, Repr

/-- The KIND of a permission miss (R237), the first missing attribute in the order R, W, A, INV, X. -/
def missing (n : Need) (e : Seg) : Option Nat :=
  if n.r && !e.r then some 0x10
  else if n.w && !e.w then some 0x11
  else if n.a && !e.a then some 0x12
  else if n.inv && !e.inv then some 0x13
  else if n.x && !e.x then some 0x14
  else none

/-- Segment `id` of job `j`; the tables are keyed by job x 4,096 + id. -/
def State.seg (s : State) (j id : Nat) : Seg := Sparse.get Seg.free s.segs (j * 4096 + id)

/-- The state with a segment updated. -/
def State.updSeg (s : State) (j id : Nat) (f : Seg → Seg) : State :=
  { s with segs := Sparse.set Seg.free s.segs (j * 4096 + id) (f (s.seg j id)) }

/-- The non-FREE segment of the job and tier that holds the address. -/
def State.lookup (s : State) (j : Nat) (tier : Bool) (ofs : Nat) : Option (Nat × Seg) :=
  (s.segs.find? (fun p => p.1 / 4096 == j && p.2.st != .free && p.2.tier == tier
    && decide (p.2.vbase ≤ ofs) && decide (ofs < p.2.vbase + p.2.len))).map (fun p => (p.1 % 4096, p.2))

/-- A page of a demand-zero segment: its map entry's physical page, where it is present (R229). The chapter gives no reject code
or fault for an entry with a Zero bit set, and the model ignores those bits (log entry 70). -/
def State.dzPage (s : State) (e : Seg) (page : Nat) : Option Nat :=
  let m := rd s (hbmAddr (e.pbase + 8 * page)) 8
  if bitOf m 0 then some (bits m 38 21 * 2 ^ 21) else none

/-- Whether a request for a page is with the host: until its answer, an entry that the host has written is not in use, so the page
is zeroed before any access through it (R221, R240). -/
def State.asked (s : State) (j id page : Nat) : Bool :=
  s.fills.any (fun r => r.job == j && r.seg == id && r.page == page && r.tag.isSome)

/-- The physical page of a page of a demand-zero segment, where accesses may use it. -/
def State.pageOf (s : State) (j id : Nat) (e : Seg) (page : Nat) : Option Nat :=
  if s.asked j id page then none else s.dzPage e page

/-- The stack of a physical page (R226). -/
def stackOf (pa : Nat) : Nat := bits pa 23 21

/-- Bits 51..0 of an address (R30). -/
def ofsOf (a : Word64) : Nat := bits a.toNat 51 0

/-- The TIER bit (R30). -/
def tierOf (a : Word64) : Bool := bitOf a.toNat 52

/-- The CHIP field (R30). -/
def chipOf (a : Word64) : Nat := bits a.toNat 63 53

/-- A short local address: bits 63..20 zero (R126). -/
def isShort (a : Word64) : Bool := a.toNat / 2 ^ 20 == 0

/-- The pod virtual address of byte `ofs` of core `k`'s scratchpad on this chip (R30). -/
def podSp (k ofs : Nat) : Word64 :=
  n64 (0x7FF * 2 ^ 53 + 2 ^ 52 + k / Config.coresPerCluster * 2 ^ 27 + k % Config.coresPerCluster * 2 ^ 20 + ofs)

/-- The global core of a scratchpad-tier address (R30). -/
def coreOfAddr (a : Word64) : Nat := bits a.toNat 29 27 * Config.coresPerCluster + bits a.toNat 26 20

/-- A scratchpad-tier address that names no scratchpad: bits 51..30 non-zero, or CORE above 95 (R31). -/
def badSp (a : Word64) : Bool := tierOf a && (bits a.toNat 51 30 != 0 || decide (95 < bits a.toNat 26 20))

/-- Translation of an address of this chip against a job's segment table (R231). -/
def xlate (s : State) (j : Nat) (n : Need) (a : Word64) : Xlat :=
  if badSp a then .miss 0x07 0xFFF else
  match s.lookup j (tierOf a) (ofsOf a) with
  | none => .miss 0x01 0xFFF
  | some (id, e) =>
    if e.st == .draining || e.st == .revoked then .miss 0x02 id
    else if e.st == .zeroing then .zeroing id
    else match missing n e with
      | some k => .miss k id
      | none =>
        if tierOf a then .ok (spAddr (coreOfAddr a) (bits a.toNat 19 0)) id
        else if e.dz then
          match s.pageOf j id e ((ofsOf a - e.vbase) / 2 ^ 21) with
          | some p => .ok (hbmAddr (p + (ofsOf a - e.vbase) % 2 ^ 21)) id
          | none => .absent id ((ofsOf a - e.vbase) / 2 ^ 21)
        else .ok (hbmAddr (e.pbase + (ofsOf a - e.vbase))) id

/-- A route entry (R358), keyed by job x 2,048 + logical chip. -/
def State.route (s : State) (j lchip : Nat) : Word64 := Sparse.get 0 s.routes (j * 2048 + lchip)

/-- Where an address's chip is (R30, R31): this chip, another chip by its logical number, or not held by the job. -/
inductive Place where
  | here
  | there (lchip : Nat)
  | notHeld
  deriving DecidableEq, Repr

/-- Resolution of CHIP through the route cache (R230, R358): STATE 0 and 3 mean not held. -/
def State.place (s : State) (j : Nat) (a : Word64) : Place :=
  if chipOf a = 0x7FF then .here
  else if (s.job j).present && (s.job j).own == chipOf a then .here
  else
    let st := bits (s.route j (chipOf a)).toNat 63 62
    if st = 1 ∨ st = 2 then .there (chipOf a) else .notHeld

/-- The word of R237. -/
def missInfo (kind seg opc : Nat) : Word64 := n64 (seg * 2 ^ 36 + kind * 2 ^ 24 + opc)

/-- The fault code of a miss (R230): 0x81 for a permission miss, else 0x80. -/
def missFault (kind : Nat) : Nat := if 0x10 ≤ kind ∧ kind ≤ 0x14 then 0x81 else 0x80

/-! ### Exceptions -/

/-- A trap or fault that an op or a fetch raises (R260): its code (0x80 and above are faults), its EVA or DADDR, its EINFO or
DETAIL, whether it is `SNAPST`'s own (R259), and the effect that comes before the raise (R8). -/
structure Exc where
  code : Nat
  eva : Word64
  einfo : Word64
  snapst : Bool
  pre : State → State

/-- A trap or fault with no effect before its raise. -/
def Exc.mk' (code : Nat) (eva einfo : Word64) : Exc :=
  { code := code, eva := eva, einfo := einfo, snapst := false, pre := id }

/-- Trap 0x02 of a slot's op with a REASON (R101), `EVA` as given. -/
def illegal (slot reason : Nat) (eva : Word64) : Exc := Exc.mk' 0x02 eva (n64 (slot * 2 ^ 12 + reason))

/-- Fault 0x80 or 0x81 for a miss at an address (R230, R264). -/
def missExc (kind seg : Nat) (a : Word64) : Exc := Exc.mk' (missFault kind) a (missInfo kind seg 0)

/-- The layout of R258 for a bundle address, repetition and loop position. -/
def epcWord (pc : Word64) (rep lpos : Nat) (lact : Bool) : Word64 :=
  n64 (rep % 16 * 2 ^ 60 + lpos % 32 * 2 ^ 55 + b2n lact * 2 ^ 54 + bits pc.toNat 51 2 * 4)

/-- The next issue point of a context in that layout. -/
def Context.point (c : Context) : Word64 := epcWord c.pc c.rep c.nest.pos c.nest.active

/-- A code address rebuilt from that layout: CHIP 0x7FF, TIER 0 (R258). -/
def epcPc (e : Word64) : Word64 := n64 (0x7FF * 2 ^ 53 + bits e.toNat 51 2 * 4)

/-- The word at a code address, as a fetch reads it (R48, R231): an absent demand-zero page reads zero. An address on another chip
that the job holds is fault 0x81, KIND 0x14 (log entry 71). -/
def fetchWord (s : State) (j : Nat) (a : Word64) : Except Exc Word32 :=
  match s.place j a with
  | .here =>
    match xlate s j .fetch a with
    | .ok pa _ => .ok (BitVec.ofNat 32 (rd s pa 4))
    | .absent _ _ => .ok 0
    | .zeroing id => .error (missExc 0 id a)
    | .miss k id => .error (missExc k id a)
  | .there _ => .error (missExc 0x14 0xFFF a)
  | .notHeld => .error (missExc 0x04 0xFFF a)

/-- REP of the bundle at an address; 0 where the fetch fails (REPN of R258). -/
def peekRep (s : State) (j : Nat) (a : Word64) : Nat :=
  match fetchWord s j a with
  | .ok w => bits w.toNat 20 17
  | .error _ => 0

/-! ### Blocking (R249) -/

/-- The holder of a core's issue width gives it up. -/
def releaseWidth (s : State) (cid : Nat) : State :=
  if cid < residents ∧ (s.core (coreOf cid)).holder = some (slotOf cid) then
    s.updCore (coreOf cid) (fun k => { k with holder := none, lastHolder := slotOf cid })
  else s

/-- The context becomes BLOCKED for a reason of R248; the measure of R265 starts at the first block since an issue. -/
def block (s : State) (cid reason : Nat) : State :=
  releaseWidth (s.updCtx cid (fun c =>
    { c with st := .blocked, reason := reason, blockedAt := if c.blockedAt = 0 then s.cyc.toNat + 1 else c.blockedAt })) cid

/-- The watchdog limit of a context's partition in cycles, 0 when it is off (R265). -/
def State.watchLimit (s : State) (cid : Nat) : Nat := ((s.part (s.partOf cid)).map (fun p => p.watchdog.toNat * 1024)).getD 0

/-- Whether `n` cycles without an issue are past a limit. -/
def pastLimit (limit n : Nat) : Bool := decide (limit ≠ 0) && decide (limit < n)

/-- A context that leaves reason 11 or 14 with the limit already past is spared until it issues again (R265). -/
def spare (s : State) (cid : Nat) : State :=
  s.updCtx cid (fun c => { c with spared := c.spared ||
    (decide (c.blockedAt ≠ 0) && pastLimit (s.watchLimit cid) (s.cyc.toNat + 1 - c.blockedAt)) })

/-- The state in which a context can issue, by its trap level (R249). -/
def readyState (tlevel : Nat) : CtxState := if tlevel = 0 then .ready else if tlevel = 1 then .trap1 else .trap2

/-- A context that can issue again. -/
def wake (s : State) (cid : Nat) : State :=
  s.updCtx cid (fun c => { c with st := readyState c.tlevel, reason := 0 })

/-- Whether a state lets a context issue (R247). -/
def canIssue (st : CtxState) : Bool :=
  match st with
  | .ready => true
  | .running => true
  | .trap1 => true
  | .trap2 => true
  | _ => false

/-! ### Dirty planes (R225, R341) -/

/-- The bytes of one plane of a segment. -/
def planeBytes (len : Nat) : Nat := ((len + 16383) / 16384 + 511) / 512 * 64

/-- The physical byte that holds tile `t`'s bit in plane `p`. -/
def planeAddr (e : Seg) (p t : Nat) : Nat := hbmAddr (e.planes * 4096 + p * planeBytes e.len + t / 8)

/-- The bit of every plane is set for the tile of a segment offset, in a TRK segment. -/
def markTile (s : State) (e : Seg) (ofs : Nat) : State :=
  if e.trk then
    (List.range 4).foldl (fun s p =>
      s.setByte (planeAddr e p (ofs / 16384)) (s.byte (planeAddr e p (ofs / 16384)) ||| (1#8 <<< (ofs / 16384 % 8)))) s
  else s

/-- The offset in a segment of a byte that lies in its physical pages. -/
def segOffset (s : State) (e : Seg) (pa : Nat) : Option Nat :=
  if e.dz then
    ((List.range (e.len / 2 ^ 21)).find? (fun i => s.dzPage e i == some (pa / 2 ^ 21 * 2 ^ 21))).map (fun i => i * 2 ^ 21 + pa % 2 ^ 21)
  else if e.pbase ≤ pa ∧ pa < e.pbase + e.len then some (pa - e.pbase) else none

/-- The tiles of the TRK segments that hold a physical byte are marked. -/
def markPhys (s : State) (pa : Nat) : State :=
  (s.segs.filter (fun p => p.2.st != .free && p.2.trk && !p.2.tier)).foldl (fun s p =>
    match segOffset s p.2 pa with
    | some o => markTile s p.2 o
    | none => s) s

/-- Bytes written at a physical address by the host or as an event record: a quay write as any other (R341). -/
def quayBytes (s : State) : Nat → List Byte → State
  | _, [] => s
  | pa, b :: t => quayBytes ((markPhys s pa).setByte pa b) (pa + 1) t

/-! ### Records to the host (R263, R284) -/

/-- The bytes 0..1 of a unit (R263). -/
def unitWord (u : UnitId) : Nat := u.kind % 16 * 2 ^ 12 + u.inst % 2 ^ 12

/-- The record count of a queue's event ring (R277). -/
def Queue.evtCount (q : Queue) : Nat := 2 ^ bits q.evt.toNat 3 0

/-- An event ring with room takes a record at its next index (R284). -/
def putRecord (s : State) (qn : Nat) (rec : List Byte) (intr : Bool) : State :=
  let q := s.queue qn
  let pa := bits q.evt.toNat 38 6 * 64 + 64 * (q.evtWr % q.evtCount)
  let s := (quayBytes s (hbmAddr pa) rec).updQueue qn (fun q => { q with evtWr := q.evtWr + 1 })
  if intr then { s with msix := s.msix ++ [qn % 2048] } else s

/-- Whether the event ring is full (R284); both indices are free-running. -/
def Queue.evtFull (q : Queue) : Bool := decide (q.evtHd.toNat + q.evtCount ≤ q.evtWr)

/-- An event record is written, or waits for room (R284). -/
def postRecord (s : State) (qn : Nat) (rec : List Byte) (intr : Bool) : State :=
  let q := s.queue qn
  if q.evtFull || !q.waiting.isEmpty then s.updQueue qn (fun q => { q with waiting := q.waiting ++ [(rec, intr)] })
  else putRecord s qn rec intr

/-- The event record of R284. -/
def evtRecord (s : State) (type code index nstop fstop : Nat) : List Byte :=
  leBytes 2 type ++ leBytes 2 code ++ leBytes 4 index ++ leBytes 8 s.cyc.toNat ++ leBytes 4 nstop ++ leBytes 4 fstop
    ++ zeroBytes 40

/-- A stop record takes the next position of the queue's stop area; one beyond the capacity is dropped (R284). -/
def putStop (s : State) (qn : Nat) (rec : List Byte) : State :=
  let q := s.queue qn
  let s := s.updQueue qn (fun q => { q with stopWr := q.stopWr + 1 })
  if q.stopWr ≤ bits q.stop.toNat 5 0 then wrBytes s (hbmAddr (bits q.stop.toNat 38 6 * 64 + 64 * q.stopWr)) rec else s

/-- LTAG of R263. -/
def Launch.ltag (l : Launch) : Nat := l.index % 2 ^ 16 * 2 ^ 32 + l.queue % 2 ^ 13

/-- Bytes 0..31 of a stop record (R263). -/
def stopCommon (s : State) (l : Launch) (u orig : UnitId) (cause : Nat) (byUs : Bool) (baddr : Word64) : List Byte :=
  leBytes 2 (unitWord u) ++ leBytes 1 cause ++ leBytes 1 (b2n byUs) ++ leBytes 2 l.part ++ leBytes 2 (unitWord orig)
    ++ leBytes 8 s.cyc.toNat ++ leBytes 8 baddr.toNat ++ leBytes 8 l.ltag

/-- The code of a context state (R247). -/
def CtxState.code : CtxState → Nat
  | .empty => 0
  | .ready => 1
  | .running => 2
  | .blocked => 3
  | .sleeping => 4
  | .trap1 => 5
  | .trap2 => 6
  | .mewsIn => 7
  | .mewsOut => 8
  | .halted => 9
  | .killed => 10
  | .retired => 11

/-- Bytes 32..63 of a context's stop record (R264). -/
def stopContext (c : Context) (st : CtxState) (reason tcause : Nat) (detail daddr : Word64) : List Byte :=
  leBytes 1 st.code ++ leBytes 1 reason
    ++ leBytes 1 (b2n c.mask * 128 + b2n c.l2snap * 64 + c.tlevel % 4) ++ leBytes 1 tcause
    ++ [c.cause1, c.cause2, 0, 0] ++ leBytes 8 detail.toNat ++ leBytes 8 daddr.toNat
    ++ leBytes 1 c.iseq.toNat ++ leBytes 1 c.out ++ zeroBytes 6

/-- JOB of a queue (R278). -/
def Queue.job (q : Queue) : Nat := bits q.ctl.toNat 20 16

/-- A record goes to the lowest-numbered queue that is not DISABLED, of the job where one is named, or else to Sorric's log
(R369). -/
def postFor (s : State) (job : Option Nat) (rec : List Byte) : State :=
  match s.queues.find? (fun q => q.2.st != .disabled && (job.map (fun j => q.2.job == j)).getD true) with
  | some q => postRecord s q.1 rec false
  | none => { s with sorric := { s.sorric with log := s.sorric.log ++ [rec] } }

/-! ### The halt line (R261, R262) -/

/-- The contexts of a launch: resident, spilled, or preloaded in a Mews bank. -/
def State.ctxsOf (s : State) (lid : Nat) : List Nat :=
  s.liveCtxs.filter (fun c => (s.ctx c).launch == some lid)

/-- The units that hold work of a launch (R262): its contexts, the matrix and copy engines of cores with its entries or
jobs, quays with its subscriptions, collective engines with its records, and Mews engines that carry one of its contexts. -/
def State.unitsOf (s : State) (lid : Nat) : List UnitId :=
  (s.ctxsOf lid).map (fun c => { kind := 0, inst := c })
  ++ (s.cores.filter (fun p => p.2.mq.any (fun e => e.launch == lid))).map (fun p => { kind := 1, inst := p.1 })
  ++ (s.cores.filter (fun p => p.2.jobs.any (fun e => e.launch == lid))).map (fun p => { kind := 2, inst := p.1 })
  ++ (s.quays.filter (fun p => p.2.subs.any (fun q => (q.2.map (fun x => x.launch == lid)).getD false))).map
      (fun p => { kind := 3, inst := p.1 })
  ++ (s.coll.filter (fun p => (p.2.queue ++ p.2.flying).any (fun r => r.launch == lid))).map
      (fun p => { kind := 4, inst := p.1 })
  ++ (s.cores.filter (fun p => p.2.mews.phase != .idle && s.saved.any (fun x => x.core == p.1
        && (!x.spilled || x.ctx.st == .mewsIn) && x.ctx.launch == some lid))).map (fun p => { kind := 6, inst := p.1 })

/-- The halt line of a launch is raised once (R261): the units that must stop are noted, with the unit that raised it, its
cause, and the detail and address of a port's record. Undispatched children of the launch are discarded with
status 3 (R334). -/
def raiseHalt (s : State) (lid : Nat) (u : UnitId) (cause : Nat) (detail daddr : Word64) : State :=
  match s.launchOf lid with
  | none => s
  | some l =>
    if l.halt.isSome then s else
    let us := s.unitsOf lid
    let us := if us.contains u || u.kind == 15 then us else u :: us
    let h : Halt :=
      { unit := u, cause := cause, detail := detail, daddr := daddr, waiting := us, done := [],
        nstop := 0, fstop := (s.queue l.queue).stopWr, posted := false, killed := false }
    let s := s.updLaunch lid (fun l => { l with halt := some h })
    { s with pool := Sparse.mapV PoolEntry.free (fun _ e => match e.st with
        | .waiting _ parent _ _ _ _ _ _ => if parent = lid then { e with st := .ended parent 3 } else e
        | _ => e) s.pool }

/-- What a context's stop record says of its fault (R264): DETAIL of 0x80, 0x81, 0x83, 0x84 and 0x88, DADDR of 0x80 to 0x84. -/
def faultInfo (code tcause : Nat) (detail daddr pc : Word64) : FaultInfo :=
  { tcause := tcause, detail := if code ∈ [0x80, 0x81, 0x83, 0x84, 0x88] then detail else 0,
    daddr := if code ∈ [0x80, 0x81, 0x82, 0x83, 0x84] then daddr else 0, pc := pc }

/-- A fault of a context at the bundle `pc` (R260, R262): it stops, KILLED for 0x83 and 0x84, and raises its launch's halt line. -/
def faultCtx (s : State) (cid code tcause : Nat) (detail daddr pc : Word64) : State :=
  let f := faultInfo code tcause detail daddr pc
  let s := match (s.ctx cid).launch with
    | some lid => raiseHalt s lid { kind := 0, inst := cid } code f.detail f.daddr
    | none => s
  releaseWidth (s.updCtx cid (fun c =>
    { c with st := if code = 0x83 ∨ code = 0x84 then .killed else .halted, after := .none, fault := some f })) cid

/-! ### Taking a trap (R257, R259) -/

/-- Causes raised after the bundle has issued: their handler's `FMT` is the one in effect at that bundle (R58, R257). -/
def postCause (code : Nat) : Bool := code == 0x51 || code == 0x60 || code == 0x61 || code == 0x7F

/-- The snapshot copy of a context's current level (R257, R258). It holds no `SEED`: draws and writes that a handler makes stay
(log entry 72). -/
def Context.capture (c : Context) (cid : Nat) (t : TrapInfo) : Snap :=
  { ctxid := cid, level := c.tlevel, repn := t.repn, held := c.held, fmtCur := c.fmt, fmtPend := c.fmtPend,
    pends := t.pends, pendo := t.pendo, nest := { c.nest with buf := [], pos := 0 } }

/-- The banked cause registers of level `l` take the trap, and execution continues at `TVEC` (R257). -/
def Context.enter (c : Context) (l : Nat) (t : TrapInfo) : Context :=
  let c := if l = 1 then { c with cause1 := BitVec.ofNat 8 t.code, epc1 := t.ret, eva1 := t.eva, einfo1 := t.einfo }
    else { c with cause2 := BitVec.ofNat 8 t.code, epc2 := t.ret, eva2 := t.eva, einfo2 := t.einfo }
  { c with tlevel := l, mask := true, held := .none, nest := .none, pc := c.tvec, rep := 0, brSrc := 0,
           st := if l = 1 then .trap1 else .trap2, reason := 0, after := .none, owed := .none, claim := .none, waitSrc := .none,
           grant := .none, mgrant := .none }

/-- Trap entry once no writeback is pending (R257): at level 2, or masked at level 1, the trap is fault 0x84 or 0x83
(R259), but for a `SNAPST`'s 0x40, which goes to level 2 and keeps the copy. -/
def enterTrap (s : State) (cid : Nat) (t : TrapInfo) : State :=
  let c := s.ctx cid
  let at' := if postCause t.code then c.lastPoint else t.ret
  if c.tlevel = 2 then faultCtx s cid 0x84 t.code t.einfo t.eva at'
  else if c.tlevel = 1 ∧ c.mask = true then
    if t.code = 0x40 ∧ t.snapst = true then
      s.updCtx cid (fun c =>
        { Context.enter { c with fmt := c.fmtPend.foldl (fun _ p => p.2) c.fmt, fmtPend := [] } 2 t with l2snap := true })
    else faultCtx s cid 0x83 t.code t.einfo t.eva at'
  else
    s.updCtx cid (fun c =>
      { Context.enter { c with snap := c.capture (s.ctxid cid) t, snapv := true, l2snap := false,
                               fmt := if postCause t.code then c.fmt else c.fmtNow, fmtPend := [] } (c.tlevel + 1) t with
        l2snap := false })

/-- The trap of a context whose registers await writeback waits for them (R257, reason 11). -/
def takeTrap (s : State) (cid : Nat) (t : TrapInfo) : State :=
  if (s.ctx cid).pend.isEmpty then enterTrap s cid t
  else block (s.updCtx cid (fun c => { c with after := .trapEntry t })) cid 11

/-- A trap or fault of the issuing context, with its current issue point as return point (R257). -/
def raise (s : State) (e : Exc) : State :=
  let s := e.pre s
  let c := s.me
  if 0x80 ≤ e.code then faultCtx s s.cur e.code 0 e.einfo e.eva c.point
  else takeTrap s s.cur
    { code := e.code, eva := e.eva, einfo := e.einfo, snapst := e.snapst, ret := c.point, pends := c.pends,
      pendo := c.pendo, repn := peekRep s (s.jobOf s.cur) c.pc }

/-- The return from the current trap level (R272), once its checks have passed: level 2 entered for a `SNAPST` keeps the
copy and the mask; every other return restores hold state, `FMT` and the loop nest from the copy. -/
def Context.leave (c : Context) : Context :=
  let e := if c.tlevel = 2 then c.epc2 else c.epc1
  let lact := bitOf e.toNat 54
  if c.tlevel = 2 ∧ c.l2snap = true then { c with tlevel := 1, l2snap := false, st := .trap1 }
  else { c with
    held := c.snap.held, fmt := c.snap.fmtCur, fmtPend := c.snap.fmtPend,
    nest := if lact then { c.snap.nest with active := true, pos := bits e.toNat 59 55, buf := [] } else .none,
    snapv := false, mask := false, tlevel := c.tlevel - 1, st := if c.tlevel = 2 then .trap1 else .running }

/-! ### Storage with good check bits (R183, R407) -/

/-- Lanes of a core's tiles get good check bits: those that `p` picks by tile and lane. -/
def State.goodLanes (s : State) (g : Nat) (p : Nat → Nat → Bool) : State :=
  { s with eccLanes := s.eccLanes.filter (fun q => !(q.1 == g && p q.2.1 q.2.2)),
           soft := s.soft.filter (fun x => match x with
             | .lane h t n => !(h == g && p t n)
             | _ => true) }

/-- The codebook RAM of a core gets good check bits. -/
def State.goodCodebook (s : State) (g : Nat) : State :=
  { s with eccCb := s.eccCb.filter (fun q => q.1 != g),
           soft := s.soft.filter (fun x => match x with
             | .entry h _ => h != g
             | _ => true) }

/-- Words of memory get good check bits: those that `p` picks. -/
def State.goodWords (s : State) (p : Nat → Bool) : State :=
  { s with eccWords := s.eccWords.filter (fun w => !p w),
           soft := s.soft.filter (fun x => match x with
             | .word w => !p w
             | _ => true) }

end Sys2Proof.Machine
end

