-- ==== Sys2Proof/Machine/Operands.lean ====
section
/-! DEFINITION. Operand forms: register sources with their block/trap bits (R37 to R39), full/empty state, effective
addresses and the reach of the L slot (R125, R126), and the fields of the vector ops' extension word. -/

namespace Sys2Proof.Machine

open Sys2Proof

/-! ### Sources (R37, R39) -/

/-- A register source: its file code (R33), its number, and its block/trap bit. -/
structure Src where
  file : Nat
  reg : Nat
  trap : Bool
  deriving DecidableEq, Repr

def srcS (r : Nat) (b : Bool) : Src := { file := 0, reg := r, trap := b }
def srcA (r : Nat) (b : Bool) : Src := { file := 1, reg := r, trap := b }
def srcP (r : Nat) : Src := { file := 2, reg := r, trap := false }
def srcV (r : Nat) (b : Bool) : Src := { file := 3, reg := r, trap := b }
def srcVM (r : Nat) (b : Bool) : Src := { file := 4, reg := r, trap := b }
def srcAcc (r : Nat) (b : Bool) : Src := { file := 5, reg := r, trap := b }

/-- A register group of `n` registers from `r` (R143). -/
def srcVs (r n : Nat) (b : Bool) : List Src := (List.range n).map (fun i => srcV (r + i) b)

/-- The accumulator tiles of a context slot: k x TPC to k x TPC + TPC - 1. -/
def ownsTile (l : Launch) (slot tile : Nat) : Bool :=
  decide (slot * l.kd.tpc ≤ tile) && decide (tile < slot * l.kd.tpc + l.kd.tpc)

/-- Whether a tile of core `g` belongs to a context of launch `lid` (R35). -/
def tileOf (s : State) (g lid tile : Nat) : Bool :=
  match s.launchOf lid with
  | none => false
  | some l =>
    (s.core g).ctxs.any (fun p => p.2.launch == some lid && ownsTile l p.1 tile)
    || s.saved.any (fun x => x.core == g && x.ctx.launch == some lid && ownsTile l x.slot tile)

/-- The matrix operations that write their tile (R178): `MMA`, `MMAZ`, `MMAS`, `ACCWR`, `ACCZ`. -/
def writesTile (opc : Nat) : Bool := opc == 0 || opc == 1 || opc == 2 || opc == 5 || opc == 6

/-- The outstanding operations that write a tile of core `g`, oldest first, withdrawn ones and those of contexts
that are swapped out included (R178, R187). -/
def tileWriters (s : State) (g tile : Nat) : List MEntry :=
  ((s.core g).mq ++ (s.core g).savedOps ++ s.saved.flatMap (fun x => if x.core = g then x.ops else [])).filter
    (fun e => e.owned && e.tile == tile && writesTile e.opc)

/-- A tile as a context's launch sees it is full when it belongs to none of the launch's contexts, or when no operation
that writes it is outstanding and it does not wait for a Mews fill (R35, R178, R254). -/
def tileFull (s : State) (cid tile : Nat) : Bool :=
  let g := s.homeCore cid
  match (s.ctx cid).launch with
  | none => true
  | some lid =>
    !tileOf s g lid tile || ((tileWriters s g tile).isEmpty && !(Sparse.get Tile.zero (s.core g).tiles tile).unfilled)

/-- Whether a source of a context is full (R33, R36). -/
def srcFull (s : State) (cid : Nat) (x : Src) : Bool :=
  match x.file with
  | 0 => (s.ctx cid).full .s x.reg
  | 1 => (s.ctx cid).full .a x.reg
  | 2 => (s.ctx cid).full .p x.reg
  | 3 => (s.ctx cid).full .v x.reg
  | 4 => (s.ctx cid).full .vm x.reg
  | 5 => tileFull s cid x.reg
  | _ => true

/-- `EINFO` of trap 0x20 (R37). -/
def emptyInfo (pos slot : Nat) (held : Bool) (x : Src) : Word64 :=
  n64 (min pos 7 * 2 ^ 16 + slot * 2 ^ 12 + b2n held * 2 ^ 11 + x.file * 2 ^ 8 + x.reg)

/-- `EINFO` of trap 0x21 (R178). -/
def busyInfo (s : State) (cid : Nat) (held : Bool) (tile : Nat) : Word64 :=
  match tileWriters s (s.homeCore cid) tile with
  | e :: _ => n64 (slotOf (s.ctxid e.ctx) * 2 ^ 18 + b2n held * 2 ^ 17 + 5 * 2 ^ 12 + tile * 2 ^ 8 + e.token)
  | [] => n64 (b2n held * 2 ^ 17 + 2 ^ 16 + 5 * 2 ^ 12 + tile * 2 ^ 8)

/-- The trap of an empty source whose bit selects trap: 0x20, or 0x21 for a tile (R37, R178). -/
def emptyExc (s : State) (cid pos slot : Nat) (held : Bool) (x : Src) : Exc :=
  if x.file = 5 then Exc.mk' 0x21 0 (busyInfo s cid held x.reg) else Exc.mk' 0x20 0 (emptyInfo pos slot held x)

/-! ### Addresses (R125, R126) -/

/-- The offset of an M- or G-format op: the signed extension word, 0 without EXT (R56). -/
def extOfs (e : Option Word32) : Word64 :=
  match e with
  | none => 0
  | some x => x.signExtend 64

/-- The effective address of an M-format op (R125). -/
def eaOf (c : Context) (x : ArgM) : Word64 := c.rA x.abase.val + extOfs x.ext

/-- The address step of an M-format op with an access of `size` bytes (R60, R125). -/
def stepOf (x : ArgM) (size : Nat) : Word64 := w64 (x.step.toInt * size)

/-- A fault of the L slot's reach (R126): no segment applies. -/
def reachExc (code kind : Nat) (a : Word64) : Exc := Exc.mk' code a (missInfo kind 0xFFF 0)

/-- The physical address of an L-slot access of `size` bytes (R126). -/
def reach (s : State) (cid : Nat) (ea : Word64) (size : Nat) : Except Exc Nat :=
  let g := s.homeCore cid
  if isShort ea then
    if Config.spBytes < ea.toNat + size then .error (reachExc 0x80 0 (n64 Config.spBytes)) else .ok (spAddr g ea.toNat)
  else
    match s.place (s.jobOf cid) ea with
    | .notHeld => .error (reachExc 0x80 0x04 ea)
    | .there _ => if badSp ea then .error (reachExc 0x80 0x07 ea) else .error (reachExc 0x81 0 ea)
    | .here =>
      if badSp ea then .error (reachExc 0x80 0x07 ea)
      else if !tierOf ea || coreOfAddr ea / Config.coresPerCluster != g / Config.coresPerCluster then
        .error (reachExc 0x81 0 ea)
      else if coreOfAddr ea != g && !s.inPart (s.partOf cid) (coreOfAddr ea) then .error (reachExc 0x81 0 ea)
      else if Config.spBytes < bits ea.toNat 19 0 + size then
        .error (reachExc 0x80 0 (ea + n64 (Config.spBytes - bits ea.toNat 19 0)))
      else .ok (spAddr (coreOfAddr ea) (bits ea.toNat 19 0))

/-- The access's exception, if it has one. -/
def reachErr (s : State) (cid : Nat) (ea : Word64) (size : Nat) : Option Exc :=
  match reach s cid ea size with
  | .ok _ => none
  | .error e => some e

/-- The physical address of an access that `reach` accepts. -/
def reachPa (s : State) (cid : Nat) (ea : Word64) (size : Nat) : Nat :=
  match reach s cid ea size with
  | .ok pa => pa
  | .error _ => 0

/-! ### Control words of the vector ops (R144) -/

/-- The mask register of a V op; `vm0` without EXT. -/
def vMaskReg (x : ArgV) : Nat := bits (vExt x) 31 29

/-- The Z option. -/
def vZ (x : ArgV) : Bool := bitOf (vExt x) 24

/-- The SAT option. -/
def vSat (x : ArgV) : Bool := bitOf (vExt x) 23

/-- The SCAL option. -/
def vScal (x : ArgV) : Bool := bitOf (vExt x) 22

/-- The rounding mode of a V op: RNDO, or `FMT.RND` (R144). -/
def vRnd (x : ArgV) (fmt : Word64) : Nat :=
  let r := bits (vExt x) 8 6
  if r = 0 then (FEnv.ofFmt fmt).rnd else r - 1

/-- The held op that an op leaves in its slot (R59): its words with HOLD, or nothing. -/
def holdOf (h : Bool) (w : Option SlotWords) : Option HeldOp :=
  if h then w.map (fun x => { word := x.word, ext := x.ext }) else none

end Sys2Proof.Machine
end

