-- ==== Sys2Proof/Machine/Issue.lean ====
section
/-! DEFINITION. One issue of a bundle once its ops are decoded (R39, R52, R58): what an op is, the checks in their order,
the effects in slot order, and what follows the issue: hold state (R60), the `FMT` shadow (R68), the loop nest (R64 to R67,
R108, R109), transfers (R50), post-issue traps (R58, R271), fences (R216) and step stops (R268). -/

namespace Sys2Proof.Machine

open Sys2Proof

/-- A slot op ready to issue: its SLOT code (R37), whether it is a held re-issue, what it leaves held in its slot, its
sources in check order (R39), the registers it writes by file code (6 for a loop counter), the rows of its table that stand
before that of an empty source (R9), its other traps and faults, the barrier expectation that it posts, with its overflow
(R289), the traps of `LDL` and `STUL`, settled after every other (R134), the resource it waits for with what the wait does, its
effect, computed from the state before the bundle and applied to the state so far, and its memory writes, which a fence may hold
back (R216): an L op's instruction with that write, and an X op's barrier writes, read off the state before the bundle. -/
structure Op where
  slot : Nat
  held : Bool
  hold : Option HeldOp
  srcs : List Src
  dsts : List (Nat × Nat)
  early : State → Option Exc
  chk : State → Option Exc
  posts : State → Option (Nat × Int × Exc)
  late : State → Option Exc
  wait : State → Option (Nat × (State → State))
  eff : State → State → State
  mem : Option (Instr × (State → State → State))
  bars : State → List BarOp

/-- An op with sources, destinations and an effect only. -/
def Op.plain (slot : Nat) (srcs : List Src) (dsts : List (Nat × Nat)) (eff : State → State → State) : Op :=
  { slot := slot, held := false, hold := none, srcs := srcs, dsts := dsts, early := fun _ => none, chk := fun _ => none,
    posts := fun _ => none, late := fun _ => none, wait := fun _ => none, eff := eff, mem := none,
    bars := fun _ => [] }

/-! ### The barrier word (R287) -/

/-- PEND. The Zero bits 61..48 of the word are ignored, and clear at the next update (log entry 70). -/
def barPend (s : State) (pa : Nat) : Int := sx 48 (rd s pa 8 % 2 ^ 48)

/-- PHASE. -/
def barPhase (s : State) (pa : Nat) : Bool := bitOf (rd s pa 8) 63

/-- OVF. -/
def barOvf (s : State) (pa : Nat) : Bool := bitOf (rd s pa 8) 62

/-- INIT. -/
def barInit (s : State) (pa : Nat) : Nat := bits (rd s (pa + 8) 8) 63 48

/-- REM. -/
def barRem (s : State) (pa : Nat) : Nat := bits (rd s (pa + 8) 8) 47 32

/-- GEN. -/
def barGen (s : State) (pa : Nat) : Nat := bits (rd s (pa + 8) 8) 31 0

/-- A barrier's 16 bytes written from its fields. -/
def putBarrier (s : State) (pa : Nat) (phase ovf : Bool) (pend : Int) (ini rem gen : Nat) : State :=
  wr (wr s pa 8 (b2n phase * 2 ^ 63 + b2n ovf * 2 ^ 62 + bitsInt pend 48)) (pa + 8) 8
    (ini % 65536 * 2 ^ 48 + rem % 65536 * 2 ^ 32 + gen % 2 ^ 32)

/-- A completion releases every waiter on the barrier (R293). -/
def wakeWaiters (s : State) (pa : Nat) : State :=
  s.liveCtxs.foldl (fun s c => match (s.ctx c).claim with
    | some k => if k.addr = pa then s.updCtx c (fun x => { x with claim := some { k with woken := true } }) else s
    | none => s) s

/-- A `BINIT` makes every waiter on the barrier try again against the new word (R293). -/
def retryWaiters (s : State) (pa : Nat) : State :=
  s.liveCtxs.foldl (fun s c => match (s.ctx c).claim with
    | some k => if k.addr = pa then s.updCtx c (fun x => { x with claim := some { k with retry := true } }) else s
    | none => s) s

/-- Whether an expectation would take PEND above 2^47 - 1 (R289). -/
def barOver (s : State) (pa : Nat) (dp : Int) : Bool := decide ((2 ^ 47 : Int) - 1 < barPend s pa + dp)

/-- The update of R288, for a delta that does not overflow. -/
def barUpdate (s : State) (pa : Nat) (dp : Int) (da : Nat) : State :=
  let p := barPend s pa + dp
  let low := decide (p < -(2 ^ 47 : Int))
  let p := if low then -(2 ^ 47 : Int) else p
  let ovf := barOvf s pa || low
  let rem := (barRem s pa + 65536 - da) % 65536
  if p = 0 ∧ rem = 0 ∧ ovf = false then
    wakeWaiters (putBarrier s pa (!barPhase s pa) false 0 (barInit s pa) (barInit s pa) (barGen s pa + 1)) pa
  else putBarrier s pa (barPhase s pa) ovf p (barInit s pa) rem (barGen s pa)

/-- An expectation that a multicast posts: one that overflows sets OVF and changes nothing else (R289). -/
def barExpectMember (s : State) (pa : Nat) (dp : Int) : State :=
  if barOver s pa dp then
    putBarrier s pa (barPhase s pa) true (barPend s pa) (barInit s pa) (barRem s pa) (barGen s pa)
  else barUpdate s pa dp 0

/-- A barrier write of an X op is made. -/
def runBar (s : State) : BarOp → State
  | .init pa n => putBarrier s pa false false 0 n n 0
  | .post pa dp _ _ => barUpdate s pa dp 0
  | .expect pa dp => barExpectMember s pa dp
  | .update pa dp da => barUpdate s pa dp da

/-! ### The checks (R58 steps 4 and 5, and the waits) -/

/-- The first empty source of an op, with its position. -/
def firstEmptySrc (s : State) (cid : Nat) : Nat → List Src → Option (Nat × Src)
  | _, [] => none
  | n, x :: t => if srcFull s cid x then firstEmptySrc s cid (n + 1) t else some (n, x)

/-- The first empty source of the bundle, with its op (R39). -/
def firstEmpty (s : State) : List Op → Option (Op × Nat × Src)
  | [] => none
  | o :: t => match firstEmptySrc s s.cur 0 o.srcs with
    | some (n, x) => some (o, n, x)
    | none => firstEmpty s t

/-- The first exception that a check finds, in slot order. -/
def firstExc (s : State) (f : Op → State → Option Exc) : List Op → Option Exc
  | [] => none
  | o :: t => match f o s with
    | some e => some e
    | none => firstExc s f t

/-- An op's own traps and faults, in the order of its rows. -/
def Op.own (o : Op) (s : State) : Option Exc :=
  match o.early s with
  | some e => some e
  | none => o.chk s

/-- The first expectation, in slot order, that overflows its barrier on top of those of earlier ops of the bundle (R289);
`p` gives PEND of a barrier. -/
def firstOver (s : State) (p : Nat → Int) : List Op → Option Exc
  | [] => none
  | o :: t => match o.posts s with
    | none => firstOver s p t
    | some (pa, dp, e) =>
      if (2 ^ 47 : Int) - 1 < p pa + dp then some e else firstOver s (fun a => if a = pa then p a + dp else p a) t

/-- A barrier wait of a bundle that something else holds back takes its claim: the claim runs from the first try (R293). -/
def noteClaim (s : State) (o : Op) : State :=
  if o.slot == 3 && o.srcs.all (srcFull s s.cur) && (o.own s).isNone then
    match o.wait s with
    | some (3, f) => f s
    | _ => s
  else s

/-- A full/empty block takes note of its source (R248) and of the barrier claims of its bundle. -/
def noteBlock (ops : List Op) (f r : Nat) (s : State) : State :=
  (ops.foldl noteClaim s).updMe (fun c => { c with waitSrc := some (f, r) })

/-- The first wait, in slot order (R58), with the barrier claims of the ops behind it. -/
def firstWait (s : State) : List Op → Option (Nat × (State → State))
  | [] => none
  | o :: t => match o.wait s with
    | some w => some (w.1, fun s => w.2 (t.foldl noteClaim s))
    | none => firstWait s t

/-- What the checks of an issue find. -/
inductive Verdict where
  | exc (e : Exc)
  | wait (reason : Nat) (act : State → State)
  | go

/-- What the first empty source decides (R39): a row of its op's table that comes first (R9), else trap or block. -/
def emptyVerdict (ops : List Op) (s : State) (o : Op) (n : Nat) (x : Src) : Verdict :=
  match o.early s with
  | some e => .exc e
  | none => if x.trap then .exc (emptyExc s s.cur n o.slot o.held x) else .wait 1 (noteBlock ops x.file x.reg)

/-- The first trap or fault of the ops themselves (R58 step 5), those of `LDL` and `STUL` last (R134). -/
def ownExc (ops : List Op) (s : State) : Option Exc :=
  (firstExc s Op.own ops).or ((firstOver s (barPend s) ops).or (firstExc s Op.late ops))

/-- The checks of R58 steps 4 and 5, then the waits. -/
def verdict (ops : List Op) (s : State) : Verdict :=
  match firstEmpty s ops with
  | some (o, n, x) => emptyVerdict ops s o n x
  | none =>
    match ownExc ops s with
    | some e => .exc e
    | none =>
      match firstWait s ops with
      | some w => .wait w.1 w.2
      | none => .go

/-! ### Fences (R214 to R217) -/

/-- Whether a destination lies in a fence's scope (R215). -/
def inScope (s : State) (cid scope : Nat) (a : Word64) : Bool :=
  let j := s.jobOf cid
  let rg := 2 ^ (s.job j).rglog2
  if isShort a then true else
  match s.place j a with
  | .here =>
    decide (1 ≤ scope) || (tierOf a && coreOfAddr a / Config.coresPerCluster == s.homeCore cid / Config.coresPerCluster)
  | .there c => scope == 3 || (scope == 2 && c / rg == (s.job j).own / rg)
  | .notHeld => scope == 3

/-- The destinations that an engine job writes (R206); a multicast's lie in its members' scratchpads (R314). -/
def jobDsts (j : CopyJob) : List Word64 :=
  if j.kind = .mcast then j.members.map (fun m => podSp m 0)
  else [j.box.dst] ++ (if j.box.bar = 0 then [] else [j.box.bar]) ++ (if j.box.ctr = 0 then [] else [j.box.ctr])

/-- Whether a storer ring still has to pull a tile that an op numbered below `bound` passed on (R310). -/
def subBusy (bound : Nat) (x : Sub) : Bool := x.ring.storer && x.tnums.any (fun t => decide (t.2 ≤ bound))

/-- Tree traffic of a port (R380): its triple is the port's own. -/
def Sent.tree (f : Sent) : Bool := decide (2048 ≤ f.chip) && decide (f.chip < 4096)

/-- Whether an unacknowledged flit of a context carries a covered write in scope (R215, R216): a collective's tree traffic and a
lost operation are not waited for. -/
def flitCovered (s : State) (cid scope bound : Nat) (f : Sent) : Bool :=
  let rg := 2 ^ (s.job f.job).rglog2
  f.ctx == cid && decide (f.op < bound) && !f.tree && !f.lost
    && (scope == 3 || (scope == 2 && f.lchip / rg == (s.job f.job).own / rg))

/-- Whether every covered write in scope is performed, for the jobs numbered below `bound` (R216). -/
def fenceDone (s : State) (cid scope bound : Nat) : Bool :=
  let k := s.core (s.homeCore cid)
  !(k.jobs.any (fun j => j.ctx == cid && decide (j.num < bound) && !j.dead && (jobDsts j).any (inScope s cid scope)))
  && !(k.mq.any (fun e => e.ctx == cid && decide (e.num < bound) && e.opc == 4))
  && !(k.savedOps.any (fun e => e.ctx == cid && decide (e.num < bound) && e.opc == 4))
  && !(s.quays.any (fun q => q.2.subs.any (fun p => (p.2.map (fun x =>
        x.ctx == cid && decide (1 ≤ scope) && subBusy bound x)).getD false)))
  && !(s.ports.any (fun p => p.2.buf.any (flitCovered s cid scope bound)))

/-- `EINFO` of trap 0x51 (R217). -/
def lossInfo (c : Context) : Word64 := n64 (c.firstLost % 2 ^ 11 * 2 ^ 37 + min c.loss (2 ^ 32 - 1))

/-! ### Loop bodies (R64 to R67, R107) -/

/-- The number of words of a bundle from its header's slot count: each slot word with EXT carries one more (R48). -/
def bundleTail (s : State) (j : Nat) : Nat → Word64 → Except (Word64 × Exc) (List Word32)
  | 0, _ => .ok []
  | n + 1, a =>
    match fetchWord s j a with
    | .error e => .error (a, e)
    | .ok w =>
      if bitOf w.toNat 31 then
        match fetchWord s j (a + 4) with
        | .error e => .error (a + 4, e)
        | .ok x => match bundleTail s j n (a + 8) with
          | .error e => .error e
          | .ok t => .ok (w :: x :: t)
      else match bundleTail s j n (a + 4) with
        | .error e => .error e
        | .ok t => .ok (w :: t)

/-- MARK and the zero bits of a header (R47, R49). -/
def headerOk (h : Word32) : Bool := bits h.toNat 31 28 == 0xB && bits h.toNat 11 0 == 0

/-- The words of the bundle at an address; a word that is no header is read alone (R48, R49). -/
def fetchBundle (s : State) (j : Nat) (a : Word64) : Except (Word64 × Exc) (List Word32) :=
  match fetchWord s j a with
  | .error e => .error (a, e)
  | .ok h =>
    if headerOk h then
      match bundleTail s j (popcount 7 (bits h.toNat 27 21)) (a + 4) with
      | .error e => .error e
      | .ok t => .ok (h :: t)
    else .ok [h]

/-- The words of body bundle `p` at address `a`: from the loop buffer, else from memory (R66, R67). -/
def bodyWords (s : State) (j : Nat) (n : Nest) (p : Nat) (a : Word64) : Except (Word64 × Exc) (List Word32) :=
  match Sparse.get [] n.buf p with
  | [] => fetchBundle s j a
  | ws => .ok ws

/-- A malformed bundle or one that breaks the body's limits (R65): trap 0x01 naming it. -/
def limitExc : Exc := Exc.mk' 0x01 0 0

/-- Whether the bundle at position `p`, ending `n` words into the body, breaks a limit (R65). -/
def breaksLimit (body p n : Nat) (lbe : Bool) : Bool := decide (32 ≤ p) || decide (256 < n) || (lbe && p != body)

/-- The walk of a body's headers from position `p` at address `a` (R107): the address after the LBE bundle at the encoded
position, or the first failure with its address. -/
def walkBody (s : State) (j : Nat) (n : Nest) : Nat → Nat → Word64 → Except (Word64 × Exc) Word64
  | 0, _, a => .error (a, limitExc)
  | fuel + 1, p, a =>
    match bodyWords s j n p a with
    | .error e => .error (a, e.2)
    | .ok ws =>
      let h := ws.headD 0
      let nx := a + n64 (4 * ws.length)
      if !headerOk h || breaksLimit n.body p ((nx - n.first).toNat / 4) (bitOf h.toNat 16) then .error (a, limitExc)
      else if p = n.body ∧ bitOf h.toNat 16 = true then .ok nx
      else walkBody s j n fuel (p + 1) nx

/-- The exit point of a nest (R107). -/
def exitPoint (s : State) (j : Nat) (n : Nest) : Except (Word64 × Exc) Word64 := walkBody s j n 33 0 n.first

/-- The position in the body of the bundle at a branch target, if it is one (R66). -/
def bodyPos (s : State) (j : Nat) (n : Nest) (t : Word64) : Nat → Nat → Word64 → Option Nat
  | 0, _, _ => none
  | fuel + 1, p, a =>
    if a = t then some p
    else if n.body ≤ p then none
    else match bodyWords s j n p a with
      | .error _ => none
      | .ok ws => if headerOk (ws.headD 0) then bodyPos s j n t fuel (p + 1) (a + n64 (4 * ws.length)) else none

/-- The strides of one level (R106, R108). -/
def applyStrides (c : Context) (r : StrideRec) : Context :=
  (List.range (min (bits r.head.toNat 3 0) 8)).foldl (fun c i =>
    c.stepA (bits r.head.toNat (4 * i + 11) (4 * i + 8)) ((r.strides.getD i 0).signExtend 64)) c

/-- The level transition of R108 from level `l`: the context, and whether the nest goes on. -/
def levelStep : Nat → Nat → Context → Context × Bool
  | 0, _, c => (c, false)
  | fuel + 1, l, c =>
    let c := applyStrides (c.wLC l (c.rLC l + 1)) (c.nest.recs.getD l { head := 0, strides := [] })
    if (c.rLC l).toNat < (c.nest.trip.getD l 0).toNat then (c, true)
    else if l = c.nest.levels then
      ((List.range (c.nest.levels + 1)).foldl (fun c m => c.wLC m (c.nest.trip.getD m 0)) c, false)
    else levelStep fuel (l + 1) (c.wLC l 0)

/-! ### After the issue -/

/-- The latch as an issue begins: it takes note of single-step (R268). `STEPCTL` is read at every issue, so a `CSRW` of it in a
bundle with REP acts from the next repetition (log entry 75). -/
def latchBegin (l : Latch) (c : Context) : Latch :=
  { l with
    fence := none, post := none, target := none, tgtRep := 0, eret := false, exitNest := false, enter := .none,
    step := c.tlevel == 0 && bitOf c.stepctl.toNat 0, stepHost := bitOf c.stepctl.toNat 1, info := 0, promise := 0,
    yielded := false }

/-- The context as an issue begins: `FMT` writes that are due take effect (R68), the measure of R265 restarts, and the bundle and
the registers that await writeback are noted for a trap that follows it (R257). -/
def Context.begin (c : Context) : Context :=
  { c with
    fmt := c.fmtNow, fmtPend := c.fmtPend.filter (fun p => p.1 != 0), blockedAt := 0, claim := none, lockWait := none,
    mgrant := .none, triedS := c.pends, triedO := c.pendo, lastPoint := c.point, waitSrc := none, spared := false }

/-- What begins an issue. -/
def beginIssue (s : State) : State := (s.latched (fun l => latchBegin l s.me)).updMe Context.begin

/-- The context with its next issue point: bundle, repetition, and the bundle of the transfer that led there. -/
def Context.goTo (c : Context) (pc : Word64) (rep : Nat) (src : Word64) : Context :=
  { c with pc := pc, rep := rep, brSrc := src }

/-- The context with another loop nest. -/
def Context.withNest (c : Context) (n : Nest) : Context := { c with nest := n }

/-- The next issue point (R50, R52, R66, R107 to R109), or the exception that finding the exit point meets. -/
def advance (s : State) : State × Option Exc :=
  let c := s.me
  let l := s.latch
  let j := s.jobOf s.cur
  let here := c.pc
  let goOut (n : Nest) : State × Option Exc :=
    match exitPoint s j n with
    | .ok a => (s.updMe (fun c => (c.withNest .none).goTo a 0 0), none)
    | .error (a, e) => (s.updMe (fun c => (c.withNest .none).goTo a 0 0), some e)
  if l.eret then (s.updMe (fun c => c.leave.goTo (l.target.getD 0) l.tgtRep here), none)
  else match l.target with
    | some t =>
      let n := if c.nest.active then
          match bodyPos s j c.nest t 33 0 c.nest.first with
          | some p => { c.nest with pos := p }
          | none => Nest.none
        else Nest.none
      (s.updMe (fun c => (c.withNest n).goTo t 0 here), none)
    | none =>
      if c.rep < l.repn then (s.updMe (fun c => c.goTo c.pc (c.rep + 1) 0), none)
      else if l.enter.active then
        if l.exitNest then goOut l.enter
        else (s.updMe (fun c => (c.withNest l.enter).goTo l.next 0 0), none)
      else if c.nest.active then
        if l.exitNest then goOut c.nest
        else if c.nest.pos = c.nest.body ∧ l.lbe = true then
          let r := levelStep 6 0 c
          (s.updMe (fun _ => if r.2 then (r.1.withNest { r.1.nest with pos := 0 }).goTo c.nest.first 0 0
            else (r.1.withNest .none).goTo l.next 0 0), none)
        else (s.updMe (fun c => (c.withNest { c.nest with pos := c.nest.pos + 1 }).goTo l.next 0 0), none)
      else (s.updMe (fun c => c.goTo l.next 0 0), none)

/-- A trap whose return point is the next issue point (R257); its copy names the registers that awaited writeback when the
bundle was tried. -/
def raisePost (s : State) (cid code : Nat) (eva einfo : Word64) : State :=
  let c := s.ctx cid
  takeTrap s cid
    { code := code, eva := eva, einfo := einfo, snapst := false, ret := c.point, pends := c.triedS, pendo := c.triedO,
      repn := peekRep s (s.jobOf cid) c.pc }

/-- A step stop (R268): trap 0x60, or a step record and reason 14 until the host releases it. -/
def stepStop (s : State) (cid : Nat) (o : Owed) : State :=
  let s := s.updCtx cid (fun c => { c with owed := none })
  if o.host then
    let c := s.ctx cid
    let u : UnitId := { kind := 0, inst := s.ctxid cid }
    let s := match s.ctxLaunch cid with
      | some l => putStop s l.queue (stopCommon s l u u 0x60 false c.point ++ stopContext c .blocked 0 0 o.info o.promise)
      | none => s
    block (s.updCtx cid (fun c => { c with after := .step })) cid 14
  else raisePost s cid 0x60 o.promise o.info

/-- The step stop that a context still owes. -/
def settleStep (s : State) (cid : Nat) : State :=
  match (s.ctx cid).owed with
  | some o => stepStop s cid o
  | none => s

/-- The end of a fence (R216): losses raise trap 0x51, else a step stop follows if one is owed. -/
def fenceEnd (s : State) (cid : Nat) : State :=
  let c := s.ctx cid
  if 0 < c.loss then
    raisePost (s.updCtx cid (fun c => { c with loss := 0, owed := none })) cid 0x51 0 (lossInfo c)
  else settleStep s cid

/-- The words of a body bundle enter the loop buffer on their first issue (R66). -/
def Context.fillBuffer (c : Context) (ws : List Word32) : Context :=
  if c.nest.active && (Sparse.get [] c.nest.buf c.nest.pos).isEmpty then
    c.withNest { c.nest with buf := Sparse.set [] c.nest.buf c.nest.pos ws }
  else c

/-- The step information notes a matrix token (R269). -/
def noteToken (t : Nat) (s : State) : State :=
  { s with latch := { s.latch with info := s.latch.info ||| n64 (2 ^ 8 + t % 256) } }

/-- The step information notes a pool entry. -/
def noteEntry (e : Nat) (s : State) : State :=
  { s with latch := { s.latch with info := s.latch.info ||| n64 (2 ^ 10 + e % 1024 * 2 ^ 12) } }

/-- A promise is written to its register, full at once (R303), and noted for a step stop. -/
def givePromise (sreg p : Nat) (s : State) : State :=
  let s := s.updMe (fun c => c.wSnow sreg (n64 p))
  { s with latch := { s.latch with info := s.latch.info ||| n64 (2 ^ 9), promise := n64 p } }

/-- One issue cycle passes for every pending `FMT` write (R68), and a host's answer has been used (R239). -/
def Context.tickFmt (c : Context) : Context :=
  { c with fmtPend := c.fmtPend.map (fun p => (p.1 - 1, p.2)), grant := .none }

/-- The context owes a step stop, or none. -/
def Context.owing (c : Context) (o : Option Owed) : Context := { c with owed := o }

/-- The context waits for something to end. -/
def Context.awaits (c : Context) (a : After) : Context := { c with after := a }

/-- The context with its hold state. -/
def Context.holding (c : Context) (h : Held) : Context := { c with held := h }

/-- Whether the context in a slot of a core can issue (R247, R325). -/
def ableTo (s : State) (g k : Nat) : Bool := canIssue (s.ctx (g * 4 + k)).st && s.started (g * 4 + k)

/-- Whether another context of the core can issue (R250, R251). -/
def otherReady (s : State) (cid : Nat) : Bool :=
  (List.range 4).any (fun k => k != slotOf cid && ableTo s (coreOf cid) k)

/-- The holder goes to the back of the rotation (R251). -/
def passWidth (s : State) (cid : Nat) : State :=
  releaseWidth (s.updCtx cid (fun c => { c with st := if c.st = .running then .ready else c.st })) cid

/-- The end of an issue after which the context goes on: a sleep, a step stop (R268), and last a yield (R275). -/
def goesOnTo (s : State) : State :=
  let l := s.latch
  if s.me.st = .sleeping then releaseWidth s s.cur
  else
    let s := if l.step then settleStep s s.cur else s
    if l.yielded && otherReady s s.cur then passWidth s s.cur else s

/-- What follows an issue that ends with neither a trap nor a fence: the block's end, a snapshot's transfer (R273), or the next
issue. -/
def afterIssue (s : State) : State :=
  match s.me.after with
  | .haltb => block (s.updMe (fun c => c.owing none)) s.cur 5
  | .snapst _ => block s s.cur 12
  | .snapld => block s s.cur 12
  | .none => goesOnTo s
  | .fence _ _ => goesOnTo s
  | .trapEntry _ => goesOnTo s
  | .step => goesOnTo s

/-- What ends an issue cycle, in order: the shadow, the next issue point, then a post-issue trap, a fence, a sleep, the
block's end, a snapshot's transfer (R273) or a step stop, and last a yield (R275). A fence covers the jobs numbered below `bound`. -/
def finish (fenced : Bool) (bound : Nat) (s : State) : State :=
  let a := advance (s.updMe (fun c => (c.fillBuffer s.latch.words).tickFmt))
  let s := a.1
  match a.2 with
  | some e => raise s e
  | none =>
    let l := s.latch
    match l.post with
    | some (code, einfo) => raisePost s s.cur code 0 einfo
    | none =>
      let owed := if l.step then some { info := l.info, promise := l.promise, host := l.stepHost } else none
      let s := s.updMe (fun c => c.owing owed)
      match l.fence with
      | some sc =>
        if fenced then block (s.updMe (fun c => c.awaits (.fence sc bound))) s.cur 6 else fenceEnd s s.cur
      | none => afterIssue s

/-- The held ops after the ops of a bundle have issued: a named slot's hold ends, or becomes the op named (R60). -/
def Held.after (h : Held) (o : Op) : Held :=
  if o.held then h else
  match o.slot with
  | 3 => { h with l := o.hold }
  | 4 => { h with v := o.hold }
  | 5 => { h with m := o.hold }
  | 6 => { h with x := o.hold }
  | _ => h

/-- Hold state after an issue. -/
def holds (ops : List Op) (s : State) : State := s.updMe (fun c => c.holding (ops.foldl Held.after c.held))

/-- The memory writes of an op of a bundle whose fence must wait are held back, with the context before the issue (R216). -/
def deferOp (pre cur : State) (i : Option Instr) (l : List BarOp) : State :=
  { cur with deferred := cur.deferred ++ [{ ctx := pre.cur, op := i, pre := pre.me, bars := l }] }

/-- An X op's barrier writes, made now or held back. -/
def postBars (wait : Bool) (pre cur : State) : List BarOp → State
  | [] => cur
  | b :: t => if wait then deferOp pre cur none (b :: t) else (b :: t).foldl runBar cur

/-- The effect of one op, with its memory writes now, or held back when the bundle's fence must wait. An X op's barrier writes
come before the job that they announce (R290). -/
def effect (wait : Bool) (pre cur : State) (o : Op) : State :=
  match o.mem with
  | none => o.eff pre (postBars wait pre cur (o.bars pre))
  | some m => if wait then deferOp pre (o.eff pre cur) (some m.1) [] else m.2 pre (o.eff pre cur)

/-- The effects of the ops in slot order (R58). -/
def effects (wait : Bool) (pre : State) (ops : List Op) (s : State) : State :=
  ops.foldl (effect wait pre) s

/-- The scope of the fence among the ops, as its effect would note it (R216). -/
def fenceOf (pre : State) (ops : List Op) : Option Nat :=
  ((ops.filter (fun o => o.slot == 0)).foldl (fun cur o => o.eff pre cur) pre).latch.fence

/-- Whether the bundle's fence must wait for earlier writes of the context. -/
def fenceWaits (pre : State) (ops : List Op) : Bool :=
  match fenceOf pre ops with
  | some sc => !fenceDone pre pre.cur sc pre.num
  | none => false

/-- The issue of the ops, all checks passed: effects, hold state, and what follows. -/
def commit (ops : List Op) (s : State) : State :=
  let pre := beginIssue s
  let w := fenceWaits pre ops
  finish w pre.num (holds ops (effects w pre ops pre))

/-- One issue of a context's ops (R39): an exception is taken, a wait blocks the context, else the ops issue. -/
def issue (ops : List Op) (s : State) : State :=
  match verdict ops s with
  | .exc e => raise s e
  | .wait r act => block (act s) s.cur r
  | .go => commit ops s

/-- The words of an instruction as a held op holds them. -/
def wordsOf (i : Instr) : HeldOp :=
  match encode i with
  | some w => { word := w.word, ext := w.ext }
  | none => { word := 0, ext := 0 }

/-- An op that issues alone: the meaning of a slot op. -/
def issueOne (o : Op) (s : State) : Host.Outcome State Fault Refusal := .next (issue [o] s)

end Sys2Proof.Machine
end

