-- ==== Sys2Proof/Machine/Scalar.lean ====
section
/-! DEFINITION. The scalar ops (R113 to R124). A meaning issues its op in S0 (SLOT 1). -/

namespace Sys2Proof.Machine

open Sys2Proof

/-- Flags raised: ORed into `FLAGS` (R45). -/
def Context.raiseFl (c : Context) (f : FlagSet) : Context := { c with flags := c.flags ||| f }

/-- An op with one scalar result, a function of the context before the bundle. -/
def opS (slot : Nat) (srcs : List Src) (dst : Fin 64) (f : Context → Word64 × FlagSet) : Op :=
  Op.plain slot srcs [(0, dst.val)] (fun pre cur =>
    cur.updMe (fun c => (c.wS dst (f pre.me).1).raiseFl (f pre.me).2))

/-- An op with one predicate result. -/
def opP (slot : Nat) (srcs : List Src) (pd : Fin 8) (f : Context → Bool × FlagSet) : Op :=
  Op.plain slot srcs [(2, pd.val)] (fun pre cur =>
    cur.updMe (fun c => (c.wP pd (f pre.me).1).raiseFl (f pre.me).2))

/-- The sources of a two-source op in format A. -/
def src2A (x : ArgA) : List Src := [srcS x.src1 x.b1, srcS x.src2 x.b2]

/-- An integer result (R113): `ext` of the exact value, with OF when `ov` and the value lies outside the type (R74). -/
def intRes (t : ITy) (ov : Bool) (v : Int) : Word64 × FlagSet := (t.ext v, flagIf (ov && t.out v) flOF)

/-- A two-source integer op (R114): `f` takes the type and both sources' low bits. -/
def int2 (slot : Nat) (x : ArgA) (ov : Bool) (f : ITy → Nat → Nat → Int) : Op :=
  opS slot (src2A x) x.dst (fun c =>
    intRes (intTy x.mod) ov (f (intTy x.mod) (c.rS x.src1).toNat (c.rS x.src2).toNat))

/-- A one-source integer op (R115). -/
def int1 (slot : Nat) (x : ArgA) (ov : Bool) (f : ITy → Nat → Int) : Op :=
  opS slot [srcS x.src1 x.b1] x.dst (fun c => intRes (intTy x.mod) ov (f (intTy x.mod) (c.rS x.src1).toNat))

/-- The pattern of a source (R113). -/
def ITy.low (t : ITy) (x : Nat) : Nat := x % 2 ^ t.w

/-- The shift amount (R113). -/
def ITy.sh (t : ITy) (y : Nat) : Nat := y % 64 % t.w

/-- Trap 0x10 for a divisor of 0 (R119, R260): it names the divisor. -/
def divZero (slot : Nat) (x : ArgA) (s : State) : Option Exc :=
  if (intTy x.mod).read (s.me.rS x.src2).toNat = 0 then
    some (Exc.mk' 0x10 0 (emptyInfo 1 slot false (srcS x.src2 x.b2)))
  else none

/-- A division (R114), with its trap. -/
def quotOp (slot : Nat) (x : ArgA) (ov : Bool) (f : Int → Int → Int) : Op :=
  { int2 slot x ov (fun t a b => f (t.read a) (t.read b)) with chk := divZero slot x }

/-- A 64-bit immediate op (R116). -/
def imm64 (slot : Nat) (x : ArgI) (f : Word64 → Int → Word64 × FlagSet) : Op :=
  opS slot [srcS x.src1 x.b1] x.dst (fun c =>
    f (c.rS x.src1) (match x.ext with
      | none => x.imm.toInt
      | some e => e.toInt))

/-- The bit field position and length of R118. -/
def fieldOf (y : Nat) : Nat × Nat := (y % 64, min (bits y 14 8) (64 - y % 64))

/-- The field read by `BFX` and `BFXS`. -/
def fieldVal (x y : Nat) : Nat := x / 2 ^ (fieldOf y).1 % 2 ^ (fieldOf y).2

/-- The integer conditions of `CMP` and `CMPI` (R120). -/
def intCond (cond : Nat) (x y : Word64) : Bool :=
  match cond with
  | 0 => x == y
  | 1 => x != y
  | 2 => x.slt y
  | 3 => !x.slt y
  | 4 => !y.slt x
  | 5 => y.slt x
  | 6 => x.ult y
  | _ => !x.ult y

/-- A predicate logic op (R121). -/
def logicP (slot : Nat) (x : ArgPL) (srcs : List Src) (f : Bool → Bool → Bool) : Op :=
  opP slot srcs x.pd (fun c => (f (c.rP x.pa) (c.rP x.pb), 0))

/-- The scalar floating type of mod (R57). -/
def sFty (m : Nat) : FTy := if m = 0 then f32 else if m = 1 then f16 else bf16

/-- An op that draws from `SEED` once under SR (R87): its value and flags from the context before the bundle and the draw;
`SEED` and `FLAGS` move from their values so far (R112). -/
def opDraw (slot : Nat) (srcs : List Src) (dst : Fin 64) (draws : Bool) (f : Context → Nat → Nat × FlagSet) : Op :=
  Op.plain slot srcs [(0, dst.val)] (fun pre cur =>
    cur.updMe (fun c =>
      let r := Draw.run { fl := c.flags, seed := c.seed } draws (FEnv.ofFmt pre.me.fmt).rnd (f pre.me)
      { c.wS dst (n64 r.1) with flags := r.2.fl, seed := r.2.seed }))

/-- A two-source floating op (R122). -/
def flt2 (slot : Nat) (x : ArgA) (draws : Bool) (f : FTy → FEnv → Nat → Nat → Nat → Nat × FlagSet) : Op :=
  opDraw slot (src2A x) x.dst draws (fun c =>
    f (sFty x.mod) (FEnv.ofFmt c.fmt) ((c.rS x.src1).toNat % 2 ^ (sFty x.mod).w) ((c.rS x.src2).toNat % 2 ^ (sFty x.mod).w))

/-- `ADD` (R114). -/
def addOp (slot : Nat) (x : ArgA) : Op :=
  int2 slot x true (fun t a b => t.read a + t.read b)

/-- The meaning of `ADD`. -/
def execAdd (x : ArgA) (s : State) : Host.Outcome State Fault Refusal :=
  issueOne (addOp 1 x) s

/-- `ADDI` (R116). -/
def addiOp (slot : Nat) (x : ArgI) : Op :=
  imm64 slot x (fun a i => intRes (intTy 0) true (a.toInt + i))

/-- The meaning of `ADDI`. -/
def execAddi (x : ArgI) (s : State) : Host.Outcome State Fault Refusal :=
  issueOne (addiOp 1 x) s

/-- `SUB` (R114). -/
def subOp (slot : Nat) (x : ArgA) : Op :=
  int2 slot x true (fun t a b => t.read a - t.read b)

/-- The meaning of `SUB`. -/
def execSub (x : ArgA) (s : State) : Host.Outcome State Fault Refusal :=
  issueOne (subOp 1 x) s

/-- `MUL` (R114). -/
def mulOp (slot : Nat) (x : ArgA) : Op :=
  int2 slot x true (fun t a b => t.read a * t.read b)

/-- The meaning of `MUL`. -/
def execMul (x : ArgA) (s : State) : Host.Outcome State Fault Refusal :=
  issueOne (mulOp 1 x) s

/-- `MULHI` (R114). -/
def mulhiOp (slot : Nat) (x : ArgA) : Op :=
  int2 slot x false (fun t a b => t.read a * t.read b / ((2 ^ t.w : Nat) : Int))

/-- The meaning of `MULHI`. -/
def execMulhi (x : ArgA) (s : State) : Host.Outcome State Fault Refusal :=
  issueOne (mulhiOp 1 x) s

/-- `MULHN` (R114). -/
def mulhnOp (slot : Nat) (x : ArgA) : Op :=
  int2 slot x false (fun t a b => t.read a * t.read b / ((2 ^ t.w : Nat) : Int))

/-- The meaning of `MULHN`. -/
def execMulhn (x : ArgA) (s : State) : Host.Outcome State Fault Refusal :=
  issueOne (mulhnOp 1 x) s

/-- `DIV` (R114, R119). -/
def divOp (slot : Nat) (x : ArgA) : Op :=
  quotOp slot x true Int.tdiv

/-- The meaning of `DIV`. -/
def execDiv (x : ArgA) (s : State) : Host.Outcome State Fault Refusal :=
  issueOne (divOp 1 x) s

/-- `DIVN` (R114, R119). -/
def divnOp (slot : Nat) (x : ArgA) : Op :=
  quotOp slot x false Int.tdiv

/-- The meaning of `DIVN`. -/
def execDivn (x : ArgA) (s : State) : Host.Outcome State Fault Refusal :=
  issueOne (divnOp 1 x) s

/-- `REM` (R114, R119). -/
def remOp (slot : Nat) (x : ArgA) : Op :=
  quotOp slot x false Int.tmod

/-- The meaning of `REM`. -/
def execRem (x : ArgA) (s : State) : Host.Outcome State Fault Refusal :=
  issueOne (remOp 1 x) s

/-- `REMN` (R114, R119). -/
def remnOp (slot : Nat) (x : ArgA) : Op :=
  quotOp slot x false Int.tmod

/-- The meaning of `REMN`. -/
def execRemn (x : ArgA) (s : State) : Host.Outcome State Fault Refusal :=
  issueOne (remnOp 1 x) s

/-- `MIN` (R114). -/
def minOp (slot : Nat) (x : ArgA) : Op :=
  int2 slot x false (fun t a b => if t.read b < t.read a then t.read b else t.read a)

/-- The meaning of `MIN`. -/
def execMin (x : ArgA) (s : State) : Host.Outcome State Fault Refusal :=
  issueOne (minOp 1 x) s

/-- `MINN` (R114). -/
def minnOp (slot : Nat) (x : ArgA) : Op :=
  int2 slot x false (fun t a b => if t.read b < t.read a then t.read b else t.read a)

/-- The meaning of `MINN`. -/
def execMinn (x : ArgA) (s : State) : Host.Outcome State Fault Refusal :=
  issueOne (minnOp 1 x) s

/-- `MAX` (R114). -/
def maxOp (slot : Nat) (x : ArgA) : Op :=
  int2 slot x false (fun t a b => if t.read a < t.read b then t.read b else t.read a)

/-- The meaning of `MAX`. -/
def execMax (x : ArgA) (s : State) : Host.Outcome State Fault Refusal :=
  issueOne (maxOp 1 x) s

/-- `MAXN` (R114). -/
def maxnOp (slot : Nat) (x : ArgA) : Op :=
  int2 slot x false (fun t a b => if t.read a < t.read b then t.read b else t.read a)

/-- The meaning of `MAXN`. -/
def execMaxn (x : ArgA) (s : State) : Host.Outcome State Fault Refusal :=
  issueOne (maxnOp 1 x) s

/-- `AND` (R114). -/
def andOp (slot : Nat) (x : ArgA) : Op :=
  int2 slot x false (fun t a b => (t.low a &&& t.low b : Nat))

/-- The meaning of `AND`. -/
def execAnd (x : ArgA) (s : State) : Host.Outcome State Fault Refusal :=
  issueOne (andOp 1 x) s

/-- `ANDI` (R116). -/
def andiOp (slot : Nat) (x : ArgI) : Op :=
  imm64 slot x (fun a i => (a &&& w64 i, 0))

/-- The meaning of `ANDI`. -/
def execAndi (x : ArgI) (s : State) : Host.Outcome State Fault Refusal :=
  issueOne (andiOp 1 x) s

/-- `OR` (R114). -/
def orOp (slot : Nat) (x : ArgA) : Op :=
  int2 slot x false (fun t a b => (t.low a ||| t.low b : Nat))

/-- The meaning of `OR`. -/
def execOr (x : ArgA) (s : State) : Host.Outcome State Fault Refusal :=
  issueOne (orOp 1 x) s

/-- `ORI` (R116). -/
def oriOp (slot : Nat) (x : ArgI) : Op :=
  imm64 slot x (fun a i => (a ||| w64 i, 0))

/-- The meaning of `ORI`. -/
def execOri (x : ArgI) (s : State) : Host.Outcome State Fault Refusal :=
  issueOne (oriOp 1 x) s

/-- `XOR` (R114). -/
def xorOp (slot : Nat) (x : ArgA) : Op :=
  int2 slot x false (fun t a b => (t.low a ^^^ t.low b : Nat))

/-- The meaning of `XOR`. -/
def execXor (x : ArgA) (s : State) : Host.Outcome State Fault Refusal :=
  issueOne (xorOp 1 x) s

/-- `XORI` (R116). -/
def xoriOp (slot : Nat) (x : ArgI) : Op :=
  imm64 slot x (fun a i => (a ^^^ w64 i, 0))

/-- The meaning of `XORI`. -/
def execXori (x : ArgI) (s : State) : Host.Outcome State Fault Refusal :=
  issueOne (xoriOp 1 x) s

/-- `ANDN` (R114). -/
def andnOp (slot : Nat) (x : ArgA) : Op :=
  int2 slot x false (fun t a b => (t.low a &&& (2 ^ t.w - 1 - t.low b) : Nat))

/-- The meaning of `ANDN`. -/
def execAndn (x : ArgA) (s : State) : Host.Outcome State Fault Refusal :=
  issueOne (andnOp 1 x) s

/-- `SHL` (R114). -/
def shlOp (slot : Nat) (x : ArgA) : Op :=
  int2 slot x false (fun t a b => (t.low a * 2 ^ t.sh b : Nat))

/-- The meaning of `SHL`. -/
def execShl (x : ArgA) (s : State) : Host.Outcome State Fault Refusal :=
  issueOne (shlOp 1 x) s

/-- `SHLI` (R116). -/
def shliOp (slot : Nat) (x : ArgI) : Op :=
  imm64 slot x (fun a i => (a <<< i.toNat, 0))

/-- The meaning of `SHLI`. -/
def execShli (x : ArgI) (s : State) : Host.Outcome State Fault Refusal :=
  issueOne (shliOp 1 x) s

/-- `SHR` (R114). -/
def shrOp (slot : Nat) (x : ArgA) : Op :=
  int2 slot x false (fun t a b => (t.low a / 2 ^ t.sh b : Nat))

/-- The meaning of `SHR`. -/
def execShr (x : ArgA) (s : State) : Host.Outcome State Fault Refusal :=
  issueOne (shrOp 1 x) s

/-- `SHRI` (R116). -/
def shriOp (slot : Nat) (x : ArgI) : Op :=
  imm64 slot x (fun a i => (a >>> i.toNat, 0))

/-- The meaning of `SHRI`. -/
def execShri (x : ArgI) (s : State) : Host.Outcome State Fault Refusal :=
  issueOne (shriOp 1 x) s

/-- `SRA` (R114). -/
def sraOp (slot : Nat) (x : ArgA) : Op :=
  int2 slot x false (fun t a b => t.read a / ((2 ^ t.sh b : Nat) : Int))

/-- The meaning of `SRA`. -/
def execSra (x : ArgA) (s : State) : Host.Outcome State Fault Refusal :=
  issueOne (sraOp 1 x) s

/-- `SRAI` (R116). -/
def sraiOp (slot : Nat) (x : ArgI) : Op :=
  imm64 slot x (fun a i => (a.sshiftRight i.toNat, 0))

/-- The meaning of `SRAI`. -/
def execSrai (x : ArgI) (s : State) : Host.Outcome State Fault Refusal :=
  issueOne (sraiOp 1 x) s

/-- `ROTL` (R114). -/
def rotlOp (slot : Nat) (x : ArgA) : Op :=
  int2 slot x false (fun t a b => (t.low a * 2 ^ t.sh b % 2 ^ t.w + t.low a * 2 ^ t.sh b / 2 ^ t.w : Nat))

/-- The meaning of `ROTL`. -/
def execRotl (x : ArgA) (s : State) : Host.Outcome State Fault Refusal :=
  issueOne (rotlOp 1 x) s

/-- `CLZ` (R115). -/
def clzOp (slot : Nat) (x : ArgA) : Op :=
  int1 slot x false (fun t a => (clz t.w (t.low a) : Nat))

/-- The meaning of `CLZ`. -/
def execClz (x : ArgA) (s : State) : Host.Outcome State Fault Refusal :=
  issueOne (clzOp 1 x) s

/-- `CTZ` (R115). -/
def ctzOp (slot : Nat) (x : ArgA) : Op :=
  int1 slot x false (fun t a => (ctz t.w (t.low a) : Nat))

/-- The meaning of `CTZ`. -/
def execCtz (x : ArgA) (s : State) : Host.Outcome State Fault Refusal :=
  issueOne (ctzOp 1 x) s

/-- `POPC` (R115). -/
def popcOp (slot : Nat) (x : ArgA) : Op :=
  int1 slot x false (fun t a => (popcount t.w (t.low a) : Nat))

/-- The meaning of `POPC`. -/
def execPopc (x : ArgA) (s : State) : Host.Outcome State Fault Refusal :=
  issueOne (popcOp 1 x) s

/-- `BFX` (R118). -/
def bfxOp (slot : Nat) (x : ArgA) : Op :=
  opS slot (src2A x) x.dst (fun c => (n64 (fieldVal (c.rS x.src1).toNat (c.rS x.src2).toNat), 0))

/-- The meaning of `BFX`. -/
def execBfx (x : ArgA) (s : State) : Host.Outcome State Fault Refusal :=
  issueOne (bfxOp 1 x) s

/-- `BFXS` (R118). -/
def bfxsOp (slot : Nat) (x : ArgA) : Op :=
  opS slot (src2A x) x.dst (fun c =>
    let y := (c.rS x.src2).toNat
    (w64 (sx (fieldOf y).2 (fieldVal (c.rS x.src1).toNat y)), 0))

/-- The meaning of `BFXS`. -/
def execBfxs (x : ArgA) (s : State) : Host.Outcome State Fault Refusal :=
  issueOne (bfxsOp 1 x) s

/-- `BFI` (R118: it reads its destination, which blocks). -/
def bfiOp (slot : Nat) (x : ArgA) : Op :=
  opS slot (src2A x ++ [srcS x.dst false]) x.dst (fun c =>
    let p := fieldOf (c.rS x.src2).toNat
    let d := (c.rS x.dst).toNat
    (n64 (d % 2 ^ p.1 + (c.rS x.src1).toNat % 2 ^ p.2 * 2 ^ p.1 + d / 2 ^ (p.1 + p.2) * 2 ^ (p.1 + p.2)), 0))

/-- The meaning of `BFI`. -/
def execBfi (x : ArgA) (s : State) : Host.Outcome State Fault Refusal :=
  issueOne (bfiOp 1 x) s

/-- `SEXT` (R115). -/
def sextOp (slot : Nat) (x : ArgA) : Op :=
  int1 slot x false (fun t a => t.read a)

/-- The meaning of `SEXT`. -/
def execSext (x : ArgA) (s : State) : Host.Outcome State Fault Refusal :=
  issueOne (sextOp 1 x) s

/-- `ZEXT` (R115). -/
def zextOp (slot : Nat) (x : ArgA) : Op :=
  int1 slot x false (fun t a => t.read a)

/-- The meaning of `ZEXT`. -/
def execZext (x : ArgA) (s : State) : Host.Outcome State Fault Refusal :=
  issueOne (zextOp 1 x) s

/-- `MOV` (R115). -/
def movOp (slot : Nat) (x : ArgA) : Op :=
  opS slot [srcS x.src1 x.b1] x.dst (fun c => (c.rS x.src1, 0))

/-- The meaning of `MOV`. -/
def execMov (x : ArgA) (s : State) : Host.Outcome State Fault Refusal :=
  issueOne (movOp 1 x) s

/-- `MOVI` (R117). -/
def moviOp (slot : Nat) (x : ArgW) : Op :=
  opS slot [] x.dst (fun _ => (match x.ext with
    | none => x.imm.signExtend 64
    | some e => e.signExtend 64, 0))

/-- The meaning of `MOVI`. -/
def execMovi (x : ArgW) (s : State) : Host.Outcome State Fault Refusal :=
  issueOne (moviOp 1 x) s

/-- `MOVHI` (R117: it reads its destination, which blocks). -/
def movhiOp (slot : Nat) (x : ArgW) : Op :=
  opS slot [srcS x.dst false] x.dst (fun c =>
    (n64 ((match x.ext with
      | none => x.imm.toNat
      | some e => e.toNat) * 2 ^ 32 + bits (c.rS x.dst).toNat 31 0), 0))

/-- The meaning of `MOVHI`. -/
def execMovhi (x : ArgW) (s : State) : Host.Outcome State Fault Refusal :=
  issueOne (movhiOp 1 x) s

/-- `CMP` (R120). -/
def cmpOp (slot : Nat) (x : ArgP) : Op :=
  opP slot [srcS x.src1 x.b1, srcS x.src2 x.b2] x.pd (fun c => (intCond x.cond (c.rS x.src1) (c.rS x.src2), 0))

/-- The meaning of `CMP`. -/
def execCmp (x : ArgP) (s : State) : Host.Outcome State Fault Refusal :=
  issueOne (cmpOp 1 x) s

/-- `CMPI` (R120). -/
def cmpiOp (slot : Nat) (x : ArgQ) : Op :=
  opP slot [srcS x.src1 x.b1] x.pd (fun c =>
    (intCond x.cond (c.rS x.src1) (match x.ext with
      | none => x.imm.signExtend 64
      | some e => e.signExtend 64), 0))

/-- The meaning of `CMPI`. -/
def execCmpi (x : ArgQ) (s : State) : Host.Outcome State Fault Refusal :=
  issueOne (cmpiOp 1 x) s

/-- `SEL` (R118: mod names the predicate, which blocks). -/
def selOp (slot : Nat) (x : ArgA) : Op :=
  opS slot (src2A x ++ [srcP x.mod]) x.dst (fun c =>
    (if c.rP x.mod then c.rS x.src1 else c.rS x.src2, 0))

/-- The meaning of `SEL`. -/
def execSel (x : ArgA) (s : State) : Host.Outcome State Fault Refusal :=
  issueOne (selOp 1 x) s

/-- `ABS` (R115). -/
def absOp (slot : Nat) (x : ArgA) : Op :=
  int1 slot x true (fun t a => ((t.read a).natAbs : Nat))

/-- The meaning of `ABS`. -/
def execAbs (x : ArgA) (s : State) : Host.Outcome State Fault Refusal :=
  issueOne (absOp 1 x) s

/-- `NEG` (R115). -/
def negOp (slot : Nat) (x : ArgA) : Op :=
  int1 slot x true (fun t a => -t.read a)

/-- The meaning of `NEG`. -/
def execNeg (x : ArgA) (s : State) : Host.Outcome State Fault Refusal :=
  issueOne (negOp 1 x) s

/-- `PAND` (R121). -/
def pandOp (slot : Nat) (x : ArgPL) : Op :=
  logicP slot x [srcP x.pa, srcP x.pb] (fun a b => a && b)

/-- The meaning of `PAND`. -/
def execPand (x : ArgPL) (s : State) : Host.Outcome State Fault Refusal :=
  issueOne (pandOp 1 x) s

/-- `POR` (R121). -/
def porOp (slot : Nat) (x : ArgPL) : Op :=
  logicP slot x [srcP x.pa, srcP x.pb] (fun a b => a || b)

/-- The meaning of `POR`. -/
def execPor (x : ArgPL) (s : State) : Host.Outcome State Fault Refusal :=
  issueOne (porOp 1 x) s

/-- `PXOR` (R121). -/
def pxorOp (slot : Nat) (x : ArgPL) : Op :=
  logicP slot x [srcP x.pa, srcP x.pb] (fun a b => a ^^ b)

/-- The meaning of `PXOR`. -/
def execPxor (x : ArgPL) (s : State) : Host.Outcome State Fault Refusal :=
  issueOne (pxorOp 1 x) s

/-- `PNOT` (R121). -/
def pnotOp (slot : Nat) (x : ArgPL) : Op :=
  logicP slot x [srcP x.pa] (fun a _ => !a)

/-- The meaning of `PNOT`. -/
def execPnot (x : ArgPL) (s : State) : Host.Outcome State Fault Refusal :=
  issueOne (pnotOp 1 x) s

/-- `PMOV` (R121). -/
def pmovOp (slot : Nat) (x : ArgPL) : Op :=
  logicP slot x [srcP x.pa] (fun a _ => a)

/-- The meaning of `PMOV`. -/
def execPmov (x : ArgPL) (s : State) : Host.Outcome State Fault Refusal :=
  issueOne (pmovOp 1 x) s

/-- `FADDS` (R122). -/
def faddsOp (slot : Nat) (x : ArgA) : Op :=
  flt2 slot x true FTy.fadd

/-- The meaning of `FADDS`. -/
def execFadds (x : ArgA) (s : State) : Host.Outcome State Fault Refusal :=
  issueOne (faddsOp 1 x) s

/-- `FSUBS` (R122). -/
def fsubsOp (slot : Nat) (x : ArgA) : Op :=
  flt2 slot x true FTy.fsub

/-- The meaning of `FSUBS`. -/
def execFsubs (x : ArgA) (s : State) : Host.Outcome State Fault Refusal :=
  issueOne (fsubsOp 1 x) s

/-- `FMULS` (R122). -/
def fmulsOp (slot : Nat) (x : ArgA) : Op :=
  flt2 slot x true FTy.fmul

/-- The meaning of `FMULS`. -/
def execFmuls (x : ArgA) (s : State) : Host.Outcome State Fault Refusal :=
  issueOne (fmulsOp 1 x) s

/-- `FFMAS` (R122: the destination is the addend, and blocks). -/
def ffmasOp (slot : Nat) (x : ArgA) : Op :=
  opDraw slot (src2A x ++ [srcS x.dst false]) x.dst true (fun c =>
    let t := sFty x.mod
    t.ffma (FEnv.ofFmt c.fmt) false ((c.rS x.src1).toNat % 2 ^ t.w) ((c.rS x.src2).toNat % 2 ^ t.w)
      ((c.rS x.dst).toNat % 2 ^ t.w))

/-- The meaning of `FFMAS`. -/
def execFfmas (x : ArgA) (s : State) : Host.Outcome State Fault Refusal :=
  issueOne (ffmasOp 1 x) s

/-- `FMINS` (R122, R99). -/
def fminsOp (slot : Nat) (x : ArgA) : Op :=
  flt2 slot x false (fun t env a b _ => t.fminmax env false a b)

/-- The meaning of `FMINS`. -/
def execFmins (x : ArgA) (s : State) : Host.Outcome State Fault Refusal :=
  issueOne (fminsOp 1 x) s

/-- `FMAXS` (R122, R99). -/
def fmaxsOp (slot : Nat) (x : ArgA) : Op :=
  flt2 slot x false (fun t env a b _ => t.fminmax env true a b)

/-- The meaning of `FMAXS`. -/
def execFmaxs (x : ArgA) (s : State) : Host.Outcome State Fault Refusal :=
  issueOne (fmaxsOp 1 x) s

/-- `FCMPS` (R123). -/
def fcmpsOp (slot : Nat) (x : ArgP) : Op :=
  opP slot [srcS x.src1 x.b1, srcS x.src2 x.b2] x.pd (fun c =>
    fcmp x.cond (f32.decode (bits (c.rS x.src1).toNat 31 0)) (f32.decode (bits (c.rS x.src2).toNat 31 0)))

/-- The meaning of `FCMPS`. -/
def execFcmps (x : ArgP) (s : State) : Host.Outcome State Fault Refusal :=
  issueOne (fcmpsOp 1 x) s

/-- `FCVTS` (R124). -/
def fcvtsOp (slot : Nat) (x : ArgCV) : Op :=
  opDraw slot [srcS x.src1 x.b1] x.dst (convDraws (tyOf x.sty) (tyOf x.dty)) (fun c d =>
    let r := convert (FEnv.ofFmt c.fmt) false (tyOf x.sty) (tyOf x.dty) ((c.rS x.src1).toNat % 2 ^ (tyOf x.sty).w) d
    (match tyOf x.dty with
      | .fl _ => r.1
      | .it t => (t.ext (t.read r.1)).toNat, r.2))

/-- The meaning of `FCVTS`. -/
def execFcvts (x : ArgCV) (s : State) : Host.Outcome State Fault Refusal :=
  issueOne (fcvtsOp 1 x) s

end Sys2Proof.Machine
end

