-- ==== Sys2Proof/Machine/Space.lean ====
section
/-! DEFINITION. What every engine uses to reach memory: the partition's own slots (R297), range checks page by page (R224,
R231), byte accesses through the segment table with dirty-plane marks (R225, R341), demand fills (R233), busy counts (R232),
counter adds (R294), and page requests (R240). -/

namespace Sys2Proof.Machine

open Sys2Proof

/-! ### The slot table (R297, R298) -/

/-- Whether a cycle lies in one of a partition's own slots. -/
def State.ownSlot (s : State) (p cyc : Nat) : Bool :=
  match s.part p with
  | none => false
  | some x => bitOf (Sparse.get 0 s.slotMasks x.slotid).toNat (cyc % 1024 / 16)

/-! ### Byte accesses through the table -/

/-- Where an address lies, for a transfer that was translated when it was issued: its segment's state and attributes are no
longer asked (R228: a draining segment serves the transfers that are bound to it). -/
def locate (s : State) (j : Nat) (a : Word64) : Xlat :=
  if badSp a then .miss 0x07 0xFFF else
  match s.lookup j (tierOf a) (ofsOf a) with
  | none => .miss 0x01 0xFFF
  | some (id, e) =>
    if tierOf a then .ok (spAddr (coreOfAddr a) (bits a.toNat 19 0)) id
    else if e.dz then
      match s.pageOf j id e ((ofsOf a - e.vbase) / 2 ^ 21) with
      | some p => .ok (hbmAddr (p + (ofsOf a - e.vbase) % 2 ^ 21)) id
      | none => .absent id ((ofsOf a - e.vbase) / 2 ^ 21)
    else .ok (hbmAddr (e.pbase + (ofsOf a - e.vbase))) id

/-- The code of a segment state (R224). -/
def SegState.code : SegState → Nat
  | .free => 0
  | .zeroing => 1
  | .bound => 2
  | .migrating => 3
  | .draining => 4
  | .revoked => 5

/-- The 32 bytes of a segment table entry as hardware keeps it, BUSY and STATE among them (R224). -/
def segBytes (e : Seg) : List Byte :=
  leBytes 8 (b2n e.tier * 2 ^ 52 + e.vbase) ++ leBytes 8 e.len ++ leBytes 8 e.pbase
    ++ leBytes 8 (e.busy * 2 ^ 48 + e.st.code * 2 ^ 45 + b2n e.tier * 2 ^ 44 + b2n e.r * 2 ^ 43 + b2n e.w * 2 ^ 42 + b2n e.a * 2 ^ 41
      + b2n e.x * 2 ^ 40 + b2n e.inv * 2 ^ 39 + b2n e.conf * 2 ^ 38 + b2n e.dz * 2 ^ 37 + b2n e.mig * 2 ^ 36 + b2n e.trk * 2 ^ 35
      + e.planes)

/-- The 64 bytes of a job's route table header (R357). -/
def routeHeader (x : Job) : List Byte :=
  leBytes 2 (x.own % 2 ^ 11) ++ leBytes 1 x.rglog2 ++ leBytes 1 0 ++ leBytes 2 x.keyid ++ zeroBytes 58

/-- The 8-byte entry at byte `o` of a job's route table (R357). -/
def routeBytes (s : State) (j o : Nat) : List Byte := leBytes 8 (s.route j ((o - 64) / 8)).toNat

/-- A byte of the tables that hardware keeps in the device-reserved region (R277): entry i of a job's segment table at 32 x i from the
address that the host named (R223), and the job's route table where the model puts it (R357, log entry 86). -/
def tableByte (s : State) (pa : Nat) : Option Byte :=
  if pa < s.rsvBase.toNat ∨ s.rsvBase.toNat + s.rsvSize.toNat ≤ pa then none
  else s.jobs.findSome? (fun p =>
    let o := pa - p.2.segBase
    let r := pa - Config.routeBase p.1
    if !p.2.present then none
    else if p.2.segBase ≤ pa ∧ o < 32 * 4096 then some ((segBytes (s.seg p.1 (o / 32))).getD (o % 32) 0)
    else if Config.routeBase p.1 ≤ pa ∧ r < 64 then some ((routeHeader p.2).getD r 0)
    else if Config.routeBase p.1 ≤ pa ∧ r < 64 + 8 * 2047 then some ((routeBytes s p.1 r).getD (r % 8) 0)
    else none)

/-- The byte at a physical address as a quay reads it. -/
def State.shown (s : State) (pa : Nat) : Byte := (tableByte s pa).getD (s.byte pa)

/-- One byte read by an engine; an absent demand-zero page reads zero (R231). -/
def peekByte (s : State) (j : Nat) (a : Word64) : Byte :=
  match locate s j a with
  | .ok pa _ => s.shown pa
  | _ => 0

/-- `n` bytes read by an engine. -/
def peek (s : State) (j : Nat) : Word64 → Nat → List Byte
  | _, 0 => []
  | a, n + 1 => peekByte s j a :: peek s j (a + 1) n

/-- One byte written by an engine, at the page's quay, which marks its tile; an address that does not translate takes
nothing. -/
def pokeByte (s : State) (j : Nat) (a : Word64) (b : Byte) : State :=
  match locate s j a with
  | .ok pa id => (markTile s (s.seg j id) (ofsOf a - (s.seg j id).vbase)).setByte pa b
  | _ => s

/-- Bytes written by an engine. -/
def poke (s : State) (j : Nat) : Word64 → List Byte → State
  | _, [] => s
  | a, b :: t => poke (pokeByte s j a b) j (a + 1) t

/-! ### Range checks -/

/-- The bytes of a page of an address's tier (R224). -/
def pageSize (a : Word64) : Nat := if tierOf a then 2 ^ 14 else 2 ^ 21

/-- What the check of a range finds: nothing, a page of a segment in ZEROING, an absent demand-zero page where a present one
is needed, or the first failing byte with its KIND and SEG. -/
inductive Range where
  | ok
  | zeroing (seg : Nat)
  | absent (seg page : Nat) (a : Word64)
  | miss (kind seg : Nat) (a : Word64)
  deriving DecidableEq, Repr

/-- The check of `n` bytes from `a`, page by page in increasing address; `present` asks for present pages. -/
def checkRange (s : State) (j : Nat) (need : Need) (present : Bool) : Nat → Word64 → Nat → Range
  | 0, _, _ => .ok
  | _ + 1, _, 0 => .ok
  | fuel + 1, a, n + 1 =>
    let m := min (n + 1) (pageSize a - a.toNat % pageSize a)
    match xlate s j need a with
    | .miss k id => .miss k id a
    | .zeroing id => .zeroing id
    | .absent id p => if present then .absent id p a else checkRange s j need present fuel (a + n64 m) (n + 1 - m)
    | .ok _ _ => checkRange s j need present fuel (a + n64 m) (n + 1 - m)

/-- The check of a range, with enough steps for its pages. -/
def rangeOf (s : State) (j : Nat) (need : Need) (present : Bool) (a : Word64) (n : Nat) : Range :=
  checkRange s j need present (n / 2 ^ 14 + 2) a n

/-! ### Bulk changes of memory -/

/-- `n` bytes from `pa` become zero. -/
def State.clearRange (s : State) (pa n : Nat) : State :=
  { s with mem := s.mem.filter (fun c => !(decide (pa ≤ c.1) && decide (c.1 < pa + n))) }

/-- `n` bytes copied from `src` to `dst`. -/
def State.copyRange (s : State) (src dst n : Nat) : State :=
  let cells := s.mem.filter (fun c => decide (src ≤ c.1) && decide (c.1 < src + n))
  cells.foldl (fun s c => s.setByte (c.1 - src + dst) c.2) (s.clearRange dst n)

/-! ### Demand fills (R233, R240) -/

/-- The physical address of a page map entry (R229). -/
def mapAddr (e : Seg) (page : Nat) : Nat := hbmAddr (e.pbase + 8 * page)

/-- The context that asked has its answer; that of a request which the context has abandoned is discarded (R239). -/
def tellAsker (s : State) (r : FillReq) (g : Grant) : State :=
  match r.tag with
  | some t => s.updCtx r.ctx (fun c => if c.grant = .asked t then { c with grant := g } else c)
  | none => s

/-- The contexts that asked for a page have their answer, and their requests end (R239). -/
def answerPage (s : State) (j seg page st : Nat) : State :=
  let rs := s.fills.filter (fun r => r.job == j && r.seg == seg && r.page == page && r.ctx != 0xFFFF)
  let s := rs.foldl (fun s r => tellAsker s r (.done st)) s
  { s with fills := s.fills.filter (fun r => !(r.job == j && r.seg == seg && r.page == page)) }

/-- A page is zeroed and its map entry written with P = 1 (R233 steps 2 and 3). -/
def installPage (s : State) (j seg page pa : Nat) : State :=
  wr (s.clearRange pa (2 ^ 21)) (mapAddr (s.seg j seg) page) 8 (pa / 2 ^ 21 * 2 ^ 21 + 1)

/-- A page of the pool fills a demand-zero page (R233). -/
def fillPage (s : State) (j seg page : Nat) : State :=
  match s.dzPool with
  | [] => s
  | pa :: rest => answerPage (installPage { s with dzPool := rest } j seg page pa) j seg page 0

/-- A site needs an absent page: it waits for the fill (R233), once per page. -/
def wantPage (s : State) (j seg page : Nat) : State :=
  if s.fills.any (fun r => r.job == j && r.seg == seg && r.page == page && r.ctx == 0xFFFF) then s
  else { s with fills := s.fills ++
          [{ job := j, seg := seg, page := page, ctx := 0xFFFF, tag := none, since := 0, port := false }] }

/-- Whether some unanswered request carries a tag. -/
def tagUsed (s : State) (t : Nat) : Bool := s.fills.any (fun r => r.tag == some t)

/-- The first tag from `t` on that no unanswered request carries. -/
def freeTag (s : State) : Nat → Nat → Nat
  | 0, t => t % 65536
  | n + 1, t => if tagUsed s (t % 65536) then freeTag s n (t + 1) else t % 65536

/-- A page request record (R240), with CTXID `cid`. -/
def pageRequest (s : State) (cid seg tag : Nat) (a : Word64) : List Byte :=
  leBytes 2 0x30 ++ leBytes 2 cid ++ leBytes 2 seg ++ leBytes 2 tag ++ leBytes 8 s.cyc.toNat ++ leBytes 8 a.toNat
    ++ zeroBytes 40

/-- The pod virtual address of a page's first byte. -/
def pageVa (e : Seg) (page : Nat) : Word64 := n64 (0x7FF * 2 ^ 53 + e.vbase + page * 2 ^ 21)

/-- The tag of the next request, a free choice (log entry 11). -/
def requestTag (s : State) : Nat := freeTag s 65536 (Config.pick s.free)

/-- A request for a page is posted on a queue's event path (R240). -/
def requestPage (s : State) (q j seg page cid recCid : Nat) : State :=
  let tag := requestTag s
  let s := postRecord s.tick q (pageRequest s recCid seg tag (pageVa (s.seg j seg) page)) false
  { s with fills := s.fills ++
      [{ job := j, seg := seg, page := page, ctx := cid, tag := some tag, since := s.cyc.toNat, port := false }] }

/-- The absent demand-zero page that a write needs. -/
def absentAt (s : State) (j : Nat) (a : Word64) : Option (Nat × Nat) :=
  if isShort a then none
  else match locate s j a with
    | .absent id p => some (id, p)
    | _ => none

/-- Whether an address lies in a quay's stack or a core's scratchpad that a reset has still to bring out of reset: what targets it
waits at its translation site (R409). -/
def resetHolds (s : State) (j : Nat) (a : Word64) : Bool :=
  let u := s.sorric.inReset
  let core (g : Nat) : Bool := u.any (fun x => (x.kind == 4 && x.inst == g) || (x.kind == 3 && x.inst == g / 96)
    || (x.kind == 2 && x.inst == g / 192))
  !u.isEmpty && !isShort a && (if tierOf a then core (coreOfAddr a)
    else match locate s j a with
      | .ok pa _ => u.any (fun x => x.kind == 7 && x.inst == stackOf pa)
      | _ => false)

/-- A write that needs a page not yet present asks for it and waits (R233), as it waits for a unit in reset; else it goes on. -/
def withPage (j : Nat) (a : Word64) (f : State → State) (s : State) : State :=
  match absentAt s j a with
  | some (id, p) => wantPage s j id p
  | none => if resetHolds s j a then s else f s

/-! ### Busy counts (R232) -/

/-- A list without repeats. -/
def distinct : List Nat → List Nat
  | [] => []
  | x :: t => if t.contains x then distinct t else x :: distinct t

/-- Whether a transfer may be counted in each of its segments: none migrating, none at the limit, none in ZEROING. -/
def canBind (s : State) (j : Nat) (segs : List Nat) : Bool :=
  segs.all (fun i => (s.seg j i).st != .migrating && (s.seg j i).st != .zeroing && decide ((s.seg j i).busy < 65535))

/-- A transfer is counted. -/
def bindBusy (s : State) (j : Nat) (segs : List Nat) : State :=
  segs.foldl (fun s i => s.updSeg j i (fun e => { e with busy := e.busy + 1 })) s

/-- A transfer is no longer counted. -/
def freeBusy (s : State) (j : Nat) (segs : List Nat) : State :=
  segs.foldl (fun s i => s.updSeg j i (fun e => { e with busy := e.busy - 1 })) s

/-- The segment of an address, where an entry holds it. -/
def segOf (s : State) (j : Nat) (a : Word64) : List Nat :=
  match locate s j a with
  | .ok _ id => [id]
  | .absent id _ => [id]
  | .zeroing id => [id]
  | .miss .. => []

/-! ### Counters (R294) -/

/-- The sum that a counter keeps: saturated at 2^64 - 1. -/
def satAdd (x y : Nat) : Nat := min (x + y) (2 ^ 64 - 1)

/-- An engine's add to a counter at a physical address, silent on saturation. -/
def addCounter (s : State) (pa v : Nat) : State := wr s pa 8 (satAdd (rd s pa 8) v)

/-- The physical address of a counter or a barrier named by an engine's job: a short local address in core `g`'s
scratchpad, or a pod address of this chip. -/
def ctrPa (s : State) (j g : Nat) (a : Word64) : Option Nat :=
  if isShort a then some (spAddr g a.toNat)
  else match locate s j a with
    | .ok pa _ => some pa
    | _ => none

/-- An engine's add to a counter in the HBM tier marks its tile as any quay write does (R341). -/
def addCtr (s : State) (j g : Nat) (a : Word64) (v : Nat) : State :=
  match ctrPa s j g a with
  | none => s
  | some pa =>
    let s := if isShort a then s else match segOf s j a with
      | id :: _ => markTile s (s.seg j id) (ofsOf a - (s.seg j id).vbase)
      | [] => s
    addCounter s pa v

/-- Whether an add must wait for its counter's segment (R231, R243): one in ZEROING or MIGRATING in which the transfer is not counted. -/
def ctrHeld (s : State) (j : Nat) (segs : List Nat) (a : Word64) : Bool :=
  !isShort a && (segOf s j a).any (fun i =>
    !segs.contains i && ((s.seg j i).st == .zeroing || (s.seg j i).st == .migrating))

/-- An engine's add that nothing else holds up: where its counter's page is absent or its segment is held, the page is asked for and
the add is made later (R233). -/
def oweAdd (s : State) (j g : Nat) (a : Word64) (v : Nat) : State :=
  if (absentAt s j a).isNone && !ctrHeld s j [] a then addCtr s j g a v
  else withPage j a (fun s => s)
    { s with owedAdds := s.owedAdds ++ [{ job := j, core := g, ctr := a, val := v }] }

/-- The adds that waited are made where they now can be; one whose fill has failed is dropped, as a translation failure of no
launch's (R230, R233). -/
def settleAdds (s : State) : State :=
  s.owedAdds.foldl (fun s x =>
    match absentAt s x.job x.ctr with
    | some (id, p) => if s.fillFail.contains (x.job, id, p) then { s with fillFail := s.fillFail.filter (· != (x.job, id, p)) }
      else wantPage { s with owedAdds := s.owedAdds ++ [x] } x.job id p
    | none => if ctrHeld s x.job [] x.ctr then { s with owedAdds := s.owedAdds ++ [x] } else addCtr s x.job x.core x.ctr x.val)
    { s with owedAdds := [] }

end Sys2Proof.Machine
end

