-- ==== Sys2Proof/Machine/Control.lean ====
section
/-! DEFINITION. The C-slot ops that act on the issuing context alone: branches, calls and returns (R102 to R104), hardware
loops (R105 to R110), `FMT` and the control registers (R41 to R45, R111, R112), traps (R271), `ERET` (R272), `YIELD`,
`SLEEPU` and `WAITFE` (R275, R276), and `FENCE` (R214 to R218); and the no-ops of R63. -/

namespace Sys2Proof.Machine

open Sys2Proof

/-- A transfer of control to `t` (R50). -/
def State.goto (s : State) (t : Word64) : State := s.latched (fun l => { l with target := some t })

/-- The target of a B-format op (R102): a signed word count from the bundle's header. -/
def relTarget (s : State) (x : ArgB) : Word64 :=
  s.me.pc + 4 * (match x.ext with
    | none => x.ofs.signExtend 64
    | some e => e.signExtend 64)

/-- Trap 0x02, REASON 0x06, inside an active nest (R66). -/
def inNest (s : State) : Option Exc := if s.me.nest.active then some (illegal 0 6 0) else none

/-- `NOP` (R102). -/
def nopOp : Op := Op.plain 0 [] [] (fun _ cur => cur)

/-- The meaning of `NOP`. -/
def execNop (s : State) : Host.Outcome State Fault Refusal := issueOne nopOp s

/-- A no-op of another slot (R63): it names its slot and does nothing else. -/
def slotNop (slot : Nat) : Op := Op.plain slot [] [] (fun _ cur => cur)

/-- The meaning of `NOP.l`. -/
def execNopL (s : State) : Host.Outcome State Fault Refusal := issueOne (slotNop 3) s

/-- The meaning of `NOP.v`. -/
def execNopV (s : State) : Host.Outcome State Fault Refusal := issueOne (slotNop 4) s

/-- The meaning of `NOP.m`. -/
def execNopM (s : State) : Host.Outcome State Fault Refusal := issueOne (slotNop 5) s

/-- The meaning of `NOP.x`. -/
def execNopX (s : State) : Host.Outcome State Fault Refusal := issueOne (slotNop 6) s

/-- `BR` (R103). -/
def brOp (x : ArgB) : Op := Op.plain 0 [] [] (fun pre cur => cur.goto (relTarget pre x))

/-- The meaning of `BR`. -/
def execBr (x : ArgB) (s : State) : Host.Outcome State Fault Refusal := issueOne (brOp x) s

/-- `BRP` (R103): the predicate's value from before the bundle. -/
def brpOp (x : ArgB) : Op :=
  Op.plain 0 [srcP x.pred] [] (fun pre cur => if pre.me.rP x.pred ^^ x.neg then cur.goto (relTarget pre x) else cur)

/-- The meaning of `BRP`. -/
def execBrp (x : ArgB) (s : State) : Host.Outcome State Fault Refusal := issueOne (brpOp x) s

/-- `BRI` (R103). -/
def briOp (x : ArgA) : Op := Op.plain 0 [srcS x.src1 x.b1] [] (fun pre cur => cur.goto (pre.me.rS x.src1))

/-- The meaning of `BRI`. -/
def execBri (x : ArgA) (s : State) : Host.Outcome State Fault Refusal := issueOne (briOp x) s

/-- The link and the transfer of a call (R103): `s63` is full at once. -/
def linkTo (t : Word64) (cur : State) : State := (cur.updMe (fun c => c.wSnow 63 cur.latch.next)).goto t

/-- `CALL` (R103). -/
def callOp (x : ArgB) : Op :=
  { Op.plain 0 [] [(0, 63)] (fun pre cur => linkTo (relTarget pre x) cur) with chk := inNest }

/-- The meaning of `CALL`. -/
def execCall (x : ArgB) (s : State) : Host.Outcome State Fault Refusal := issueOne (callOp x) s

/-- `CALLI` (R103). -/
def calliOp (x : ArgA) : Op :=
  { Op.plain 0 [srcS x.src1 x.b1] [(0, 63)] (fun pre cur => linkTo (pre.me.rS x.src1) cur) with chk := inNest }

/-- The meaning of `CALLI`. -/
def execCalli (x : ArgA) (s : State) : Host.Outcome State Fault Refusal := issueOne (calliOp x) s

/-- `RET` (R103): an empty `s63` blocks. -/
def retOp : Op :=
  { Op.plain 0 [srcS 63 false] [] (fun pre cur => cur.goto (pre.me.rS 63)) with chk := inNest }

/-- The meaning of `RET`. -/
def execRet (s : State) : Host.Outcome State Fault Refusal := issueOne retOp s

/-! ### Loops -/

/-- The stride record of level `l` of a table at a scratchpad offset (R106). -/
def strideRec (s : State) (g base l : Nat) : StrideRec :=
  let pa := spAddr g (base + 64 * l)
  { head := n64 (rd s pa 8), strides := (List.range 8).map (fun k => BitVec.ofNat 32 (rd s (pa + 8 + 4 * k) 4)) }

/-- A malformed stride record (R106): a Zero field that is not zero, or COUNT above 8. -/
def badRecord (s : State) (g base l : Nat) : Bool :=
  let pa := spAddr g (base + 64 * l)
  let h := rd s pa 8
  bits h 63 40 != 0 || bits h 7 4 != 0 || decide (8 < bits h 3 0) || rd s (pa + 40) 24 != 0

/-- The first malformed record of a table. -/
def firstBad (s : State) (g base : Nat) : List Nat → Option Nat
  | [] => none
  | l :: t => if badRecord s g base l then some l else firstBad s g base t

/-- The checks of `LOOPN` (R107). -/
def loopnChk (x : ArgLP) (s : State) : Option Exc :=
  let base := s.me.rA x.abase
  match inNest s with
  | some e => some e
  | none =>
    if 5 < x.levels.val then some (illegal 0 0 0)
    else if base.toNat / 2 ^ 20 ≠ 0 ∨ base.toNat % 8 ≠ 0 ∨ 2 ^ 20 < base.toNat + 64 * (x.levels.val + 1) then
      some (illegal 0 4 base)
    else match firstBad s (s.homeCore s.cur) base.toNat (List.range (x.levels.val + 1)) with
      | some l => some (illegal 0 4 (base + n64 (64 * l)))
      | none => none

/-- The nest that `LOOPN` enters (R107). -/
def loopNest (x : ArgLP) (s : State) : Nest :=
  let ls := List.range (x.levels.val + 1)
  { active := true, levels := x.levels, body := x.body, first := s.latch.next, pos := 0, trip := ls.map s.me.rLC,
    recs := ls.map (strideRec s (s.homeCore s.cur) (s.me.rA x.abase).toNat), buf := [] }

/-- `LOOPN` (R107): with a trip count of zero the body is skipped and the counters keep their trip counts. -/
def loopnOp (x : ArgLP) : Op :=
  { Op.plain 0 [srcA x.abase x.b] ((List.range (x.levels.val + 1)).map (fun l => (6, l))) (fun pre cur =>
      let n := loopNest x pre
      if n.trip.contains 0 then cur.latched (fun l => { l with enter := n, exitNest := true })
      else (cur.updMe (fun c => (List.range (x.levels.val + 1)).foldl (fun c l => c.wLC l 0) c)).latched
        (fun l => { l with enter := n })) with
    chk := loopnChk x }

/-- The meaning of `LOOPN`. -/
def execLoopn (x : ArgLP) (s : State) : Host.Outcome State Fault Refusal := issueOne (loopnOp x) s

/-- `LEXIT` (R109). -/
def lexitOp : Op := Op.plain 0 [] [] (fun _ cur => cur.latched (fun l => { l with exitNest := true }))

/-- The meaning of `LEXIT`. -/
def execLexit (s : State) : Host.Outcome State Fault Refusal := issueOne lexitOp s

/-! ### `FMT` and the control registers -/

/-- The values of `FMT` that `FMTSET` accepts (R44). -/
def fmtOk (w : Word64) : Bool :=
  let x := w.toNat
  decide (bits x 3 0 ≤ 8) && (decide (bits x 7 4 ≤ 8) || bits x 7 4 == 15) && decide (bits x 13 12 ≤ 1)
    && decide (bits x 16 14 ≤ 4) && decide (bits x 23 22 ≤ 2) && bits x 63 24 == 0

/-- The value of a `FMTSET` (R44). -/
def fmtNew (x : ArgA) (c : Context) : Word64 := (c.fmtNow &&& ~~~ c.rS x.src2) ||| (c.rS x.src1 &&& c.rS x.src2)

/-- `FMTSET` (R44, R68): the new value takes effect at the fourth issue cycle after this one. -/
def fmtsetOp (x : ArgA) : Op :=
  { Op.plain 0 (src2A x) [] (fun pre cur => cur.updMe (fun c => { c with fmtPend := c.fmtPend ++ [(4, fmtNew x pre.me)] })) with
    chk := fun s => if fmtOk (fmtNew x s.me) then none else some (illegal 0 0 0) }

/-- The meaning of `FMTSET`. -/
def execFmtset (x : ArgA) (s : State) : Host.Outcome State Fault Refusal := issueOne (fmtsetOp x) s

/-- QUOTA: child launches remaining, for a context of a launch (R41, R330). -/
def quotaOf (s : State) (cid : Nat) : Nat := ((s.ctxLaunch cid).map (fun l => l.left.length)).getD 0

/-- The value of a control register (R41), or none for an index that R41 does not list. -/
def csrValue (s : State) (cid idx : Nat) : Option Word64 :=
  let c := s.ctx cid
  match idx with
  | 0x000 => some s.cyc
  | 0x001 => some c.fmtNow
  | 0x002 => some (c.flags.setWidth 64)
  | 0x003 => some (c.seed.setWidth 64)
  | 0x004 => some c.merr
  | 0x010 => some (n64 (c.tlevel % 4))
  | 0x011 => some c.tvec
  | 0x012 => some (c.cause1.setWidth 64)
  | 0x013 => some (c.cause2.setWidth 64)
  | 0x014 => some c.epc1
  | 0x015 => some c.epc2
  | 0x016 => some c.eva1
  | 0x017 => some c.eva2
  | 0x018 => some c.einfo1
  | 0x019 => some c.einfo2
  | 0x020 => some (n64 (s.ctxid cid))
  | 0x021 => some c.blockid
  | 0x022 => some ((c.lidx.getD 0 0).setWidth 64)
  | 0x023 => some ((c.lidx.getD 1 0).setWidth 64)
  | 0x024 => some ((c.lidx.getD 2 0).setWidth 64)
  | 0x025 => some ((c.lidx.getD 3 0).setWidth 64)
  | 0x026 => some ((c.lidx.getD 4 0).setWidth 64)
  | 0x027 => some ((c.lidx.getD 5 0).setWidth 64)
  | 0x028 => some c.kdesc
  | 0x029 => some c.param
  | 0x02A => some (n64 (quotaOf s cid % 2 ^ 16))
  | 0x02B => some (n64 (c.slotid % 64))
  | 0x030 => some c.stepctl
  | _ => none

/-- The bits of `EPC1` and `EPC2` that are not Zero (R258). -/
def epcMask : Word64 := ~~~ 0x0030000000000003#64

/-- The bits of `MERR` that are not Zero (R184). -/
def merrMask : Word64 := 0xC000FF07001FFF00#64

/-- A write of a control register (R41, R42, R85): read-only ones and Zero bits discard it, and `SEED` never becomes zero. -/
def Context.wCsr (c : Context) (idx : Nat) (v : Word64) : Context :=
  match idx with
  | 0x002 => { c with flags := v.setWidth 5 }
  | 0x003 => { c with seed := if v.setWidth 16 = 0#16 then 1 else v.setWidth 16 }
  | 0x004 => { c with merr := v &&& merrMask }
  | 0x011 => { c with tvec := v }
  | 0x012 => { c with cause1 := v.setWidth 8 }
  | 0x013 => { c with cause2 := v.setWidth 8 }
  | 0x014 => { c with epc1 := v &&& epcMask }
  | 0x015 => { c with epc2 := v &&& epcMask }
  | 0x016 => { c with eva1 := v }
  | 0x017 => { c with eva2 := v }
  | 0x018 => { c with einfo1 := v }
  | 0x019 => { c with einfo2 := v }
  | 0x030 => { c with stepctl := v &&& 7 }
  | _ => c

/-- `CSRR` (R42, R112): the value from before the bundle. -/
def csrrOp (x : ArgCS) : Op :=
  { Op.plain 0 [] [(0, x.dst.val)] (fun pre cur =>
      cur.updMe (fun c => c.wS x.dst ((csrValue pre pre.cur x.index.toNat).getD 0))) with
    chk := fun s => if (csrValue s s.cur x.index.toNat).isNone then some (illegal 0 0 0) else none }

/-- The meaning of `CSRR`. -/
def execCsrr (x : ArgCS) (s : State) : Host.Outcome State Fault Refusal := issueOne (csrrOp x) s

/-- `CSRW` (R42, R112): before any op of the bundle sets a flag or draws. -/
def csrwOp (x : ArgCS) : Op :=
  { Op.plain 0 [srcS x.src1 x.b1] [] (fun pre cur =>
      cur.updMe (fun c => c.wCsr x.index.toNat (pre.me.rS x.src1))) with
    chk := fun s =>
      if (csrValue s s.cur x.index.toNat).isNone || x.index.toNat == 1 then some (illegal 0 0 0) else none }

/-- The meaning of `CSRW`. -/
def execCsrw (x : ArgCS) (s : State) : Host.Outcome State Fault Refusal := issueOne (csrwOp x) s

/-! ### Traps, sleeps and fences -/

/-- The zero-extended immediate of a W-format op (R270). -/
def immW (x : ArgW) : Word64 :=
  match x.ext with
  | none => x.imm.setWidth 64
  | some e => e.setWidth 64

/-- `TRAP` (R271): trap 0x7F once its bundle has issued. -/
def trapOp (x : ArgW) : Op := Op.plain 0 [] [] (fun _ cur => cur.latched (fun l => { l with post := some (0x7F, immW x) }))

/-- The meaning of `TRAP`. -/
def execTrap (x : ArgW) (s : State) : Host.Outcome State Fault Refusal := issueOne (trapOp x) s

/-- `BKPT` (R271): trap 0x61 once its bundle has issued, unless `STEPCTL`.BKOFF. -/
def bkptOp (x : ArgW) : Op :=
  Op.plain 0 [] [] (fun pre cur =>
    if bitOf pre.me.stepctl.toNat 2 then cur else cur.latched (fun l => { l with post := some (0x61, immW x) }))

/-- The meaning of `BKPT`. -/
def execBkpt (x : ArgW) (s : State) : Host.Outcome State Fault Refusal := issueOne (bkptOp x) s

/-- `ABORT` (R271): fault 0x88, with the immediate as DETAIL. -/
def abortOp (x : ArgW) : Op :=
  { Op.plain 0 [] [] (fun _ cur => cur) with chk := fun _ => some (Exc.mk' 0x88 0 (immW x)) }

/-- The meaning of `ABORT`. -/
def execAbort (x : ArgW) (s : State) : Host.Outcome State Fault Refusal := issueOne (abortOp x) s

/-- `EPC` of the current trap level. -/
def Context.epcNow (c : Context) : Word64 := if c.tlevel = 2 then c.epc2 else c.epc1

/-- The checks of `ERET` (R272). -/
def eretChk (s : State) : Option Exc :=
  let c := s.me
  if c.tlevel = 0 then some (illegal 0 0x52 0)
  else if !c.snapv then some (illegal 0 0x53 0)
  else if !(decide (c.tlevel = 2) && c.l2snap) && bitOf c.epcNow.toNat 54
      && (!c.snap.nest.active || decide (c.snap.nest.body < bits c.epcNow.toNat 59 55)) then some (illegal 0 0x57 0)
  else none

/-- `ERET` (R272): the level is left after the other ops of the bundle have issued (`Context.leave`). -/
def eretOp : Op :=
  { Op.plain 0 [] [] (fun pre cur => cur.latched (fun l =>
      { l with eret := true, target := some (epcPc pre.me.epcNow), tgtRep := bits pre.me.epcNow.toNat 63 60 })) with
    chk := eretChk }

/-- The meaning of `ERET`. -/
def execEret (s : State) : Host.Outcome State Fault Refusal := issueOne eretOp s

/-- `YIELD` (R275). -/
def yieldOp : Op := Op.plain 0 [] [] (fun _ cur => cur.latched (fun l => { l with yielded := true }))

/-- The meaning of `YIELD`. -/
def execYield (s : State) : Host.Outcome State Fault Refusal := issueOne yieldOp s

/-- `SLEEPU` (R275). -/
def sleepuOp (x : ArgA) : Op :=
  Op.plain 0 [srcS x.src1 x.b1] [] (fun pre cur =>
    if pre.cyc.toNat < (pre.me.rS x.src1).toNat then
      cur.updMe (fun c => { c with st := .sleeping, sleepTo := (pre.me.rS x.src1).toNat })
    else cur)

/-- The meaning of `SLEEPU`. -/
def execSleepu (x : ArgA) (s : State) : Host.Outcome State Fault Refusal := issueOne (sleepuOp x) s

/-- The number of registers of a file, by its code (R33). -/
def fileSize (f : Nat) : Nat :=
  match f with
  | 0 => 64
  | 1 => 16
  | 2 => 8
  | 3 => 32
  | 4 => 8
  | 5 => 16
  | _ => 0

/-- `WAITFE` (R276). -/
def waitfeOp (x : ArgA) : Op :=
  { Op.plain 0 [{ file := x.mod, reg := x.src1, trap := x.b1 }] [] (fun _ cur => cur) with
    chk := fun _ => if fileSize x.mod ≤ x.src1.val then some (illegal 0 0x50 0) else none }

/-- The meaning of `WAITFE`. -/
def execWaitfe (x : ArgA) (s : State) : Host.Outcome State Fault Refusal := issueOne (waitfeOp x) s

/-- `FENCE` (R216): the issue takes note of the scope. -/
def fenceOp (x : ArgA) : Op := Op.plain 0 [] [] (fun _ cur => cur.latched (fun l => { l with fence := some x.mod.val }))

/-- The meaning of `FENCE`. -/
def execFence (x : ArgA) (s : State) : Host.Outcome State Fault Refusal := issueOne (fenceOp x) s

end Sys2Proof.Machine
end

