-- ==== Sys2Proof/Machine/Memory.lean ====
section
/-! DEFINITION. The L-slot loads and stores (R125 to R132), locks (R133 to R136), atomics (R137) and address-register ops
(R138, R139). Registers are read from before the bundle, memory as it stands when the op takes its turn (R203). -/

namespace Sys2Proof.Machine

open Sys2Proof

/-! ### Lanes -/

/-- Lane `i` of a vector register, `w` bits wide (R140). -/
def lane (w i : Nat) (v : VReg) : Nat := v.toNat / 2 ^ (w * i) % 2 ^ w

/-- The number whose lanes of `w` bits are those of a list. -/
def packLanes (w : Nat) : List Nat → Nat
  | [] => 0
  | x :: t => x % 2 ^ w + 2 ^ w * packLanes w t

/-- The vector register of a list of lanes. -/
def ofLanes (w : Nat) (l : List Nat) : VReg := BitVec.ofNat 2048 (packLanes w l)

/-! ### The shape of an L-slot op -/

/-- The held op that HOLD leaves (R59). -/
def heldBy (h : Bool) (i : Instr) : Option HeldOp := if h then some (wordsOf i) else none

/-- An M-format op (R125): its base register is its first source, and it steps after each issue. -/
def opM (x : ArgM) (i : Instr) (size : Nat) (srcs : List Src) (dsts : List (Nat × Nat)) (chk : State → Option Exc)
    (eff : State → State → State) (mem : Option (State → State → State)) : Op :=
  { Op.plain 3 (srcA x.abase x.b :: srcs) dsts (fun pre cur =>
      (eff pre cur).updMe (fun c => if x.step = 0 then c else c.stepA x.abase (stepOf x size))) with
    hold := heldBy x.hold i, chk := chk, mem := mem.map (fun m => (i, m)) }

/-- The access width in bytes of a scalar type (R57). -/
def bytesOf (x : ArgM) : Nat := (intTy x.ty).w / 8

/-- An access's own fault (R126). -/
def eaErr (x : ArgM) (size : Nat) (s : State) : Option Exc := reachErr s s.cur (eaOf s.me x) size

/-- The physical address of an access. -/
def eaPa (x : ArgM) (size : Nat) (s : State) : Nat := reachPa s s.cur (eaOf s.me x) size

/-- A value of memory as `ext` returns it (R129). -/
def loaded (x : ArgM) (v : Nat) : Word64 := (intTy x.ty).ext ((intTy x.ty).read v)

/-! ### Loads and stores -/

/-- Element addresses of `LDVS` and `STVS` (R129). -/
def strideEa (x : ArgM) (c : Context) (i : Nat) : Word64 := eaOf c x + n64 i * c.rA (x.abase + 1)

/-- The elements of a strided access. -/
def strideIdx (x : ArgM) : List Nat := List.range (2048 / (intTy x.ty).w)

/-- The first fault among a list of addresses. -/
def firstReach (s : State) (size : Nat) : List Word64 → Option Exc
  | [] => none
  | a :: t => match reachErr s s.cur a size with
    | some e => some e
    | none => firstReach s size t

/-- The element width of `GATH` and `SCAT` (R130). -/
def gathW (ty : Nat) : Nat :=
  match ty with
  | 0 => 32
  | 1 => 16
  | 2 => 16
  | 3 => 32
  | 4 => 16
  | 5 => 8
  | _ => 32

/-- The address of element `i` (R130). -/
def gathEa (x : ArgG) (c : Context) (i : Nat) : Word64 :=
  c.rA x.abase + extOfs x.ext + n64 (lane 32 i (c.rV x.vidx) * (gathW x.ty / 8))

/-- The elements whose mask bit is set. -/
def gathIdx (x : ArgG) (c : Context) : List Nat := (List.range 64).filter (fun i => (c.rVM x.vm).getLsbD i)

/-- A G-format op: the base, then the other registers in field order (R39). -/
def opG (x : ArgG) (i : Instr) (srcs : List Src) (dsts : List (Nat × Nat)) (eff : State → State → State)
    (mem : Option (State → State → State)) : Op :=
  { Op.plain 3 (srcA x.abase x.b :: srcs) dsts eff with
    hold := heldBy x.hold i,
    chk := fun s => firstReach s (gathW x.ty / 8) ((gathIdx x s.me).map (gathEa x s.me)),
    mem := mem.map (fun m => (i, m)) }

/-- A parameter-block access beyond the block's end (R129): the first failing byte is its offset. -/
def paramErr (x : ArgM) (s : State) : Option Exc :=
  let ea := eaOf s.me x
  let n := s.me.constBuf.length
  if n < ea.toNat + bytesOf x then
    some (reachExc 0x80 0 (if ea.toNat < n then n64 n else ea))
  else none

/-! ### Locks -/

/-- The lock of a scratchpad offset (R133). -/
def lockIdx (ofs : Nat) : Nat := bits ofs 14 3 ^^^ bits ofs 19 15

/-- The core and lock index of a physical scratchpad address. -/
def lockKey (pa : Nat) : Nat × Nat :=
  ((pa - Config.hbmBytes) / Config.spBytes, lockIdx ((pa - Config.hbmBytes) % Config.spBytes))

/-- A lock bit. -/
def State.lockBit (s : State) (k : Nat × Nat) : LockBit := Sparse.get .clear (s.core k.1).locks k.2

/-- A lock bit written. -/
def State.setLock (s : State) (k : Nat × Nat) (b : LockBit) : State :=
  s.updCore k.1 (fun c => { c with locks := Sparse.set .clear c.locks k.2 b })

/-- The slot of a context that holds a lock. -/
def lockSlotOf (c : Context) (k : Nat × Nat) : Option LockSlot := c.locks.find? (fun l => l.core == k.1 && l.idx == k.2)

/-- Whether a lock bit is set by another context, or granted to one (R134, R135). -/
def lockBusy (s : State) (cid : Nat) (k : Nat × Nat) : Bool :=
  match s.lockBit k with
  | .clear => false
  | .held o => o != cid
  | .granted o => o != cid

/-- Contexts blocked on a lock. One that is pre-empted while it waits is passed over, and asks again when it returns (log entry
73). -/
def lockWaiters (s : State) (k : Nat × Nat) : List Nat :=
  s.liveCtxs.filter (fun c => (s.ctx c).st == .blocked && (s.ctx c).reason == 9 && (s.ctx c).lockWait == some k)

/-- The next waiter in rising `CTXID` order above `from`, wrapping (R135). -/
def nextWaiter (s : State) (start : Nat) (l : List Nat) : Option Nat :=
  l.foldl (fun best c =>
    let d := (s.ctxid c + residents - start - 1) % residents
    match best with
    | none => some c
    | some b => if d < (s.ctxid b + residents - start - 1) % residents then some c else best) none

/-- A lock bit clears, and is granted to the next waiter (R135). -/
def clearLock (s : State) (cid : Nat) (k : Nat × Nat) : State :=
  match nextWaiter s (s.ctxid cid) (lockWaiters s k) with
  | none => s.setLock k .clear
  | some w => s.setLock k (.granted w)

/-- The locks that are granted to a context. A grant whose bundle traps on its retry stays granted until the `LDL` is tried again
or the context ends (log entry 74). -/
def grantsOf (s : State) (cid : Nat) : List (Nat × Nat) :=
  s.cores.flatMap (fun p => (p.2.locks.filter (fun q => q.2 == .granted cid)).map (fun q => (p.1, q.1)))

/-- Every lock that a context holds, or has been granted, is released without a store (R136). -/
def releaseLocks (s : State) (cid : Nat) : State :=
  let ks := (s.ctx cid).locks.map (fun l => (l.core, l.idx))
  (ks ++ grantsOf s cid).foldl (fun s k => clearLock s cid k)
    (s.updCtx cid (fun c => { c with locks := [], lockWait := none }))

/-- The address checks of a lock or an atomic (R127): natural alignment, then reach. -/
def alignedErr (x : ArgM) (s : State) : Option Exc :=
  let ea := eaOf s.me x
  if ea.toNat % bytesOf x ≠ 0 then some (illegal 3 1 ea) else eaErr x (bytesOf x) s

/-- The lock that an `LDL` or `STUL` names. -/
def lockOf (x : ArgM) (s : State) : Nat × Nat := lockKey (eaPa x (bytesOf x) s)

/-- The traps of `LDL` as it is settled (R134). -/
def ldlLate (x : ArgM) (s : State) : Option Exc :=
  match lockSlotOf s.me (lockOf x s) with
  | some l => if l.count = 255 then some (illegal 3 2 (eaOf s.me x)) else none
  | none =>
    if lockBusy s s.cur (lockOf x s) then none
    else if 2 ≤ s.me.locks.length then some (illegal 3 2 (eaOf s.me x)) else none

/-- The trap of `STUL` as it is settled (R134). -/
def stulLate (x : ArgM) (s : State) : Option Exc :=
  if (lockSlotOf s.me (lockOf x s)).isNone then some (illegal 3 3 (eaOf s.me x)) else none

/-- `LDL` waits, reason 9, while another context has the lock (R134). -/
def ldlWait (x : ArgM) (s : State) : Option (Nat × (State → State)) :=
  if (alignedErr x s).isNone && (lockSlotOf s.me (lockOf x s)).isNone && lockBusy s s.cur (lockOf x s) then
    some (9, fun s => s.updMe (fun c => { c with lockWait := some (lockOf x s) }))
  else none

/-- A lock is taken, or counted once more (R134). -/
def takeLock (s : State) (k : Nat × Nat) : State :=
  match lockSlotOf s.me k with
  | some _ =>
    s.updMe (fun c => { c with locks := c.locks.map (fun l =>
      if l.core == k.1 && l.idx == k.2 then { l with count := l.count + 1 } else l) })
  | none => (s.setLock k (.held s.cur)).updMe (fun c => { c with locks := c.locks ++ [{ core := k.1, idx := k.2, count := 1 }] })

/-- A lock is released once (R134). -/
def dropLock (s : State) (k : Nat × Nat) : State :=
  match lockSlotOf s.me k with
  | none => s
  | some l =>
    if l.count ≤ 1 then
      clearLock (s.updMe (fun c => { c with locks := c.locks.filter (fun l => !(l.core == k.1 && l.idx == k.2)) })) s.cur k
    else
      s.updMe (fun c => { c with locks := c.locks.map (fun l =>
        if l.core == k.1 && l.idx == k.2 then { l with count := l.count - 1 } else l) })

/-! ### Atomics (R137) -/

/-- The new value of an `ATOM`. -/
def atomNew (t : ITy) (opt old v : Nat) : Nat :=
  match opt with
  | 0 => bitsInt ((old : Int) + v) t.w
  | 1 => if t.read v < t.read old then t.low v else t.low old
  | 2 => if t.read old < t.read v then t.low v else t.low old
  | 3 => t.low old &&& t.low v
  | 4 => t.low old ||| t.low v
  | 5 => t.low old ^^^ t.low v
  | _ => t.low v

/-- An indivisible read and write: `f` gives the new value from the old, and the old goes to s[reg]. -/
def atomMem (x : ArgM) (f : Context → Nat → Nat) (pre cur : State) : State :=
  let pa := eaPa x (bytesOf x) pre
  let old := rd cur pa (bytesOf x)
  (wr cur pa (bytesOf x) (f pre.me old)).updMe (fun c => c.wS x.reg (loaded x old))

/-- `LD` (R129). -/
def ldOp (x : ArgM) : Op :=
  opM x (.ld x) (bytesOf x) [] [(0, x.reg.val)] (eaErr x (bytesOf x))
    (fun pre cur => cur.updMe (fun c => c.wS x.reg (loaded x (rd cur (eaPa x (bytesOf x) pre) (bytesOf x))))) none

/-- The meaning of `LD`. -/
def execLd (x : ArgM) (s : State) : Host.Outcome State Fault Refusal :=
  issueOne (ldOp x) s

/-- `ST` (R129). -/
def stOp (x : ArgM) : Op :=
  opM x (.st x) (bytesOf x) [srcS x.reg x.b] [] (eaErr x (bytesOf x)) (fun _ cur => cur)
    (some (fun pre cur => wr cur (eaPa x (bytesOf x) pre) (bytesOf x) (pre.me.rS x.reg).toNat))

/-- The meaning of `ST`. -/
def execSt (x : ArgM) (s : State) : Host.Outcome State Fault Refusal :=
  issueOne (stOp x) s

/-- `LDV` (R129). -/
def ldvOp (x : ArgM) : Op :=
  opM x (.ldv x) 256 [] [(3, x.reg.val)] (eaErr x 256)
    (fun pre cur => cur.updMe (fun c => c.wV x.reg (BitVec.ofNat 2048 (rd cur (eaPa x 256 pre) 256)))) none

/-- The meaning of `LDV`. -/
def execLdv (x : ArgM) (s : State) : Host.Outcome State Fault Refusal :=
  issueOne (ldvOp x) s

/-- `STV` (R129). -/
def stvOp (x : ArgM) : Op :=
  opM x (.stv x) 256 [srcV x.reg x.b] [] (eaErr x 256) (fun _ cur => cur)
    (some (fun pre cur => wr cur (eaPa x 256 pre) 256 (pre.me.rV x.reg).toNat))

/-- The meaning of `STV`. -/
def execStv (x : ArgM) (s : State) : Host.Outcome State Fault Refusal :=
  issueOne (stvOp x) s

/-- `LDVS` (R129: the stride register follows the base). -/
def ldvsOp (x : ArgM) : Op :=
  opM x (.ldvs x) 256 [srcA (x.abase + 1) x.b] [(3, x.reg.val)]
    (fun s => firstReach s (bytesOf x) ((strideIdx x).map (strideEa x s.me)))
    (fun pre cur => cur.updMe (fun c => c.wV x.reg (ofLanes (intTy x.ty).w
      ((strideIdx x).map (fun i => rd cur (reachPa pre pre.cur (strideEa x pre.me i) (bytesOf x)) (bytesOf x)))))) none

/-- The meaning of `LDVS`. -/
def execLdvs (x : ArgM) (s : State) : Host.Outcome State Fault Refusal :=
  issueOne (ldvsOp x) s

/-- `STVS` (R129: elements in increasing order). -/
def stvsOp (x : ArgM) : Op :=
  opM x (.stvs x) 256 [srcA (x.abase + 1) x.b, srcV x.reg x.b] []
    (fun s => firstReach s (bytesOf x) ((strideIdx x).map (strideEa x s.me))) (fun _ cur => cur)
    (some (fun pre cur => (strideIdx x).foldl (fun cur i =>
      wr cur (reachPa pre pre.cur (strideEa x pre.me i) (bytesOf x)) (bytesOf x)
        (lane (intTy x.ty).w i (pre.me.rV x.reg))) cur))

/-- The meaning of `STVS`. -/
def execStvs (x : ArgM) (s : State) : Host.Outcome State Fault Refusal :=
  issueOne (stvsOp x) s

/-- `GATH` (R130). -/
def gathOp (x : ArgG) : Op :=
  opG x (.gath x) [srcV x.vidx x.b, srcVM x.vm x.b] [(3, x.vreg.val)]
    (fun pre cur => cur.updMe (fun c => c.wV x.vreg (ofLanes (gathW x.ty) ((List.range 64).map (fun i =>
      if (pre.me.rVM x.vm).getLsbD i then
        rd cur (reachPa pre pre.cur (gathEa x pre.me i) (gathW x.ty / 8)) (gathW x.ty / 8)
      else 0))))) none

/-- The meaning of `GATH`. -/
def execGath (x : ArgG) (s : State) : Host.Outcome State Fault Refusal :=
  issueOne (gathOp x) s

/-- `SCAT` (R130: elements in increasing order). -/
def scatOp (x : ArgG) : Op :=
  opG x (.scat x) [srcV x.vreg x.b, srcV x.vidx x.b, srcVM x.vm x.b] [] (fun _ cur => cur)
    (some (fun pre cur => (gathIdx x pre.me).foldl (fun cur i =>
      wr cur (reachPa pre pre.cur (gathEa x pre.me i) (gathW x.ty / 8)) (gathW x.ty / 8)
        (lane (gathW x.ty) i (pre.me.rV x.vreg))) cur))

/-- The meaning of `SCAT`. -/
def execScat (x : ArgG) (s : State) : Host.Outcome State Fault Refusal :=
  issueOne (scatOp x) s

/-- `LDL` (R134). -/
def ldlOp (x : ArgM) : Op :=
  { opM x (.ldl x) (bytesOf x) [] [(0, x.reg.val)] (alignedErr x)
      (fun pre cur => (takeLock cur (lockOf x pre)).updMe (fun c =>
        c.wS x.reg (loaded x (rd cur (eaPa x (bytesOf x) pre) (bytesOf x))))) none with
    late := ldlLate x, wait := ldlWait x }

/-- The meaning of `LDL`. -/
def execLdl (x : ArgM) (s : State) : Host.Outcome State Fault Refusal :=
  issueOne (ldlOp x) s

/-- `STUL` (R134: the store, then the release). -/
def stulOp (x : ArgM) : Op :=
  { opM x (.stul x) (bytesOf x) [srcS x.reg x.b] [] (alignedErr x) (fun _ cur => cur)
      (some (fun pre cur =>
        dropLock (wr cur (eaPa x (bytesOf x) pre) (bytesOf x) (pre.me.rS x.reg).toNat) (lockOf x pre))) with
    late := stulLate x }

/-- The meaning of `STUL`. -/
def execStul (x : ArgM) (s : State) : Host.Outcome State Fault Refusal :=
  issueOne (stulOp x) s

/-- `ATOM` (R137). -/
def atomOp (x : ArgM) : Op :=
  opM x (.atom x) (bytesOf x) [srcS x.reg x.b] [(0, x.reg.val)] (alignedErr x) (fun _ cur => cur)
    (some (atomMem x (fun c old => atomNew (intTy x.ty) x.opt.toNat old (c.rS x.reg).toNat)))

/-- The meaning of `ATOM`. -/
def execAtom (x : ArgM) (s : State) : Host.Outcome State Fault Refusal :=
  issueOne (atomOp x) s

/-- `CAS` (R137). -/
def casOp (x : ArgM) : Op :=
  opM x (.cas x) (bytesOf x) [srcS x.reg x.b, srcS (x.reg + 1) x.b] [(0, x.reg.val)] (alignedErr x) (fun _ cur => cur)
    (some (atomMem x (fun c old =>
      if old = (intTy x.ty).low (c.rS x.reg).toNat then (c.rS (x.reg + 1)).toNat else old)))

/-- The meaning of `CAS`. -/
def execCas (x : ArgM) (s : State) : Host.Outcome State Fault Refusal :=
  issueOne (casOp x) s

/-- `AADD` (R138). -/
def aaddOp (x : ArgA) : Op :=
  Op.plain 3 [srcA x.src1 x.b1, srcS x.src2 x.b2] [(1, x.dst.val)] (fun pre cur =>
    cur.updMe (fun c => c.wA x.dst (pre.me.rA x.src1 + pre.me.rS x.src2 <<< x.mod.val)))

/-- The meaning of `AADD`. -/
def execAadd (x : ArgA) (s : State) : Host.Outcome State Fault Refusal :=
  issueOne (aaddOp x) s

/-- `AMOV` (R138, R139). -/
def amovOp (x : ArgA) : Op :=
  match x.mod with
  | 0 => Op.plain 3 [srcS x.src1 x.b1] [(1, x.dst.val)] (fun pre cur => cur.updMe (fun c => c.wA x.dst (pre.me.rS x.src1)))
  | 1 => Op.plain 3 [srcA x.src1 x.b1] [(0, x.dst.val)] (fun pre cur => cur.updMe (fun c => c.wS x.dst (pre.me.rA x.src1)))
  | 2 =>
    { Op.plain 3 [srcS x.src1 x.b1] [(6, x.dst.val)] (fun pre cur =>
        cur.updMe (fun c => c.wLC x.dst ((pre.me.rS x.src1).setWidth 32))) with
      chk := fun s => if s.me.nest.active then some (illegal 3 5 0) else none }
  | 3 => Op.plain 3 [] [(0, x.dst.val)] (fun pre cur =>
      cur.updMe (fun c => c.wS x.dst ((pre.me.rLC x.src1).setWidth 64)))
  | _ => Op.plain 3 [srcA x.src1 x.b1] [(1, x.dst.val)] (fun pre cur => cur.updMe (fun c => c.wA x.dst (pre.me.rA x.src1)))

/-- The meaning of `AMOV`. -/
def execAmov (x : ArgA) (s : State) : Host.Outcome State Fault Refusal :=
  issueOne (amovOp x) s

/-- `LDC` (R129). -/
def ldcOp (x : ArgM) : Op :=
  opM x (.ldc x) (bytesOf x) [] [(0, x.reg.val)] (paramErr x)
    (fun pre cur => cur.updMe (fun c => c.wS x.reg (loaded x (leAt pre.me.constBuf (eaOf pre.me x).toNat (bytesOf x))))) none

/-- The meaning of `LDC`. -/
def execLdc (x : ArgM) (s : State) : Host.Outcome State Fault Refusal :=
  issueOne (ldcOp x) s

end Sys2Proof.Machine
end

