-- ==== Sys2Proof/Machine/Barriers.lean ====
section
/-! DEFINITION. Barriers and counters (R287 to R296): their traps and the eight L-slot ops; the indivisible update of R288 stands in Issue.lean. -/

namespace Sys2Proof.Machine

open Sys2Proof

/-! ### The ops -/

/-- `EINFO` of causes 0x30 to 0x33 (R296). -/
def barInfo (kind slot value : Nat) : Word64 := n64 (kind * 2 ^ 56 + slot * 2 ^ 52 + value % 2 ^ 48)

/-- Trap 0x31 of an L-slot op. -/
def barTrap (kind value : Nat) (ea : Word64) : Exc := Exc.mk' 0x31 ea (barInfo kind 3 value)

/-- The address checks of a barrier or counter op (R295): alignment with its REASON, then reach. -/
def wordErr (x : ArgM) (al reason : Nat) (s : State) : Option Exc :=
  let ea := eaOf s.me x
  if ea.toNat % al ≠ 0 then some (illegal 3 reason 0) else eaErr x al s

/-- A barrier's physical address. -/
def barPa (x : ArgM) (s : State) : Nat := eaPa x 16 s

/-- The checks of `BINIT`, in the order of R295. -/
def binitChk (x : ArgM) (s : State) : Option Exc :=
  if (eaOf s.me x).toNat % 16 ≠ 0 then some (illegal 3 0x60 0)
  else if 65535 < (s.me.rS x.reg).toNat then some (illegal 3 0x69 0)
  else eaErr x 16 s

/-- An op on a barrier: `rest` is the check once its address is settled. -/
def opBar (x : ArgM) (i : Instr) (srcs : List Src) (dsts : List (Nat × Nat)) (rest : State → Option Exc)
    (eff : State → State → State) (mem : Option (State → State → State)) : Op :=
  opM x i 0 srcs dsts (fun s => match wordErr x 16 0x60 s with
    | some e => some e
    | none => rest s) eff mem

/-- `BINIT` (R292): a waiter tries again against the new word (R293). -/
def binitOp (x : ArgM) : Op :=
  opM x (.binit x) 0 [srcS x.reg x.b] [] (binitChk x) (fun _ cur => cur)
    (some (fun pre cur =>
      let pa := barPa x pre
      let n := (pre.me.rS x.reg).toNat
      retryWaiters (putBarrier cur pa false false 0 n n 0) pa))

/-- The meaning of `BINIT`. -/
def execBinit (x : ArgM) (s : State) : Host.Outcome State Fault Refusal := issueOne (binitOp x) s

/-- `BEXPECT` (R292). -/
def bexpectOp (x : ArgM) : Op :=
  { opBar x (.bexpect x) [srcS x.reg x.b] []
    (fun s =>
      let v := (s.me.rS x.reg).toInt
      if v < 0 then some (barTrap 4 (s.me.rS x.reg).toNat (eaOf s.me x))
      else if barOver s (barPa x s) v then some (barTrap 0 (s.me.rS x.reg).toNat (eaOf s.me x)) else none)
    (fun _ cur => cur)
    (some (fun pre cur => barUpdate cur (barPa x pre) (pre.me.rS x.reg).toInt (x.opt.toNat % 2))) with
    posts := fun s => some (barPa x s, (s.me.rS x.reg).toInt, barTrap 0 (s.me.rS x.reg).toNat (eaOf s.me x)) }

/-- The meaning of `BEXPECT`. -/
def execBexpect (x : ArgM) (s : State) : Host.Outcome State Fault Refusal :=
  issueOne (bexpectOp x) s

/-- `BARRIVE` (R292). -/
def barriveOp (x : ArgM) : Op :=
  opBar x (.barrive x) [] [(0, x.reg.val)]
    (fun s =>
      let pa := barPa x s
      if barRem s pa = 0 ∨ (x.opt.toNat % 2 = 1 ∧ barInit s pa = 0) then some (barTrap 2 0 (eaOf s.me x)) else none)
    (fun _ cur => cur)
    (some (fun pre cur =>
      let pa := barPa x pre
      let old := barPhase cur pa
      let s := if x.opt.toNat % 2 = 1 then
          putBarrier cur pa old (barOvf cur pa) (barPend cur pa) (barInit cur pa - 1) (barRem cur pa) (barGen cur pa)
        else cur
      (barUpdate s pa 0 1).updMe (fun c => c.wS x.reg (n64 (b2n old)))))

/-- The meaning of `BARRIVE`. -/
def execBarrive (x : ArgM) (s : State) : Host.Outcome State Fault Refusal :=
  issueOne (barriveOp x) s

/-- Whether a completion since the bundle was first tried satisfies the wait (R293). -/
def claimWoken (c : Context) (pa : Nat) : Bool :=
  match c.claim with
  | some k => k.addr == pa && k.woken
  | none => false

/-- Whether a wait on a barrier is satisfied. -/
def waitDone (x : ArgM) (s : State) : Bool :=
  (barPhase s (barPa x s) != (s.me.rS x.reg).getLsbD 0) || claimWoken s.me (barPa x s)

/-- The wait, reason 3, with its claim on the first completion from now on. -/
def barWait (x : ArgM) (promise : Option Nat) (s : State) : Option (Nat × (State → State)) :=
  if waitDone x s then none
  else some (3, fun s => s.updMe (fun c =>
    { c with claim := some { addr := barPa x s, promise := promise, woken := false, retry := false } }))

/-- `BWAIT` (R293). -/
def bwaitOp (x : ArgM) : Op :=
  { opBar x (.bwait x) [srcS x.reg x.b] []
      (fun s => if barOvf s (barPa x s) then some (barTrap 3 0 (eaOf s.me x)) else none) (fun _ cur => cur) none with
    wait := barWait x none }

/-- The meaning of `BWAIT`. -/
def execBwait (x : ArgM) (s : State) : Host.Outcome State Fault Refusal := issueOne (bwaitOp x) s

/-- The promise of a `BWAITP`. -/
def promiseOf (x : ArgM) (s : State) : Word64 := s.me.rS (x.reg + 1)

/-- `BWAITP` (R293): a missed promise is trap 0x30; an odd pair is refused before its registers are checked (R9, R295). -/
def bwaitpOp (x : ArgM) : Op :=
  { opBar x (.bwaitp x) [srcS x.reg x.b, srcS (x.reg + 1) x.b] []
      (fun s =>
        if barOvf s (barPa x s) then some (barTrap 3 0 (eaOf s.me x))
        else if !waitDone x s && decide ((promiseOf x s).toNat ≤ s.cyc.toNat) then
          some (Exc.mk' 0x30 (eaOf s.me x) (barInfo 0 3 (promiseOf x s).toNat))
        else none) (fun _ cur => cur) none with
    early := fun s =>
      if x.reg.val % 2 = 1 ∨ x.reg.val = 0 then
        if s.me.full .a x.abase && decide ((eaOf s.me x).toNat % 16 ≠ 0) then some (illegal 3 0x60 0)
        else some (illegal 3 0x64 0)
      else none,
    wait := fun s => barWait x (some (promiseOf x s).toNat) s }

/-- The meaning of `BWAITP`. -/
def execBwaitp (x : ArgM) (s : State) : Host.Outcome State Fault Refusal := issueOne (bwaitpOp x) s

/-- `BTEST` (R292). -/
def btestOp (x : ArgM) : Op :=
  opBar x (.btest x) [] [(0, x.reg.val)] (fun _ => none)
    (fun pre cur => cur.updMe (fun c =>
      c.wS x.reg (n64 (rd cur (barPa x pre + (if x.opt.toNat % 2 = 1 then 8 else 0)) 8)))) none

/-- The meaning of `BTEST`. -/
def execBtest (x : ArgM) (s : State) : Host.Outcome State Fault Refusal := issueOne (btestOp x) s

/-- `CADD` (R294): a sum that saturates is stored before its trap is raised. -/
def caddOp (x : ArgM) : Op :=
  opM x (.cadd x) 0 [srcS x.reg x.b] []
    (fun s => match wordErr x 8 0x61 s with
      | some e => some e
      | none =>
        let v := s.me.rS x.reg
        if v.toInt < 0 then some (Exc.mk' 0x32 (eaOf s.me x) (barInfo 0 3 v.toNat))
        else if 2 ^ 64 ≤ rd s (eaPa x 8 s) 8 + v.toNat then
          some { Exc.mk' 0x32 (eaOf s.me x) (barInfo 1 3 v.toNat) with pre := fun s => wr s (eaPa x 8 s) 8 (2 ^ 64 - 1) }
        else none)
    (fun _ cur => cur) (some (fun pre cur => addCounter cur (eaPa x 8 pre) (pre.me.rS x.reg).toNat))

/-- The meaning of `CADD`. -/
def execCadd (x : ArgM) (s : State) : Host.Outcome State Fault Refusal := issueOne (caddOp x) s

/-- `CWAITGE` (R294): it waits, reason 4. -/
def cwaitgeOp (x : ArgM) : Op :=
  { opM x (.cwaitge x) 0 [srcS x.reg x.b] [] (wordErr x 8 0x61) (fun _ cur => cur) none with
    wait := fun s =>
      if rd s (eaPa x 8 s) 8 < (s.me.rS x.reg).toNat then some (4, fun s => s) else none }

/-- The meaning of `CWAITGE`. -/
def execCwaitge (x : ArgM) (s : State) : Host.Outcome State Fault Refusal :=
  issueOne (cwaitgeOp x) s

end Sys2Proof.Machine
end

