-- ==== Sys2Proof/Machine/Children.lean ====
section
/-! DEFINITION. The C-slot ops of "Kernels": `HALTB` (R328), `LAUNCH`, `LAUNCHT` and `RELAUNCH` (R330 to R333), `KJOIN`
(R335, R336); and the launch packet (R279). -/

namespace Sys2Proof.Machine

open Sys2Proof

/-- `HALTB` (R328): once its bundle has issued, the context waits for its matrix operations and writebacks. -/
def haltbOp : Op := Op.plain 0 [] [] (fun _ cur => cur.updMe (fun c => { c with after := .haltb }))

/-- The meaning of `HALTB`. -/
def execHaltb (s : State) : Host.Outcome State Fault Refusal := issueOne haltbOp s

/-- A launch packet from its 256 bytes (R279). -/
def packetOf (d : List Byte) : Packet :=
  { type := leAt d 0 2, flags := leAt d 2 2, nwait := leAt d 4 1, kdesc := n64 (leAt d 8 8), param := n64 (leAt d 16 8),
    cctr := n64 (leAt d 24 8), caddv := n64 (leAt d 32 8), wctr0 := n64 (leAt d 40 8), wval0 := n64 (leAt d 48 8),
    wctr1 := n64 (leAt d 56 8), wval1 := n64 (leAt d 64 8),
    zeros := leAt d 5 3 == 0 && (d.drop 72).all (fun b => b == 0) }

/-- The packet at an offset of the issuing core's scratchpad. -/
def childPacket (s : State) (a : Word64) : Packet := packetOf (rdBytes s (spAddr (s.homeCore s.cur) a.toNat) 256)

/-- Whether a packet is malformed as a child's (R332): `types` are those that the op allows. -/
def childBad (types : List Nat) (p : Packet) : Bool :=
  !types.contains p.type || p.flags != 0 || decide (2 < p.nwait) || !p.zeros

/-- The reservation of the issuing launch (R330). -/
def myEntries (s : State) : List Nat := ((s.ctxLaunch s.cur).map (·.left)).getD []

/-- The checks of a launching op, in the order of R332; `opc` is its opcode, and `soft` that of `LAUNCHT`. -/
def childChk (opc : Nat) (types : List Nat) (soft : Bool) (addr : State → Word64) (s : State) : Option Exc :=
  let a := addr s
  if bits a.toNat 63 20 ≠ 0 ∨ a.toNat % 64 ≠ 0 ∨ 2 ^ 20 < a.toNat + 256 then some (illegal 0 0x70 0)
  else if childBad types (childPacket s a) then some (illegal 0 0x71 0)
  else if !soft && (myEntries s).isEmpty then some (Exc.mk' 0x50 a (n64 opc))
  else none

/-- A pool entry. -/
def State.entry (s : State) (e : Nat) : PoolEntry := Sparse.get PoolEntry.free s.pool e

/-- A pool entry written. -/
def State.setEntry (s : State) (e : Nat) (x : PoolEntry) : State := { s with pool := Sparse.set PoolEntry.free s.pool e x }

/-- The entry of the reservation that is taken: a free choice (log entry 11). -/
def takeOf (s : State) (l : List Nat) : Nat := l.getD (Config.pick s.free % l.length) 0

/-- The launch of a child (R332): its entry, its handle and, for `LAUNCHT`, its success. -/
def childIssue (dst : Nat) (pd : Option Nat) (addr : State → Word64) (pre cur : State) : State :=
  let l := myEntries pre
  let ok (b : Bool) (s : State) : State := match pd with
    | some r => s.updMe (fun c => c.wP r b)
    | none => s
  match l with
  | [] => ok false (cur.updMe (fun c => c.wSnow dst 0))
  | _ :: _ =>
    let e := takeOf cur l
    let lid := pre.me.launch.getD 0
    let own (f : Launch → Nat) : Nat := ((pre.ctxLaunch pre.cur).map f).getD 0
    let ser := (cur.entry e).ser + 1
    let cur := cur.tick.setEntry e
      { ser := ser, st := .waiting (childPacket pre (addr pre)) lid (own (·.prio)) cur.num (own (·.job)) (own (·.part)) (own (·.queue))
          (own (·.index)) }
    let cur := { cur.updLaunch lid (fun y => { y with left := y.left.filter (· != e) }) with num := cur.num + 1 }
    noteEntry e (ok true (cur.updMe (fun c => c.wSnow dst (n64 (ser.toNat * 2 ^ 16 + e)))))

/-- `LAUNCH` (R332). -/
def launchOp (x : ArgK) : Op :=
  { Op.plain 0 [srcA x.abase x.b] [(0, x.dst.val)] (childIssue x.dst none (fun s => s.me.rA x.abase)) with
    chk := childChk 0x1B [1, 3] false (fun s => s.me.rA x.abase) }

/-- The meaning of `LAUNCH`. -/
def execLaunch (x : ArgK) (s : State) : Host.Outcome State Fault Refusal := issueOne (launchOp x) s

/-- `LAUNCHT` (R332): an empty reservation is told in its predicate. -/
def launchtOp (x : ArgK) : Op :=
  { Op.plain 0 [srcA x.abase x.b] [(0, x.dst.val), (2, x.pd.val)] (childIssue x.dst (some x.pd) (fun s => s.me.rA x.abase)) with
    chk := childChk 0x1C [1, 3] true (fun s => s.me.rA x.abase) }

/-- The meaning of `LAUNCHT`. -/
def execLauncht (x : ArgK) (s : State) : Host.Outcome State Fault Refusal := issueOne (launchtOp x) s

/-- `RELAUNCH` (R332). -/
def relaunchOp (x : ArgA) : Op :=
  { Op.plain 0 [srcS x.src1 x.b1] [(0, x.dst.val)] (childIssue x.dst none (fun s => s.me.rS x.src1)) with
    chk := childChk 0x1E [2] false (fun s => s.me.rS x.src1) }

/-- The meaning of `RELAUNCH`. -/
def execRelaunch (x : ArgA) (s : State) : Host.Outcome State Fault Refusal := issueOne (relaunchOp x) s

/-- What a handle names (R335): no child of this launch, one that is not settled, or one with its status. -/
inductive JoinState where
  | stale
  | going
  | settled (status : Word64)
  deriving DecidableEq, Repr

/-- The child that a handle names. -/
def joinOf (s : State) (h : Word64) : JoinState :=
  let x := s.entry (bits h.toNat 9 0)
  if x.ser.toNat ≠ bits h.toNat 31 16 then .stale
  else match x.st with
    | .free => .stale
    | .reserved _ => .stale
    | .waiting _ p _ _ _ _ _ _ => if s.me.launch = some p then .going else .stale
    | .running p _ => if s.me.launch = some p then .going else .stale
    | .ended p v => if s.me.launch = some p then .settled v else .stale

/-- `KJOIN` (R335): it waits, reason 10, for a child that is not settled. -/
def kjoinOp (x : ArgA) : Op :=
  { Op.plain 0 [srcS x.src1 x.b1] [(0, x.dst.val)] (fun pre cur =>
      cur.updMe (fun c => c.wS x.dst (match joinOf pre (pre.me.rS x.src1) with
        | .settled v => v
        | .going => 0xFF
        | .stale => 0xFF))) with
    chk := fun s =>
      let h := (s.me.rS x.src1).toNat
      if bits h 63 32 ≠ 0 ∨ bits h 15 10 ≠ 0 then some (illegal 0 0x72 0) else none,
    wait := fun s => if joinOf s (s.me.rS x.src1) = .going then some (10, id) else none }

/-- The meaning of `KJOIN`. -/
def execKjoin (x : ArgA) (s : State) : Host.Outcome State Fault Refusal := issueOne (kjoinOp x) s

end Sys2Proof.Machine
end

