-- ==== Sys2Proof/Machine/Hazard.lean ====
section
/-! DEFINITION. The geometry of copy boxes (R299, R300) and of ring tiles (R307), the footprints of engine jobs (R206), and
the hazard unit (R207). -/

namespace Sys2Proof.Machine

open Sys2Proof

/-! ### Boxes (R299, R300) -/

/-- The product of a list. -/
def prodOf (l : List Nat) : Nat := l.foldl (· * ·) 1

/-- The elements of a box. -/
def Box.count (b : Box) : Nat := prodOf b.ext

/-- The bytes of an element. -/
def Box.esize (b : Box) : Nat := 2 ^ b.esz

/-- The bytes of a box. -/
def Box.bytes (b : Box) : Nat := b.count * b.esize

/-- A number in mixed radix, the first digit the fastest. -/
def digits : List Nat → Nat → List Nat
  | [], _ => []
  | n :: t, e => e % n :: digits t (e / n)

/-- The inner product of two lists. -/
def dotI : List Int → List Int → Int
  | a :: s, b :: t => a * b + dotI s t
  | _, _ => 0

/-- The index of element `e`. -/
def Box.idx (b : Box) (e : Nat) : List Int := (digits b.ext e).map Int.ofNat

/-- The tensor coordinates of element `e`. -/
def Box.coord (b : Box) (e : Nat) : List Int := List.zipWith (· + ·) b.orig (b.idx e)

/-- Whether element `e` lies in the tensor. -/
def Box.inside (b : Box) (e : Nat) : Bool :=
  !b.bound || ((List.zip (b.coord e) b.tdim).take b.ndim).all (fun p => decide (0 ≤ p.1) && decide (p.1 < p.2))

/-- The source address of element `e`. -/
def Box.srcAt (b : Box) (e : Nat) : Word64 := b.src + w64 (dotI (b.coord e) b.sstr)

/-- The destination address of element `e`. -/
def Box.dstAt (b : Box) (e : Nat) : Word64 := b.dst + w64 (dotI (b.idx e) b.dstr)

/-- The fill bytes of an element. -/
def Box.fillBytes (b : Box) : List Byte := leBytes b.esize (b.fill.toNat * 2 ^ 32 + b.fill.toNat)

/-- The least and greatest value of c x stride for c from lo to hi. -/
def reachOf (lo hi stride : Int) : Int × Int := (min (lo * stride) (hi * stride), max (lo * stride) (hi * stride))

/-- The span of per-dimension ranges of values and their strides, as offsets; `n` bytes at the far end. -/
def spanOf (n : Nat) (l : List ((Int × Int) × Int)) : Int × Int :=
  let r := l.foldl (fun (s : Int × Int) p =>
    let q := reachOf p.1.1 p.1.2 p.2
    (s.1 + q.1, s.2 + q.2)) (0, 0)
  (r.1, r.2 + n)

/-- The coordinates per dimension that hold inside elements; empty ranges have lo above hi. -/
def Box.insideRanges (b : Box) : List (Int × Int) :=
  (List.range 6).map (fun d =>
    let o := b.orig.getD d 0
    let n : Int := b.ext.getD d 1
    if b.bound && decide (d < b.ndim) then (max o 0, min (o + n) (b.tdim.getD d 0) - 1) else (o, o + n - 1))

/-- Whether a box has an inside element. -/
def Box.anyInside (b : Box) : Bool := b.insideRanges.all (fun r => decide (r.1 ≤ r.2))

/-- The offsets from SRCBASE of the inside elements' bounding range. -/
def Box.srcSpan (b : Box) : Int × Int := spanOf b.esize (List.zip b.insideRanges b.sstr)

/-- The offsets from DSTBASE of the box's bounding range. -/
def Box.dstSpan (b : Box) : Int × Int :=
  spanOf b.esize (List.zip (b.ext.map (fun (n : Nat) => ((0 : Int), (n : Int) - 1))) b.dstr)

/-! ### Rings (R307) -/

/-- The tiles of a ring. -/
def Ring.tiles (r : Ring) : Nat := prodOf r.grid

/-- The box of tile `n`: its origin moved, its destination the slot. -/
def Ring.tile (r : Ring) (n : Nat) : Box :=
  { r.geom with
    orig := List.zipWith (fun o g => o + g) r.geom.orig
      (List.zipWith (fun g e => ((g * e : Nat) : Int)) (digits r.grid n) r.geom.ext),
    dst := n64 (r.rbase + n % r.nslot * r.slotsz) }

/-- The full barrier of a slot. -/
def Ring.fullBar (r : Ring) (k : Nat) : Nat := r.barbase + 32 * k

/-- The empty barrier of a slot. -/
def Ring.emptyBar (r : Ring) (k : Nat) : Nat := r.barbase + 32 * k + 16

/-! ### Footprints (R206) -/

/-- An address as the hazard unit compares it: a short address is the scratchpad of core `g`, and this chip's own number is
0x7FF. -/
def canon (s : State) (j g : Nat) (a : Word64) : Int :=
  if isShort a then
    ((0x7FF * 2 ^ 53 + 2 ^ 52 + g / Config.coresPerCluster * 2 ^ 27 + g % Config.coresPerCluster * 2 ^ 20 + a.toNat : Nat) : Int)
  else if (s.job j).present && (s.job j).own == chipOf a then ((0x7FF * 2 ^ 53 + a.toNat % 2 ^ 53 : Nat) : Int)
  else (a.toNat : Int)

/-- A range of `n` bytes. -/
def rangeAt (lo : Int) (n : Nat) : Int × Int := (lo, lo + n)

/-- A span moved to its base. -/
def moved (base : Int) (r : Int × Int) : Int × Int := (base + r.1, base + r.2)

/-- The source range of a box. -/
def srcFoot (s : State) (j g : Nat) (b : Box) : List (Int × Int) :=
  if b.anyInside then [moved (canon s j g b.src) b.srcSpan] else []

/-- The destination range of a box. -/
def dstFoot (s : State) (j g : Nat) (b : Box) : List (Int × Int) := [moved (canon s j g b.dst) b.dstSpan]

/-- The range of a counter; none for 0. -/
def ctrFoot (s : State) (j g : Nat) (a : Word64) : List (Int × Int) :=
  if a = 0 then [] else [rangeAt (canon s j g a) 8]

/-- The range of a barrier; none for 0. -/
def barFoot (s : State) (j g : Nat) (a : Word64) : List (Int × Int) :=
  if a = 0 then [] else [rangeAt (canon s j g a) 16]

/-- Whether two lists of ranges share a byte. -/
def meets (p q : List (Int × Int)) : Bool :=
  p.any (fun a => q.any (fun b => decide (a.1 < b.2) && decide (b.1 < a.2)))

/-- Whether a later job with footprint `j` conflicts with an earlier one (R207). -/
def Foot.conflicts (e j : Foot) : Bool := meets j.rd e.wr || meets j.wr e.wr || meets j.wr e.rd

/-- Whether flits of an operation are unacknowledged. -/
def inFlight (s : State) (op : Nat) : Bool := s.ports.any (fun p => p.2.buf.any (fun f => f.op == op))

/-- What is still live of a copy job (R206, R207): nothing of a multicast performed at every member; only the counter of a copy once
its bytes are performed; and a remote operation's writes, its source read, until no flit of it is unacknowledged. -/
def CopyJob.live (s : State) (g : Nat) (x : CopyJob) : Foot :=
  match x.kind with
  | .mcast => if x.done.length = x.members.length then { rd := [], wr := [] } else x.foot
  | .copy => if x.done.length = x.box.count then { rd := [], wr := ctrFoot s x.job g x.box.ctr } else x.foot
  | .fill => if x.done.length = x.box.count then { rd := [], wr := ctrFoot s x.job g x.box.ctr } else x.foot
  | _ => if x.handed then { rd := [], wr := if inFlight s x.num then x.foot.wr else [] } else x.foot

/-- The footprint of tile `n` of a ring: its slot and the slot's barriers. -/
def Sub.tileFoot (s : State) (x : Sub) (n : Nat) : Foot :=
  let k := n % x.ring.nslot
  let slot := rangeAt (canon s x.job x.core (n64 (x.ring.rbase + k * x.ring.slotsz))) x.ring.slotsz
  let bars := rangeAt (canon s x.job x.core (n64 (x.ring.fullBar k))) 32
  if x.ring.storer then { rd := [slot], wr := [bars] } else { rd := [], wr := [slot, bars] }

/-- The live footprints of a context's engine jobs numbered below `num`. -/
def liveFoots (s : State) (cid num : Nat) : List Foot :=
  let g := s.homeCore cid
  let k := s.core g
  (k.jobs.filter (fun x => x.ctx == cid && decide (x.num < num) && !x.dead)).map (CopyJob.live s g)
  ++ ((k.mq ++ k.savedOps ++ s.saved.flatMap (fun v => if v.id == cid then v.ops else [])).filter
      (fun e => e.ctx == cid && decide (e.num < num))).map (·.foot)
  ++ s.quays.flatMap (fun q => q.2.subs.flatMap (fun p => match p.2 with
      | none => []
      | some x =>
        if x.ctx = cid then (x.tnums.filter (fun t => decide (t.2 - 1 < num))).map (fun t => x.tileFoot s t.1) else []))
  ++ s.coll.flatMap (fun p => ((p.2.queue ++ p.2.flying).filter (fun r => r.ctx == cid && decide (r.num < num))).map (·.foot))

/-- Whether an unfinished fence of the context holds a job back: the fence precedes every job numbered from its bound on
(R216). -/
def fenced (s : State) (cid num : Nat) : Bool :=
  match (s.ctx cid).after with
  | .fence _ bound => decide (bound ≤ num)
  | _ => false

/-- Whether the hazard unit, and a fence, let a job of a context begin (R207, R216). -/
def mayBegin (s : State) (cid num : Nat) (f : Foot) : Bool :=
  !fenced s cid num && !(liveFoots s cid num).any (fun e => e.conflicts f)

end Sys2Proof.Machine
end

