-- ==== Sys2Proof/Machine/Vector.lean ====
section
/-! DEFINITION. The V-slot ops (R140 to R168). A result is computed from the context before the bundle; `FLAGS` and `SEED`
move on from their values so far, in slot order (R39). -/

namespace Sys2Proof.Machine

open Sys2Proof

/-! ### Lanes, masks and sources -/

/-- The lane width of a type (R140, R141). -/
def laneBits (tyc : Nat) : Nat := max 8 (tyOf tyc).w

/-- The lane width of an op. -/
def vW (x : ArgV) : Nat := laneBits (vTyc x)

/-- The lanes of an op. -/
def vN (x : ArgV) : Nat := 2048 / vW x

/-- The mask that governs an op. -/
def vMask (x : ArgV) (c : Context) : VMask := c.rVM (vMaskReg x)

/-- Lane `i` of src1. -/
def vX (x : ArgV) (c : Context) (i : Nat) : Nat := lane (vW x) i (c.rV x.src1)

/-- Lane `i` of src2, or the low bits of a scalar for every lane (R144, R151). -/
def vY (x : ArgV) (c : Context) (i : Nat) : Nat :=
  if vScal x then (c.rS x.src2).toNat % 2 ^ vW x else lane (vW x) i (c.rV x.src2)

/-- Lane `i` of the destination before the bundle. -/
def vD (x : ArgV) (c : Context) (i : Nat) : Nat := lane (vW x) i (c.rV x.dst)

/-- The rounding environment of an op: `FMT` with RNDO (R144). -/
def vEnv (x : ArgV) (c : Context) : FEnv := { FEnv.ofFmt c.fmt with rnd := vRnd x c.fmt }

/-- src1 as a vector. -/
def v1 (x : ArgV) : List Src := [srcV x.src1 x.b1]

/-- src1 as a scalar. -/
def s1 (x : ArgV) : List Src := [srcS x.src1 x.b1]

/-- src2 as a vector. -/
def v2 (x : ArgV) : List Src := [srcV x.src2 x.b2]

/-- src2 as a scalar. -/
def s2 (x : ArgV) : List Src := [srcS x.src2 x.b2]

/-- src2 as SCAL selects. -/
def vs2 (x : ArgV) : List Src := if vScal x then s2 x else v2 x

/-- The mask register (R147). -/
def mk (x : ArgV) : List Src := [srcVM (vMaskReg x) x.b1]

/-- Whether a write mask may keep an old element (R147). -/
def keeps (x : ArgV) : Bool := vMaskReg x != 0 && !vZ x

/-- The destination as a source that only blocks (R147), when `b`. -/
def oldV (x : ArgV) (b : Bool) : List Src := if b then [srcV x.dst false] else []

/-- Scalar destinations as sources that only block (R147), when `b`. -/
def oldS (l : List Nat) (b : Bool) : List Src := if b then l.map (fun r => srcS r false) else []

/-- An element computed, zeroed or kept (R142). -/
def masked (x : ArgV) (m : Bool) (old : Nat) (f : Draw → Nat × Draw) (a : Draw) : Nat × Draw :=
  if m then f a else (if vZ x then 0 else old, a)

/-- Elements in increasing order (R87). -/
def Draw.map (f : Nat → Draw → Nat × Draw) : List Nat → Draw → List Nat × Draw
  | [], a => ([], a)
  | i :: t, a =>
    let r := f i a
    let q := Draw.map f t r.2
    (r.1 :: q.1, q.2)

/-- What a context gives its draws and flags. -/
def Context.draw (c : Context) : Draw := { fl := c.flags, seed := c.seed }

/-- `FLAGS` and `SEED` after an op. -/
def Context.drawn (c : Context) (a : Draw) : Context := { c with flags := a.fl, seed := a.seed }

/-- A V op (R148: HOLD leaves it held). -/
def opV (x : ArgV) (i : Instr) (srcs : List Src) (dsts : List (Nat × Nat)) (eff : State → State → State) : Op :=
  { Op.plain 4 srcs dsts eff with hold := heldBy x.hold i }

/-- An op with one vector result, a number of 2048 bits. -/
def opVV (x : ArgV) (i : Instr) (srcs : List Src) (f : Context → Draw → Nat × Draw) : Op :=
  opV x i srcs [(3, x.dst.val)] (fun pre cur => cur.updMe (fun c =>
    let r := f pre.me c.draw
    (c.wV x.dst (BitVec.ofNat 2048 r.1)).drawn r.2))

/-- An op with one mask result. -/
def opVM (x : ArgV) (i : Instr) (srcs : List Src) (f : Context → Draw → Nat × Draw) : Op :=
  opV x i srcs [(4, x.dst.val)] (fun pre cur => cur.updMe (fun c =>
    let r := f pre.me c.draw
    (c.wVM x.dst (BitVec.ofNat 256 r.1)).drawn r.2))

/-- An op with one scalar result. -/
def opVS (x : ArgV) (i : Instr) (srcs : List Src) (f : Context → Draw → Word64 × Draw) : Op :=
  opV x i srcs [(0, x.dst.val)] (fun pre cur => cur.updMe (fun c =>
    let r := f pre.me c.draw
    (c.wS x.dst r.1).drawn r.2))

/-- The lanes of an element-wise op, packed (R151). -/
def vEach (x : ArgV) (f : Context → Nat → Draw → Nat × Draw) (c : Context) (a : Draw) : Nat × Draw :=
  let r := Draw.map (fun i => masked x ((vMask x c).getLsbD i) (vD x c i) (f c i)) (List.range (vN x)) a
  (packLanes (vW x) r.1, r.2)

/-- An element-wise op under the mask; `old` says that it reads its destination in any case. -/
def opEach (x : ArgV) (i : Instr) (srcs : List Src) (old : Bool) (f : Context → Nat → Draw → Nat × Draw) : Op :=
  opVV x i (srcs ++ mk x ++ oldV x (old || keeps x)) (vEach x f)

/-- A lane function without flags or draws. -/
def still (f : Context → Nat → Nat) (c : Context) (i : Nat) (a : Draw) : Nat × Draw := (f c i, a)

/-! ### Element-wise arithmetic -/

/-- `narrow` of R151 as a pattern with its flag. -/
def narrow (t : ITy) (sat : Bool) (v : Int) : Nat × FlagSet :=
  (t.pat (if sat then t.sat v else t.wrap v), flagIf (t.out v) flOF)

/-- An arithmetic lane (R151): `ff` on floating lanes from x, y, d and the draw, `fi` on integer values. -/
def vArith (x : ArgV) (ff : FTy → FEnv → Nat → Nat → Nat → Nat → Nat × FlagSet) (fi : Int → Int → Int → Int)
    (c : Context) (i : Nat) (a : Draw) : Nat × Draw :=
  match tyOf (vTyc x) with
  | .fl t => a.run true (vRnd x c.fmt) (ff t (vEnv x c) (vX x c i) (vY x c i) (vD x c i))
  | .it t => a.run false 0 (fun _ => narrow t (vSat x) (fi (t.read (vX x c i)) (t.read (vY x c i)) (t.read (vD x c i))))

/-- Maximum or minimum of two lanes of a type (R99). -/
def minMax (ty : ElTy) (env : FEnv) (mx : Bool) (p q : Nat) : Nat × FlagSet :=
  match ty with
  | .fl t => t.fminmax env mx p q
  | .it t => (if (if mx then decide (t.read p < t.read q) else decide (t.read q < t.read p)) then q else p, 0)

/-- A lane of `VMIN` or `VMAX`. -/
def vMinMax (x : ArgV) (mx : Bool) (c : Context) (i : Nat) (a : Draw) : Nat × Draw :=
  a.run false 0 (fun _ => minMax (tyOf (vTyc x)) (vEnv x c) mx (vX x c i) (vY x c i))

/-- A lane of `VABS` or `VNEG` (R151). -/
def vSign (x : ArgV) (neg : Bool) (c : Context) (i : Nat) (a : Draw) : Nat × Draw :=
  match tyOf (vTyc x) with
  | .fl t => (if neg then vX x c i ^^^ 2 ^ (t.w - 1) else vX x c i % 2 ^ (t.w - 1), a)
  | .it t => a.run false 0 (fun _ =>
      narrow t (vSat x) (if neg then -(t.read (vX x c i)) else ((t.read (vX x c i)).natAbs : Int)))

/-- The shift amount of a lane (R152). -/
def vSh (x : ArgV) (c : Context) (i : Nat) : Nat := vY x c i % 64 % vW x

/-- One lane of `VCMP` (R153). -/
def vCond (x : ArgV) (c : Context) (i : Nat) : Bool × FlagSet :=
  let sub := bits (vExt x) 2 0
  match tyOf (vTyc x) with
  | .fl t => fcmp sub (t.decode (vX x c i)) (t.decode (vY x c i))
  | .it t =>
    let p := t.read (vX x c i)
    let q := t.read (vY x c i)
    (match sub with
      | 0 => decide (p = q)
      | 1 => decide (p ≠ q)
      | 2 => decide (p < q)
      | 3 => decide (q ≤ p)
      | 4 => decide (p ≤ q)
      | _ => decide (q < p), 0)

/-- The unmasked lanes of src1, in order. -/
def vLive (x : ArgV) (c : Context) : List Nat := (List.range (vN x)).filter (fun i => (vMask x c).getLsbD i)

/-! ### Conversion (R156) -/

/-- The source type code of `VCVT` and `VQUANT`, and the element code of `VDEQ` (R144). -/
def vOty (x : ArgV) : Nat := bits (vExt x) 21 18

/-- PK (R144). -/
def vPk (x : ArgV) : Bool := bitOf (vExt x) 15

/-- PART (R144). -/
def vPart (x : ArgV) : Nat := bits (vExt x) 17 16

/-- An FP6 or FP4 type. -/
def subByte (tyc : Nat) : Bool := tyc == 5 || tyc == 6 || tyc == 7

/-- The spacing of a type's elements: its lane, or packed as in R78. -/
def spacing (pk : Bool) (tyc : Nat) : Nat := if pk && subByte tyc then (tyOf tyc).w else laneBits tyc

/-- Fields of `w` bits written from field `base` on; other bits are kept. -/
def putFields (w base : Nat) (vals : List Nat) (old : Nat) : Nat :=
  old % 2 ^ (w * base) + 2 ^ (w * base) * packLanes w vals
    + 2 ^ (w * (base + vals.length)) * (old / 2 ^ (w * (base + vals.length)))

/-- The elements of a `VCVT`. -/
def cvtN (x : ArgV) : Nat := 2048 / max (laneBits (vOty x)) (vW x)

/-- Whether a `VCVT` narrows. -/
def cvtNarrows (x : ArgV) : Bool := decide (vW x < laneBits (vOty x))

/-- The first source element of a `VCVT`. -/
def cvtSrc (x : ArgV) : Nat := if vW x ≤ laneBits (vOty x) then 0 else vPart x * cvtN x

/-- The first destination element of a `VCVT`. -/
def cvtDst (x : ArgV) : Nat := if vW x ≤ laneBits (vOty x) then vPart x * cvtN x else 0

/-- The result of a `VCVT`. -/
def cvtVal (x : ArgV) (c : Context) (a : Draw) : Nat × Draw :=
  let ws := spacing (vPk x) (vOty x)
  let wd := spacing (vPk x) (vTyc x)
  let sty := tyOf (vOty x)
  let dty := tyOf (vTyc x)
  let r := Draw.map (fun j => masked x ((vMask x c).getLsbD j) (lane wd (cvtDst x + j) (c.rV x.dst))
      (fun a => a.run (convDraws sty dty) (vRnd x c.fmt)
        (convert (vEnv x c) (vSat x) sty dty (lane ws (cvtSrc x + j) (c.rV x.src1))))) (List.range (cvtN x)) a
  (putFields wd (cvtDst x) r.1 (c.rV x.dst).toNat, r.2)

/-- PART beyond the width ratio (R149, R156). -/
def cvtChk (x : ArgV) : Option Exc :=
  let big := max (laneBits (vOty x)) (vW x)
  let small := min (laneBits (vOty x)) (vW x)
  if big / small ≤ vPart x then some (illegal 4 0x21 0) else none

/-! ### Block quantisation (R157 to R160) -/

/-- The groups of a `VQUANT` or `VDEQ`. -/
def vNg (x : ArgV) : Nat := bits (vExt x) 13 9 + 1

/-- The registers of a group of 256 elements of a floating type. -/
def groupRegs (tyc : Nat) : Nat := if tyc = 0 then 4 else 2

/-- A misaligned register group (R143). -/
def groupErr (r n : Nat) : Option Exc := if r % n ≠ 0 ∨ 32 < r + n then some (illegal 4 0x20 0) else none

/-- `VQUANT` needs a scale mode of 1 or 2 (R157). -/
def ssmErr (s : State) : Option Exc :=
  if bits s.me.fmtNow.toNat 23 22 = 0 ∨ bits s.me.fmtNow.toNat 23 22 = 3 then some (illegal 4 0x22 0) else none

/-- Element `e` of a register group. -/
def groupElem (w base e : Nat) (c : Context) : Nat := lane w (e % (2048 / w)) (c.rV (base + e / (2048 / w)))

/-- The magnitude of a finite datum. -/
def Num.abs : Num → Num
  | .fin _ m e => .fin false m e
  | .inf _ => .inf false
  | .nan _ p w g => .nan false p w g

/-- A NaN or an infinity. -/
def Num.special : Num → Bool
  | .fin .. => false
  | _ => true

/-- The larger of two magnitudes. -/
def Num.bigger (a b : Num) : Num := if a.cmp b = -1 then b else a

/-- The largest magnitude of a list of finite data. -/
def amaxOf (l : List Num) : Num := l.foldl (fun m x => m.bigger x.abs) (.fin false 0 0)

/-- One group of a block partition: the block's groups so far, its largest magnitude so far, and whether the group before
was special (R91). -/
structure BlkState where
  groups : Nat
  amax : Num
  prev : Bool
  deriving DecidableEq, Repr

/-- The rule `start(g)` of R91 for a group that is not the first. -/
def startsBlock (jump : Nat) (b : BlkState) (g : List Num) : Bool :=
  let sp := g.any Num.special
  let m := amaxOf g
  b.groups == 32 || sp || b.prev
    || (!m.isZero && !b.amax.isZero && decide (jump < (m.flog2 - b.amax.flog2).natAbs))

/-- Whether group `g` starts a block: by the rule of R91 with `SSM` 2; with `SSM` 1 every fourth group does, and a group that holds
a NaN or an infinity is a block of its own there too (R160, log entry 81). -/
def cutsBefore (ssm jump g : Nat) (b : BlkState) (x : List Num) : Bool :=
  if ssm = 1 then g % 4 == 0 || x.any Num.special || b.prev else g == 0 || startsBlock jump b x

/-- The blocks of a list of groups: every block is the list of its groups. -/
def blocksOf (ssm jump : Nat) : Nat → BlkState → List (List Num) → List (List (List Num))
  | _, _, [] => []
  | g, b, x :: t =>
    let st := cutsBefore ssm jump g b x
    let m := if x.any Num.special then .fin false 0 0 else amaxOf x
    let b' : BlkState :=
      { groups := if st then 1 else b.groups + 1, amax := if st then m else b.amax.bigger m, prev := x.any Num.special }
    match blocksOf ssm jump (g + 1) b' t with
    | [] => [[x]]
    | u :: us =>
      let next := match t with
        | [] => true
        | y :: _ => cutsBefore ssm jump (g + 1) b' y
      if next then [x] :: u :: us else (x :: u) :: us

/-- The scale exponent that a block's elements ask for (R88). -/
def blockExp (srule : Nat) (t : FTy) (xs : List Num) : Int := scaleRaw srule t.emax t.fmax.1 t.fmax.2 (amaxOf xs)

/-- The scale code of a block (R88, R90). -/
def blockCode (srule : Nat) (t : FTy) (xs : List Num) : Nat :=
  if xs.any Num.special then 255
  else if (amaxOf xs).isZero then 0
  else (scaleClamp (blockExp srule t xs) + 127).toNat

/-- Whether a block's scale was clamped from below, at -127. -/
def clampedLow (srule : Nat) (t : FTy) (xs : List Num) : Bool :=
  !(amaxOf xs).isZero && decide (blockExp srule t xs < -127)

/-- Whether a datum is not zero and smaller in magnitude than every other value of a type. -/
def FTy.tiny (t : FTy) (x : Num) : Bool := !x.isZero && x.abs.cmp (t.decode 1) == -1

/-- One element of a block (R89, R90). In a block whose scale was clamped from below (`low`), an element below the format's range
rounds toward zero. -/
def quantElem (t : FTy) (env : FEnv) (low : Bool) (code : Nat) (x : Num) (d : Nat) : Nat × FlagSet :=
  let y := x.scale (127 - (code : Int))
  if code = 255 then (0, flNV)
  else t.round { env with sat := true, rnd := if low && t.tiny y then 1 else env.rnd } y d

/-- The elements of a block, drawing once each (R87). -/
def quantElems (t : FTy) (env : FEnv) (low : Bool) (code : Nat) : List Num → Draw → List Nat × Draw
  | [], a => ([], a)
  | x :: l, a =>
    let r := a.run true env.rnd (quantElem t env low code x)
    let q := quantElems t env low code l r.2
    (r.1 :: q.1, q.2)

/-- The blocks of a `VQUANT` in order: scale codes, elements, and the draws. -/
def quantBlocks (t : FTy) (env : FEnv) (srule : Nat) : List (List (List Num)) → Draw → List Nat × List Nat × Draw
  | [], a => ([], [], a)
  | b :: l, a =>
    let xs := b.flatten
    let code := blockCode srule t xs
    let r := quantElems t env (clampedLow srule t xs) code xs a
    let q := quantBlocks t env srule l r.2
    (code :: q.1, r.1 ++ q.2.1, q.2.2)

/-- The boundary bitmap of blocks: the bit of each block's first group. -/
def boundBits : Nat → List (List (List Num)) → Nat
  | _, [] => 0
  | g, b :: t => 2 ^ g + boundBits (g + b.length) t

/-- The source elements of a `VQUANT`, group by group. -/
def quantIn (x : ArgV) (c : Context) : List (List Num) :=
  match tyOf (vOty x) with
  | .fl t => (List.range (vNg x)).map (fun g =>
      (List.range 8).map (fun k => t.decode (groupElem t.w x.src1 (8 * g + k) c)))
  | .it _ => []

/-- The result pair of a `VQUANT` (R158). -/
def quantVal (x : ArgV) (c : Context) (a : Draw) : Nat × Nat × Draw :=
  match tyOf (vTyc x) with
  | .it _ => (0, 0, a)
  | .fl t =>
    let f := c.fmt.toNat
    let bl := blocksOf (bits f 23 22) (bits f 21 19) 0 { groups := 0, amax := .fin false 0 0, prev := false } (quantIn x c)
    let r := quantBlocks t (vEnv x c) (bits f 13 12) bl a
    (packLanes (spacing (vPk x) (vTyc x)) r.2.1,
     packLanes 8 r.1 + 2 ^ 256 * boundBits 0 bl + 2 ^ 288 * bl.length, r.2.2)

/-- One element of a `VDEQ` (R159); a NaN element under a NaN scale is the NaN of R77 (R160). -/
def deqElem (t : FTy) (env : FEnv) (code : Nat) (w : Num) (d : Nat) : Nat × FlagSet :=
  if code = 255 then (if w.isNan then t.nanOut env w else t.canon, flNV) else t.round env (w.scale ((code : Int) - 127)) d

/-- Element `e` of a `VDEQ`'s source: an element, or a weight of a `.cb8` index (R94); a weight of an entry in `bad` is +0
(R183). -/
def deqSrc (x : ArgV) (cb : Sparse Word32) (bad : List Nat) (c : Context) (e : Nat) : Num :=
  if bitOf (vExt x) 14 then
    let idx := lane 16 (e / 8) (c.rV x.src1)
    if bad.contains (idx / 256) then .fin false 0 (-1) else cbWeight (Sparse.get 0 cb (idx / 256)) idx (e % 8)
  else match tyOf (vOty x) with
    | .fl t => t.decode (lane (spacing (vPk x) (vOty x)) e (c.rV x.src1))
    | .it _ => madeNan

/-- The block of group `g` by the bitmap in a register's bytes 32..35. -/
def blkOf (map : Nat) (g : Nat) : Nat := popcount g (bits map (255 + 33) 257)

/-- The elements of a `VDEQ`, zeros after its groups. -/
def deqVals (x : ArgV) (cb : Sparse Word32) (bad : List Nat) (c : Context) (a : Draw) : List Nat × Draw :=
  match tyOf (vTyc x) with
  | .it _ => ([], a)
  | .fl t =>
    let info := c.rV (x.src1 + 1)
    Draw.map (fun e a =>
      a.run true (vRnd x c.fmt) (deqElem t (vEnv x c) (lane 8 (blkOf info.toNat (e / 8)) info) (deqSrc x cb bad c e)))
      (List.range (8 * vNg x)) a

/-- Whether the issuing context has an incomplete `MCBLD` (R159). -/
def ownMcbld (s : State) : Bool :=
  let k := s.core (s.homeCore s.cur)
  (k.mq ++ k.savedOps).any (fun e => e.ctx == s.cur && e.opc == 3)

/-! ### Dot products and reductions (R161 to R164) -/

/-- The products of a `VDOT` on floating lanes. -/
def dotNum (t : FTy) (x : ArgV) (c : Context) : List (Num × Num) :=
  (vLive x c).map (fun i => (t.decode (vX x c i), t.decode (lane (vW x) i (c.rV x.src2))))

/-- Adds s[dst] of a `VDOT` (SUB bit 0). -/
def dotAcc (x : ArgV) : Bool := bitOf (vExt x) 0

/-- A floating `VDOT`: its exact sum rounded once (R161); the operands' NaNs in operand order (R77). -/
def dotFloat (t : FTy) (x : ArgV) (c : Context) (d : Nat) : Nat × FlagSet :=
  let ps := dotNum t x c
  let ad := if dotAcc x then [f32.decode ((c.rS x.dst).toNat % 2 ^ 32)] else []
  let terms := ps.map (fun p => (p.1.mul p.2).1) ++ ad
  let s := ad.foldl SumAcc.add (ps.foldl (fun s p => s.addMul p.1 p.2) SumAcc.zero)
  let plus := terms.all (fun n => n.isZero && !n.neg)
  let r := if plus then (Num.fin false 0 0, 0) else s.num ((vEnv x c).rnd == 3)
  f32.result (vEnv x c) (ps.map (·.1) ++ ps.map (·.2) ++ ad) r d

/-- An integer `VDOT` (R161). -/
def dotInt (t : ITy) (x : ArgV) (c : Context) : Word64 × FlagSet :=
  let node : ITy := ⟨64, t.sg⟩
  let v := (vLive x c).foldl (fun s i => s + t.read (vX x c i) * t.read (lane (vW x) i (c.rV x.src2)))
    (if dotAcc x then node.read (c.rS x.dst).toNat else 0)
  (node.ext v, flagIf (node.out v) flOF)

/-- One level of the tree of R97: adjacent entries combined, lowest pair first. -/
def pairUp {α : Type} (f : α → α → Draw → α × Draw) : List α → Draw → List α × Draw
  | p :: q :: t, a =>
    let r := f p q a
    let u := pairUp f t r.2
    (r.1 :: u.1, u.2)
  | l, a => (l, a)

/-- The tree of R97. -/
def tree {α : Type} (f : α → α → Draw → α × Draw) : Nat → List α → Draw → List α × Draw
  | 0, l, a => (l, a)
  | n + 1, l, a =>
    let r := pairUp f l a
    tree f n r.1 r.2

/-- The root of the tree over at most 256 entries. -/
def root {α : Type} (d : α) (f : α → α → Draw → α × Draw) (l : List α) (a : Draw) : α × Draw :=
  let r := tree f 8 l a
  (r.1.headD d, r.2)

/-- The all-masked value of a maximum or minimum (R99), as a pattern. -/
def edge (ty : ElTy) (mx : Bool) : Nat :=
  match ty with
  | .fl t => t.signBit mx + t.maxCode + 1
  | .it t => t.pat (if mx then t.min else t.max)

/-- A lane pattern as a scalar: integers extended, others zero-extended (R154, R162). -/
def extLane (ty : ElTy) (p : Nat) : Word64 :=
  match ty with
  | .fl _ => n64 p
  | .it t => t.ext (t.read p)

/-- `VRSUM` (R162): each floating node rounds in the lane type and draws under SR. -/
def rsumVal (x : ArgV) (c : Context) (a : Draw) : Word64 × Draw :=
  match tyOf (vTyc x) with
  | .fl t =>
    let r := root 0 (fun p q a => a.run true (vRnd x c.fmt) (t.fadd (vEnv x c) p q))
      ((List.range (vN x)).map (fun i => if (vMask x c).getLsbD i then vX x c i else t.signBit true)) a
    (n64 r.1, r.2)
  | .it t =>
    let node : ITy := ⟨64, t.sg⟩
    let r := root (0 : Int) (fun p q a => (node.wrap (p + q), { a with fl := a.fl ||| flagIf (node.out (p + q)) flOF }))
      ((List.range (vN x)).map (fun i => if (vMask x c).getLsbD i then t.read (vX x c i) else 0)) a
    (w64 r.1, r.2)

/-- A node of `VRMAX` or `VRMIN`: an absent entry never wins (R97). -/
def mmNode (ty : ElTy) (env : FEnv) (mx : Bool) (p q : Option Nat) (a : Draw) : Option Nat × Draw :=
  match p, q with
  | none, r => (r, a)
  | l, none => (l, a)
  | some l, some r =>
    let v := a.run false 0 (fun _ => minMax ty env mx l r)
    (some v.1, v.2)

/-- The lanes of src1, masked-off ones absent. -/
def entries (x : ArgV) (c : Context) : List (Option Nat) :=
  (List.range (vN x)).map (fun i => if (vMask x c).getLsbD i then some (vX x c i) else none)

/-- `VRMAX` and `VRMIN` (R162); a root that is a NaN is delivered under R77. -/
def rmmVal (x : ArgV) (mx : Bool) (c : Context) (a : Draw) : Word64 × Draw :=
  let ty := tyOf (vTyc x)
  let r := root none (mmNode ty (vEnv x c) mx) (entries x c) a
  match r.1, ty with
  | none, _ => (extLane ty (edge ty mx), r.2)
  | some p, .fl t =>
    if (t.decode p).isNan then
      let v := r.2.run false 0 (fun _ => (t.nanOut (vEnv x c) (t.decode p), sigFlag [t.decode p]))
      (n64 v.1, v.2)
    else (n64 p, r.2)
  | some p, .it _ => (extLane ty p, r.2)

/-- A node of the index forms (R163): left entry first. -/
def idxNode (ty : ElTy) (mx : Bool) (p q : Option (Nat × Nat)) (a : Draw) : Option (Nat × Nat) × Draw :=
  match p, q with
  | none, r => (r, a)
  | l, none => (l, a)
  | some l, some r =>
    (some (match ty with
      | .fl t =>
        if (t.decode l.1).isNan then l
        else if (t.decode r.1).isNan then r
        else if (if mx then (t.decode l.1).beatsMax (t.decode r.1) else (t.decode l.1).beatsMin (t.decode r.1)) then r
        else l
      | .it t => if (if mx then decide (t.read l.1 < t.read r.1) else decide (t.read r.1 < t.read l.1)) then r else l), a)

/-- `VRMAXI` and `VRMINI` (R163): the value and the index. -/
def idxVal (x : ArgV) (mx : Bool) (c : Context) (a : Draw) : (Word64 × Word64) × Draw :=
  let ty := tyOf (vTyc x)
  let es := (List.range (vN x)).map (fun i => if (vMask x c).getLsbD i then some (vX x c i, i) else none)
  let r := root none (idxNode ty mx) es a
  let sig := match ty with
    | .fl t => flagIf ((vLive x c).any (fun i => (t.decode (vX x c i)).isSig)) flNV
    | .it _ => 0
  let a := { r.2 with fl := r.2.fl ||| sig }
  match r.1, ty with
  | none, _ => ((extLane ty (edge ty mx), 0xFFFFFFFF), a)
  | some p, .fl t => ((n64 (if (t.decode p.1).isNan then t.canon else p.1), n64 p.2), a)
  | some p, .it _ => ((extLane ty p.1, n64 p.2), a)

/-- The destination pair of the index forms must be even (R163). -/
def pairErr (x : ArgV) : Option Exc := if x.dst.val % 2 = 1 then some (illegal 4 0x20 0) else none

/-- The ops with a value and an index (R163). -/
def opIdx (x : ArgV) (i : Instr) (mx : Bool) : Op :=
  { opV x i (v1 x ++ mk x ++ oldS [x.dst.val, x.dst.val + 1] (keeps x)) [(0, x.dst.val), (0, x.dst.val + 1)] (fun pre cur => cur.updMe (fun c =>
      let r := idxVal x mx pre.me c.draw
      ((c.wS x.dst r.1.1).wS (x.dst + 1) r.1.2).drawn r.2)) with
    chk := fun _ => pairErr x }

/-- One step of `VSCAN` (R164). -/
def scanStep (x : ArgV) (c : Context) (run y : Nat) (a : Draw) : Nat × Draw :=
  match bits (vExt x) 1 0, tyOf (vTyc x) with
  | 0, .fl t => a.run true (vRnd x c.fmt) (t.fadd (vEnv x c) run y)
  | 0, .it t => a.run false 0 (fun _ => narrow t false (t.read run + t.read y))
  | k, ty => a.run false 0 (fun _ => minMax ty (vEnv x c) (k == 1) run y)

/-- The identity of a `VSCAN` (R164). -/
def scanId (x : ArgV) : Nat :=
  match bits (vExt x) 1 0, tyOf (vTyc x) with
  | 0, .fl t => t.signBit true
  | 0, .it _ => 0
  | k, ty => edge ty (k == 1)

/-- The running results of `VSCAN`. -/
def scanVals (x : ArgV) (c : Context) : List Nat → Nat → Draw → List Nat × Draw
  | [], _, a => ([], a)
  | i :: t, run, a =>
    if (vMask x c).getLsbD i then
      let r := scanStep x c run (vX x c i) a
      let q := scanVals x c t r.1 r.2
      ((if bitOf (vExt x) 2 then run else r.1) :: q.1, q.2)
    else
      let q := scanVals x c t run a
      ((if vZ x then 0 else vD x c i) :: q.1, q.2)

/-! ### Approximation functions (R165, R166) -/

/-- An exact value given as a lower bound ± mag x 2^exp, with more below when `sticky`. -/
structure Approx where
  neg : Bool
  mag : Nat
  exp : Int
  sticky : Bool
  deriving DecidableEq, Repr

/-- 1 / (m x 2^e), m not 0. -/
def rcpApprox (neg : Bool) (m : Nat) (e : Int) : Approx :=
  let k := Nat.log2 m + 64
  { neg := neg, mag := 2 ^ k / m, exp := -(k : Int) - e, sticky := decide (2 ^ k % m ≠ 0) }

/-- The integer square root, one bit at a time from bit `n - 1`. -/
def isqrt : Nat → Nat → Nat → Nat
  | 0, _, r => r
  | n + 1, x, r => isqrt n x (if (r + 2 ^ n) * (r + 2 ^ n) ≤ x then r + 2 ^ n else r)

/-- 1 / sqrt(m x 2^e), m not 0. -/
def rsqApprox (m : Nat) (e : Int) : Approx :=
  let odd := decide (e % 2 ≠ 0)
  let m := if odd then 2 * m else m
  let e := if odd then e - 1 else e
  let k := Nat.log2 m + 64
  let q := isqrt (k + 1) (2 ^ (2 * k) / m) 0
  { neg := false, mag := q, exp := -(k : Int) - e / 2, sticky := decide (q * q * m ≠ 2 ^ (2 * k)) }

/-- The fixed-point precision of the enclosures below. -/
def fixBits : Nat := 384

/-- Twice the inverse hyperbolic tangent of z / 2^384, z below 2^384 / 3, from below. -/
def atanh2 (z : Nat) : Nat :=
  let z2 := z * z / 2 ^ fixBits
  2 * ((List.range 130).foldl (fun (s : Nat × Nat) k => (s.1 + s.2 / (2 * k + 1), s.2 * z2 / 2 ^ fixBits)) (0, z)).1

/-- ln 2 x 2^384, from below, within 2^10. -/
def ln2Fix : Nat := atanh2 (2 ^ fixBits / 3)

/-- exp of t / 2^384 x 2^384, from below. -/
def expFix (t : Nat) : Nat :=
  ((List.range 100).foldl (fun (s : Nat × Nat) k => (s.1 + s.2, s.2 * t / ((k + 1) * 2 ^ fixBits))) (0, 2 ^ fixBits)).1

/-- 2^x for x = ± m x 2^e, m not 0; beyond 1,000 the exponent is clamped, which no type can tell. -/
def exp2Approx (neg : Bool) (m : Nat) (e : Int) : Approx :=
  let up := min e.toNat 16
  let sh := (-e).toNat
  let ip := m * 2 ^ up / 2 ^ sh
  let fr := m * 2 ^ up % 2 ^ sh
  let n : Int := min ip 1000
  if fr = 0 then { neg := false, mag := 1, exp := if neg then -n else n, sticky := false }
  else
    let f := if neg then 2 ^ sh - fr else fr
    let n : Int := if neg then -n - 1 else n
    { neg := false, mag := expFix (f * 2 ^ fixBits / 2 ^ sh * ln2Fix / 2 ^ fixBits), exp := n - fixBits, sticky := true }

/-- log2 of m x 2^e, m not 0. -/
def log2Approx (m : Nat) (e : Int) : Approx :=
  let k := Nat.log2 m
  let n : Int := e + k
  if m = 2 ^ k then { neg := decide (n < 0), mag := n.natAbs, exp := 0, sticky := false }
  else
    let y := m * 2 ^ fixBits / 2 ^ k
    let f := atanh2 ((y - 2 ^ fixBits) * 2 ^ fixBits / (y + 2 ^ fixBits)) * 2 ^ fixBits / (ln2Fix + 1024)
    if n < 0 then { neg := true, mag := n.natAbs * 2 ^ fixBits - (f + 4096), exp := -(fixBits : Int), sticky := true }
    else { neg := false, mag := n.natAbs * 2 ^ fixBits + f, exp := -(fixBits : Int), sticky := true }

/-- tanh of ± m x 2^e, m not 0. -/
def tanhApprox (neg : Bool) (m : Nat) (e : Int) : Approx :=
  let l := e + Nat.log2 m
  if l < -64 then { neg := neg, mag := m * 2 ^ 64 - 1, exp := e - 64, sticky := true }
  else if 6 ≤ l then { neg := neg, mag := 2 ^ 64 - 1, exp := -64, sticky := true }
  else
    let y := 2 * m * 2 ^ (e + fixBits).toNat
    let n := y / (ln2Fix + 1024)
    let x := expFix (y - n * (ln2Fix + 1024)) * 2 ^ n
    { neg := neg, mag := (x - 2 ^ fixBits) * 2 ^ fixBits / (x + 2 ^ fixBits), exp := -(fixBits : Int), sticky := true }

/-- A rounding of an enclosure (R80). -/
def Approx.round (a : Approx) (t : FTy) (env : FEnv) (d : Nat) : Nat × FlagSet :=
  t.roundFin env a.neg a.mag a.exp a.sticky d

/-- A faithful `.f32` result (R165): exact, or the bracket that `up` chooses; overflow as under RNE (R81). -/
def Approx.faithful (a : Approx) (env : FEnv) (up : Bool) : Nat × FlagSet :=
  let lo := a.round f32 { env with rnd := 1 } 0
  if lo.2 &&& flOF ≠ 0 then (f32.overflow { env with rnd := 0 } a.neg, lo.2)
  else if lo.2 = 0 ∨ up = false then lo
  else a.round f32 { env with rnd := if a.neg then 3 else 2 } 0

/-- A result of `VEXP2`, `VLOG2` or `VTANH`: RNE in 16 bits, faithful in 32 (R165, log entry 10). -/
def Approx.deliver (a : Approx) (t : FTy) (env : FEnv) (op : Nat) (x : Nat) : Nat × FlagSet :=
  if t = f32 then a.faithful env (Config.bracketUp op (BitVec.ofNat 32 x)) else a.round t { env with rnd := 0 } 0

/-- An infinity of a type. -/
def FTy.infinity (t : FTy) (neg : Bool) : Nat := t.signBit neg + t.maxCode + 1

/-- One, with its sign. -/
def FTy.one (t : FTy) (neg : Bool) : Nat := t.signBit neg + t.bias * 2 ^ t.m

/-- `VRCP` (R166). -/
def rcpFn (t : FTy) (env : FEnv) (x d : Nat) : Nat × FlagSet :=
  match t.decode x with
  | .nan n p w g => (t.nanOut env (.nan n p w g), flagIf g flNV)
  | .inf n => (t.signBit n, 0)
  | .fin n m e => if m = 0 then (t.infinity n, flDZ) else (rcpApprox n m e).round t env d

/-- `VRSQ` (R166). -/
def rsqFn (t : FTy) (env : FEnv) (x d : Nat) : Nat × FlagSet :=
  match t.decode x with
  | .nan n p w g => (t.nanOut env (.nan n p w g), flagIf g flNV)
  | .inf n => if n then (t.canon, flNV) else (0, 0)
  | .fin n m e =>
    if m = 0 then (t.infinity n, flDZ) else if n then (t.canon, flNV) else (rsqApprox m e).round t env d

/-- `VEXP2` (R166). -/
def exp2Fn (t : FTy) (env : FEnv) (x : Nat) : Nat × FlagSet :=
  match t.decode x with
  | .nan n p w g => (t.nanOut env (.nan n p w g), flagIf g flNV)
  | .inf n => (if n then 0 else t.infinity false, 0)
  | .fin n m e => if m = 0 then (t.one false, 0) else (exp2Approx n m e).deliver t env 0 x

/-- `VLOG2` (R166). -/
def log2Fn (t : FTy) (env : FEnv) (x : Nat) : Nat × FlagSet :=
  match t.decode x with
  | .nan n p w g => (t.nanOut env (.nan n p w g), flagIf g flNV)
  | .inf n => if n then (t.canon, flNV) else (t.infinity false, 0)
  | .fin n m e =>
    if m = 0 then (t.infinity true, flDZ) else if n then (t.canon, flNV) else (log2Approx m e).deliver t env 1 x

/-- `VTANH` (R166). -/
def tanhFn (t : FTy) (env : FEnv) (x : Nat) : Nat × FlagSet :=
  match t.decode x with
  | .nan n p w g => (t.nanOut env (.nan n p w g), flagIf g flNV)
  | .inf n => (t.one n, 0)
  | .fin n m e => if m = 0 then (t.signBit n, 0) else (tanhApprox n m e).deliver t env 2 x

/-- A lane of a floating function; `draws` says that it rounds under rnd. -/
def vFn (x : ArgV) (draws : Bool) (f : FTy → FEnv → Nat → Nat → Nat × FlagSet) (c : Context) (i : Nat) (a : Draw) :
    Nat × Draw :=
  match tyOf (vTyc x) with
  | .fl t => a.run draws (vRnd x c.fmt) (f t (vEnv x c) (vX x c i))
  | .it _ => (0, a)

/-! ### Masks (R167, R168) -/

/-- Bits `lo` to `hi - 1` of a mask. -/
def maskRange (lo hi : Nat) : Nat := if lo < hi then 2 ^ hi - 2 ^ lo else 0

/-- `VMSET` (R167). -/
def vmsetVal (x : ArgV) (c : Context) : Nat :=
  let a := (c.rS x.src1).toNat
  let b := (c.rS x.src2).toNat
  match x.mod with
  | 0 => maskRange 0 (min a 256)
  | 1 => maskRange a (min b 256)
  | _ => putFields 64 (b % 4) [a] (c.rVM x.dst).toNat

/-- `VMOPS` 0 to 4: the new mask (R168). -/
def vmopsMask (x : ArgV) (c : Context) : VMask :=
  let a := c.rVM x.src1
  let b := c.rVM x.src2
  match x.mod with
  | 0 => a &&& b
  | 1 => a ||| b
  | 2 => a ^^^ b
  | 3 => a &&& ~~~b
  | _ => ~~~a

/-- `VMOPS` 5 to 7: the scalar read (R168). -/
def vmopsRead (x : ArgV) (c : Context) : Word64 :=
  let a := (c.rVM x.src1).toNat
  match x.mod with
  | 5 => n64 (popcount 256 a)
  | 6 => if a = 0 then BitVec.allOnes 64 else n64 (ctz 256 a)
  | _ => n64 (lane 64 x.src2 (BitVec.ofNat 2048 a))


/-- `VADD` (R151). -/
def vaddOp (x : ArgV) : Op :=
  opEach x (.vadd x) (v1 x ++ vs2 x) false (vArith x (fun t v p q _ d => t.fadd v p q d) (fun p q _ => p + q))

/-- The meaning of `VADD`. -/
def execVadd (x : ArgV) (s : State) : Host.Outcome State Fault Refusal :=
  issueOne (vaddOp x) s

/-- `VSUB` (R151). -/
def vsubOp (x : ArgV) : Op :=
  opEach x (.vsub x) (v1 x ++ vs2 x) false (vArith x (fun t v p q _ d => t.fsub v p q d) (fun p q _ => p - q))

/-- The meaning of `VSUB`. -/
def execVsub (x : ArgV) (s : State) : Host.Outcome State Fault Refusal :=
  issueOne (vsubOp x) s

/-- `VMUL` (R151). -/
def vmulOp (x : ArgV) : Op :=
  opEach x (.vmul x) (v1 x ++ vs2 x) false (vArith x (fun t v p q _ d => t.fmul v p q d) (fun p q _ => p * q))

/-- The meaning of `VMUL`. -/
def execVmul (x : ArgV) (s : State) : Host.Outcome State Fault Refusal :=
  issueOne (vmulOp x) s

/-- `VFMA` (R151). -/
def vfmaOp (x : ArgV) : Op :=
  opEach x (.vfma x) (v1 x ++ vs2 x) true (vArith x (fun t v => t.ffma v false) (fun p q r => r + p * q))

/-- The meaning of `VFMA`. -/
def execVfma (x : ArgV) (s : State) : Host.Outcome State Fault Refusal :=
  issueOne (vfmaOp x) s

/-- `VFMS` (R151). -/
def vfmsOp (x : ArgV) : Op :=
  opEach x (.vfms x) (v1 x ++ vs2 x) true (vArith x (fun t v => t.ffma v true) (fun p q r => r - p * q))

/-- The meaning of `VFMS`. -/
def execVfms (x : ArgV) (s : State) : Host.Outcome State Fault Refusal :=
  issueOne (vfmsOp x) s

/-- `VMIN` (R151). -/
def vminOp (x : ArgV) : Op :=
  opEach x (.vmin x) (v1 x ++ vs2 x) false (vMinMax x false)

/-- The meaning of `VMIN`. -/
def execVmin (x : ArgV) (s : State) : Host.Outcome State Fault Refusal :=
  issueOne (vminOp x) s

/-- `VMAX` (R151). -/
def vmaxOp (x : ArgV) : Op :=
  opEach x (.vmax x) (v1 x ++ vs2 x) false (vMinMax x true)

/-- The meaning of `VMAX`. -/
def execVmax (x : ArgV) (s : State) : Host.Outcome State Fault Refusal :=
  issueOne (vmaxOp x) s

/-- `VABS` (R151). -/
def vabsOp (x : ArgV) : Op :=
  opEach x (.vabs x) (v1 x) false (vSign x false)

/-- The meaning of `VABS`. -/
def execVabs (x : ArgV) (s : State) : Host.Outcome State Fault Refusal :=
  issueOne (vabsOp x) s

/-- `VNEG` (R151). -/
def vnegOp (x : ArgV) : Op :=
  opEach x (.vneg x) (v1 x) false (vSign x true)

/-- The meaning of `VNEG`. -/
def execVneg (x : ArgV) (s : State) : Host.Outcome State Fault Refusal :=
  issueOne (vnegOp x) s

/-- `VAND` (R152). -/
def vandOp (x : ArgV) : Op :=
  opEach x (.vand x) (v1 x ++ vs2 x) false (still (fun c i => vX x c i &&& vY x c i))

/-- The meaning of `VAND`. -/
def execVand (x : ArgV) (s : State) : Host.Outcome State Fault Refusal :=
  issueOne (vandOp x) s

/-- `VOR` (R152). -/
def vorOp (x : ArgV) : Op :=
  opEach x (.vor x) (v1 x ++ vs2 x) false (still (fun c i => vX x c i ||| vY x c i))

/-- The meaning of `VOR`. -/
def execVor (x : ArgV) (s : State) : Host.Outcome State Fault Refusal :=
  issueOne (vorOp x) s

/-- `VXOR` (R152). -/
def vxorOp (x : ArgV) : Op :=
  opEach x (.vxor x) (v1 x ++ vs2 x) false (still (fun c i => vX x c i ^^^ vY x c i))

/-- The meaning of `VXOR`. -/
def execVxor (x : ArgV) (s : State) : Host.Outcome State Fault Refusal :=
  issueOne (vxorOp x) s

/-- `VNOT` (R152): all 8 bits of an FP6 or FP4 lane are inverted, those above the element too, as `VMOVS` and `VINS` write all 8
(R141 and R152 do not agree on them; log entry 82). -/
def vnotOp (x : ArgV) : Op :=
  opEach x (.vnot x) (v1 x) false (still (fun c i => 2 ^ vW x - 1 - vX x c i))

/-- The meaning of `VNOT`. -/
def execVnot (x : ArgV) (s : State) : Host.Outcome State Fault Refusal :=
  issueOne (vnotOp x) s

/-- `VSHL` (R152). -/
def vshlOp (x : ArgV) : Op :=
  opEach x (.vshl x) (v1 x ++ vs2 x) false (still (fun c i => vX x c i * 2 ^ vSh x c i % 2 ^ vW x))

/-- The meaning of `VSHL`. -/
def execVshl (x : ArgV) (s : State) : Host.Outcome State Fault Refusal :=
  issueOne (vshlOp x) s

/-- `VSHR` (R152). -/
def vshrOp (x : ArgV) : Op :=
  opEach x (.vshr x) (v1 x ++ vs2 x) false (still (fun c i => vX x c i / 2 ^ vSh x c i))

/-- The meaning of `VSHR`. -/
def execVshr (x : ArgV) (s : State) : Host.Outcome State Fault Refusal :=
  issueOne (vshrOp x) s

/-- `VSRA` (R152). -/
def vsraOp (x : ArgV) : Op :=
  opEach x (.vsra x) (v1 x ++ vs2 x) false
    (still (fun c i => bitsInt (sx (vW x) (vX x c i) / ((2 ^ vSh x c i : Nat) : Int)) (vW x)))

/-- The meaning of `VSRA`. -/
def execVsra (x : ArgV) (s : State) : Host.Outcome State Fault Refusal :=
  issueOne (vsraOp x) s

/-- `VCMP` (R153). -/
def vcmpOp (x : ArgV) : Op :=
  opVM x (.vcmp x) (v1 x ++ vs2 x ++ mk x ++ (if keeps x then [srcVM x.dst false] else [])) (fun c a =>
    let r := Draw.map (fun i => masked x ((vMask x c).getLsbD i) (b2n ((c.rVM x.dst).getLsbD i))
      (fun a => a.run false 0 (fun _ => (b2n (vCond x c i).1, (vCond x c i).2)))) (List.range (vN x)) a
    (packLanes 1 r.1, r.2))

/-- The meaning of `VCMP`. -/
def execVcmp (x : ArgV) (s : State) : Host.Outcome State Fault Refusal :=
  issueOne (vcmpOp x) s

/-- `VSEL` (R154: the mask selects). -/
def vselOp (x : ArgV) : Op :=
  opVV x (.vsel x) (v1 x ++ v2 x ++ mk x ++ oldV x (keeps x)) (fun c a =>
    (packLanes (vW x) ((List.range (vN x)).map (fun i => if (vMask x c).getLsbD i then vX x c i else vY x c i)), a))

/-- The meaning of `VSEL`. -/
def execVsel (x : ArgV) (s : State) : Host.Outcome State Fault Refusal :=
  issueOne (vselOp x) s

/-- `VMOV` (R154). -/
def vmovOp (x : ArgV) : Op :=
  opEach x (.vmov x) (v1 x) false (still (vX x))

/-- The meaning of `VMOV`. -/
def execVmov (x : ArgV) (s : State) : Host.Outcome State Fault Refusal :=
  issueOne (vmovOp x) s

/-- `VMOVS` (R154). -/
def vmovsOp (x : ArgV) : Op :=
  opEach x (.vmovs x) (s1 x) false (still (fun c _ => (c.rS x.src1).toNat % 2 ^ vW x))

/-- The meaning of `VMOVS`. -/
def execVmovs (x : ArgV) (s : State) : Host.Outcome State Fault Refusal :=
  issueOne (vmovsOp x) s

/-- `VEXTR` (R154). -/
def vextrOp (x : ArgV) : Op :=
  opVS x (.vextr x) (v1 x ++ s2 x) (fun c a =>
    (if (c.rS x.src2).toNat < vN x then extLane (tyOf (vTyc x)) (vX x c (c.rS x.src2).toNat) else 0, a))

/-- The meaning of `VEXTR`. -/
def execVextr (x : ArgV) (s : State) : Host.Outcome State Fault Refusal :=
  issueOne (vextrOp x) s

/-- `VINS` (R154). -/
def vinsOp (x : ArgV) : Op :=
  opVV x (.vins x) (s1 x ++ s2 x ++ oldV x true) (fun c a =>
    (if (c.rS x.src2).toNat < vN x then
      putFields (vW x) (c.rS x.src2).toNat [(c.rS x.src1).toNat] (c.rV x.dst).toNat
    else (c.rV x.dst).toNat, a))

/-- The meaning of `VINS`. -/
def execVins (x : ArgV) (s : State) : Host.Outcome State Fault Refusal :=
  issueOne (vinsOp x) s

/-- `VPERM` (R155). -/
def vpermOp (x : ArgV) : Op :=
  opEach x (.vperm x) (v1 x ++ v2 x) false (still (fun c i =>
    if vY x c i < vN x then vX x c (vY x c i) else 0))

/-- The meaning of `VPERM`. -/
def execVperm (x : ArgV) (s : State) : Host.Outcome State Fault Refusal :=
  issueOne (vpermOp x) s

/-- `VSLIDE` (R155). -/
def vslideOp (x : ArgV) : Op :=
  opEach x (.vslide x) (v1 x ++ s2 x) false (still (fun c i =>
    let k : Int := (i : Int) - (c.rS x.src2).toInt
    if 0 ≤ k ∧ k < vN x then vX x c k.toNat else 0))

/-- The meaning of `VSLIDE`. -/
def execVslide (x : ArgV) (s : State) : Host.Outcome State Fault Refusal :=
  issueOne (vslideOp x) s

/-- `VIOTA` (R155). -/
def viotaOp (x : ArgV) : Op :=
  opEach x (.viota x) (s1 x ++ s2 x) false (still (fun c i =>
    ((c.rS x.src1).toNat + i * (c.rS x.src2).toNat) % 2 ^ vW x))

/-- The meaning of `VIOTA`. -/
def execViota (x : ArgV) (s : State) : Host.Outcome State Fault Refusal :=
  issueOne (viotaOp x) s

/-- `VCOMPR` (R155). -/
def vcomprOp (x : ArgV) : Op :=
  opVV x (.vcompr x) (v1 x ++ mk x ++ oldV x (keeps x)) (fun c a => (packLanes (vW x) ((vLive x c).map (vX x c)), a))

/-- The meaning of `VCOMPR`. -/
def execVcompr (x : ArgV) (s : State) : Host.Outcome State Fault Refusal :=
  issueOne (vcomprOp x) s

/-- `VCVT` (R156). -/
def vcvtOp (x : ArgV) : Op :=
  { opVV x (.vcvt x) (v1 x ++ mk x ++ oldV x (keeps x || cvtNarrows x || (vPk x && subByte (vTyc x)))) (cvtVal x) with
    early := fun _ => cvtChk x }

/-- The meaning of `VCVT`. -/
def execVcvt (x : ArgV) (s : State) : Host.Outcome State Fault Refusal :=
  issueOne (vcvtOp x) s

/-- `VQUANT` (R157). -/
def vquantOp (x : ArgV) : Op :=
  { opV x (.vquant x) (srcVs x.src1 (groupRegs (vOty x)) x.b1) [(3, x.dst.val), (3, x.dst.val + 1)] (fun pre cur =>
      cur.updMe (fun c =>
        let r := quantVal x pre.me c.draw
        ((c.wV x.dst (BitVec.ofNat 2048 r.1)).wV (x.dst + 1) (BitVec.ofNat 2048 r.2.1)).drawn r.2.2)) with
    early := fun _ => (groupErr x.src1 (groupRegs (vOty x))).or (groupErr x.dst 2), chk := ssmErr }

/-- The meaning of `VQUANT`. -/
def execVquant (x : ArgV) (s : State) : Host.Outcome State Fault Refusal :=
  issueOne (vquantOp x) s

/-- `VDEQ` (R159). -/
def vdeqOp (x : ArgV) : Op :=
  { opV x (.vdeq x) (srcVs x.src1 2 x.b1) ((List.range (groupRegs (vTyc x))).map (fun k => (3, x.dst.val + k))) (fun pre cur =>
      cur.updMe (fun c =>
        let g := pre.homeCore pre.cur
        let bad := (pre.eccCb.filter (fun q => q.1 == g)).map (·.2)
        let r := deqVals x (pre.core g).codebook bad pre.me c.draw
        let v := packLanes (vW x) r.1
        ((List.range (groupRegs (vTyc x))).foldl (fun c k =>
          c.wV (x.dst + k) (BitVec.ofNat 2048 (v / 2 ^ (2048 * k)))) c).drawn r.2)) with
    early := fun _ => (groupErr x.src1 2).or (groupErr x.dst (groupRegs (vTyc x)))
    wait := fun s => if bitOf (vExt x) 14 && ownMcbld s then some (5, id) else none }

/-- The meaning of `VDEQ`. -/
def execVdeq (x : ArgV) (s : State) : Host.Outcome State Fault Refusal :=
  issueOne (vdeqOp x) s

/-- `VDOT` (R161). -/
def vdotOp (x : ArgV) : Op :=
  opVS x (.vdot x) (v1 x ++ v2 x ++ mk x ++ oldS [x.dst.val] (dotAcc x || keeps x)) (fun c a =>
    match tyOf (vTyc x) with
    | .fl t =>
      let r := a.run true (vRnd x c.fmt) (dotFloat t x c)
      (n64 r.1, r.2)
    | .it t => ((dotInt t x c).1, { a with fl := a.fl ||| (dotInt t x c).2 }))

/-- The meaning of `VDOT`. -/
def execVdot (x : ArgV) (s : State) : Host.Outcome State Fault Refusal :=
  issueOne (vdotOp x) s

/-- `VRSUM` (R162). -/
def vrsumOp (x : ArgV) : Op :=
  opVS x (.vrsum x) (v1 x ++ mk x ++ oldS [x.dst.val] (keeps x)) (rsumVal x)

/-- The meaning of `VRSUM`. -/
def execVrsum (x : ArgV) (s : State) : Host.Outcome State Fault Refusal :=
  issueOne (vrsumOp x) s

/-- `VRMAX` (R162). -/
def vrmaxOp (x : ArgV) : Op :=
  opVS x (.vrmax x) (v1 x ++ mk x ++ oldS [x.dst.val] (keeps x)) (rmmVal x true)

/-- The meaning of `VRMAX`. -/
def execVrmax (x : ArgV) (s : State) : Host.Outcome State Fault Refusal :=
  issueOne (vrmaxOp x) s

/-- `VRMIN` (R162). -/
def vrminOp (x : ArgV) : Op :=
  opVS x (.vrmin x) (v1 x ++ mk x ++ oldS [x.dst.val] (keeps x)) (rmmVal x false)

/-- The meaning of `VRMIN`. -/
def execVrmin (x : ArgV) (s : State) : Host.Outcome State Fault Refusal :=
  issueOne (vrminOp x) s

/-- `VRMAXI` (R163). -/
def vrmaxiOp (x : ArgV) : Op :=
  opIdx x (.vrmaxi x) true

/-- The meaning of `VRMAXI`. -/
def execVrmaxi (x : ArgV) (s : State) : Host.Outcome State Fault Refusal :=
  issueOne (vrmaxiOp x) s

/-- `VRMINI` (R163). -/
def vrminiOp (x : ArgV) : Op :=
  opIdx x (.vrmini x) false

/-- The meaning of `VRMINI`. -/
def execVrmini (x : ArgV) (s : State) : Host.Outcome State Fault Refusal :=
  issueOne (vrminiOp x) s

/-- `VSCAN` (R164). -/
def vscanOp (x : ArgV) : Op :=
  opVV x (.vscan x) (v1 x ++ mk x ++ oldV x (keeps x)) (fun c a =>
    let r := scanVals x c (List.range (vN x)) (scanId x) a
    (packLanes (vW x) r.1, r.2))

/-- The meaning of `VSCAN`. -/
def execVscan (x : ArgV) (s : State) : Host.Outcome State Fault Refusal :=
  issueOne (vscanOp x) s

/-- `VPOPC` (R152). -/
def vpopcOp (x : ArgV) : Op :=
  opEach x (.vpopc x) (v1 x) false (still (fun c i => popcount (vW x) (vX x c i)))

/-- The meaning of `VPOPC`. -/
def execVpopc (x : ArgV) (s : State) : Host.Outcome State Fault Refusal :=
  issueOne (vpopcOp x) s

/-- `VCLZ` (R152). -/
def vclzOp (x : ArgV) : Op :=
  opEach x (.vclz x) (v1 x) false (still (fun c i => clz (vW x) (vX x c i)))

/-- The meaning of `VCLZ`. -/
def execVclz (x : ArgV) (s : State) : Host.Outcome State Fault Refusal :=
  issueOne (vclzOp x) s

/-- `VRCP` (R165). -/
def vrcpOp (x : ArgV) : Op :=
  opEach x (.vrcp x) (v1 x) false (vFn x true rcpFn)

/-- The meaning of `VRCP`. -/
def execVrcp (x : ArgV) (s : State) : Host.Outcome State Fault Refusal :=
  issueOne (vrcpOp x) s

/-- `VRSQ` (R165). -/
def vrsqOp (x : ArgV) : Op :=
  opEach x (.vrsq x) (v1 x) false (vFn x true rsqFn)

/-- The meaning of `VRSQ`. -/
def execVrsq (x : ArgV) (s : State) : Host.Outcome State Fault Refusal :=
  issueOne (vrsqOp x) s

/-- `VEXP2` (R165). -/
def vexp2Op (x : ArgV) : Op :=
  opEach x (.vexp2 x) (v1 x) false (vFn x false (fun t v p _ => exp2Fn t v p))

/-- The meaning of `VEXP2`. -/
def execVexp2 (x : ArgV) (s : State) : Host.Outcome State Fault Refusal :=
  issueOne (vexp2Op x) s

/-- `VLOG2` (R165). -/
def vlog2Op (x : ArgV) : Op :=
  opEach x (.vlog2 x) (v1 x) false (vFn x false (fun t v p _ => log2Fn t v p))

/-- The meaning of `VLOG2`. -/
def execVlog2 (x : ArgV) (s : State) : Host.Outcome State Fault Refusal :=
  issueOne (vlog2Op x) s

/-- `VTANH` (R165). -/
def vtanhOp (x : ArgV) : Op :=
  opEach x (.vtanh x) (v1 x) false (vFn x false (fun t v p _ => tanhFn t v p))

/-- The meaning of `VTANH`. -/
def execVtanh (x : ArgV) (s : State) : Host.Outcome State Fault Refusal :=
  issueOne (vtanhOp x) s

/-- `VMSET` (R167). -/
def vmsetOp (x : ArgV) : Op :=
  opVM x (.vmset x) (s1 x ++ (if x.mod = 0 then [] else s2 x) ++ (if x.mod.val = 2 then [srcVM x.dst false] else []))
    (fun c a => (vmsetVal x c, a))

/-- The meaning of `VMSET`. -/
def execVmset (x : ArgV) (s : State) : Host.Outcome State Fault Refusal :=
  issueOne (vmsetOp x) s

/-- `VMOPS` (R168). -/
def vmopsOp (x : ArgV) : Op :=
  if x.mod.val < 5 then
    opVM x (.vmops x) (srcVM x.src1 x.b1 :: (if x.mod.val < 4 then [srcVM x.src2 x.b2] else []))
      (fun c a => ((vmopsMask x c).toNat, a))
  else opVS x (.vmops x) [srcVM x.src1 x.b1] (fun c a => (vmopsRead x c, a))

/-- The meaning of `VMOPS`. -/
def execVmops (x : ArgV) (s : State) : Host.Outcome State Fault Refusal :=
  issueOne (vmopsOp x) s

end Sys2Proof.Machine
end

