-- ==== Sys2Proof/Machine/Matrix.lean ====
section
/-! DEFINITION. The matrix engine: operand layout (R171 to R174), the command queue and tokens (R179 to R181), the M-slot ops
(R191 to R199), waves (R169, R182, R192), the copies of `ACCRD`, `ACCWR`, `ACCZ` and `MCBLD`, and operand errors (R183 to
R185). -/

namespace Sys2Proof.Machine

open Sys2Proof

/-! ### Formats (R172) -/

/-- AFMT and BFMT (R43). -/
def afmtOf (f : Word64) : Nat := bits f.toNat 3 0
def bfmtOf (f : Word64) : Nat := bits f.toNat 7 4

/-- OFMT (R43). -/
def ofmtOf (f : Word64) : Nat := bits f.toNat 11 8

/-- A format code's family in R172: its elements per wave, or 0 for none; `.cb8` only as B. -/
def famA (t : Nat) : Nat :=
  if t = 0 then 2 else if t ≤ 2 then 4 else if t ≤ 4 then 8 else if t ≤ 7 then 16 else if t = 8 then 9 else 0

/-- The family of a B code. -/
def famB (t : Nat) : Nat := if t = 0xF then 8 else famA t

/-- L of the pair in effect; 0 where R172 does not accept it (the family 9 stands for INT8, L = 8). -/
def pairLen (f : Word64) : Nat :=
  if famA (afmtOf f) ≠ famB (bfmtOf f) then 0 else if famA (afmtOf f) = 9 then 8 else famA (afmtOf f)

/-- INT8 mode. -/
def int8Mode (f : Word64) : Bool := afmtOf f == 8

/-- Row bytes of an operand (R171). -/
def rowBytes (t len : Nat) : Nat := if t = 0xF then 2 else len * (tyOf t).w / 8

/-- The bytes of an operand's panels. -/
def panelsOf (t len waves : Nat) : Nat := waves * (64 * rowBytes t len)

/-- The bytes of an operand's side area (R173). -/
def sideOf (len waves : Nat) : Nat := 4096 * ((len * waves + 255) / 256)

/-- An element format, or `.cb8`: what `MMAS` accepts (R172). -/
def scaledFmt (t : Nat) : Bool := (decide (3 ≤ t) && decide (t ≤ 7)) || t == 0xF

/-- The waves of an `MMA` (R191). -/
def wavesOf (x : ArgMX) : Nat :=
  match x.ext with
  | none => 8
  | some e => 8 * (bits e.toNat 9 0 + 1)

/-! ### The checks of `MMA`, `MMAZ` and `MMAS` (R193) -/

/-- A fault of the engine's reach (R174): no segment applies. -/
def engExc (code : Nat) (a : Word64) : Exc := Exc.mk' code a (missInfo 0 0xFFF 0)

/-- The bank group of an offset (R174). -/
def bankGroup (a : Nat) : Nat := bits a 19 18

/-- The first byte of a region of `n` bytes at `a` that lies outside bank group `b`. -/
def leavesGroup (b a n : Nat) : Option Nat :=
  if bankGroup a ≠ b then some a
  else if bankGroup (a + n - 1) ≠ b then some ((b + 1) * 2 ^ 18)
  else none

/-- The first of a list of answers. -/
def firstSome {α : Type} : List (Option α) → Option α
  | [] => none
  | none :: t => firstSome t
  | some x :: _ => some x

/-- A base beyond the scratchpad's addresses. -/
def farBase (a : Word64) : Option Exc := if isShort a then none else some (engExc 0x81 a)

/-- A region that reaches the end of the scratchpad. -/
def longRegion (a : Word64) (n : Nat) : Option Exc :=
  if Config.spBytes < a.toNat + n then some (engExc 0x80 (n64 Config.spBytes)) else none

/-- A misaligned base (R193). -/
def lowBase (a : Word64) : Option Exc := if a.toNat % 64 ≠ 0 then some (illegal 5 0x33 0) else none

/-- The regions of an `MMA`: (base, bytes), A side first, each panel before its side area. -/
def mmaRegions (x : ArgMX) (scaled : Bool) (c : Context) (f : Word64) : List (Word64 × Nat) × List (Word64 × Nat) :=
  let w := wavesOf x
  let l := pairLen f
  let side (r : Fin 16) : List (Word64 × Nat) := if scaled then [(c.rA (r + 1), sideOf l w)] else []
  ((c.rA x.aa, panelsOf (afmtOf f) l w) :: side x.aa, (c.rA x.ab, panelsOf (bfmtOf f) l w) :: side x.ab)

/-- The bank-group rule (R174): the first byte that breaks it. -/
def bankErr (ra rb : List (Word64 × Nat)) : Option Exc :=
  let ga := ra.head?.map (fun p => bankGroup p.1.toNat)
  let gb := rb.head?.map (fun p => bankGroup p.1.toNat)
  let spread (g : Option Nat) (l : List (Word64 × Nat)) : List (Option Nat) :=
    l.map (fun p => leavesGroup (g.getD 0) p.1.toNat p.2)
  let same : Option Nat := if ga = gb then rb.head?.map (fun p => p.1.toNat) else none
  (firstSome (spread ga ra ++ spread gb rb ++ [same])).map (fun a => engExc 0x82 (n64 a))

/-- The checks of R193 after the sources, in its order; `kind` is the opcode. -/
def mmaChk (x : ArgMX) (kind : Nat) (s : State) : Option Exc :=
  let c := s.me
  let f := c.fmtNow
  let a := afmtOf f
  let b := bfmtOf f
  let ssm := bits f.toNat 23 22
  let r := mmaRegions x (kind == 2) c f
  let all := r.1 ++ r.2
  firstSome
    ([if pairLen f = 0 then some (illegal 5 0x30 0) else none,
      if kind = 2 then (if !scaledFmt a || !scaledFmt b || ssm == 0 || ssm == 3 then some (illegal 5 0x31 0) else none)
        else if b = 0xF then some (illegal 5 0x31 0) else none,
      if kind = 2 ∧ (x.aa.val % 2 = 1 ∨ x.ab.val % 2 = 1) then some (illegal 5 0x32 0) else none]
    ++ all.map (fun p => lowBase p.1) ++ all.map (fun p => farBase p.1) ++ all.map (fun p => longRegion p.1 p.2)
    ++ [bankErr r.1 r.2])

/-- The engine wait (R179, R189): the queue is full, or saved operations are still to be queued. -/
def mqWait (s : State) : Option (Nat × (State → State)) :=
  let k := s.core (s.homeCore s.cur)
  if 16 ≤ k.mq.length ∨ k.savedOps ≠ [] then some (2, id) else none

/-! ### Tokens and the queue (R179, R180) -/

/-- A token is complete (R180). -/
def tokenDone (c : Context) (t : Nat) : Bool := decide (c.out ≤ (c.iseq.toNat + 511 - t) % 256)

/-- Whether the issuing launch owns a tile (R35). -/
def ownTile (s : State) (tile : Nat) : Bool :=
  match s.me.launch with
  | none => false
  | some lid => tileOf s (s.homeCore s.cur) lid tile

/-- A tile of a core. -/
def State.tile (s : State) (g t : Nat) : Tile := Sparse.get Tile.zero (s.core g).tiles t

/-- A tile updated. -/
def State.updTile (s : State) (g t : Nat) (f : Tile → Tile) : State :=
  s.updCore g (fun k => { k with tiles := Sparse.set Tile.zero k.tiles t (f (Sparse.get Tile.zero k.tiles t)) })

/-- An entry of the issuing context with nothing but its opcode, tile, token and `FMT`. -/
def blankEntry (pre cur : State) (opc tile : Nat) : MEntry :=
  { opc := opc, ctx := cur.cur, launch := pre.me.launch.getD 0, job := pre.jobOf pre.cur, bundle := pre.me.point,
    tile := tile, owned := ownTile pre tile, pa := 0, pb := 0, sa := 0, sb := 0, waves := 0, fmt := pre.me.fmt,
    token := cur.me.iseq.toNat, row0 := 0, nr := 0, col0 := 0, nc := 0, int := false, seed := cur.me.seed, wave := 0,
    begun := false, num := cur.num, foot := { rd := [], wr := [] } }

/-- The queue takes an entry (R179, R180): the token is written full at once. -/
def enqueue (sreg : Nat) (e : MEntry) (s : State) : State :=
  let s := noteToken e.token { s with num := s.num + 1 }
  let s := s.updMe (fun c => { c.wSnow sreg (n64 e.token) with iseq := c.iseq + 1, out := c.out + 1 })
  s.updCore (s.homeCore s.cur) (fun k => { k with mq := k.mq ++ [e] })

/-- The byte range of a scratchpad region in the hazard unit's form. -/
def spRange (s : State) (a n : Nat) : Int × Int := rangeAt (canon s 0 (s.homeCore s.cur) (n64 a)) n

/-- The issue of an `MMA`, `MMAZ` or `MMAS` (R192). -/
def mmaIssue (x : ArgMX) (kind : Nat) (pre cur : State) : State :=
  let c := pre.me
  let r := mmaRegions x (kind == 2) c c.fmt
  let e := blankEntry pre cur kind x.acc
  let e := { e with
    pa := (c.rA x.aa).toNat, pb := c.rA x.ab, waves := wavesOf x, int := int8Mode c.fmt,
    sa := if kind = 2 then (c.rA (x.aa + 1)).toNat else 0, sb := if kind = 2 then (c.rA (x.ab + 1)).toNat else 0,
    foot := { rd := (r.1 ++ r.2).map (fun p => spRange pre p.1.toNat p.2), wr := [] } }
  let cur := if e.owned then cur.updTile (cur.homeCore cur.cur) x.acc (fun t => { t with imode := e.int }) else cur
  enqueue x.sreg e cur

/-- An `MMA`, `MMAZ` or `MMAS`. -/
def mmaShape (x : ArgMX) (i : Instr) (kind : Nat) : Op :=
  let pair (r : Fin 16) : List Src := srcA r x.b :: (if kind = 2 then [srcA (r + 1) x.b] else [])
  { Op.plain 5 (pair x.aa ++ pair x.ab) [(0, x.sreg.val)] (mmaIssue x kind) with
    hold := heldBy x.hold i, chk := mmaChk x kind, wait := mqWait }

/-- `MMA` (R192). -/
def mmaOp (x : ArgMX) : Op := mmaShape x (.mma x) 0

/-- The meaning of `MMA`. -/
def execMma (x : ArgMX) (s : State) : Host.Outcome State Fault Refusal := issueOne (mmaOp x) s

/-- `MMAZ` (R192). -/
def mmazOp (x : ArgMX) : Op := mmaShape x (.mmaz x) 1

/-- The meaning of `MMAZ`. -/
def execMmaz (x : ArgMX) (s : State) : Host.Outcome State Fault Refusal := issueOne (mmazOp x) s

/-- `MMAS` (R192). -/
def mmasOp (x : ArgMX) : Op := mmaShape x (.mmas x) 2

/-- The meaning of `MMAS`. -/
def execMmas (x : ArgMX) (s : State) : Host.Outcome State Fault Refusal := issueOne (mmasOp x) s

/-- `MCBLD` (R194). -/
def mcbldOp (x : ArgMX) : Op :=
  { Op.plain 5 [srcA x.aa x.b] [(0, x.sreg.val)] (fun pre cur =>
      let a := (pre.me.rA x.aa).toNat
      let e := blankEntry pre cur 3 0
      enqueue x.sreg { e with pa := a, owned := false, foot := { rd := [spRange pre a 1024], wr := [] } } cur) with
    chk := fun s => firstSome [lowBase (s.me.rA x.aa), farBase (s.me.rA x.aa), longRegion (s.me.rA x.aa) 1024],
    wait := mqWait }

/-- The meaning of `MCBLD`. -/
def execMcbld (x : ArgMX) (s : State) : Host.Outcome State Fault Refusal := issueOne (mcbldOp x) s

/-! ### `ACCRD` and `ACCWR` (R195, R196) -/

/-- The rectangle: first row, rows - 1, first column, columns - 1 (R191). -/
def rectOf (x : ArgMX) : Nat × Nat × Nat × Nat :=
  match x.ext with
  | none => (0, 63, 0, 63)
  | some e => (bits e.toNat 31 26, bits e.toNat 25 20, bits e.toNat 19 14, bits e.toNat 13 8)

/-- The scratchpad types of R195. -/
def copyType (t : Nat) : Bool := decide (t ≤ 4) || t == 8 || t == 9 || t == 10

/-- Element bytes of a scratchpad type. -/
def elemBytes (t : Nat) : Nat := (tyOf t).w / 8

/-- The (row, column) pairs of a rectangle in order, counted from its corner. -/
def rectIdx (nr nc : Nat) : List (Nat × Nat) :=
  (List.range (nr + 1)).flatMap (fun r => (List.range (nc + 1)).map (fun c => (r, c)))

/-- The address of an element (R195). -/
def rectEa (base pitch : Word64) (es : Nat) (p : Nat × Nat) : Word64 := base + n64 p.1 * pitch + n64 (p.2 * es)

/-- The reach of a rectangle (R196): none fails where its bounding range lies in the scratchpad, else its elements in
order. -/
def rectReach (base pitch : Word64) (es nr nc : Nat) : Option Exc :=
  let r := moved (base.toNat : Int) (spanOf es [((0, nr), pitch.toInt), ((0, nc), es)])
  if 0 ≤ r.1 ∧ r.2 ≤ Config.spBytes then none
  else
    let eas := (rectIdx nr nc).map (rectEa base pitch es)
    firstSome (eas.map farBase ++ eas.map (fun a => longRegion a es))

/-- The checks of R196 after the sources; `wr` for `ACCWR`. -/
def rectChk (x : ArgMX) (wr : Bool) (s : State) : Option Exc :=
  let c := s.me
  let t := ofmtOf c.fmtNow
  let es := elemBytes t
  let q := rectOf x
  let base := c.rA x.aa
  let pitch := c.rA x.ab
  firstSome
    ([if 63 < q.1 + q.2.1 ∨ 63 < q.2.2.1 + q.2.2.2 then some (illegal 5 0x34 0) else none,
      if !copyType t || (wr && x.opt == 1 && decide (t ≤ 4)) then some (illegal 5 0x35 0) else none,
      if base.toNat % es ≠ 0 ∨ pitch.toNat % es ≠ 0 then some (illegal 5 0x33 0) else none,
      rectReach base pitch es q.2.1 q.2.2.2])

/-- The bounding range of a rectangle in the scratchpad. -/
def rectFoot (s : State) (base pitch : Word64) (es nr nc : Nat) : Int × Int :=
  moved (canon s 0 (s.homeCore s.cur) base) (spanOf es [((0, nr), pitch.toInt), ((0, nc), es)])

/-- `SEED` after `n` draws. -/
def stepSeed : Nat → BitVec 16 → BitVec 16
  | 0, x => x
  | n + 1, x => stepSeed n (lfsr x)

/-- The issue of an `ACCRD` or `ACCWR`: the draws of R87 step `SEED` now; `rounds` says that the elements round. -/
def rectIssue (x : ArgMX) (opc : Nat) (int rounds : Bool) (pre cur : State) : State :=
  let c := pre.me
  let q := rectOf x
  let base := c.rA x.aa
  let pitch := c.rA x.ab
  let r := rectFoot pre base pitch (elemBytes (ofmtOf c.fmt)) q.2.1 q.2.2.2
  let e := blankEntry pre cur opc x.acc
  let e := { e with
    pa := base.toNat, pb := pitch, row0 := q.1, nr := q.2.1, col0 := q.2.2.1, nc := q.2.2.2, int := int,
    foot := if opc = 4 then { rd := [], wr := [r] } else { rd := [r], wr := [] } }
  let n := if rounds && (FEnv.ofFmt c.fmt).rnd == 4 then (q.2.1 + 1) * (q.2.2.2 + 1) else 0
  enqueue x.sreg e (cur.updMe (fun c => { c with seed := stepSeed n c.seed }))

/-- IMODE of an owned tile. -/
def tileInt (s : State) (tile : Nat) : Bool := ownTile s tile && (s.tile (s.homeCore s.cur) tile).imode

/-- `ACCRD` (R195): the tile is its last source (R178), its mode is that of the full tile. -/
def accrdOp (x : ArgMX) : Op :=
  { Op.plain 5 [srcA x.aa x.b, srcA x.ab x.b, srcAcc x.acc x.b] [(0, x.sreg.val)] (fun pre cur =>
      rectIssue x 4 (tileInt pre x.acc) (!(tileInt pre x.acc && decide (8 ≤ ofmtOf pre.me.fmt))) pre cur) with
    chk := rectChk x false, wait := mqWait }

/-- The meaning of `ACCRD`. -/
def execAccrd (x : ArgMX) (s : State) : Host.Outcome State Fault Refusal := issueOne (accrdOp x) s

/-- `ACCWR` (R195). -/
def accwrOp (x : ArgMX) : Op :=
  { Op.plain 5 [srcA x.aa x.b, srcA x.ab x.b] [(0, x.sreg.val)] (fun pre cur =>
      rectIssue x 5 (x.opt == 1) (x.opt != 1) pre cur) with
    chk := rectChk x true, wait := mqWait }

/-- The meaning of `ACCWR`. -/
def execAccwr (x : ArgMX) (s : State) : Host.Outcome State Fault Refusal := issueOne (accwrOp x) s

/-- `ACCZ` (R197). -/
def acczOp (x : ArgMX) : Op :=
  { Op.plain 5 [] [(0, x.sreg.val)] (fun pre cur =>
      let e := blankEntry pre cur 6 x.acc
      enqueue x.sreg { e with int := x.opt == 1 } cur) with
    wait := mqWait }

/-- The meaning of `ACCZ`. -/
def execAccz (x : ArgMX) (s : State) : Host.Outcome State Fault Refusal := issueOne (acczOp x) s

/-- `MWAIT` (R198). -/
def mwaitOp (x : ArgMX) : Op :=
  { Op.plain 5 [srcS x.sreg x.b] [] (fun _ cur => cur) with
    wait := fun s => if tokenDone s.me ((s.me.rS x.sreg).toNat % 256) then none else some (5, id) }

/-- The meaning of `MWAIT`. -/
def execMwait (x : ArgMX) (s : State) : Host.Outcome State Fault Refusal := issueOne (mwaitOp x) s

/-- `MDRAIN` (R198). -/
def mdrainOp : Op :=
  { Op.plain 5 [] [] (fun _ cur => cur) with wait := fun s => if s.me.out = 0 then none else some (5, id) }

/-- The meaning of `MDRAIN`. -/
def execMdrain (_ : ArgMX) (s : State) : Host.Outcome State Fault Refusal := issueOne mdrainOp s

/-- What `MSTAT` reads (R199). -/
def mstatVal (s : State) (opt : Nat) : Word64 :=
  let k := s.core (s.homeCore s.cur)
  let c := s.me
  if opt = 0 then n64 k.waveTot
  else if opt = 1 then n64 (min k.corrTot (2 ^ 32 - 1) * 2 ^ 32 + min k.errTot (2 ^ 32 - 1))
  else if opt ≤ 9 then n64 (Sparse.get 0 k.hist (opt - 2))
  else n64 (k.mq.length * 2 ^ 16 + c.out * 2 ^ 8 + c.iseq.toNat)

/-- `MSTAT` (R199). -/
def mstatOp (x : ArgMX) : Op :=
  Op.plain 5 [] [(0, x.sreg.val)] (fun pre cur => cur.updMe (fun c => c.wS x.sreg (mstatVal pre x.opt.toNat)))

/-- The meaning of `MSTAT`. -/
def execMstat (x : ArgMX) (s : State) : Host.Outcome State Fault Refusal := issueOne (mstatOp x) s

/-! ### Operand errors (R183 to R185) -/

/-- Whether a scratchpad word holds an uncorrectable error. -/
def badWord (s : State) (g ofs : Nat) : Bool := s.eccWords.contains (spAddr g ofs / 8)

/-- Whether a scratchpad word holds a correctable error only. Log entry 84. -/
def softWord (s : State) (g ofs : Nat) : Bool := s.soft.contains (.word (spAddr g ofs / 8)) && !badWord s g ofs

/-- Whether a lane of a tile holds a correctable error only. -/
def softLane (s : State) (g tile n : Nat) : Bool := s.soft.contains (.lane g tile n) && !s.eccLanes.contains (g, tile, n)

/-- Whether an entry of the codebook RAM holds a correctable error only. -/
def softEntry (s : State) (g m : Nat) : Bool := s.soft.contains (.entry g m) && !s.eccCb.contains (g, m)

/-- One entry of the operand-error log: KIND, row, column, first and last K position. -/
structure MErr where
  kind : Nat
  wave : Nat
  row : Nat
  col : Nat
  kfirst : Nat
  klast : Nat
  deriving DecidableEq, Repr

/-- A log entry (R185). -/
def merrBytes (s : State) (tile token ctx : Nat) (m : MErr) : List Byte :=
  leBytes 8 s.cyc.toNat ++ leBytes 1 m.kind ++ leBytes 1 (if m.kind = 5 ∨ m.kind = 6 then 0 else tile) ++ leBytes 1 token
    ++ leBytes 1 ctx ++ leBytes 4 m.wave ++ leBytes 2 m.row ++ leBytes 2 m.col ++ leBytes 4 m.kfirst ++ leBytes 4 m.klast
    ++ zeroBytes 4

/-- `MERR` after an entry is recorded (R184). -/
def merrNext (m : Word64) : Word64 :=
  let x := m.toNat
  let cnt := bits x 47 40
  let ovf := bitOf x 62 || decide (8 ≤ cnt)
  n64 (2 ^ 63 + b2n ovf * 2 ^ 62 + min 255 (cnt + 1) * 2 ^ 40 + (bits x 34 32 + 1) % 8 * 2 ^ 32 + bits x 20 8 * 2 ^ 8)

/-- `n` errors are counted at a sensor of R411. -/
def countEcc (i n : Nat) (s : State) : State :=
  { s with sorric := { s.sorric with eccs := Sparse.set 0 s.sorric.eccs i (Sparse.get 0 s.sorric.eccs i + n) } }

/-- Corrected errors of a core's engine are counted, in `MSTAT` and in telemetry (R183, R199, R411). -/
def countSoft (g n : Nat) (s : State) : State :=
  if n = 0 then s else countEcc (0x710 + 2 * (g / Config.coresPerCluster)) n (s.updCore g (fun k => { k with corrTot := k.corrTot + n }))

/-- An error is recorded for a context on core `g`, with the log entry when LOGEN is set (R184). -/
def recordErr (g cid tile token ctx : Nat) (s : State) (m : MErr) : State :=
  let x := (s.ctx cid).merr.toNat
  let s := if bitOf x 20 then
      wrBytes s (spAddr g (bits x 19 8 * 256 + 32 * bits x 34 32)) (merrBytes s tile token ctx m)
    else s
  countEcc (0x711 + 2 * (g / Config.coresPerCluster)) 1
    ((s.updCtx cid (fun c => { c with merr := merrNext c.merr })).updCore g (fun k => { k with errTot := k.errTot + 1 }))

/-- The errors of an operation, recorded in order. -/
def recordErrs (g : Nat) (e : MEntry) (s : State) (l : List MErr) : State :=
  l.foldl (recordErr g e.ctx e.tile e.token (slotOf (s.ctxid e.ctx))) s

/-! ### Waves (R169, R171, R173, R182, R192) -/

/-- The scratchpad offset of a row of a panel (R171). -/
def rowAt (base t len w i : Nat) : Nat := base + w * (64 * rowBytes t len) + i * rowBytes t len

/-- Whether bits `b` to `b + n - 1` of the row at an offset touch a word with an error. -/
def badBits (s : State) (g row b n : Nat) : Bool :=
  badWord s g (row + b / 8) || badWord s g (row + (b + n - 1) / 8)

/-- The datum of element `k` of a panel row; +0 in a word with an error (R183). Codebook weights follow R94. -/
def panelElem (s : State) (g base t len w i k : Nat) : Num :=
  let row := rowAt base t len w i
  if t = 0xF then
    let idx := rd s (spAddr g row) 2
    if badBits s g row 0 16 || s.eccCb.contains (g, idx / 256) then .fin false 0 (-1)
    else cbWeight (Sparse.get 0 (s.core g).codebook (idx / 256)) idx k
  else
    let n := (tyOf t).w
    if badBits s g row (k * n) n then .fin false 0 0
    else match tyOf t with
      | .fl f => f.decode (rd s (spAddr g row) (rowBytes t len) / 2 ^ (k * n) % 2 ^ n)
      | .it d => ofInt (d.read (rd s (spAddr g row) (rowBytes t len) / 2 ^ (k * n)))

/-- The side record of a row and segment (R173). -/
def sideAt (base seg r : Nat) : Nat := base + 64 * (64 * seg + r)

/-- The words of a side record that the engine reads: the scales, and the bitmap in mode 2. All of them count as read, the
words that hold no scale of a short last segment or of a fixed block too. Log entry 83 (DESIGN CHOICE). -/
def sideWords (ssm : Nat) : List Nat := if ssm = 2 then [0, 8, 16, 24, 32] else [0, 8, 16, 24]

/-- The block of group `g` of a segment: fixed blocks, or the bitmap with blocks of at most 32 groups (R91, R173). -/
def sideBlock (ssm map g : Nat) : Nat := if ssm = 2 then popcount g (map / 2) else g / 4

/-- The scale code of position `p` along K for a row, and whether its side record has an error. -/
def scaleAt (s : State) (g base ssm r p : Nat) : Nat × Bool :=
  let a := sideAt base (p / 256) r
  let map := rd s (spAddr g (a + 32)) 4
  (rd s (spAddr g (a + sideBlock ssm map (p % 256 / 8))) 1, (sideWords ssm).any (fun o => badWord s g (a + o)))

/-- An operand element of a wave with its scale (R182): NaN scales set NV. -/
def waveElem (s : State) (g : Nat) (e : MEntry) (isB : Bool) (len i k : Nat) : Num × Bool :=
  let t := if isB then bfmtOf e.fmt else afmtOf e.fmt
  let base := if isB then e.pb.toNat else e.pa
  let v := panelElem s g base t len e.wave i k
  if e.opc = 2 then
    let sc := scaleAt s g (if isB then e.sb else e.sa) (bits e.fmt.toNat 23 22) i (e.wave * len + k)
    if sc.2 then (.fin false 0 0, false)
    else (scaled v sc.1, sc.1 == 255)
  else (v, false)

/-- A lane of a tile. -/
def Tile.lane (t : Tile) (i j : Nat) : Word32 := Sparse.get 0 t.lanes (64 * i + j)

/-- Lane (i, j) as it is read: an error reads as the canonical NaN, or as 0 (R183). -/
def laneRead (s : State) (g tile i j : Nat) : Word32 :=
  let t := s.tile g tile
  if s.eccLanes.contains (g, tile, 64 * i + j) then (if t.imode then 0 else 0x7FC00000) else t.lane i j

/-- One cell of a wave (R95, R96): its new lane and its flags. -/
def cell (int : Bool) (acc : Word32) (a b : List Num) : Word32 × FlagSet :=
  if int then
    let sum := (List.zip a b).foldl (fun s p => match (p.1.mul p.2).1 with
      | .fin n m x => s + onGrid n m x 0
      | _ => s) (0 : Int)
    let v := acc.toInt + sum
    (BitVec.ofInt 32 v, flagIf ((⟨32, true⟩ : ITy).out v) flOF)
  else
    let z := (List.zip a b).foldl (fun s p => s.addMul p.1 p.2) (SumAcc.zero.add (f32.decode acc.toNat))
    let n := z.num false
    let r := f32.round FEnv.rne n.1 0
    (BitVec.ofNat 32 r.1, accFlags (r.2 ||| n.2))

/-- The errors of the words of one wave's panels, `bad` telling which words have one: each word once, with the first row that
holds it and the K positions of that row in it. -/
def panelErrs (bad : Nat → Bool) (isB : Bool) (e : MEntry) (len : Nat) : List MErr :=
  let t := if isB then bfmtOf e.fmt else afmtOf e.fmt
  let base := if isB then e.pb.toNat else e.pa
  let rb := rowBytes t len
  let first := rowAt base t len e.wave 0
  ((List.range (64 * rb / 8)).filter (fun n => bad (first + 8 * n))).map (fun n =>
    let row := 8 * n / rb
    let bit0 := 8 * (8 * n - row * rb)
    let n0 := if t = 0xF then 0 else bit0 / (tyOf t).w
    let n1 := if t = 0xF then len - 1 else min (len - 1) ((bit0 + 63) / (tyOf t).w)
    { kind := if isB then 1 else 0, wave := e.wave, row := row, col := 0, kfirst := e.wave * len + n0,
      klast := e.wave * len + n1 })

/-- The errors of the side words of a segment, found with the segment's first wave: the entry spans the segment's K positions
(R183, R185). -/
def sideErrs (bad : Nat → Bool) (isB : Bool) (e : MEntry) (len : Nat) : List MErr :=
  if e.opc ≠ 2 ∨ e.wave * len % 256 ≠ 0 then [] else
  let base := if isB then e.sb else e.sa
  let seg := e.wave * len / 256
  (List.range 64).flatMap (fun r =>
    ((sideWords (bits e.fmt.toNat 23 22)).filter (fun o => bad (sideAt base seg r + o))).map (fun _ =>
      { kind := if isB then 3 else 2, wave := e.wave, row := r, col := 0, kfirst := 256 * seg,
        klast := min (256 * seg + 255) (e.waves * len - 1) }))

/-- The errors of the codebook entries that one wave decodes: each entry once, with the first row of B whose index names it
(R185). -/
def cbErrs (s : State) (g : Nat) (bad : Nat → Bool) (e : MEntry) (len : Nat) : List MErr :=
  if bfmtOf e.fmt ≠ 0xF then [] else
  let entry (i : Nat) : Nat := rd s (spAddr g (rowAt e.pb.toNat 0xF len e.wave i)) 2 / 256
  (List.range 64).filterMap (fun i =>
    if bad (entry i) && !(List.range i).any (fun j => entry j == entry i) then
      some { kind := 5, wave := e.wave, row := i, col := 0, kfirst := entry i, klast := entry i }
    else none)

/-- The errors of a tile's lanes in a rectangle, `bad` telling which lanes have one. -/
def laneErrs (bad : Nat → Bool) (wave row0 nr col0 nc : Nat) : List MErr :=
  (rectIdx nr nc).filterMap (fun p =>
    if bad (64 * (row0 + p.1) + col0 + p.2) then
      some { kind := 4, wave := wave, row := row0 + p.1, col := col0 + p.2, kfirst := 0, klast := 0 }
    else none)

/-- The errors that one wave of an entry meets, of the words, codebook entries and lanes that have one. -/
def waveErrs (s : State) (g : Nat) (word entry lane : Nat → Bool) (e : MEntry) (len : Nat) : List MErr :=
  panelErrs word false e len ++ panelErrs word true e len ++ sideErrs word false e len ++ sideErrs word true e len
    ++ cbErrs s g entry e len ++ (if e.owned then laneErrs lane e.wave 0 63 0 63 else [])

/-- The lanes of a tile read in a rectangle are written back with good check bits (R183). -/
def healLanes (s : State) (g tile row0 nr col0 nc : Nat) : State :=
  (rectIdx nr nc).foldl (fun s p =>
    let n := 64 * (row0 + p.1) + col0 + p.2
    if s.eccLanes.contains (g, tile, n) then
      let v := laneRead s g tile (row0 + p.1) (col0 + p.2)
      (s.updTile g tile (fun t => { t with lanes := Sparse.set 0 t.lanes n v })).goodLanes g (fun t m => t == tile && m == n)
    else s) s

/-- Flags of an operation reach `FLAGS` of its context (R95, R181). -/
def raiseOn (s : State) (cid : Nat) (f : FlagSet) : State := s.updCtx cid (fun c => { c with flags := c.flags ||| f })

/-- The head entry of the queue replaced. -/
def setHead (s : State) (g : Nat) (e : MEntry) : State :=
  s.updCore g (fun k => { k with mq := match k.mq with
    | [] => []
    | _ :: t => e :: t })

/-- One wave of the head entry on every cell: the new lanes and the flags. Lanes of a tile that the launch does not own are
discarded (R35). -/
def waveCells (s : State) (g : Nat) (e : MEntry) : State :=
  let len := pairLen e.fmt
  let op (isB : Bool) : List (List (Num × Bool)) :=
    (List.range 64).map (fun i => (List.range len).map (fun k => waveElem s g e isB len i k))
  let as := op false
  let bs := op true
  let nv := flagIf ((as ++ bs).any (fun r => r.any (·.2))) flNV
  let res : List (Nat × (Word32 × FlagSet)) := (List.range 4096).map (fun n =>
    (n, cell e.int (if e.owned then laneRead s g e.tile (n / 64) (n % 64) else 0)
      ((as.getD (n / 64) []).map (·.1)) ((bs.getD (n % 64) []).map (·.1))))
  let fl := res.foldl (fun f r => f ||| r.2.2) nv
  let s := if e.owned then
      s.updTile g e.tile (fun t => { t with lanes := res.foldl (fun l r => Sparse.set 0 l r.1 r.2.1) [] })
    else s
  raiseOn s e.ctx fl

/-- A wave of the head entry completes (R169). -/
def doWave (s : State) (g : Nat) (e : MEntry) : State :=
  let len := pairLen e.fmt
  let errs := waveErrs s g (badWord s g) (fun m => s.eccCb.contains (g, m)) (fun n => s.eccLanes.contains (g, e.tile, n)) e len
  let soft := waveErrs s g (softWord s g) (softEntry s g) (softLane s g e.tile) e len
  let t := countSoft g soft.length (waveCells s g e)
  let t := if e.owned then t.goodLanes g (fun k _ => k == e.tile) else t
  let t := recordErrs g e t errs
  let b := (Config.waveBin s.free).val
  (setHead t g { e with wave := e.wave + 1 }).tick.updCore g (fun k =>
    { k with waveTot := k.waveTot + 1, hist := Sparse.set 0 k.hist b (Sparse.get 0 k.hist b + 1) })

/-! ### Entries (R179, R181) -/

/-- Whether the head entry may begin: the hazard unit and a fence let it (R207, R216), its launch is not halted (R186), and
its tile is not waiting for a fill (R254). -/
def entryReady (s : State) (g : Nat) (e : MEntry) : Bool :=
  !e.begun && mayBegin s e.ctx e.num e.foot
  && (match s.launchOf e.launch with
    | some l => l.halt.isNone
    | none => true)
  && !(e.owned && (writesTile e.opc || e.opc == 4) && (s.tile g e.tile).unfilled)

/-- Every lane of an owned tile becomes zero. -/
def zeroTile (s : State) (g : Nat) (e : MEntry) : State :=
  if e.owned then
    (s.updTile g e.tile (fun t => { t with lanes := [] })).goodLanes g (fun k _ => k == e.tile)
  else s

/-- `ENTRY_START` (R179): the head entry begins; `MMAZ` clears its tile once. -/
def execEntryStart (g : Nat) (s : State) : Host.Outcome State Fault Refusal :=
  withUnit g Config.nCores (match (s.core g).mq with
    | [] => s
    | e :: _ =>
      if entryReady s g e then
        setHead (if e.opc = 1 ∧ e.wave = 0 then zeroTile s g e else s) g { e with begun := true }
      else s)

/-- `WAVE` (R169): the next wave of the head entry. A halted launch's entry begins none (R186). -/
def execWave (g : Nat) (s : State) : Host.Outcome State Fault Refusal :=
  withUnit g Config.nCores (match (s.core g).mq with
    | [] => s
    | e :: _ =>
      if e.begun && decide (e.opc ≤ 2) && decide (e.wave < e.waves)
          && (((s.launchOf e.launch).map (fun l => l.halt.isNone)).getD true) then doWave s g e
      else s)

/-- One element that `ACCRD` writes (R195): its pattern and flags. -/
def accOut (env : FEnv) (int : Bool) (t : Nat) (v : Word32) (d : Nat) : Nat × FlagSet :=
  match tyOf t with
  | .fl f => if int then f.round env (ofInt v.toInt) d else convert env false (.fl f32) (.fl f) v.toNat d
  | .it k =>
    if int then (k.pat (k.sat v.toInt), flagIf (k.out v.toInt) flOF)
    else convert env true (.fl f32) (.it k) v.toNat d

/-- One lane that `ACCWR` writes (R195). -/
def accIn (env : FEnv) (int : Bool) (t : Nat) (v d : Nat) : Nat × FlagSet :=
  match tyOf t with
  | .fl f => convert env false (.fl f) (.fl f32) v d
  | .it k => if int then (bitsInt (k.read v) 32, 0) else f32.round env (ofInt (k.read v)) d

/-- The rounding environment of an accumulator copy: canonical NaNs (R195). -/
def accEnv (f : Word64) : FEnv := { FEnv.ofFmt f with nanm := false }

/-- The elements of an `ACCRD`, in order, with the draws that its issue counted. -/
def accrdLoop (g : Nat) (e : MEntry) : List (Nat × Nat) → Draw → State → State × Draw
  | [], a, s => (s, a)
  | p :: l, a, s =>
    let t := ofmtOf e.fmt
    let env := accEnv e.fmt
    let v : Word32 := if e.owned then laneRead s g e.tile (e.row0 + p.1) (e.col0 + p.2) else 0
    let r := a.run (!(e.int && decide (8 ≤ t))) env.rnd (accOut env e.int t v)
    accrdLoop g e l r.2 (wr s (spAddr g (rectEa (n64 e.pa) e.pb (elemBytes t) p).toNat) (elemBytes t) r.1)

/-- `ACCRD` performed. -/
def doAccrd (s : State) (g : Nat) (e : MEntry) : State :=
  let found (bad : Nat → Bool) : List MErr := if e.owned then laneErrs bad 0 e.row0 e.nr e.col0 e.nc else []
  let errs := found (fun n => s.eccLanes.contains (g, e.tile, n))
  let soft := found (softLane s g e.tile)
  let r := accrdLoop g e (rectIdx e.nr e.nc) { fl := 0, seed := e.seed } s
  let s := countSoft g soft.length (raiseOn r.1 e.ctx r.2.fl)
  recordErrs g e (if e.owned then healLanes s g e.tile e.row0 e.nr e.col0 e.nc else s) errs

/-- The lanes of an `ACCWR`, in order. -/
def accwrLoop (s : State) (g : Nat) (e : MEntry) : List (Nat × Nat) → Draw → Sparse Word32 → Sparse Word32 × Draw
  | [], a, l => (l, a)
  | p :: t, a, l =>
    let ty := ofmtOf e.fmt
    let env := accEnv e.fmt
    let v := rd s (spAddr g (rectEa (n64 e.pa) e.pb (elemBytes ty) p).toNat) (elemBytes ty)
    let r := a.run (!e.int) env.rnd (accIn env e.int ty v)
    accwrLoop s g e t r.2 (Sparse.set 0 l (64 * (e.row0 + p.1) + e.col0 + p.2) (BitVec.ofNat 32 r.1))

/-- `ACCWR` performed: IMODE := INT, lanes outside the rectangle kept. -/
def doAccwr (s : State) (g : Nat) (e : MEntry) : State :=
  let r := accwrLoop s g e (rectIdx e.nr e.nc) { fl := 0, seed := e.seed } (s.tile g e.tile).lanes
  let s := raiseOn s e.ctx r.2.fl
  if e.owned then
    (s.updTile g e.tile (fun t => { t with lanes := r.1, imode := e.int })).goodLanes g (fun k n =>
      k == e.tile && (rectIdx e.nr e.nc).any (fun p => n == 64 * (e.row0 + p.1) + e.col0 + p.2))
  else s

/-- `ACCZ` performed (R197). -/
def doAccz (s : State) (g : Nat) (e : MEntry) : State :=
  if e.owned then (zeroTile s g e).updTile g e.tile (fun t => { t with imode := e.int }) else s

/-- `MCBLD` performed (R194): a word with an error loads zeros (R183). -/
def doMcbld (s : State) (g : Nat) (e : MEntry) : State :=
  let cb := (List.range 256).foldl (fun l m =>
    let a := e.pa + 4 * m
    Sparse.set 0 l m (if badWord s g a then 0 else BitVec.ofNat 32 (rd s (spAddr g a) 4))) []
  let found (bad : Nat → Bool) : List MErr := (List.range 128).filterMap (fun n =>
    if bad (e.pa + 8 * n) then
      some { kind := 6, wave := 0, row := 0, col := 0, kfirst := e.pa + 8 * n, klast := e.pa + 8 * n }
    else none)
  let errs := found (badWord s g)
  let soft := found (softWord s g)
  let s := (s.updCore g (fun k => { k with codebook := cb })).goodCodebook g
  recordErrs g e (countSoft g soft.length s) errs

/-- What an entry does when it completes: the waves are done, and a copy is performed. -/
def perform (s : State) (g : Nat) (e : MEntry) : State :=
  match e.opc with
  | 3 => doMcbld s g e
  | 4 => doAccrd s g e
  | 5 => doAccwr s g e
  | 6 => doAccz s g e
  | _ => s

/-- A freed entry goes to the next saved operation of a returning context; those of a halted launch are discarded (R189). -/
def requeueSaved (s : State) (g : Nat) : State :=
  let going (e : MEntry) : Bool := ((s.launchOf e.launch).map (fun l => l.halt.isNone)).getD true
  s.updCore g (fun k => match k.savedOps.filter going with
    | [] => { k with savedOps := [] }
    | e :: t => if k.mq.length < 16 then { k with mq := k.mq ++ [e], savedOps := t } else k)

/-- `ENTRY_COMPLETE` (R181): effects first, then the entry is freed and its token completes. -/
def execEntryComplete (g : Nat) (s : State) : Host.Outcome State Fault Refusal :=
  withUnit g Config.nCores (match (s.core g).mq with
    | [] => s
    | e :: _ =>
      if e.begun && (decide (2 < e.opc) || e.wave == e.waves)
          && (((s.launchOf e.launch).map (fun l => l.halt.isNone)).getD true || decide (2 < e.opc)) then
        let s := perform s g e
        let s := s.updCore g (fun k => { k with mq := k.mq.drop 1 })
        requeueSaved (s.updCtx e.ctx (fun c => { c with out := c.out - 1 })) g
      else s)

end Sys2Proof.Machine
end

