-- ==== Sys2Proof/Machine/Pages.lean ====
section
/-! DEFINITION. Probes (R235 to R238), `PGALLOC` (R239 to R241), the segment commands (R227, R228), zeroing, draining and
demand fills as steps of their own (R228, R233), and migration (R242 to R245). -/

namespace Sys2Proof.Machine

open Sys2Proof

/-! ### Probes -/

/-- What a probe finds (R236). -/
inductive Probe where
  | pass
  | wait
  | trap (code : Nat) (eva einfo : Word64)
  deriving DecidableEq, Repr

/-- The trap of a miss that a probe finds (R237). -/
def probeMiss (opc kind seg : Nat) (a : Word64) : Probe :=
  .trap (if missFault kind = 0x81 then 0x41 else 0x40) a (missInfo kind seg opc)

/-- The check of a probe over `len` bytes from `base` (R236), once no writeback is pending; `wr` is `WPROBE`'s. -/
def probe (s : State) (cid : Nat) (need : Need) (wr : Bool) (opc : Nat) (base : Word64) (len : Nat) : Probe :=
  let j := s.jobOf cid
  if len = 0 then .pass
  else if 2 ^ 64 < base.toNat + len then probeMiss opc 0x06 0xFFF base
  else if isShort base then .pass
  else match s.place j base with
    | .notHeld => probeMiss opc 0x04 0xFFF base
    | .there c => if bits (s.route j c).toNat 63 62 = 2 then probeMiss opc 0x05 0xFFF base else .pass
    | .here =>
      match rangeOf s j need wr base len with
      | .ok => .pass
      | .zeroing _ => .wait
      | .absent id _ a => probeMiss opc 0x03 id a
      | .miss k id a => probeMiss opc k id a

/-- What `RPROBE` needs (R235). -/
def rprobeNeed (m : Nat) : Need := if m = 0 then .read else if m = 1 then .invRead else .fetch

/-- What `WPROBE` needs (R235). -/
def wprobeNeed (m : Nat) : Need := if m = 0 then .write else if m = 1 then .add else { Need.write with a := true }

/-- A probe op: it waits, reason 7, while a writeback is pending (R72) or a segment is in ZEROING. -/
def probeOp (x : ArgA) (need : Need) (wr : Bool) (opc : Nat) : Op :=
  { Op.plain 0 (src2A x) [] (fun _ cur => cur) with
    chk := fun s =>
      if s.me.pend.isEmpty then
        match probe s s.cur need wr opc (s.me.rS x.src1) (s.me.rS x.src2).toNat with
        | .trap c v e => some (Exc.mk' c v e)
        | _ => none
      else none,
    wait := fun s =>
      if !s.me.pend.isEmpty || probe s s.cur need wr opc (s.me.rS x.src1) (s.me.rS x.src2).toNat == .wait then some (7, id)
      else none }

/-- `RPROBE` (R236). -/
def rprobeOp (x : ArgA) : Op := probeOp x (rprobeNeed x.mod) false 0x12

/-- The meaning of `RPROBE`. -/
def execRprobe (x : ArgA) (s : State) : Host.Outcome State Fault Refusal := issueOne (rprobeOp x) s

/-- `WPROBE` (R236). -/
def wprobeOp (x : ArgA) : Op := probeOp x (wprobeNeed x.mod) true 0x13

/-- The meaning of `WPROBE`. -/
def execWprobe (x : ArgA) (s : State) : Host.Outcome State Fault Refusal := issueOne (wprobeOp x) s

/-! ### `PGALLOC` -/

/-- Where `PGALLOC`'s address leads (R239): a REASON, or the segment, its page and whether it is present. -/
inductive PgTarget where
  | bad (reason : Nat)
  | page (seg page : Nat) (present : Bool)
  deriving DecidableEq, Repr

/-- The page that `PGALLOC` names. -/
def pgTarget (s : State) (cid : Nat) (a : Word64) : PgTarget :=
  let j := s.jobOf cid
  if isShort a || tierOf a || s.place j a != .here then .bad 0x41
  else match s.lookup j false (ofsOf a) with
    | none => .bad 0x41
    | some (id, e) =>
      if e.st != .bound && e.st != .migrating then .bad 0x41
      else if !e.dz then .bad 0x40
      else .page id ((ofsOf a - e.vbase) / 2 ^ 21) (s.pageOf j id e ((ofsOf a - e.vbase) / 2 ^ 21)).isSome

/-- Whether another site is filling a page. -/
def filling (s : State) (j seg page : Nat) : Bool :=
  s.fills.any (fun r => r.job == j && r.seg == seg && r.page == page)

/-- Trap 0x42 of `PGALLOC` (R237): its address is the page's first byte. -/
def poolExc (s : State) (j seg page kind : Nat) : Exc :=
  Exc.mk' 0x42 (pageVa (s.seg j seg) page) (missInfo kind seg 0x14)

/-- Whether a `PGALLOC` asks the host: `.host`, and `.pool` too while probe-miss resolution is host-assisted (R239, R410). -/
def hostPage (x : ArgA) (s : State) : Bool := x.mod == 1 || s.sorric.modes.contains 1

/-- `PGALLOC` (R239): it waits, reason 8, for another site's fill or for the host's answer. -/
def pgallocOp (x : ArgA) : Op :=
  { Op.plain 0 [srcS x.src1 x.b1] [(0, x.dst.val)] (fun pre cur =>
      match pgTarget pre pre.cur (pre.me.rS x.src1) with
      | .bad _ => cur
      | .page id p present =>
        match pre.me.grant with
        | .done st => cur.updMe (fun c => c.wS x.dst (n64 st))
        | _ =>
          if present then cur.updMe (fun c => c.wS x.dst 0)
          else (fillPage cur (pre.jobOf pre.cur) id p).updMe (fun c => c.wS x.dst 1)) with
    chk := fun s =>
      match pgTarget s s.cur (s.me.rS x.src1) with
      | .bad r => some (illegal 0 r 0)
      | .page id p present =>
        match s.me.grant with
        | .done _ => none
        | .asked _ => none
        | .refused => some (poolExc s (s.jobOf s.cur) id p 0x21)
        | .none =>
          if !present && !hostPage x s && !filling s (s.jobOf s.cur) id p && s.dzPool.isEmpty then
            some (poolExc s (s.jobOf s.cur) id p 0x20)
          else none,
    wait := fun s =>
      match pgTarget s s.cur (s.me.rS x.src1) with
      | .bad _ => none
      | .page id p present =>
        match s.me.grant with
        | .done _ => none
        | .refused => none
        | .asked _ => some (8, fun s => s)
        | .none =>
          if present then none
          else if hostPage x s then
            some (8, fun s =>
              let q := ((s.ctxLaunch s.cur).map (·.queue)).getD 0
              (requestPage s q (s.jobOf s.cur) id p s.cur (s.ctxid s.cur)).updMe (fun c =>
                { c with grant := .asked (requestTag s) }))
          else if filling s (s.jobOf s.cur) id p then some (8, fun s => s)
          else none }

/-- The meaning of `PGALLOC`. -/
def execPgalloc (x : ArgA) (s : State) : Host.Outcome State Fault Refusal :=
  issueOne (pgallocOp x) s

/-! ### Segment commands (R227, R277) -/

/-- The entry that an image of 32 bytes describes (R224). -/
def segImage (s : State) (pa : Nat) : Seg :=
  let w0 := rd s pa 8
  let w1 := rd s (pa + 8) 8
  let w2 := rd s (pa + 16) 8
  let w3 := rd s (pa + 24) 8
  { tier := bitOf w0 52, vbase := bits w0 51 0, len := bits w1 51 0, pbase := bits w2 38 0, busy := bits w3 63 48,
    st := .free, r := bitOf w3 43, w := bitOf w3 42, a := bitOf w3 41, x := bitOf w3 40, inv := bitOf w3 39,
    conf := bitOf w3 38, dz := bitOf w3 37, mig := bitOf w3 36, trk := bitOf w3 35, planes := bits w3 31 0 }

/-- Whether an image is malformed (R227). -/
def badImage (s : State) (pa : Nat) : Bool :=
  let w0 := rd s pa 8
  let w1 := rd s (pa + 8) 8
  let w2 := rd s (pa + 16) 8
  let w3 := rd s (pa + 24) 8
  let e := segImage s pa
  let pg := if e.tier then 2 ^ 14 else 2 ^ 21
  bits w0 63 53 != 0 || bits w1 63 52 != 0 || bits w2 63 39 != 0 || bits w3 34 32 != 0
  || (e.tier && bits w0 51 30 != 0) || e.vbase % pg != 0 || e.len % pg != 0 || e.len == 0
  || (!e.tier && !e.dz && e.pbase % 2 ^ 21 != 0) || (e.dz && e.pbase % 8 != 0) || (e.tier && e.pbase != 0)
  || bitOf w3 44 != e.tier
  || (!e.tier && decide (2 ^ 39 < e.pbase + (if e.dz then e.len / 2 ^ 21 * 8 else e.len)))
  || (e.tier && (e.x || e.dz || e.mig || e.trk)) || (e.mig && e.dz) || (e.inv && !e.r)
  || (e.trk && e.planes == 0) || (!e.trk && e.planes != 0) || bits w3 63 45 != 0

/-- Whether a range of a job's tier meets a non-FREE entry. -/
def overlaps (s : State) (j : Nat) (e : Seg) : Bool :=
  s.segs.any (fun p => p.1 / 4096 == j && p.2.st != .free && p.2.tier == e.tier
    && decide (p.2.vbase < e.vbase + e.len) && decide (e.vbase < p.2.vbase + p.2.len))

/-- The command block's address of a `SEGCMD` write, and its job and segment id. -/
def cmdJob (s : State) (b : Nat) : Nat := rd s (hbmAddr b) 2

/-- The segment id of a command block. -/
def cmdSeg (s : State) (b : Nat) : Nat := rd s (hbmAddr b + 2) 2

/-- The status that `SEGSTAT` shows (R277). -/
def segStatus (s : State) (st : Nat) : State := { s with segStat := st }

/-- `SEGCMD` BIND (R227): ZEROING for an HBM-tier segment, BOUND for a scratchpad-tier one (R228). -/
def bindCmd (s : State) (b : Nat) : State :=
  let j := cmdJob s b
  let id := cmdSeg s b
  let pa := hbmAddr b + 8
  if badImage s pa || decide (32 ≤ j) || decide (4096 ≤ id) then segStatus s 1
  else if (s.seg j id).st != .free || overlaps s j (segImage s pa) then segStatus s 2
  else segStatus (s.updSeg j id (fun _ =>
    { segImage s pa with st := if (segImage s pa).tier then .bound else .zeroing, busy := 0 })) 0

/-- The meaning of BIND. -/
def execBind (block : Nat) (s : State) : Host.Outcome State Fault Refusal :=
  .next (if s.segStat = 15 then s else bindCmd s block)

/-- `SEGCMD` UNBIND (R227); an id above 4,095 names no entry. -/
def unbindCmd (s : State) (b : Nat) : State :=
  let j := cmdJob s b
  let id := cmdSeg s b
  if 4096 ≤ id then segStatus s 2 else
  match (s.seg j id).st with
  | .bound => segStatus (s.updSeg j id (fun e => { e with st := .draining })) 0
  | .zeroing => segStatus s 3
  | .migrating => segStatus s 3
  | _ => segStatus s 2

/-- The meaning of UNBIND. -/
def execUnbind (block : Nat) (s : State) : Host.Outcome State Fault Refusal :=
  .next (if s.segStat = 15 then s else unbindCmd s block)

/-- `SEGCMD` RELEASE (R227). -/
def releaseCmd (s : State) (b : Nat) : State :=
  let j := cmdJob s b
  let id := cmdSeg s b
  if id < 4096 ∧ (s.seg j id).st = .revoked then segStatus (s.updSeg j id (fun _ => Seg.free)) 0 else segStatus s 2

/-- The meaning of RELEASE. -/
def execRelease (block : Nat) (s : State) : Host.Outcome State Fault Refusal :=
  .next (if s.segStat = 15 then s else releaseCmd s block)

/-- The physical pages of a POOL command's range. -/
def poolPages (first count : Nat) : List Nat := (List.range count).map (fun i => first + i * 2 ^ 21)

/-- Whether a physical page lies in the range of a non-FREE segment: its pages, or for a DZ segment its present pages. -/
def pageBound (s : State) (pa : Nat) : Bool :=
  s.segs.any (fun p => p.2.st != .free && !p.2.tier &&
    (if p.2.dz then (List.range (p.2.len / 2 ^ 21)).any (fun i => s.dzPage p.2 i == some pa)
     else decide (p.2.pbase < pa + 2 ^ 21) && decide (pa < p.2.pbase + p.2.len)))

/-- `SEGCMD` POOL (R227, R234): the whole range is added or removed, or nothing is. While allocation is host-assisted the pool
is kept empty, and an add is a CONFLICT (log entry 50). -/
def poolCmd (s : State) (b : Nat) : State :=
  let pa := hbmAddr b
  let first := rd s (pa + 8) 8
  let count := rd s (pa + 16) 8
  let dir := rd s (pa + 24) 1
  if first % 2 ^ 21 ≠ 0 ∨ count = 0 ∨ 2 ^ 39 < first + count * 2 ^ 21 ∨ 1 < dir
      ∨ rd s (pa + 2) 6 ≠ 0 ∨ rd s (pa + 25) 39 ≠ 0 then segStatus s 1
  else if (poolPages first count).any (pageBound s) then segStatus s 2
  else if dir = 0 then
    if s.sorric.modes.contains 0 || (poolPages first count).any (fun p => s.dzPool.contains p) then segStatus s 2
    else segStatus { s with dzPool := s.dzPool ++ poolPages first count } 0
  else if (poolPages first count).any (fun p => !s.dzPool.contains p) then segStatus s 2
  else segStatus { s with dzPool := s.dzPool.filter (fun p => !(poolPages first count).contains p) } 0

/-- The meaning of POOL. -/
def execPool (block : Nat) (s : State) : Host.Outcome State Fault Refusal :=
  .next (if s.segStat = 15 then s else poolCmd s block)

/-! ### Zeroing, draining and fills (R228, R233) -/

/-- Every page of a segment in ZEROING is zeroed, all of a non-DZ one, the present ones of a DZ one. -/
def zeroSegment (s : State) (e : Seg) : State :=
  if e.dz then
    (List.range (e.len / 2 ^ 21)).foldl (fun s i => match s.dzPage e i with
      | some pa => s.clearRange pa (2 ^ 21)
      | none => s) s
  else s.clearRange e.pbase e.len

/-- The meaning of ZEROING_COMPLETE: the last page is zeroed, and the segment is BOUND. -/
def execZeroingComplete (job seg : Nat) (s : State) : Host.Outcome State Fault Refusal :=
  .next (if (s.seg job seg).st == .zeroing then
    (zeroSegment s (s.seg job seg)).updSeg job seg (fun e => { e with st := .bound })
  else s)

/-- The meaning of DRAINED: BUSY reaches 0, and the segment is REVOKED. -/
def execDrained (job seg : Nat) (s : State) : Host.Outcome State Fault Refusal :=
  .next (if (s.seg job seg).st == .draining && (s.seg job seg).busy == 0 then
    s.updSeg job seg (fun e => { e with st := .revoked })
  else s)

/-- The bytes of a page in the hazard unit's form. -/
def pageRange (s : State) (j seg page : Nat) : List (Int × Int) :=
  [rangeAt (canon s j 0 (pageVa (s.seg j seg) page)) (2 ^ 21)]

/-- The addresses of a demand-zero segment that a subscription writes to next: a storer's element and, once it closes, its counter. -/
def Sub.writes (x : Sub) : List Word64 :=
  (match x.prog with
    | some (t, e) => if x.ring.storer then [(x.ring.tile t).srcAt e] else []
    | none => []) ++ (if x.closing && x.ctr != 0 then [x.ctr] else [])

/-- The engine work of a job that was to write to a page, with the unit that holds it. -/
def pageUsers (s : State) (j seg page : Nat) : List (Nat × UnitId) :=
  let r := pageRange s j seg page
  s.cores.flatMap (fun p => (p.2.jobs.filter (fun x => x.job == j && meets x.foot.wr r)).map
    (fun x => (x.launch, { kind := 2, inst := p.1 })))
  ++ s.quays.flatMap (fun p => p.2.subs.filterMap (fun q => match q.2 with
    | some x =>
      if x.job = j ∧ meets (x.writes.map (fun a => rangeAt (canon s j x.core a) 8)) r = true then
        some (x.launch, { kind := 3, inst := p.1 })
      else none
    | none => none))
  ++ s.coll.flatMap (fun p => (p.2.queue.filter (fun x => x.job == j && x.started && meets x.foot.wr r)).map
    (fun x => (x.launch, { kind := 4, inst := p.1 })))

/-- An engine's or a port's page request goes to the event path of the queue that dispatched the launch whose engine asks or, for a
port, the launch that owns the partition of a block of the job (R240); with no launch of the job on the chip, to the job's
lowest-numbered queue or Sorric's log, as R369 has it for records (log entry 88). -/
def postRequest (s : State) (j seg page : Nat) (rec : List Byte) : State :=
  let ls := (pageUsers s j seg page).filterMap (fun u => s.launchOf u.1) ++ s.launches.filter (fun l => l.job == j)
  match ls.head? with
  | some l => postRecord s l.queue rec false
  | none => postFor s (some j) rec

/-- DEMAND_FILL: a page that a site waits for is filled from the pool, or a request is posted when the pool is empty; a site that has
posted one waits for the host's answer. -/
def demandFill (s : State) (job seg page : Nat) : State :=
  if !(s.fills.any (fun r => r.job == job && r.seg == seg && r.page == page && r.ctx == 0xFFFF)) then s
  else if s.fills.any (fun r => r.job == job && r.seg == seg && r.page == page && r.ctx == 0xFFFF && r.tag.isSome) then s
  else if s.dzPool.isEmpty then
      let t := freeTag s 65536 (Config.pick s.free)
      let s := postRequest s.tick job seg page (pageRequest s 0xFFFF seg t (pageVa (s.seg job seg) page))
      { s with fills := s.fills.map (fun r =>
          if r.job == job && r.seg == seg && r.page == page && r.ctx == 0xFFFF then
            { r with tag := some t, since := s.cyc.toNat } else r) }
  else fillPage s job seg page

/-- The meaning of DEMAND_FILL. -/
def execDemandFill (job seg page : Nat) (s : State) : Host.Outcome State Fault Refusal := .next (demandFill s job seg page)

/-! ### Migration (R242 to R245) -/

/-- The counter address of a job on this chip, checked as R245 and R312 ask: 8-byte aligned and, for a pod address, in a
segment with the attributes. -/
def ctrOk (s : State) (j : Nat) (need : Need) (a : Word64) : Bool :=
  decide (a.toNat % 8 = 0) && (isShort a || (s.place j a == .here && (match xlate s j need a with
    | .miss _ _ => false
    | _ => true)))

/-- The REASON that refuses a migration, 0 when it can be accepted (R245). -/
def migReason (s : State) (cid seg : Nat) (dst ctr : Word64) : Nat :=
  let j := s.jobOf cid
  let e := s.seg j seg
  if e.tier || !e.mig || e.st != .bound then 0x44
  else if dst.toNat % 2 ^ 21 ≠ 0 ∨ (s.job j).rsvSize < dst.toNat + e.len then 0x45
  else if ctr ≠ 0 ∧ ctrOk s j .add ctr = false then 0x46
  else 0

/-- The segment id that `XMIGR` names. -/
def migSeg (x : ArgX) (c : Context) : Nat := bits (c.rS x.sarg).toNat 11 0

/-- The REASON of the asking context's request. -/
def migReasonOf (x : ArgX) (s : State) (c : Context) (cid : Nat) : Nat :=
  migReason s cid (migSeg x c) (c.rA x.adesc) (c.rA (x.adesc + 1))

/-- `XMIGR` (R243): the bundle blocks, reason 13, until the migration control has answered. -/
def xmigrOp (x : ArgX) : Op :=
  { Op.plain 6 [srcA x.adesc x.b, srcA (x.adesc + 1) x.b, srcS x.sreg x.b, srcS x.sarg x.b] [] (fun _ cur => cur) with
    chk := fun s =>
      if x.adesc.val % 2 = 1 then some (illegal 6 0x43 0)
      else match s.me.mgrant with
        | .done st => if st = 0 then none else some (illegal 6 st 0)
        | _ => none,
    wait := fun s =>
      match s.me.mgrant with
      | .done _ => none
      | _ => some (13, fun s => s.updMe (fun c => { c with mgrant := .asked 0 })) }

/-- The meaning of `XMIGR`. -/
def execXmigr (x : ArgX) (s : State) : Host.Outcome State Fault Refusal := issueOne (xmigrOp x) s

/-- The migration control answers a request (R243): it refuses with a REASON, or the segment is MIGRATING from here. -/
def acceptMig (s : State) (cid : Nat) (x : ArgX) : State :=
  let c := s.ctx cid
  let j := s.jobOf cid
  let seg := migSeg x c
  let r := migReasonOf x s c cid
  let s := s.updCtx cid (fun c => { c with mgrant := .done r })
  if r ≠ 0 then s
  else
    { s.updSeg j seg (fun e => { e with st := .migrating }) with
      migs := s.migs ++ [{ job := j, seg := seg, dst := (s.job j).rsvBase + (c.rA x.adesc).toNat, ctr := c.rA (x.adesc + 1),
                           deadline := c.rS x.sreg, core := s.homeCore cid, part := s.partOf cid, copied := false }] }

/-- The migration of a segment. -/
def migOf (s : State) (j seg : Nat) : Option Migration := s.migs.find? (fun m => m.job == j && m.seg == seg)

/-- MIGRATION_COPY: with BUSY at 0, in one of the partition's own slots, the segment's bytes are copied to the new pages. -/
def migCopy (s : State) (job seg : Nat) : State :=
  match migOf s job seg with
  | none => s
  | some m =>
    let e := s.seg job seg
    if e.st != .migrating || e.busy != 0 || m.copied || !s.ownSlot m.part s.cyc.toNat then s
    else { s.copyRange e.pbase m.dst e.len with
           migs := s.migs.map (fun n => if n.job == job && n.seg == seg then { n with copied := true } else n) }

/-- The meaning of MIGRATION_COPY. -/
def execMigrationCopy (job seg : Nat) (s : State) : Host.Outcome State Fault Refusal := .next (migCopy s job seg)

/-- A partition's slip counter takes one more late migration; it saturates (R244). -/
def addSlip (s : State) (p : Nat) : State :=
  match s.part p with
  | none => s
  | some x =>
    let y := { x with slip := if x.slip.toNat = 2 ^ 32 - 1 then x.slip else x.slip + 1 }
    { s with parts := Sparse.set none s.parts p (some y) }

/-- REBIND: once copied, PBASE names the new pages, the counter is added, and the deadline is checked (R243). The transfers that the
migration held are released by `settleTransfers` (Held.lean) before anything else takes place. -/
def rebind (s : State) (job seg : Nat) : State :=
  match migOf s job seg with
  | none => s
  | some m =>
    if !m.copied then s
    else
      let s := { s.updSeg job seg (fun e => { e with pbase := m.dst, st := .bound }) with
                 migs := s.migs.filter (fun n => !(n.job == job && n.seg == seg)) }
      let s := if m.ctr = 0 then s else oweAdd s job m.core m.ctr 1
      if m.deadline ≠ 0 ∧ m.deadline.toNat < s.cyc.toNat / 1024 then addSlip s m.part else s

/-- The meaning of REBIND. -/
def execRebind (job seg : Nat) (s : State) : Host.Outcome State Fault Refusal := .next (rebind s job seg)

/-- A migration is abandoned (R228): PBASE is unchanged and no add is made. -/
def abandonMig (s : State) (job seg : Nat) : State :=
  { s.updSeg job seg (fun e => { e with st := .bound }) with
    migs := s.migs.filter (fun n => !(n.job == job && n.seg == seg)) }

end Sys2Proof.Machine
end

