-- ==== Sys2Proof/Machine/Copies.lean ====
section
/-! DEFINITION. The X-slot ops of the copy engine, the quay rings and multicast as they issue (R299 to R317): descriptors,
their checks in the order of R317, reach and translation (R301), the reservation calendar and promises (R302, R303), trace
records of their sources (R339), subscriptions (R307, R308, R311, R312), and withdrawals (R315). -/

namespace Sys2Proof.Machine

open Sys2Proof

/-! ### Descriptors (R299, R307) -/

/-- The address of a descriptor: a[adesc], in the core's scratchpad or in the parameter block. -/
def descAddr (x : ArgX) (c : Context) : Word64 := c.rA x.adesc

/-- `.inv`, `.sofs`, `.dofs`, `.pb`, `.noexp` (R316). -/
def optInv (x : ArgX) : Bool := x.opt.getLsbD 0
def optSofs (x : ArgX) : Bool := x.opt.getLsbD 1
def optDofs (x : ArgX) : Bool := x.opt.getLsbD 2
def optPb (x : ArgX) : Bool := x.opt.getLsbD 3
def optNoexp (x : ArgX) : Bool := x.opt.getLsbD 4

/-- The bytes of a descriptor of `n` bytes. -/
def descBytes (s : State) (x : ArgX) (n : Nat) : List Byte :=
  let a := descAddr x s.me
  if optPb x then (s.me.constBuf.drop a.toNat).take n else rdBytes s (spAddr (s.homeCore s.cur) a.toNat) n

/-- A descriptor's address checks (R317): REASON 0x68, then fault 0x80 beyond the parameter block or the scratchpad. -/
def descErr (x : ArgX) (n : Nat) (s : State) : Option Exc :=
  let a := descAddr x s.me
  let len := s.me.constBuf.length
  if a.toNat % 64 ≠ 0 ∨ (optPb x = false ∧ isShort a = false) then some (illegal 6 0x68 0)
  else if optPb x then
    if len < a.toNat + n then some (reachExc 0x80 0 (if a.toNat < len then n64 len else a)) else none
  else if Config.spBytes < a.toNat + n then some (reachExc 0x80 0 (n64 Config.spBytes)) else none

/-- A copy descriptor from its bytes. -/
def boxOf (d : List Byte) : Box :=
  { src := n64 (leAt d 0 8), dst := n64 (leAt d 8 8), bar := n64 (leAt d 16 8), ctr := n64 (leAt d 24 8),
    cval := n64 (leAt d 32 8), ndim := leAt d 40 1, esz := leAt d 41 1, bound := bitOf (leAt d 42 1) 0,
    fill := BitVec.ofNat 32 (leAt d 44 4),
    ext := (List.range 6).map (fun i => leAt d (48 + 4 * i) 4),
    orig := (List.range 6).map (fun i => sx 32 (leAt d (72 + 4 * i) 4)),
    tdim := (List.range 6).map (fun i => leAt d (96 + 4 * i) 4),
    sstr := (List.range 6).map (fun i => sx 64 (leAt d (120 + 8 * i) 8)),
    dstr := (List.range 6).map (fun i => sx 32 (leAt d (168 + 4 * i) 4)) }

/-- A malformed copy descriptor (R317). -/
def boxBad (d : List Byte) : Bool :=
  let b := boxOf d
  b.ndim == 0 || decide (6 < b.ndim) || decide (3 < b.esz) || b.ext.any (· == 0) || (b.ext.drop b.ndim).any (· != 1)
    || decide (2 ^ 40 < b.bytes) || leAt d 43 1 != 0 || decide (1 < leAt d 42 1)

/-- The box with the offsets of `.sofs` and `.dofs` added. -/
def withOffsets (x : ArgX) (c : Context) (b : Box) : Box :=
  let o := c.rA (x.adesc + 1)
  { b with src := if optSofs x then b.src + o else b.src, dst := if optDofs x then b.dst + o else b.dst }

/-- The box that an op names. -/
def boxAt (x : ArgX) (s : State) : Box := withOffsets x s.me (boxOf (descBytes s x 192))

/-- A base or stride that is not a multiple of the element size (R317); a fill ignores SRCBASE (R303). -/
def misSized (b : Box) (fill : Bool) : Bool :=
  let n : Int := b.esize
  (!fill && b.src.toNat % b.esize != 0) || b.sstr.any (fun k => k % n != 0)
    || b.dst.toNat % b.esize != 0 || b.dstr.any (fun k => k % n != 0)

/-- An odd adesc with an offset option (R317). -/
def oddDesc (x : ArgX) : Option Exc :=
  if (optSofs x || optDofs x) && x.adesc.val % 2 == 1 then some (illegal 6 0x64 0) else none

/-- The sources of an op with a descriptor: adesc, its partner, then `more` (R39). -/
def descSrcs (x : ArgX) (more : List Src) : List Src :=
  srcA x.adesc x.b :: (if optSofs x || optDofs x then [srcA (x.adesc + 1) x.b] else []) ++ more

/-! ### Barriers and counters of a job (R299, R317) -/

/-- Whether a barrier address is a short one or a scratchpad of the issuing cluster. -/
def barNear (s : State) (a : Word64) : Bool :=
  isShort a || (s.place (s.jobOf s.cur) a == .here && tierOf a && !badSp a
    && coreOfAddr a / Config.coresPerCluster == s.homeCore s.cur / Config.coresPerCluster)

/-- The physical address of a barrier named by a job issued on core `g`. -/
def barAddr (g : Nat) (a : Word64) : Nat :=
  if isShort a then spAddr g a.toNat else spAddr (coreOfAddr a) (bits a.toNat 19 0)

/-- The REASON 0x60 check of a BAR field. -/
def barErr (s : State) (a : Word64) : Option Exc :=
  if a ≠ 0 ∧ (a.toNat % 16 ≠ 0 ∨ barNear s a = false) then some (illegal 6 0x60 0) else none

/-- The REASON 0x61 check of a counter. -/
def ctrErr (a : Word64) : Option Exc := if a.toNat % 8 ≠ 0 then some (illegal 6 0x61 0) else none

/-- A negative CVAL (R317). -/
def cvalErr (b : Box) : Option Exc :=
  if b.cval.toInt < 0 then some (Exc.mk' 0x32 b.ctr (barInfo 2 6 b.cval.toNat)) else none

/-- The reach of a BAR beyond the issuing core's own scratchpad: a near core of another partition is refused (R12, R126), and a pod
address is translated as a job's other addresses are (R230, R301); no attribute is asked of it (log entry 28). -/
def barReach (s : State) (a : Word64) : Option Exc :=
  if isShort a then none
  else
    let j := s.jobOf s.cur
    if coreOfAddr a != s.homeCore s.cur && !s.inPart (s.partOf s.cur) (coreOfAddr a) then some (reachExc 0x81 0 a)
    else match xlate s j .any a with
      | .miss k id => some (missExc k id a)
      | _ => none

/-- The translation of a counter that an engine adds to: W and A on this chip (R225, R301, R312). -/
def ctrReach (s : State) (a : Word64) : Option Exc :=
  if a = 0 then none
  else if isShort a then
    if Config.spBytes < a.toNat + 8 then some (reachExc 0x80 0 (n64 Config.spBytes)) else none
  else
    let j := s.jobOf s.cur
    match s.place j a with
    | .notHeld => some (reachExc 0x80 0x04 a)
    | .there _ => some (reachExc 0x81 0 a)
    | .here => match xlate s j { Need.write with a := true } a with
      | .miss k id => some (missExc k id a)
      | _ => none

/-! ### Reach and translation (R301) -/

/-- The check of one element's address; `near` asks for a scratchpad of the issuing cluster. -/
def engErr (s : State) (need : Need) (near : Bool) (n : Nat) (a : Word64) : Option Exc :=
  if isShort a then
    if Config.spBytes < a.toNat + n then some (reachExc 0x80 0 (n64 Config.spBytes)) else none
  else
    let j := s.jobOf s.cur
    match s.place j a with
    | .notHeld => some (reachExc 0x80 0x04 a)
    | .there _ => if badSp a then some (reachExc 0x80 0x07 a) else some (reachExc 0x81 0 a)
    | .here =>
      if !badSp a && near && tierOf a
          && coreOfAddr a / Config.coresPerCluster != s.homeCore s.cur / Config.coresPerCluster then
        some (reachExc 0x81 0 a)
      else match xlate s j need a with
        | .miss k id => some (missExc k id a)
        | _ => none

/-- The addresses of a box's inside elements. -/
def srcAddrs (b : Box) : List Word64 := ((List.range b.count).filter b.inside).map b.srcAt

/-- The addresses of a box's destination elements. -/
def dstAddrs (b : Box) : List Word64 := (List.range b.count).map b.dstAt

/-- The need of a source. -/
def srcNeed (inv : Bool) : Need := if inv then .invRead else .read

/-- The first failing element of a copy: sources, destinations, then the barrier and the counter. -/
def copyReach (s : State) (b : Box) (fill inv : Bool) : Option Exc :=
  firstSome ((if fill then [] else (srcAddrs b).map (engErr s (srcNeed inv) true b.esize))
    ++ (dstAddrs b).map (engErr s .write false b.esize) ++ [barReach s b.bar, ctrReach s b.ctr])

/-- The segments that a list of addresses touches. -/
def segsOf (s : State) (j : Nat) (l : List Word64) : List Nat :=
  distinct ((l.filter (fun a => !isShort a)).flatMap (segOf s j))

/-- The absent demand-zero pages that a list of destination addresses needs are asked for (R233). -/
def wantPages (j : Nat) (l : List Word64) (s : State) : State :=
  l.foldl (fun s a => if isShort a then s else match locate s j a with
    | .absent id p => wantPage s j id p
    | _ => s) s

/-! ### Trace records (R338, R339) -/

/-- Whether a tile is adjacent to an entry of its segment or overlaps it, and the merged COUNT stays in range. -/
def mergeable (e : TraceRange) (seg t : Nat) : Bool :=
  e.seg == seg && decide (e.first ≤ t + 1) && decide (t ≤ e.first + e.count)
    && decide (max (e.first + e.count) (t + 1) - min e.first t ≤ 4095)

/-- The entries with a tile added to the first that can take it. -/
def mergeTile (seg t : Nat) : List TraceRange → Option (List TraceRange)
  | [] => none
  | e :: l =>
    if mergeable e seg t then
      some ({ e with first := min e.first t, count := max (e.first + e.count) (t + 1) - min e.first t } :: l)
    else match mergeTile seg t l with
      | some r => some (e :: r)
      | none => none

/-- A tile is recorded. -/
def TraceRec.tile (r : TraceRec) (seg t : Nat) : TraceRec :=
  if 2 ^ 24 ≤ t then { r with untrk := true }
  else match mergeTile seg t r.entries with
    | some l => { r with entries := l }
    | none =>
      if r.entries.length < 32 then { r with entries := r.entries ++ [{ seg := seg, first := t, count := 1 }] }
      else { r with ovf := true }

/-- One engine read is recorded: an HBM-tier address of this chip. -/
def traceAddr (s : State) (j : Nat) (r : TraceRec) (a : Word64) : TraceRec :=
  if isShort a || tierOf a then r
  else (segOf s j a).foldl (fun r id =>
    let e := s.seg j id
    let r := if e.trk then r else { r with untrk := true }
    r.tile id ((ofsOf a - e.vbase) / 16384)) r

/-- The engine reads of the issuing block are recorded, where its launch is traced. -/
def traceReads (j : Nat) (l : List Word64) (s : State) : State :=
  match s.me.trec with
  | none => s
  | some r => s.updMe (fun c => { c with trec := some (l.foldl (traceAddr s j) r) })

/-! ### The calendar (R302, R303) -/

/-- The path of one address: slotted, and its latency. -/
def pathOf (g : Nat) (a : Word64) : Bool × Nat :=
  if isShort a then (false, 40)
  else if !tierOf a then (true, 400)
  else
    let k := coreOfAddr a / Config.coresPerCluster
    let m := g / Config.coresPerCluster
    if k = m then (false, 40) else if k / 2 = m / 2 then (false, 100) else (true, 200)

/-- The path of a job: slotted if any is, the largest latency. -/
def jobPath (g : Nat) (l : List Word64) : Bool × Nat :=
  l.foldl (fun p a => (p.1 || (pathOf g a).1, max p.2 (pathOf g a).2)) (false, 40)

/-- Whether a cycle is already reserved. -/
def reserved (cal : List (Nat × Nat)) (t : Nat) : Bool := cal.any (fun p => decide (p.1 ≤ t) && decide (t < p.1 + p.2))

/-- A cycle added to a list of intervals in rising order. -/
def addCycle (l : List (Nat × Nat)) (t : Nat) : List (Nat × Nat) :=
  match l.getLast? with
  | some p => if p.1 + p.2 = t then l.dropLast ++ [(p.1, p.2 + 1)] else l ++ [(t, 1)]
  | none => [(t, 1)]

/-- The first `n` free cycles from `t`, in the partition's own slots when slotted. -/
def reserve (s : State) (part : Nat) (slotted : Bool) (cal : List (Nat × Nat)) :
    Nat → Nat → Nat → List (Nat × Nat) → List (Nat × Nat)
  | 0, _, _, got => got
  | _ + 1, 0, _, got => got
  | fuel + 1, n + 1, t, got =>
    if !reserved cal t && (!slotted || s.ownSlot part t) then reserve s part slotted cal fuel n (t + 1) (addCycle got t)
    else reserve s part slotted cal fuel (n + 1) (t + 1) got

/-- The cycles of a calendar that are still to come. -/
def liveCal (s : State) (g : Nat) : List (Nat × Nat) :=
  (s.core g).cal.filter (fun p => decide (s.cyc.toNat < p.1 + p.2))

/-- A bound on the cycles that the search passes: a frame of 1,024 cycles holds at least 16 of a partition's own. -/
def searchBound (n : Nat) (cal : List (Nat × Nat)) : Nat := (n + cal.foldl (fun m p => m + p.2) 0 + 2) * 64 + 2048

/-- The reservation of `n` chunks of 64 bytes from cycle `t` on. -/
def reserveAt (s : State) (g part : Nat) (slotted : Bool) (n t : Nat) : List (Nat × Nat) :=
  reserve s part slotted (liveCal s g) (searchBound n (liveCal s g)) n t []

/-- The cycle after the last of a list of intervals. -/
def endOf (l : List (Nat × Nat)) (d : Nat) : Nat :=
  match l.getLast? with
  | some p => p.1 + p.2
  | none => d

/-- The start time of R303. -/
def startAt (s : State) (arg : Word64) : Nat := max (s.cyc.toNat + 1) arg.toNat

/-! ### Acceptance -/

/-- A job of the issuing context that has done nothing yet. -/
def newJob (pre cur : State) (kind : JobKind) (b : Box) (inv : Bool) (segs : List Nat) (cycles : List (Nat × Nat))
    (promise : Nat) (foot : Foot) : CopyJob :=
  { num := cur.num, kind := kind, ctx := cur.cur, launch := pre.me.launch.getD 0, job := pre.jobOf pre.cur,
    part := pre.partOf pre.cur, bundle := pre.me.point, box := b, inv := inv,
    first := (cycles.head?.map (·.1)).getD 0, cycles := cycles, promise := promise, data := [], vc := 0, conf := false,
    noexp := false, group := 0, members := [], segs := segs, bound := false, slotted := false, start := 0,
    began := false, done := [], snap := none, handed := false, dead := false, lost := false, foot := foot }

/-- A job joins its engine: its cycles are reserved, and it is counted in BUSY unless its segments hold it (R232, R243). -/
def acceptJob (x : CopyJob) (s : State) : State :=
  let g := s.homeCore s.cur
  let ok := canBind s x.job x.segs
  let s := if ok then bindBusy s x.job x.segs else s
  let cal := liveCal s g
  { s.updCore g (fun k => { k with jobs := k.jobs ++ [{ x with bound := ok }], cal := cal ++ x.cycles }) with
    num := s.num + 1 }

/-- Whether the time buffer is full (R303). -/
def bufferFull (s : State) : Bool := decide (128 ≤ (s.core (s.homeCore s.cur)).jobs.length)

/-- The wait for a free entry of the time buffer. -/
def bufferWait (s : State) : Option (Nat × (State → State)) := if bufferFull s then some (2, id) else none

/-- Trap 0x31 of a job's expectation (R289). -/
def expectExc (b : Box) : Exc := Exc.mk' 0x31 b.bar (barInfo 1 6 b.bytes)

/-- The expectation overflow of a job at issue (R289). -/
def expectErr (s : State) (b : Box) : Option Exc :=
  if b.bar ≠ 0 ∧ barOver s (barAddr (s.homeCore s.cur) b.bar) b.bytes then some (expectExc b) else none

/-- The expectation that a job of core `g` posts at issue, with its overflow. -/
def expectOf (s : State) (b : Box) : Option (Nat × Int × Exc) :=
  if b.bar = 0 then none else some (barAddr (s.homeCore s.cur) b.bar, (b.bytes : Int), expectExc b)

/-- The write of that expectation. -/
def expectBars (s : State) (b : Box) : List BarOp :=
  if b.bar = 0 then [] else [.post (barAddr (s.homeCore s.cur) b.bar) b.bytes b.bar (barInfo 1 6 b.bytes)]

/-- The checks of `XCOPY` and `XFILL`, in the order of R317. -/
def copyChk (x : ArgX) (fill : Bool) (s : State) : Option Exc :=
  match descErr x 192 s with
  | some e => some e
  | none =>
    if boxBad (descBytes s x 192) then some (illegal 6 0x62 0)
    else
      let b := boxAt x s
      if misSized b fill then some (illegal 6 0x63 0)
      else firstSome [barErr s b.bar, ctrErr b.ctr, cvalErr b, copyReach s b fill (optInv x),
        if bufferFull s then none else expectErr s b]

/-- The acceptance of an `XCOPY` or `XFILL` (R303). -/
def copyIssue (x : ArgX) (fill : Bool) (pre cur : State) : State :=
  let b := boxAt x pre
  let g := pre.homeCore pre.cur
  let j := pre.jobOf pre.cur
  let srcs := if fill then [] else srcAddrs b
  let all := srcs ++ dstAddrs b
  let path := jobPath g all
  let cyc := reserveAt cur g (pre.partOf pre.cur) path.1 ((b.bytes + 63) / 64) (startAt pre (pre.me.rS x.sarg))
  let promise := endOf cyc 0 + path.2
  let foot : Foot :=
    { rd := if fill then [] else srcFoot pre j g b,
      wr := dstFoot pre j g b ++ barFoot pre j g b.bar ++ ctrFoot pre j g b.ctr }
  let cur := traceReads j srcs (wantPages j (dstAddrs b) cur)
  let job := newJob pre cur (if fill then .fill else .copy) b (optInv x) (segsOf pre j (b.ctr :: all)) cyc promise foot
  let cur := acceptJob { job with slotted := path.1 } cur
  givePromise x.sreg promise cur

/-- An `XCOPY` or `XFILL`. -/
def copyShape (x : ArgX) (i : Instr) (fill : Bool) : Op :=
  { Op.plain 6 (descSrcs x [srcS x.sarg x.b]) [(0, x.sreg.val)] (copyIssue x fill) with
    hold := heldBy x.hold i, early := fun _ => oddDesc x, chk := copyChk x fill, wait := bufferWait,
    posts := fun s => if bufferFull s then none else expectOf s (boxAt x s), bars := fun s => expectBars s (boxAt x s) }

/-- `XCOPY` (R303). -/
def xcopyOp (x : ArgX) : Op := copyShape x (.xcopy x) false

/-- The meaning of `XCOPY`. -/
def execXcopy (x : ArgX) (s : State) : Host.Outcome State Fault Refusal := issueOne (xcopyOp x) s

/-- `XFILL` (R303). -/
def xfillOp (x : ArgX) : Op := copyShape x (.xfill x) true

/-- The meaning of `XFILL`. -/
def execXfill (x : ArgX) (s : State) : Host.Outcome State Fault Refusal := issueOne (xfillOp x) s

/-! ### Rings (R307, R308, R311, R312) -/

/-- A ring descriptor from its bytes. -/
def ringOf (d : List Byte) : Ring :=
  { geom := boxOf d, rbase := leAt d 192 8, barbase := leAt d 200 8, slotsz := leAt d 208 4, nslot := leAt d 212 1,
    storer := leAt d 213 1 == 1, grid := (List.range 6).map (fun i => leAt d (216 + 4 * i) 4) }

/-- The tensor box of all tiles of a ring. -/
def Ring.whole (r : Ring) : Box := { r.geom with ext := List.zipWith (· * ·) r.geom.ext r.grid }

/-- A malformed ring descriptor (R307, R317). -/
def ringBad (d : List Byte) : Bool :=
  let r := ringOf d
  boxBad (d.take 192) || leAt d 8 8 != 0 || leAt d 16 8 != 0 || leAt d 24 8 != 0 || leAt d 32 8 != 0
    || decide (1 < leAt d 213 1) || leAt d 214 2 != 0 || leAt d 240 16 != 0
    || r.rbase % 64 != 0 || r.barbase % 16 != 0 || r.nslot == 0 || decide (16 < r.nslot)
    || r.slotsz % 64 != 0 || decide (r.slotsz < r.geom.bytes) || r.grid.any (· == 0) || decide (2 ^ 32 ≤ r.tiles)
    || decide (Config.spBytes < r.rbase + r.nslot * r.slotsz) || decide (Config.spBytes < r.barbase + 32 * r.nslot)

/-- The ring that an `XSUB` names, with the `.sofs` offset. -/
def ringAt (x : ArgX) (s : State) : Ring :=
  let r := ringOf (descBytes s x 256)
  { r with geom := withOffsets x s.me r.geom }

/-- The slot elements of a ring that lie outside the scratchpad (R307). -/
def slotReach (r : Ring) : Option Exc :=
  let lo := moved (r.rbase : Int) r.geom.dstSpan
  let hi := moved ((r.rbase + (r.nslot - 1) * r.slotsz : Nat) : Int) r.geom.dstSpan
  if lo.1 < 0 ∨ (Config.spBytes : Int) < hi.2 then some (reachExc 0x80 0 (n64 Config.spBytes)) else none

/-- The need of a ring's accesses to its tensor. -/
def ringNeed (r : Ring) (inv : Bool) : Need := if r.storer then .write else srcNeed inv

/-- The first byte and the length of the bounding range of every inside element of every tile. -/
def Ring.range (r : Ring) : Word64 × Nat :=
  let p := r.whole.srcSpan
  (r.geom.src + w64 p.1, (p.2 - p.1).toNat)

/-- The translation of a ring's tensor (R308). -/
def ringReach (s : State) (r : Ring) (inv : Bool) : Option Exc :=
  let j := s.jobOf s.cur
  let q := r.range
  if !r.whole.anyInside then none
  else match s.place j q.1 with
    | .notHeld => some (reachExc 0x80 0x04 q.1)
    | .there _ => some (reachExc 0x81 0 q.1)
    | .here => match rangeOf s j (ringNeed r inv) false q.1 q.2 with
      | .miss k id a => some (missExc k id a)
      | _ => none

/-- The subscribing quay (R308). -/
def ringQuay (s : State) (j : Nat) (r : Ring) : Nat :=
  if !r.whole.anyInside then 0
  else
    let a := r.range.1
    match locate s j a with
    | .ok pa _ => bits pa 23 21
    | .absent _ p => p % 8
    | _ => 0

/-- Quay `q`. -/
def State.quay (s : State) (q : Nat) : Quay := Sparse.get Quay.cold s.quays q

/-- A subscription entry. -/
def State.sub (s : State) (q i : Nat) : Option Sub := Sparse.get none (s.quay q).subs i

/-- A subscription entry written. -/
def State.setSub (s : State) (q i : Nat) (v : Option Sub) : State :=
  { s with quays := Sparse.set Quay.cold s.quays q { (s.quay q) with subs := Sparse.set none (s.quay q).subs i v } }

/-- The first free entry of a quay from entry `i` on. -/
def freeEntry (s : State) (q : Nat) : Nat → Nat → Option Nat
  | 0, _ => none
  | n + 1, i => if (s.sub q (i % 64)).isNone then some (i % 64) else freeEntry s q n (i + 1)

/-- Whether an open subscription carries a serial. -/
def serialUsed (s : State) (v : Nat) : Bool :=
  s.quays.any (fun q => q.2.subs.any (fun p => (p.2.map (fun x => x.serial == v)).getD false))

/-- The first serial from `v` on that no open subscription carries. -/
def freeSerial (s : State) : Nat → Nat → Nat
  | 0, v => v % 65536
  | n + 1, v => if serialUsed s (v % 65536) then freeSerial s n (v + 1) else v % 65536

/-- The checks of `XSUB`, in the order of R317. -/
def xsubChk (x : ArgX) (s : State) : Option Exc :=
  match descErr x 256 s with
  | some e => some e
  | none =>
    let d := descBytes s x 256
    let r := ringAt x s
    if ringBad d || isShort r.geom.src || tierOf r.geom.src then some (illegal 6 0x62 0)
    else if misSized r.geom false then some (illegal 6 0x63 0)
    else firstSome [slotReach r, ringReach s r (optInv x)]

/-- `XSUB` waits for a free entry (R308). -/
def xsubWait (x : ArgX) (s : State) : Option (Nat × (State → State)) :=
  match freeEntry s (ringQuay s (s.jobOf s.cur) (ringAt x s)) 64 0 with
  | some _ => none
  | none => some (2, id)

/-- The writes of the barriers of a ring's slots (R308). -/
def ringBars (g : Nat) (r : Ring) : List BarOp :=
  (List.range r.nslot).flatMap (fun k =>
    [.init (spAddr g (r.fullBar k)) (if r.storer then 1 else 0), .init (spAddr g (r.emptyBar k)) (if r.storer then 0 else 1)])

/-- The handle of a subscription (R308). -/
def handleOf (serial q i : Nat) : Word64 := n64 (serial % 65536 * 2 ^ 16 + q % 8 * 2 ^ 6 + i % 64)

/-- The addresses of every inside element of every tile. -/
def ringAddrs (r : Ring) : List Word64 := srcAddrs r.whole

/-- The opening of a subscription (R308); its entry and its serial are free choices (log entry 11). -/
def xsubIssue (x : ArgX) (pre cur : State) : State :=
  let r := ringAt x pre
  let j := pre.jobOf pre.cur
  let g := pre.homeCore pre.cur
  let q := ringQuay pre j r
  match freeEntry cur q 64 (Config.pick cur.free) with
  | none => cur
  | some i =>
    let serial := freeSerial cur 65536 (Config.pick (cur.free + 1))
    let p := r.range
    let segs := if r.whole.anyInside then segsOf pre j (ringAddrs r) else []
    let ok := canBind cur j segs
    let live : Sparse Nat := if r.storer then [] else (List.range (min r.nslot r.tiles)).map (fun n => (n, cur.num + 1))
    let sub : Sub :=
      { serial := serial, ring := r, core := g, ctx := cur.cur, launch := pre.me.launch.getD 0, job := j,
        part := pre.partOf pre.cur, inv := optInv x, bundle := pre.me.point, num := cur.num, segs := segs, bound := ok,
        cursor := 0, next := 0, prog := none, tnums := live, closing := false, ctr := 0, blk := p.1 }
    let cur := if ok then bindBusy cur j segs else cur
    let cur := cur.setSub q i (some sub)
    let cur := if r.storer then cur else traceReads j (ringAddrs r) cur
    ({ cur with num := cur.num + 1, free := cur.free + 2 }).updMe (fun c => c.wS x.sreg (handleOf serial q i))

/-- `XSUB` (R308). -/
def xsubOp (x : ArgX) : Op :=
  { Op.plain 6 (descSrcs x []) [(0, x.sreg.val)] (xsubIssue x) with
    early := fun _ => oddDesc x, chk := xsubChk x, wait := xsubWait x,
    bars := fun s => ringBars (s.homeCore s.cur) (ringAt x s) }

/-- The meaning of `XSUB`. -/
def execXsub (x : ArgX) (s : State) : Host.Outcome State Fault Refusal := issueOne (xsubOp x) s

/-- The quay and entry of a handle that is open and of the issuing launch. -/
def handleSub (s : State) (h : Word64) : Option (Nat × Nat × Sub) :=
  let q := bits h.toNat 8 6
  let i := bits h.toNat 5 0
  match s.sub q i with
  | none => none
  | some x =>
    if h = handleOf x.serial q i ∧ s.me.launch = some x.launch ∧ x.closing = false then some (q, i, x) else none

/-- A stale handle, or another launch's (R317). -/
def handleErr (s : State) (h : Word64) : Option Exc :=
  match handleSub s h with
  | none => some (illegal 6 0x66 0)
  | some _ => none

/-- `XSLOT` past the last tile (R311). -/
def lastErr (s : State) (h : Word64) : Option Exc :=
  match handleSub s h with
  | some (_, _, x) => if x.cursor = x.ring.tiles then some (illegal 6 0x65 0) else none
  | none => none

/-- The barrier writes of an `XSLOT` (R311); an expectation that overflows sets OVF (log entry 20). -/
def slotBars (x : Sub) : List BarOp :=
  let k := x.cursor % x.ring.nslot
  let e := spAddr x.core (x.ring.emptyBar k)
  if x.ring.storer then [.expect e x.ring.geom.bytes, .update (spAddr x.core (x.ring.fullBar k)) 0 1] else [.update e 0 1]

/-- The tile that an `XSLOT` lets the quay start: a storer's own, a loader's next in the slot. -/
def slotFrees (x : Sub) : Nat := if x.ring.storer then x.cursor else x.cursor + x.ring.nslot

/-- `XSLOT` (R311). -/
def xslotOp (x : ArgX) : Op :=
  { Op.plain 6 [srcS x.sarg x.b] [(0, x.sreg.val)] (fun pre cur =>
      match handleSub cur (pre.me.rS x.sarg) with
      | none => cur
      | some (q, i, y) =>
        let n := slotFrees y
        let t := if n < y.ring.tiles then Sparse.set 0 y.tnums n (cur.num + 1) else y.tnums
        let cur := cur.setSub q i (some { y with cursor := y.cursor + 1, tnums := t })
        ({ cur with num := cur.num + 1 }).updMe (fun c => c.wS x.sreg (n64 y.cursor))) with
    hold := heldBy x.hold (.xslot x),
    bars := fun s => ((handleSub s (s.me.rS x.sarg)).map (fun h => slotBars h.2.2)).getD [],
    chk := fun s => firstSome [handleErr s (s.me.rS x.sarg), lastErr s (s.me.rS x.sarg)] }

/-- The meaning of `XSLOT`. -/
def execXslot (x : ArgX) (s : State) : Host.Outcome State Fault Refusal := issueOne (xslotOp x) s

/-- `XUNSUB` (R312): the bundle does not wait for the close. -/
def xunsubOp (x : ArgX) : Op :=
  { Op.plain 6 [srcA x.adesc x.b, srcS x.sarg x.b] [] (fun pre cur =>
      match handleSub cur (pre.me.rS x.sarg) with
      | none => cur
      | some (q, i, y) =>
        let live := if y.ring.storer then y.tnums else y.tnums.filter (fun t => (y.prog.map (·.1)) == some t.1)
        cur.setSub q i (some { y with closing := true, ctr := pre.me.rA x.adesc, tnums := live })) with
    chk := fun s => firstSome [ctrErr (s.me.rA x.adesc), handleErr s (s.me.rS x.sarg), ctrReach s (s.me.rA x.adesc)] }

/-- The meaning of `XUNSUB`. -/
def execXunsub (x : ArgX) (s : State) : Host.Outcome State Fault Refusal := issueOne (xunsubOp x) s

/-! ### Multicast (R313 to R315) -/

/-- The group number that an op reads. -/
def mcGroup (x : ArgX) (c : Context) : Nat := bits (c.rS x.sarg).toNat 2 0

/-- The members of a group of the issuing launch; an unset group is empty. -/
def mcMembers (s : State) (g : Nat) : List Nat :=
  match s.ctxLaunch s.cur with
  | some l => Sparse.get [] l.mc g
  | none => []

/-- A member outside the launch's partition (R314). -/
def memberErr (s : State) (b : Box) (ms : List Nat) : Option Exc :=
  (ms.find? (fun m => !s.inPart (s.partOf s.cur) m)).map (fun m => reachExc 0x81 0 (podSp m (b.dst.toNat % Config.spBytes)))

/-- A destination byte beyond a member's scratchpad. -/
def memberReach (b : Box) : Option Exc :=
  firstSome ((dstAddrs b).map (fun a =>
    if isShort a && decide (a.toNat + b.esize ≤ Config.spBytes) then none
    else some (reachExc 0x80 0 (if isShort a then n64 Config.spBytes else a))))

/-- The checks of `XMCAST`, in the order of R317; an empty group reads nothing (R314). -/
def mcastChk (x : ArgX) (s : State) : Option Exc :=
  match descErr x 192 s with
  | some e => some e
  | none =>
    let b := boxAt x s
    let ms := mcMembers s (mcGroup x s.me)
    if boxBad (descBytes s x 192) || b.ctr != 0 || b.cval != 0 then some (illegal 6 0x62 0)
    else if misSized b false then some (illegal 6 0x63 0)
    else if b.bar.toNat % 16 ≠ 0 ∨ isShort b.bar = false then some (illegal 6 0x60 0)
    else if ms.isEmpty then none
    else firstSome ([memberErr s b ms, memberReach b] ++ (srcAddrs b).map (engErr s (srcNeed (optInv x)) true b.esize))

/-- The acceptance of an `XMCAST` (R314). -/
def mcastIssue (x : ArgX) (pre cur : State) : State :=
  let b := boxAt x pre
  let g := pre.homeCore pre.cur
  let j := pre.jobOf pre.cur
  let grp := mcGroup x pre.me
  let ms := mcMembers cur grp
  if ms.isEmpty then givePromise x.sreg (pre.cyc.toNat + 1) cur
  else
    let srcs := srcAddrs b
    let path := jobPath g (srcs ++ ms.map (fun m => podSp m 0))
    let cyc := reserveAt cur g (pre.partOf pre.cur) path.1 ((ms.length * b.bytes + 63) / 64) (startAt pre 0)
    let promise := endOf cyc 0 + path.2
    let foot : Foot :=
      { rd := srcFoot pre j g b,
        wr := ms.flatMap (fun m => dstFoot pre j m b ++ barFoot pre j m b.bar) }
    let cur := traceReads j srcs cur
    let job := newJob pre cur .mcast b (optInv x) (segsOf pre j srcs) cyc promise foot
    let cur := acceptJob { job with noexp := optNoexp x, group := grp, members := ms, slotted := path.1 } cur
    givePromise x.sreg promise cur

/-- `XMCAST` (R314). -/
def xmcastOp (x : ArgX) : Op :=
  { Op.plain 6 (descSrcs x [srcS x.sarg x.b]) [(0, x.sreg.val)] (mcastIssue x) with
    early := fun _ => oddDesc x, chk := mcastChk x, wait := bufferWait }

/-- The meaning of `XMCAST`. -/
def execXmcast (x : ArgX) (s : State) : Host.Outcome State Fault Refusal := issueOne (xmcastOp x) s

/-- The members of a group record (R313). -/
def memberList (d : List Byte) : List Nat := (List.range (leAt d 0 2)).map (fun i => leAt d (8 + 2 * i) 2)

/-- A malformed group record (R314). -/
def memberBad (d : List Byte) : Bool :=
  let n := leAt d 0 2
  decide (16 < n) || leAt d 2 6 != 0 || leAt d 40 24 != 0
    || (List.range 16).any (fun i => if i < n then decide (767 < leAt d (8 + 2 * i) 2) else leAt d (8 + 2 * i) 2 != 0)

/-- The multicasts of a launch on the chip that are accepted and not complete, of one group. -/
def mcInFlight (s : State) (lid grp : Nat) : Nat :=
  (s.cores.flatMap (fun k => k.2.jobs.filter (fun j =>
    j.kind == .mcast && j.launch == lid && j.group == grp && !j.dead))).length

/-- The checks of `XMCAST.set` (R315). -/
def mcsetChk (x : ArgX) (s : State) : Option Exc :=
  match descErr { x with opt := 0 } 64 s with
  | some e => some e
  | none =>
    let grp := mcGroup x s.me
    let n := mcInFlight s (s.me.launch.getD 0) grp
    if memberBad (descBytes s { x with opt := 0 } 64) then some (illegal 6 0x67 0)
    else if n ≠ 0 then some (Exc.mk' 0x33 0 (barInfo 0 6 (grp + min n 255 * 256)))
    else none

/-- `XMCAST.set` (R315). -/
def xmcastSetOp (x : ArgX) : Op :=
  { Op.plain 6 [srcA x.adesc x.b, srcS x.sarg x.b] [] (fun pre cur =>
      cur.updLaunch (pre.me.launch.getD 0) (fun l =>
        { l with mc := Sparse.set [] l.mc (mcGroup x pre.me) (memberList (descBytes pre { x with opt := 0 } 64)) })) with
    chk := mcsetChk x }

/-- The meaning of `XMCAST.set`. -/
def execXmcastSet (x : ArgX) (s : State) : Host.Outcome State Fault Refusal :=
  issueOne (xmcastSetOp x) s

/-! ### Withdrawal (R315) -/

/-- Whether `XCANCEL` withdraws a job. -/
def withdraws (x : ArgX) (s : State) (j : CopyJob) : Bool :=
  !j.began && !j.dead &&
  (if x.opt = 1 then j.ctx == s.cur && (j.kind == .copy || j.kind == .fill) && decide (s.cyc.toNat < j.first)
   else j.kind == .mcast && s.me.launch == some j.launch && j.group == mcGroup x s.me)

/-- The arrival by which a withdrawn job settles the expectation that it posted. -/
def settleBars (g : Nat) (j : CopyJob) : List BarOp :=
  if j.kind != .mcast && j.box.bar != 0 then [.update (barAddr g j.box.bar) (-(j.box.bytes : Int)) 0] else []

/-- The jobs of a core that `p` selects leave it with their capacity, no longer counted. -/
def dropJobs (p : CopyJob → Bool) (s : State) (g : Nat) : State :=
  let out := (s.core g).jobs.filter p
  let s := out.foldl (fun s j => if j.bound then freeBusy s j.job j.segs else s) s
  s.updCore g (fun k =>
    { k with jobs := k.jobs.filter (fun j => !p j), cal := k.cal.filter (fun c => !out.any (fun j => j.cycles.contains c)) })

/-- The cores that a withdrawal concerns. -/
def cancelCores (x : ArgX) (s : State) : List Nat := if x.opt = 1 then [s.homeCore s.cur] else s.cores.map (·.1)

/-- The jobs that it withdraws. -/
def cancelled (x : ArgX) (pre cur : State) : List CopyJob :=
  if x.opt = 1 then (cur.core (cur.homeCore cur.cur)).jobs.filter (withdraws x pre)
  else cur.cores.flatMap (fun k => k.2.jobs.filter (withdraws x pre))

/-- `XCANCEL` (R315): the jobs leave their engines, and those with a barrier settle their expectations there. -/
def xcancelOp (x : ArgX) : Op :=
  { Op.plain 6 (if x.opt = 1 then [] else [srcS x.sarg x.b]) [(0, x.sreg.val)] (fun pre cur =>
      ((cancelCores x cur).foldl (dropJobs (withdraws x pre)) cur).updMe
        (fun c => c.wS x.sreg (n64 (cancelled x pre cur).length))) with
    bars := fun s => (cancelled x s s).flatMap (settleBars (s.homeCore s.cur)) }

/-- The meaning of `XCANCEL`. -/
def execXcancel (x : ArgX) (s : State) : Host.Outcome State Fault Refusal := issueOne (xcancelOp x) s

end Sys2Proof.Machine
end

