-- ==== Sys2Proof/Machine/Crypt.lean ====
section
/-! DEFINITION. The CRC-64 of a flit (R351), and AES-256 in Galois/Counter Mode (R367: NIST SP 800-38D, over FIPS 197), which
the manual names and does not print (log entry 40). -/

namespace Sys2Proof

/-! ### CRC-64 (R351) -/

/-- One bit of the CRC register, least significant bit first: the generator 0x42F0E1EBA9EA3693 with its bits reversed. -/
def crcBit (r : Word64) : Word64 := if r.getLsbD 0 then (r >>> 1) ^^^ 0xC96C5795D7870F42#64 else r >>> 1

/-- One byte. -/
def crcByte (r : Word64) (b : Byte) : Word64 := (List.range 8).foldl (fun r _ => crcBit r) (r ^^^ b.setWidth 64)

/-- The CRC-64 of a list of bytes. -/
def crc64 (l : List Byte) : Word64 := ~~~ (l.foldl crcByte (BitVec.allOnes 64))

/-! ### AES-256 -/

/-- Multiplication by x in the field of AES. -/
def xtime (b : Byte) : Byte := if b.getLsbD 7 then (b <<< 1) ^^^ 0x1B#8 else b <<< 1

/-- Multiplication in the field of AES. -/
def gmul (a b : Byte) : Byte :=
  ((List.range 8).foldl (fun (p : Byte × Byte) i => (if b.getLsbD i then p.1 ^^^ p.2 else p.1, xtime p.2)) (0, a)).1

/-- A power in the field of AES. -/
def gpow (a : Byte) : Nat → Byte
  | 0 => 1
  | n + 1 => gmul a (gpow a n)

/-- The substitution box: the inverse, which is the power 254, and the affine map. -/
def sbox (a : Byte) : Byte :=
  let x := gpow a 254
  x ^^^ x.rotateLeft 1 ^^^ x.rotateLeft 2 ^^^ x.rotateLeft 3 ^^^ x.rotateLeft 4 ^^^ 0x63#8

/-- Byte `i` of a block. -/
def at8 (l : List Byte) (i : Nat) : Byte := l.getD i 0

/-- The sum of two blocks. -/
def xorBytes (a b : List Byte) : List Byte := List.zipWith (· ^^^ ·) a b

/-- The next word of the key schedule from the words so far, last first. -/
def nextKeyWord (i : Nat) (ws : List (List Byte)) : List Byte :=
  let t := ws.headD []
  let u := if i % 8 = 0 then
      xorBytes ((t.drop 1 ++ t.take 1).map sbox) [gpow 2 (i / 8 - 1), 0, 0, 0]
    else if i % 8 = 4 then t.map sbox else t
  xorBytes (ws.getD 7 []) u

/-- The words of the key schedule, last first. -/
def keyWords : Nat → List (List Byte) → List (List Byte)
  | 0, ws => ws
  | n + 1, ws => keyWords n (nextKeyWord (59 - n) ws :: ws)

/-- The 15 round keys of a 32-byte key. -/
def roundKeys (key : List Byte) : List (List Byte) :=
  let w0 := (List.range 8).map (fun i => (key.drop (4 * i)).take 4)
  let ws := (keyWords 52 w0.reverse).reverse
  (List.range 15).map (fun r => (List.range 4).flatMap (fun i => ws.getD (4 * r + i) []))

/-- Byte substitution and the row shift. -/
def subShift (b : List Byte) : List Byte := (List.range 16).map (fun i => sbox (at8 b ((i + 4 * (i % 4)) % 16)))

/-- The column mix. -/
def mixColumns (b : List Byte) : List Byte :=
  (List.range 16).map (fun i =>
    let c := i / 4 * 4
    let r := i % 4
    xtime (at8 b (c + r)) ^^^ xtime (at8 b (c + (r + 1) % 4)) ^^^ at8 b (c + (r + 1) % 4)
      ^^^ at8 b (c + (r + 2) % 4) ^^^ at8 b (c + (r + 3) % 4))

/-- The encryption of a block under round keys. -/
def aesBlock (rk : List (List Byte)) (b : List Byte) : List Byte :=
  let s := (List.range 13).foldl (fun s r => xorBytes (mixColumns (subShift s)) (rk.getD (r + 1) [])) (xorBytes b (rk.getD 0 []))
  xorBytes (subShift s) (rk.getD 14 [])

/-! ### GCM -/

/-- The number of a block, first byte most significant. -/
def beNat (l : List Byte) : Nat := l.foldl (fun a b => a * 256 + b.toNat) 0

/-- The `n` bytes of a number, most significant first. -/
def beBytes (n x : Nat) : List Byte := (leBytes n x).reverse

/-- Multiplication in the field of GCM. -/
def ghMul (x y : BitVec 128) : BitVec 128 :=
  ((List.range 128).foldl (fun (p : BitVec 128 × BitVec 128) i =>
    (if x.getLsbD (127 - i) then p.1 ^^^ p.2 else p.1,
     if p.2.getLsbD 0 then (p.2 >>> 1) ^^^ (0xE1#128 <<< 120) else p.2 >>> 1)) (0, y)).1

/-- A list cut into blocks of 16 bytes, the last filled with zeros. -/
def blocks16 (l : List Byte) : List (List Byte) :=
  (List.range ((l.length + 15) / 16)).map (fun i =>
    let b := (l.drop (16 * i)).take 16
    b ++ zeroBytes (16 - b.length))

/-- The hash of a list of blocks. -/
def ghash (h : BitVec 128) (bs : List (List Byte)) : BitVec 128 :=
  bs.foldl (fun y b => ghMul (y ^^^ BitVec.ofNat 128 (beNat b)) h) 0

/-- The key stream over `l` from counter 2 on. -/
def gcmCtr (rk : List (List Byte)) (iv l : List Byte) : List Byte :=
  xorBytes l ((List.range ((l.length + 15) / 16)).flatMap (fun i => aesBlock rk (iv ++ beBytes 4 (i + 2))))

/-- The tag of a ciphertext with its additional data. -/
def gcmTag (rk : List (List Byte)) (iv aad c : List Byte) : List Byte :=
  let h := BitVec.ofNat 128 (beNat (aesBlock rk (zeroBytes 16)))
  let s := ghash h (blocks16 aad ++ blocks16 c ++ [beBytes 8 (8 * aad.length) ++ beBytes 8 (8 * c.length)])
  xorBytes (beBytes 16 s.toNat) (aesBlock rk (iv ++ beBytes 4 1))

/-- The ciphertext and the tag (R367). -/
def gcmSeal (key iv aad plain : List Byte) : List Byte × List Byte :=
  let rk := roundKeys key
  let c := gcmCtr rk iv plain
  (c, gcmTag rk iv aad c)

/-- The plaintext, where the tag agrees. -/
def gcmOpen (key iv aad c tag : List Byte) : Option (List Byte) :=
  let rk := roundKeys key
  if gcmTag rk iv aad c = tag then some (gcmCtr rk iv c) else none

end Sys2Proof
end

