-- ==== Sys2Proof/Machine/Links.lean ====
section
/-! DEFINITION. Links (R349 to R377): flits, replay buffers, triples and paths, acknowledgement and replay, port states, routes
and their death, arrivals with their windows and rejections, confidential flits, and the three X-slot ops `XREMW`, `XRCOPY`
and `XCADD` as they issue. Ports 0 to 15 are the Wilaro ports, 16 to 23 the Ethernet ports (R371). -/

namespace Sys2Proof.Machine

open Sys2Proof

/-! ### Ports (R349, R352, R360) -/

/-- Port `p`. -/
def State.port (s : State) (p : Nat) : Port := Sparse.get Port.cold s.ports p

/-- The state with port `p` updated. -/
def State.updPort (s : State) (p : Nat) (f : Port → Port) : State :=
  { s with ports := Sparse.set Port.cold s.ports p (f (s.port p)) }

/-- The code of a port state (R352). -/
def PortState.code : PortState → Nat
  | .off => 0
  | .train => 1
  | .up16 => 2
  | .up12 => 3
  | .up8 => 4
  | .up4 => 5
  | .drain => 6
  | .fenced => 7
  | .down => 8

/-- UP16, UP12, UP8 or UP4. -/
def PortState.isUp (x : PortState) : Bool := x == .up16 || x == .up12 || x == .up8 || x == .up4

/-- Whether a port takes new traffic: an UP state; an Ethernet port has no other (log entry 41). -/
def portUp (s : State) (p : Nat) : Bool := decide (16 ≤ p) || (s.port p).st.isUp

/-- The UP state of a number of laser groups. -/
def upState (k : Nat) : PortState := if k = 4 then .up16 else if k = 3 then .up12 else if k = 2 then .up8 else .up4

/-- The active mask of a set of laser groups (R349). -/
def groupMask (g : BitVec 4) : BitVec 16 :=
  BitVec.ofNat 16 ((List.range 4).foldl (fun m i => m + b2n (g.getLsbD i) * 0xF * 2 ^ (4 * i)) 0)

/-- The laser groups of an active mask. -/
def maskGroups (m : BitVec 16) : BitVec 4 :=
  BitVec.ofNat 4 ((List.range 4).foldl (fun g i => g + b2n (m.getLsbD (4 * i)) * 2 ^ i) 0)

/-- The number of laser groups in a set. -/
def groupCount (g : BitVec 4) : Nat := popcount 4 g.toNat

/-- A port takes a state. -/
def setPort (s : State) (p : Nat) (st : PortState) : State :=
  s.updPort p (fun x =>
    { x with st := st, since := s.cyc.toNat, upEnd := if x.st.isUp && !st.isUp then s.cyc.toNat else x.upEnd })

/-! ### Records (R368, R369) -/

/-- The fields of a link record from byte 16 on (R368). -/
structure LinkRec where
  type : Nat
  code : Nat
  port : Nat
  oldst : Nat
  mask : Nat
  peer : Nat
  vc : Nat
  job : Nat
  det : Nat
  lost : Nat
  seq : Nat
  reason : Nat
  addr : Nat
  deriving DecidableEq, Repr

/-- The 64 bytes of a link record. -/
def LinkRec.bytes (r : LinkRec) (cyc : Nat) : List Byte :=
  leBytes 2 r.type ++ leBytes 2 r.code ++ zeroBytes 4 ++ leBytes 8 cyc ++ leBytes 1 r.port ++ leBytes 1 r.oldst
    ++ leBytes 2 r.mask ++ leBytes 2 r.peer ++ leBytes 1 r.vc ++ leBytes 1 r.job ++ leBytes 8 r.det ++ leBytes 4 r.lost
    ++ leBytes 2 r.seq ++ leBytes 2 r.reason ++ leBytes 8 r.addr ++ zeroBytes 16

/-- A port-state record (R353). PEER and JOB are those of the traffic in the port's buffer, zero where it holds none (log
entry 42). -/
def portRecord (s : State) (p old det : Nat) : State :=
  let x := s.port p
  let f := x.buf.find? (fun f => !f.tree)
  postFor s none (LinkRec.bytes
    { type := 0x40, code := x.st.code, port := p, oldst := old, mask := x.mask.toNat, peer := (f.map (·.flit.dst)).getD 0, vc := 0,
      job := (f.map (·.job)).getD 0, det := det, lost := 0, seq := 0, reason := 0, addr := 0 } s.cyc.toNat)

/-! ### Flits (R350, R351, R367) -/

/-- Bytes 0 to 15 of a flit. -/
def flitHeader (f : Flit) : List Byte :=
  leBytes 1 f.type ++ leBytes 1 (b2n f.last * 32 + b2n f.first * 16 + b2n f.conf * 8 + f.vc % 8) ++ leBytes 2 f.seq
    ++ leBytes 2 (f.djob % 32 * 2 ^ 11 + f.src % 2 ^ 11) ++ leBytes 2 (f.dst % 2 ^ 11)
    ++ leBytes 8 (f.nb % 256 * 2 ^ 53 + f.addr % 2 ^ 53)

/-- Bytes 0 to 239 of a flit. -/
def flitBody (f : Flit) : List Byte := flitHeader f ++ f.payload ++ zeroBytes (224 - f.payload.length)

/-- The 256 bytes of a flit (R350). -/
def flitBytes (f : Flit) : List Byte :=
  flitBody f ++ leBytes 8 f.crc.toNat ++ leBytes 2 f.ackSeq ++ leBytes 1 (b2n f.ackV * 128 + f.ackVc % 8) ++ leBytes 1 f.epoch
    ++ leBytes 1 (b2n f.crV * 128 + f.crVc % 8) ++ leBytes 1 f.crN ++ zeroBytes 2

/-- The wavelength that carries unit `n` of a port's stream: the (n mod A)-th active one in rising order (R349). -/
def unitLane (m : BitVec 16) (n : Nat) : Nat :=
  let l := (List.range 16).filter (fun w => m.getLsbD w)
  l.getD (n % l.length) 0

/-- The 16-byte units of a flit on their wavelengths, the first of them unit `n` of the stream (R349). -/
def stripe (m : BitVec 16) (n : Nat) (bs : List Byte) : List (Nat × List Byte) :=
  (List.range 16).map (fun i => (unitLane m (n + i), (bs.drop (16 * i)).take 16))

/-- A flit leaves on a port: striped over a Wilaro port's active wavelengths, or as a message over Ethernet. -/
def transmit (p : Nat) (f : Flit) (r : Option Rdma) (s : State) : State :=
  let x := s.port p
  let w : Wire :=
    { port := p, flit := f, lanes := if p < 16 then stripe x.mask x.units (flitBytes f) else [], rdma := r }
  { s.updPort p (fun x => { x with units := if p < 16 then x.units + 16 else x.units }) with wireOut := s.wireOut ++ [w] }

/-- The CRC of a flit is good and its TYPE known. -/
def flitGood (f : Flit) : Bool := decide (f.type ≤ 5) && decide (f.payload.length ≤ 224) && crc64 (flitBody f) == f.crc

/-- The initialization vector of a CONF flit (R367), most significant bit first. -/
def flitIv (src dst vc ext : Nat) : List Byte :=
  beBytes 12 (src % 2 ^ 11 * 2 ^ 85 + dst % 2 ^ 11 * 2 ^ 74 + vc % 8 * 2 ^ 71 + ext % 2 ^ 64)

/-- A flit that carries nothing, from this chip to `dst`. -/
def blankFlit (s : State) (type vc dst djob : Nat) : Flit :=
  { type := type, last := false, first := false, conf := false, vc := vc, seq := 0, djob := djob, src := s.sorric.phys, dst := dst,
    nb := 0, addr := 0, payload := [], crc := 0, ackSeq := 0, ackV := false, ackVc := 0, epoch := 0, crV := false, crVc := 0,
    crN := 0 }

/-- A flit with its CRC. -/
def withCrc (f : Flit) : Flit := { f with crc := crc64 (flitBody f) }

/-- The key of a job, where a key slot is named and holds one (R357, R366). -/
def jobKey (s : State) (j : Nat) : Option (List Byte) :=
  ((Sparse.get none s.keys (s.job j).keyid) : Option (BitVec 256)).map (fun k => beBytes 32 k.toNat)

/-- The payload of a CONF flit: the ciphertext in 208 bytes, then the tag. Without a key it travels as it is, with a tag of
zeros that no receiver accepts (log entry 43). -/
def confPayload (s : State) (j ext : Nat) (f : Flit) (data : List Byte) : List Byte :=
  match jobKey s j with
  | none => data ++ zeroBytes (224 - data.length)
  | some key =>
    let r := gcmSeal key (flitIv f.src f.dst f.vc ext) (flitHeader f) data
    r.1 ++ zeroBytes (208 - r.1.length) ++ r.2

/-! ### Triples, paths and hand-over (R355 to R360) -/

/-- The key of a triple or window. -/
def tkey (chip vc epoch : Nat) : Nat := (chip * 8 + vc) * 256 + epoch

/-- The chip number that stands for an Ethernet queue pair's peer in a key: one pair per (entry, VC) (R371). -/
def netChip (j lchip : Nat) : Nat := 4096 + j * 2048 + lchip

/-- Whether a key is a queue pair's. -/
def netKey (k : Nat) : Bool := decide (4096 ≤ k / 2048)

/-- Sequence numbers are 16 bits wide (R356), packet sequence numbers 24 (R371). -/
def seqMod (k : Nat) : Nat := if netKey k then 2 ^ 24 else 2 ^ 16

/-- The queue pair of a (route entry, VC), where the host has configured it. -/
def State.qp (s : State) (j lchip vc : Nat) : Option Qp := Sparse.get none s.qps ((j * 2048 + lchip) * 8 + vc)

/-- The SEQ, or the PSN, of the flit numbered `ext` of a triple that this chip sends. -/
def sendSeq (s : State) (k ext : Nat) : Nat :=
  if netKey k then
    (((Sparse.get none s.qps ((k / 2048 - 4096) * 8 + k / 256 % 8)).map (·.psn)).getD 0 + ext) % 2 ^ 24
  else ext % 2 ^ 16

/-- The logical number of a physical chip in a job. -/
def lchipOf (s : State) (j phys : Nat) : Nat :=
  ((s.routes.find? (fun r => r.1 / 2048 == j && bits r.2.toNat 63 62 != 0 && bits r.2.toNat 10 0 == phys)).map (·.1 % 2048)).getD 0

/-- The SEQ, or the PSN, of the flit numbered `ext` that a window expects; a queue pair's window names the job and the source. -/
def recvSeq (s : State) (k ext : Nat) : Nat :=
  if netKey k then
    let j := (k / 2048 - 4096) / 2048
    (((s.qp j (lchipOf s j ((k / 2048 - 4096) % 2048)) (k / 256 % 8)).map (·.rpsn)).getD 0 + ext) % 2 ^ 24
  else ext % 2 ^ 16

/-- The triple of a flit in a buffer. -/
def Sent.key (f : Sent) : Nat := tkey f.chip f.flit.vc f.flit.epoch

/-- The sending side of a triple. -/
def State.triple (s : State) (k : Nat) : Triple := Sparse.get Triple.cold s.triples k

/-- A triple written. -/
def State.setTriple (s : State) (k : Nat) (t : Triple) : State := { s with triples := Sparse.set Triple.cold s.triples k t }

/-- The flits of a triple that are not acknowledged, in SEQ order. -/
def outstanding (s : State) (k : Nat) : List Sent := s.ports.flatMap (fun p => p.2.buf.filter (fun f => f.key == k))

/-- Whether a triple has flits on a port. -/
def onPort (s : State) (k p : Nat) : Bool := (s.port p).buf.any (fun f => f.key == k)

/-- The fields of a route entry (R358). -/
def rtState (e : Word64) : Nat := bits e.toNat 63 62
def rtNet (e : Word64) : Bool := bitOf e.toNat 56
def rtDjob (e : Word64) : Nat := bits e.toNat 55 51
def rtPaths (e : Word64) : Nat := bits e.toNat 49 48 + 1
def rtEpoch (e : Word64) : Nat := bits e.toNat 31 24
def rtPhys (e : Word64) : Nat := bits e.toNat 10 0

/-- The port of path `j`. -/
def rtPort (e : Word64) (j : Nat) : Nat :=
  let p := bits e.toNat (4 * j + 35) (4 * j + 32)
  if rtNet e then 16 + p % 8 else p

/-- The port that a triple's path leads to: the first from path VC mod (NPATH + 1) on that is UP, else that path's own. -/
def choosePort (s : State) (e : Word64) (vc : Nat) : Nat :=
  let n := rtPaths e
  let l := (List.range n).map (fun i => rtPort e ((vc + i) % n))
  (l.find? (portUp s)).getD (rtPort e (vc % n))

/-- Whether some path of an entry has a port in an UP state. -/
def hasPath (s : State) (e : Word64) : Bool := (List.range (rtPaths e)).any (fun i => portUp s (rtPort e i))

/-- The chip of the triple to a route entry's target. -/
def rtChip (e : Word64) (j lchip : Nat) : Nat := if rtNet e then netChip j lchip else rtPhys e

/-- The port that takes a triple's next flit: its pinned port while that is UP or holds flits of it, or while rerouting is
host-assisted (R410), else a fresh choice; a fresh choice too where its route entry has changed (R359). -/
def sendPort (s : State) (e : Word64) (vc k : Nat) : Nat :=
  let t := s.triple k
  if t.path ≠ 0 ∧ t.stale = false ∧ (portUp s (t.path - 1) = true ∨ onPort s k (t.path - 1) = true ∨ s.sorric.modes.contains 2 = true) then
    t.path - 1
  else choosePort s e vc

/-- Whether a port accepts a new flit: room in the replay buffer, and not DRAIN (R352, R355). -/
def portAccepts (s : State) (p : Nat) : Bool := decide ((s.port p).buf.length < 4096) && (s.port p).st != .drain

/-- What an operation hands over: its context, launch, partition, job, logical target, issue number and VC. -/
structure Origin where
  ctx : Nat
  launch : Nat
  part : Nat
  job : Nat
  lchip : Nat
  op : Nat
  vc : Nat
  deriving DecidableEq, Repr

/-- The extended sequence of a triple, or of a window, at which a job's key was installed (R367). -/
def keyBase (s : State) (k j : Nat) (recv : Bool) : Nat := Sparse.get 0 s.extBase ((k * 32 + j) * 2 + b2n recv)

/-- A flit joins a port's replay buffer as the next of its triple. -/
def pushFlit (s : State) (p chip epoch : Nat) (o : Origin) (conf : Bool) (data : List Byte) (f : Flit) : State :=
  let k := tkey chip o.vc epoch
  let t := s.triple k
  let f := { f with seq := sendSeq s k t.ext, epoch := epoch }
  let f := { f with payload := if conf then confPayload s o.job (t.ext - keyBase s k o.job false) f data else data }
  let x : Sent :=
    { chip := chip, flit := withCrc f, ctx := o.ctx, launch := o.launch, part := o.part, job := o.job, lchip := o.lchip, op := o.op,
      sent := false, lost := false }
  let fresh := (outstanding s k).isEmpty
  let t := { t with ext := t.ext + 1, path := p + 1, stale := false, progress := if fresh then s.cyc.toNat else t.progress,
                    replayAt := if fresh then s.cyc.toNat else t.replayAt }
  (s.updPort p (fun y => { y with buf := y.buf ++ [x] })).setTriple k t

/-- The slot of the peer's counter table that an add over Ethernet names (R371). -/
def peerSlot (s : State) (e : Word64) (addr : Nat) : Option Nat :=
  (s.peerSlots.find? (fun x => x.1 == rtPhys e && x.2.2.1 == rtDjob e && x.2.2.2 == addr)).map (·.2.1)

/-- What ADDR holds of an operation's target: the address or, for an add over Ethernet, the counter's slot; none where the peer's
table has no slot for it. -/
def rtAddr (s : State) (e : Word64) (type addr : Nat) : Option Nat :=
  if rtNet e && type == 2 then peerSlot s e addr else some addr

/-- Whether a route entry can take an operation's flit: its queue pair is configured where it has one, and no re-pin of the triple
is due while earlier flits of it are unacknowledged (R359). -/
def rtTakes (s : State) (e : Word64) (o : Origin) (k : Nat) : Bool :=
  (!rtNet e || (s.qp o.job o.lchip o.vc).isSome) && !((s.triple k).stale && !(outstanding s k).isEmpty)

/-- The hand-over of one flit of an operation to another chip; none where its port accepts no new flit, or a queue pair or a
counter's slot is still to be configured (log entry 87). `type` is 1 for data, 2 for an add. -/
def handOver (s : State) (o : Origin) (type : Nat) (first last conf : Bool) (addr : Word64) (data : List Byte) : Option State :=
  let e := s.route o.job o.lchip
  let k := tkey (rtChip e o.job o.lchip) o.vc (rtEpoch e)
  let p := sendPort s e o.vc k
  if portAccepts s p && rtTakes s e o k then
    (rtAddr s e type (addr.toNat % 2 ^ 53)).map (fun a =>
      pushFlit s p (rtChip e o.job o.lchip) (rtEpoch e) o (conf && type == 1) data
        { blankFlit s type o.vc (rtPhys e) (rtDjob e) with
          first := first, last := last, conf := conf && type == 1, nb := data.length - 1, addr := a })
  else none

/-! ### Losses (R216, R364) -/

/-- One loss is counted: in the issuing context, or in its launch once that has retired or been killed. -/
def countLoss (s : State) (cid lid lchip : Nat) : State :=
  let c := s.ctx cid
  if gone ≤ cid ∨ c.st = .retired ∨ c.st = .killed ∨ c.launch ≠ some lid then
    s.updLaunch lid (fun l => { l with lost := true })
  else s.updCtx cid (fun c => { c with loss := min (c.loss + 1) (2 ^ 32 - 1), firstLost := if c.loss = 0 then lchip else c.firstLost })

/-- An operation is marked lost wherever it still stands. -/
def markLost (s : State) (op : Nat) : State :=
  { s with
    ports := Sparse.mapV Port.cold (fun _ p => { p with buf := p.buf.map (fun f => if f.op = op then { f with lost := true } else f) })
      s.ports,
    cores := Sparse.mapV Core.cold (fun _ c => { c with jobs := c.jobs.map (fun j => if j.num = op then { j with lost := true } else j) })
      s.cores }

/-- The operation of a flit is counted lost, once. -/
def loseOp (s : State) (f : Sent) : State :=
  if f.lost then s else markLost (countLoss s f.ctx f.launch f.lchip) f.op

/-! ### The death of a route (R363, R364) -/

/-- Operations with a dropped flit that are not yet counted, one flit of each. -/
def newlyLost : List Sent → List Sent
  | [] => []
  | f :: t => if f.lost || t.any (fun g => g.op == f.op) then newlyLost t else f :: newlyLost t

/-- The route to a logical chip becomes dead: the flits of every triple to it are dropped, those of earlier epochs too, their
operations counted lost, and a record posted. -/
def killRoute (s : State) (j c cond : Nat) : State :=
  let e := s.route j c
  if rtState e ≠ 1 then s
  else
    let s := { s with routes := Sparse.set 0 s.routes (j * 2048 + c) (e + n64 (2 ^ 62)) }
    let hit (f : Sent) : Bool :=
      (f.job == j && f.lchip == c && !f.tree) || (f.chip == rtChip e j c && f.flit.epoch == rtEpoch e)
    let lost := newlyLost (s.ports.flatMap (fun p => p.2.buf.filter hit))
    let s := lost.foldl loseOp s
    let s := { s with ports := Sparse.mapV Port.cold (fun _ p => { p with buf := p.buf.filter (fun f => !hit f) }) s.ports }
    postFor s (some j) (LinkRec.bytes
      { type := 0x41, code := cond, port := 0xFF, oldst := 0, mask := 0, peer := rtPhys e, vc := 0, job := j, det := 0,
        lost := lost.length, seq := 0, reason := 0, addr := 0 } s.cyc.toNat)

/-- Whether a triple to a chip has made no progress for `n` cycles with flits outstanding. -/
def stuck (s : State) (chip n : Nat) : Bool :=
  s.triples.any (fun t => t.1 / 2048 == chip && !(outstanding s t.1).isEmpty && decide (t.2.progress + n ≤ s.cyc.toNat))

/-- The meaning of ROUTE_DEAD: condition 1 after 400,000 cycles without progress, condition 5 by the host. -/
def execRouteDead (job lchip cond : Nat) (s : State) : Host.Outcome State Fault Refusal :=
  .next (if cond = 1 then (if stuck s (rtChip (s.route job lchip) job lchip) 400000 then killRoute s job lchip 1 else s)
    else if cond = 5 then killRoute s job lchip 5 else s)

/-- The meaning of NO_PATH: 400,000 cycles without a path in an UP state. -/
def execNoPath (job lchip : Nat) (s : State) : Host.Outcome State Fault Refusal :=
  let e := s.route job lchip
  .next (if !hasPath s e && (List.range (rtPaths e)).all (fun i =>
      decide ((s.port (rtPort e i)).upEnd + 400000 ≤ s.cyc.toNat)) then killRoute s job lchip 4 else s)

/-- The meaning of QP_ERROR (R371). -/
def execQpError (job lchip vc : Nat) (s : State) : Host.Outcome State Fault Refusal :=
  .next (if rtNet (s.route job lchip) && decide (vc < 8) then killRoute { s with qpErr := s.qpErr ++ [(job, lchip, vc)] } job lchip 1
    else s)

/-! ### Acknowledgement and replay (R355, R356, R359) -/

/-- The triple key that an acknowledgement on a port names: that of the unacknowledged flit of the chip and VC that carries its
SEQ, for two epochs may be outstanding; the own chip's number stands for the port's tree traffic (R380). -/
def ackKey (s : State) (port chip vc seq : Nat) : Nat :=
  let own := chip == s.sorric.phys
  match (s.ports.flatMap (fun p => p.2.buf)).find? (fun f =>
      (if own then f.chip == 2048 + port else !f.tree && f.flit.dst == chip) && f.flit.vc == vc && f.flit.seq == seq) with
  | some f => f.key
  | none => tkey (if own then 2048 + port else chip) vc 0

/-- The key of the triple that a carried acknowledgement names by the EPOCH beside it (R350). -/
def carriedKey (s : State) (p : Nat) (f : Flit) : Nat :=
  if f.src = s.sorric.phys then tkey (2048 + p) f.ackVc 0
  else if 16 ≤ p then tkey (netChip f.djob (lchipOf s f.djob f.src)) f.ackVc f.epoch
  else tkey f.src f.ackVc f.epoch

/-- A number at or before another, modulo `m`. -/
def ackedBy (m seq x : Nat) : Bool := decide ((seq + m - x % m) % m < m / 2)

/-- A cumulative acknowledgement of a triple through `seq`. -/
def ackTriple (s : State) (k seq : Nat) : State :=
  if (outstanding s k).any (fun f => ackedBy (seqMod k) seq f.flit.seq) then
    { s with ports := Sparse.mapV Port.cold (fun _ p =>
        { p with buf := p.buf.filter (fun f => !(f.key == k && ackedBy (seqMod k) seq f.flit.seq)) }) s.ports }.setTriple k
      { s.triple k with progress := s.cyc.toNat, replayAt := s.cyc.toNat }
  else s

/-- The meaning of ACK. -/
def execAck (port chip vc seq : Nat) (s : State) : Host.Outcome State Fault Refusal :=
  .next (ackTriple s (ackKey s port chip vc seq) seq)

/-- The flits of a triple that `p` selects are to be sent again. -/
def requeue (s : State) (k : Nat) (p : Sent → Bool) : State :=
  { s with ports := Sparse.mapV Port.cold (fun _ x =>
      { x with buf := x.buf.map (fun f => if f.key == k && p f then { f with sent := false } else f) }) s.ports }

/-- The meaning of NAK: a gap replays from its SEQ; a rejection acknowledges and counts a loss (R362); the others mark the
route dead (R363); tree traffic has none. -/
def nak (port chip vc seq reason : Nat) (s : State) : State :=
  let k := ackKey s port chip vc seq
  let m := seqMod k
  let hit := (outstanding s k).find? (fun f => f.flit.seq == seq)
  if reason = 0 then requeue s k (fun f => decide ((f.flit.seq + m - seq % m) % m < m / 2))
  else if reason ≤ 4 then
    match hit with
    | some f => ackTriple (loseOp s f) k seq
    | none => s
  else match hit with
    | some f => if f.tree then s else killRoute s f.job f.lchip (if reason = 5 then 2 else 3)
    | none => s

/-- The meaning of NAK. -/
def execNak (port chip vc seq reason : Nat) (s : State) : Host.Outcome State Fault Refusal := .next (nak port chip vc seq reason s)

/-- The triples of a chip (or what stands for one in a key) and VC, of every epoch. -/
def triplesOf (s : State) (chip vc : Nat) : List Nat := (s.triples.filter (fun t => t.1 / 256 == chip * 8 + vc)).map (·.1)

/-- The meaning of REPLAY: 20,000 cycles without progress replay a triple from its oldest flit. -/
def execReplay (chip vc : Nat) (s : State) : Host.Outcome State Fault Refusal :=
  .next ((triplesOf s chip vc).foldl (fun s k =>
    if !(outstanding s k).isEmpty && decide ((s.triple k).replayAt + 20000 ≤ s.cyc.toNat) then
      (requeue s k (fun _ => true)).setTriple k { s.triple k with replayAt := s.cyc.toNat }
    else s) s)

/-- A triple is re-pinned: its flits go to the new path's port, to be replayed there. -/
def repinTriple (s : State) (k : Nat) : State :=
  let fs := outstanding s k
  let t := s.triple k
  let old := t.path - 1
  match fs.head? with
  | none => if t.path ≠ 0 ∧ (t.stale = true ∨ portUp s old = false) then s.setTriple k { t with path := 0, stale := false } else s
  | some f =>
    let e := s.route f.job f.lchip
    let p := choosePort s e f.flit.vc
    if f.tree = true ∨ (t.path ≠ 0 ∧ t.stale = false ∧ portUp s old = true) ∨ portUp s p = false ∨ (s.port old).st = .drain then s
    else if p = old then s.setTriple k { t with stale := false }
    else if 4096 < (s.port p).buf.length + fs.length then s
    else
      let s := { s with ports := Sparse.mapV Port.cold (fun _ x => { x with buf := x.buf.filter (fun g => g.key != k) }) s.ports }
      (s.updPort p (fun x => { x with buf := x.buf ++ fs.map (fun g => { g with sent := false }) })).setTriple k
        { t with path := p + 1, stale := false, replayAt := s.cyc.toNat }

/-- The meaning of REPIN: in host-assisted mode only a triple whose route entry has changed is re-pinned (R410). -/
def execRepin (chip vc : Nat) (s : State) : Host.Outcome State Fault Refusal :=
  .next ((triplesOf s chip vc).foldl (fun s k =>
    if s.sorric.modes.contains 2 && !(s.triple k).stale then s else repinTriple s k) s)

/-! ### Sending (R360) -/

/-- Whether a port can send data flits now. -/
def portSends (s : State) (p : Nat) : Bool :=
  decide (16 ≤ p) || (((s.port p).st.isUp || (s.port p).st == .drain) && !(s.port p).dark)

/-- The credit key of a flit at a port: the destination port of its path and its VC (R360); for tree traffic the leaf switch's port
stands for it (R380). -/
def creditKey (p : Nat) (f : Sent) : Nat := Config.farPort p f.flit.dst * 8 + f.flit.vc

/-- Whether a flit may be sent now: its partition's own slot, and receive credit or an unpaused priority. -/
def maySend (s : State) (p : Nat) (f : Sent) : Bool :=
  s.ownSlot f.part s.cyc.toNat &&
    (if 16 ≤ p then !(s.port p).paused.contains f.flit.vc else decide (Sparse.get 0 (s.port p).used (creditKey p f) < 64))

/-- The next flit of a VC: the first not sent of its triple that may be sent; `past` holds the triples passed over. -/
def nextOf (s : State) (p vc : Nat) : List Nat → List Sent → Option Sent
  | _, [] => none
  | past, f :: t =>
    if f.flit.vc != vc || f.sent || past.contains f.key then nextOf s p vc past t
    else if maySend s p f then some f
    else nextOf s p vc (f.key :: past) t

/-- The VC served next, round-robin, with its flit. -/
def nextSend (s : State) (p : Nat) : Option (Nat × Sent) :=
  ((List.range 8).map (fun i => ((s.port p).rr + 1 + i) % 8)).findSome? (fun v =>
    (nextOf s p v [] (s.port p).buf).map (fun f => (v, f)))

/-- The first flit of a buffer equal to `f` is marked sent. -/
def markSent (f : Sent) : List Sent → List Sent
  | [] => []
  | g :: t => if g = f then { g with sent := true } :: t else g :: markSent f t

/-- The message that carries a flit over Ethernet (R371): an RDMA WRITE or, for an add, one with an immediate. -/
def rdmaOf (p : Nat) (f : Sent) : Option Rdma :=
  if p < 16 then none
  else some { job := f.job, lchip := f.lchip, vc := f.flit.vc, psn := f.flit.seq,
              imm := if f.flit.type = 2 then some f.flit.addr else none, addr := if f.flit.type = 2 then 0 else f.flit.addr,
              payload := f.flit.payload }

/-- FLIT_SEND. -/
def flitSend (p : Nat) (s : State) : State :=
  if !portSends s p then s
  else match nextSend s p with
    | none => s
    | some (v, f) =>
      let k := creditKey p f
      transmit p f.flit (rdmaOf p f) (s.updPort p (fun x => { x with
        buf := markSent f x.buf, rr := v,
        used := if 16 ≤ p then x.used else Sparse.set 0 x.used k (Sparse.get 0 x.used k + 1) }))

/-- The meaning of FLIT_SEND. -/
def execFlitSend (port : Nat) (s : State) : Host.Outcome State Fault Refusal := withUnit port 24 (flitSend port s)

/-- Receive credit is returned. -/
def giveCredit (p dport vc n : Nat) (s : State) : State :=
  s.updPort p (fun x =>
    { x with used := Sparse.set 0 x.used (dport * 8 + vc) (Sparse.get 0 x.used (dport * 8 + vc) - n) })

/-- The meaning of CREDIT_RETURN. -/
def execCreditReturn (port dport vc n : Nat) (s : State) : Host.Outcome State Fault Refusal :=
  withUnit port 16 (giveCredit port dport vc n s)

/-- The meaning of PRIORITY_FLOW_CONTROL, on Ethernet port `port` (R371). -/
def execPriorityFlowControl (port prio : Nat) (pause : Bool) (s : State) : Host.Outcome State Fault Refusal :=
  withUnit port 8 (s.updPort (16 + port) (fun x =>
    { x with paused := if pause then (if x.paused.contains prio then x.paused else x.paused ++ [prio])
                       else x.paused.filter (· != prio) }))

/-! ### Port transitions (R353, R354) -/

/-- A control flit tells the far end of a transition on the remaining wavelengths (R353); what it holds the manual does not say,
and it is a free value (log entry 85). -/
def tellFar (p : Nat) (s : State) : State :=
  transmit p (withCrc { blankFlit s 5 0 0 0 with payload := leBytes 8 (Config.pick s.free) }) none s.tick

/-- LOSS_OF_LIGHT: at its detection the port stops sending data, and the wavelength's laser group leaves the mask of both ends; an
UP port takes the next lower state with its record, each loss with its own, and the last group takes it DOWN (R353, R354). -/
def loseLight (p w : Nat) (s : State) : State :=
  let x := s.port p
  if (x.st.isUp || x.st == .drain) && x.mask.getLsbD w then
    let g := maskGroups x.mask &&& ~~~ (1#4 <<< (w / 4))
    let s := s.updPort p (fun x =>
      { x with lit := g, mask := groupMask g, dark := true, units := 0, detect := s.cyc.toNat })
    if x.st == .drain then s
    else if g = 0#4 then portRecord ((setPort s p .down).updPort p (fun x => { x with dark := false })) p x.st.code s.cyc.toNat
    else tellFar p (portRecord (setPort s p (upState (groupCount g))) p x.st.code s.cyc.toNat)
  else s

/-- The meaning of LOSS_OF_LIGHT. -/
def execLossOfLight (port wavelength : Nat) (s : State) : Host.Outcome State Fault Refusal :=
  withUnit port 16 (loseLight port wavelength s)

/-- Every flit of a port is to be sent again. -/
def replayPort (p : Nat) (s : State) : State :=
  s.updPort p (fun x => { x with buf := x.buf.map (fun f => { f with sent := false }) })

/-- RESTRIPE: the port resumes on its remaining groups and replays (R354, R355). -/
def restripe (p : Nat) (s : State) : State :=
  let x := s.port p
  if x.dark && (x.st.isUp || x.st == .drain) then replayPort p (s.updPort p (fun x => { x with dark := false })) else s

/-- The meaning of RESTRIPE. -/
def execRestripe (port : Nat) (s : State) : Host.Outcome State Fault Refusal := withUnit port 16 (restripe port s)

/-- TRAINING completes with a set of working groups. -/
def trained (p : Nat) (g : BitVec 4) (s : State) : State :=
  if (s.port p).st == .train && g != 0#4 then
    portRecord ((setPort s p (upState (groupCount g))).updPort p (fun x =>
      { x with mask := groupMask g, lit := g, dark := false, units := 0 }))
      p PortState.train.code 0
  else s

/-- The meaning of TRAINING. -/
def execTraining (port : Nat) (groups : BitVec 4) (s : State) : Host.Outcome State Fault Refusal :=
  withUnit port 16 (trained port groups s)

/-- TRAIN_TIMEOUT: 20,000,000 cycles without a working group. -/
def trainTimeout (p : Nat) (s : State) : State :=
  if (s.port p).st == .train && decide ((s.port p).since + 20000000 ≤ s.cyc.toNat) then
    portRecord (setPort s p .down) p PortState.train.code 0
  else s

/-- The meaning of TRAIN_TIMEOUT. -/
def execTrainTimeout (port : Nat) (s : State) : Host.Outcome State Fault Refusal := withUnit port 16 (trainTimeout port s)

/-- An UP port drains towards a state, which its far end follows; a restripe under way goes on. -/
def drainTo (p : Nat) (want : PortState) (s : State) : State :=
  tellFar p ((setPort s p .drain).updPort p (fun x => { x with want := want }))

/-- The CRC failures of the last 2,000,000 cycles. -/
def recentCrc (s : State) (p : Nat) : List Nat := (s.port p).crc.filter (fun t => decide (s.cyc.toNat < t + 2000000))

/-- The meaning of CRC_THRESHOLD. -/
def execCrcThreshold (port : Nat) (s : State) : Host.Outcome State Fault Refusal :=
  withUnit port 16 (if (s.port port).st.isUp && decide (1024 < (recentCrc s port).length) then drainTo port .fenced s else s)

/-- The end of a drain: the state asked for, no light in use. -/
def drained (p : Nat) (s : State) : State := (setPort s p (s.port p).want).updPort p (fun x => { x with mask := 0, lit := 0, dark := false })

/-- The meaning of DRAIN: every flit is acknowledged. -/
def execDrain (port : Nat) (s : State) : Host.Outcome State Fault Refusal :=
  withUnit port 16 (if (s.port port).st == .drain && (s.port port).buf.isEmpty then drained port s else s)

/-- The meaning of DRAIN_TIMEOUT. -/
def execDrainTimeout (port : Nat) (s : State) : Host.Outcome State Fault Refusal :=
  withUnit port 16 (if (s.port port).st == .drain && decide ((s.port port).since + 400000 ≤ s.cyc.toNat) then drained port s else s)

/-- The meaning of RETRAIN. -/
def execRetrain (port : Nat) (s : State) : Host.Outcome State Fault Refusal :=
  let x := (s.port port).st
  withUnit port 16 (if x.isUp then drainTo port .train s
    else if x == .off || x == .fenced || x == .down then setPort s port .train else s)

/-- The meaning of FENCE_PORT. -/
def execFencePort (port : Nat) (s : State) : Host.Outcome State Fault Refusal :=
  withUnit port 16 (if (s.port port).st.isUp then drainTo port .fenced s else s)

/-- The meaning of DISABLE_PORT. -/
def execDisablePort (port : Nat) (s : State) : Host.Outcome State Fault Refusal :=
  let x := (s.port port).st
  withUnit port 16 (if x.isUp then drainTo port .off s else if x == .fenced || x == .down then setPort s port .off else s)

/-! ### Routes and keys (R357, R358, R366) -/

/-- The bits of a route entry that are not Zero. -/
def rtMask : Word64 := 0xC1FBFFFFFF0007FF#64

/-- The least multiple of `m` at or above a number. -/
def nextMultiple (m x : Nat) : Nat := (x + m - 1) / m * m

/-- The highest extended sequence of a (chip, VC), over the epochs. -/
def topExt (l : List (Nat × Nat)) (cv : Nat) : Nat := (l.filter (fun p => p.1 / 256 == cv)).foldl (fun m p => max m p.2) 0

/-- Every triple to a chip and window from it (`from'`, the same but over Ethernet) restarts at SEQ 0, or at a queue pair's first
PSN, under an epoch (R356, R358, R371); the extended sequence goes on at the next multiple of the numbers' range, so no IV repeats
(log entry 44). -/
def restartTriples (chip from' epoch : Nat) (s : State) : State :=
  (List.range 8).foldl (fun s v =>
    let k := tkey chip v epoch
    let r := tkey from' v epoch
    let t := nextMultiple (seqMod k) (topExt (s.triples.map (fun p => (p.1, p.2.ext))) (chip * 8 + v))
    let w := nextMultiple (seqMod r) (topExt (s.windows.map (fun p => (p.1, p.2.ext))) (from' * 8 + v))
    { s.setTriple k { Triple.cold with ext := t } with
      windows := Sparse.set Window.cold s.windows r { Window.cold with ext := w } }) s

/-- Whether another live route of the chip shares a target and an epoch. -/
def sharedRoute (s : State) (key phys epoch : Nat) : Bool :=
  s.routes.any (fun r => r.1 != key && rtState r.2 == 1 && !rtNet r.2 && rtPhys r.2 == phys && rtEpoch r.2 == epoch)

/-- The pins of the triples to a chip are to be re-chosen; flits that are unacknowledged move first (R359). -/
def unpin (chip : Nat) (s : State) : State :=
  { s with triples := Sparse.mapV Triple.cold (fun k t => if k / 2048 = chip then { t with stale := true } else t) s.triples }

/-- ROUTE_WRITE: the host writes an entry; STATE 2 marks the route dead (condition 5), and STATE 1 sets its epoch. -/
def routeWrite (j c : Nat) (w : Word64) (s : State) : State :=
  if !(s.job j).present || decide (2047 ≤ c) then s
  else
    let old := s.route j c
    let w := w &&& rtMask
    let s := if rtState w = 2 then killRoute s j c 5 else s
    let s := { s with routes := Sparse.set 0 s.routes (j * 2048 + c) w }
    let fresh := rtState w == 1 && (rtState old != 1 || rtEpoch old != rtEpoch w || rtPhys old != rtPhys w)
    let s := if fresh && (rtNet w || !sharedRoute s (j * 2048 + c) (rtPhys w) (rtEpoch w)) then
        restartTriples (rtChip w j c) (if rtNet w then netChip j (rtPhys w) else rtPhys w) (rtEpoch w) s
      else s
    unpin (rtChip w j c) s

/-- The meaning of ROUTE_WRITE. -/
def execRouteWrite (job lchip : Nat) (word : Word64) (s : State) : Host.Outcome State Fault Refusal :=
  .next (routeWrite job lchip word s)

/-- Sorric's status of the last command: 0 OK, 1 MALFORMED, 2 CONFLICT, 3 BUSY. -/
def sorStatus (st : Nat) (s : State) : State := { s with sorric := { s.sorric with status := st } }

/-- The extended sequence of a job's flits counts from the key's installation, on every triple and window (R367): its base is the
last multiple of the numbers' range, so that its low bits stay SEQ. Other jobs keep theirs. -/
def rebase (j : Nat) (s : State) : State :=
  let base (recv : Bool) (l : List (Nat × Nat)) (b : Sparse Nat) : Sparse Nat :=
    l.foldl (fun b p => Sparse.set 0 b ((p.1 * 32 + j) * 2 + b2n recv) (p.2 / seqMod p.1 * seqMod p.1)) b
  { s with extBase := base true (s.windows.map (fun p => (p.1, p.2.ext))) (base false (s.triples.map (fun p => (p.1, p.2.ext))) s.extBase) }

/-- KEY_INSTALL. -/
def keyInstall (j : Nat) (key : BitVec 256) (s : State) : State :=
  if !(s.job j).present || (s.job j).keyid == 0xFFFF then sorStatus 2 s
  else if s.ports.any (fun p => p.2.buf.any (fun f => f.job == j && f.flit.conf)) then sorStatus 3 s
  else sorStatus 0 (rebase j { s with keys := Sparse.set none s.keys (s.job j).keyid (some key) })

/-- The meaning of KEY_INSTALL. -/
def execKeyInstall (job : Nat) (key : BitVec 256) (s : State) : Host.Outcome State Fault Refusal := .next (keyInstall job key s)

/-! ### Arrivals (R361 to R363) -/

/-- A window. -/
def State.window (s : State) (k : Nat) : Window := Sparse.get Window.cold s.windows k

/-- A window written. -/
def State.setWindow (s : State) (k : Nat) (w : Window) : State := { s with windows := Sparse.set Window.cold s.windows k w }

/-- A flit leaves on a port's reverse direction: an idle, ack or nak. -/
def emit (p : Nat) (f : Flit) (s : State) : State := transmit p (withCrc f) none s

/-- The answer to an arrival: it returns the flit's credit, and acknowledges through `ack` where that is given. The nak's reason
stands in the first payload byte (log entry 45). -/
def answer (p : Nat) (f : Flit) (type seq : Nat) (ack : Option Nat) (payload : List Byte) (s : State) : State :=
  emit p { blankFlit s type f.vc f.src f.djob with
           seq := seq, payload := payload, epoch := f.epoch, crV := decide (p < 16), crVc := f.vc, crN := 1,
           ackV := ack.isSome, ackSeq := ack.getD 0, ackVc := f.vc } s

/-- An idle flit that returns an arrival's credit. -/
def returnCredit (p : Nat) (f : Flit) (s : State) : State := answer p f 0 0 none [] s

/-- An acknowledgement through `seq`. -/
def sendAck (p : Nat) (f : Flit) (seq : Nat) (s : State) : State := answer p f 3 seq (some seq) [] s

/-- A nak; reasons 1 to 4 also acknowledge. -/
def sendNak (p : Nat) (f : Flit) (seq reason : Nat) (s : State) : State :=
  answer p f 4 seq (if 1 ≤ reason ∧ reason ≤ 4 then some seq else none) [BitVec.ofNat 8 reason] s

/-- The window of an arrival. -/
def winKey (s : State) (p : Nat) (f : Flit) : Nat :=
  if f.src = s.sorric.phys ∧ f.dst = s.sorric.phys then tkey (2048 + p) f.vc 0
  else tkey (if 16 ≤ p then netChip f.djob f.src else f.src) f.vc f.epoch

/-- The gate of R362's reasons 5 and 6, 0 where the flit passes. Tree traffic asks only for the job. -/
def arrivalGate (s : State) (f : Flit) : Nat :=
  if !(s.job f.djob).present then 5
  else if f.src = s.sorric.phys ∧ f.dst = s.sorric.phys then 0
  else match s.routes.find? (fun r => r.1 / 2048 == f.djob && (rtState r.2 == 1 || rtState r.2 == 2) && rtPhys r.2 == f.src) with
    | none => 5
    | some r => if rtEpoch r.2 = f.epoch then 0 else 6

/-- The pod address of an arrival on this chip. -/
def arrivalAddr (f : Flit) : Word64 := n64 (0x7FF * 2 ^ 53 + f.addr % 2 ^ 53)

/-- An arrival with its target's address: an add over Ethernet names a slot of this chip's counter table (R371); none where the
table has no such slot. -/
def landing (s : State) (p : Nat) (f : Flit) : Option Flit :=
  if 16 ≤ p ∧ f.type = 2 then
    (s.ctrSlots.find? (fun x => x.1 == f.addr && x.2.1 == f.djob)).map (fun x => { f with addr := x.2.2 })
  else some f

/-- The bytes that an arrival writes: an add's word is 8 bytes. -/
def arrivalLen (f : Flit) : Nat := if f.type = 2 then 8 else f.nb + 1

/-- What the receiving port finds for the next flit of a triple: it waits (for a page, where one is named), it is rejected
with a reason and a KIND, or its data is to be performed. -/
inductive Arrival where
  | wait (page : Option (Nat × Nat))
  | reject (reason kind : Nat)
  | perform (data : List Byte)
  deriving DecidableEq, Repr

/-- The plaintext of a data flit: none where its tag fails (R367). -/
def plainOf (s : State) (f : Flit) (ext : Nat) : Option (List Byte) :=
  if f.conf then
    match jobKey s f.djob with
    | none => none
    | some key => gcmOpen key (flitIv f.src f.dst f.vc ext) (flitHeader f) (f.payload.take (f.nb + 1)) ((f.payload.drop 208).take 16)
  else some ((f.payload ++ zeroBytes (f.nb + 1 - f.payload.length)).take (f.nb + 1))

/-- The segments that a range of an arrival touches. -/
def rangeSegs (s : State) (j : Nat) (a : Word64) (n : Nat) : List Nat :=
  distinct (segOf s j a ++ segOf s j (a + n64 (n - 1)))

/-- The data of an arrival whose address translates, or the reason for which it is rejected (R246, R367). -/
def openArrival (s : State) (f : Flit) (ext : Nat) (segs : List Nat) : Except (Nat × Nat) (List Byte) :=
  if f.type = 2 then .ok (f.payload.take 8)
  else if !f.conf && segs.any (fun i => (s.seg f.djob i).conf) then .error (3, 0x30)
  else match plainOf s f ext with
    | none => .error (4, 0x31)
    | some d => .ok d

/-- The check of an arrival against DJOB's table (R361, R362). A page is asked for only once nothing rejects it (R233). -/
def checkArrival (s : State) (f : Flit) (ext : Nat) : Arrival :=
  let j := f.djob
  let a := arrivalAddr f
  let n := arrivalLen f
  let segs := rangeSegs s j a n
  match rangeOf s j (if f.type = 2 then .add else .write) true a n with
  | .miss k _ _ => .reject (if missFault k = 0x80 then 1 else 2) k
  | .zeroing _ => .wait none
  | .absent id p _ => match openArrival s f ext segs with
    | .error r => .reject r.1 r.2
    | .ok _ => if s.fillFail.contains (j, id, p) then .reject 1 3 else .wait (some (id, p))
  | .ok => match openArrival s f ext segs with
    | .error r => .reject r.1 r.2
    | .ok d => if canBind s j segs && !resetHolds s j a then .perform d else .wait none

/-- An arrival in a scratchpad makes the inputs of the traced blocks resident on its core untracked (R339). -/
def untrack (s : State) (a : Word64) : State :=
  if tierOf a then
    (List.range 4).foldl (fun s i => s.updCtx (coreOfAddr a * 4 + i) (fun c =>
      { c with trec := c.trec.map (fun r => { r with untrk := true }) })) s
  else s

/-- The physical address of a started collective record's CTR. -/
def GRec.ctrAt (s : State) (r : GRec) : Option Nat :=
  match r.kind with
  | .coll c _ => if c.ctr = 0 ∨ r.started = false then none else ctrPa s r.job r.core c.ctr
  | .join _ => none
  | .agree _ _ => none

/-- The first record that waits for an add at `pa` waits for one less; none where no record does. -/
def takeOwed (s : State) (pa : Nat) : List GRec → Option (List GRec)
  | [] => none
  | r :: t =>
    if r.ctrAt s = some pa ∧ 0 < r.owed then some ({ r with owed := r.owed - 1 } :: t)
    else (takeOwed s pa t).map (r :: ·)

/-- The engine that waits for an add at `pa` takes note of it (R394). -/
def noteAdd (s : State) (pa : Nat) : List (Nat × CollEngine) → List (Nat × CollEngine)
  | [] => []
  | (k, e) :: t =>
    match takeOwed s pa e.flying with
    | some l => (k, { e with flying := l }) :: t
    | none => match takeOwed s pa e.queue with
      | some l => (k, { e with queue := l }) :: t
      | none => (k, e) :: noteAdd s pa t

/-- An add of a switch to a member's counter: SRC equals DST (R380, R394). -/
def noteSwitchAdd (s : State) (f : Flit) : State :=
  if f.type = 2 ∧ f.src = f.dst then
    match ctrPa s f.djob 0 (arrivalAddr f) with
    | some pa => { s with coll := noteAdd s pa s.coll }
    | none => s
  else s

/-- An arrival is performed: bytes through their quay or at their scratchpad, or an add that saturates silently. -/
def performArrival (s : State) (f : Flit) (d : List Byte) : State :=
  let a := arrivalAddr f
  noteSwitchAdd (untrack (if f.type = 2 then addCtr s f.djob 0 a (leNat d) else poke s f.djob a d) a) f

/-- The launches of a job dispatched on the chip whose halt line is not yet raised. -/
def runningOf (s : State) (j : Nat) : List Launch := s.launches.filter (fun l => l.job == j && l.halt.isNone)

/-- A rejection of reasons 1 to 4 (R362): the halt lines, with the port's own record (R370), and the event record. -/
def rejectArrival (s : State) (p : Nat) (f : Flit) (reason kind : Nat) : State :=
  let cause := if reason = 1 then 0x80 else 0x81
  let ls := runningOf s f.djob
  let detail := n64 (f.src % 65536 + f.vc * 2 ^ 16 + kind * 2 ^ 24 + f.seq % 65536 * 2 ^ 32)
  let s := ls.foldl (fun s l => raiseHalt s l.id { kind := 5, inst := p } cause detail (n64 f.addr)) s
  postFor s (some f.djob) (LinkRec.bytes
    { type := if reason = 4 then 0x43 else 0x42, code := if ls.isEmpty then 0 else cause, port := p, oldst := 0, mask := 0,
      peer := f.src, vc := f.vc, job := f.djob, det := 0, lost := 0, seq := f.seq, reason := reason, addr := f.addr } s.cyc.toNat)

/-- The window after a flit is accepted: an acknowledgement follows every 64th. -/
def acceptFlit (p : Nat) (f : Flit) (k : Nat) (rejected : Bool) (s : State) : State :=
  let w := s.window k
  let n := w.unacked + 1
  let s := s.setWindow k { w with ext := w.ext + 1, unacked := if 64 ≤ n then 0 else n, port := p, rejected := rejected,
                                  since := if w.unacked = 0 then s.cyc.toNat else w.since }
  if 64 ≤ n then sendAck p f f.seq s else returnCredit p f s

/-- A rejected flit still advances its window, and the nak acknowledges through it (R362). -/
def refuseFlit (p : Nat) (f : Flit) (k reason kind : Nat) (s : State) : State :=
  let w := s.window k
  let s := { s with fillFail := if reason = 1 ∧ kind = 3 then
      s.fillFail.filter (fun x => !(x.1 == f.djob && (segOf s f.djob (arrivalAddr f)).contains x.2.1)) else s.fillFail }
  let s := sendNak p f f.seq reason (rejectArrival s p f reason kind)
  s.setWindow k { s.window k with ext := w.ext + 1, unacked := 0, port := p, rejected := !f.last }

/-- A page that a waiting arrival needs is asked for (R233). -/
def askPage (j id pg : Nat) (s : State) : State :=
  let s := wantPage s j id pg
  { s with fills := s.fills.map (fun r =>
      if r.job == j && r.seg == id && r.page == pg && r.ctx == 0xFFFF then { r with port := true } else r) }

/-- The next flit of a triple, to the address where it lands: what becomes of it, and whether the port holds it no longer. -/
def land (p : Nat) (f : Flit) (k : Nat) (s : State) : State × Bool :=
  match landing s p f with
  | none => (refuseFlit p f k 1 1 s, true)
  | some g => match checkArrival s g ((s.window k).ext - keyBase s k f.djob true) with
    | .wait none => (s, false)
    | .wait (some (id, pg)) => (askPage f.djob id pg s, false)
    | .reject reason kind => (refuseFlit p g k reason kind s, true)
    | .perform dat => (acceptFlit p f k false (performArrival s g dat), true)

/-- An arriving data or add flit (R361, R362): the state that it leaves, and whether the port holds it no longer. -/
def arrive (p : Nat) (f : Flit) (s : State) : State × Bool :=
  let k := winKey s p f
  let gate := arrivalGate s f
  if gate ≠ 0 then (sendNak p f f.seq gate s, true)
  else
    let w := s.window k
    let m := seqMod k
    let d := (f.seq + m - recvSeq s k w.ext) % m
    if d = 0 then
      if w.rejected && !f.first then (acceptFlit p f k (!f.last) s, true) else land p f k s
    else if d < m / 2 then (sendNak p f (recvSeq s k w.ext) 0 s, true)
    else (sendAck p f (recvSeq s k (w.ext + m - 1)) s, true)

/-- A flit is presented to its port: it waits behind those of its VC that the port holds, and is held itself while it waits, with
its receive buffer (R360, R361). -/
def present (p : Nat) (f : Flit) (s : State) : State :=
  let hold (s : State) : State := s.updPort p (fun x => { x with held := x.held ++ [f] })
  if (s.port p).held.any (fun h => h.vc == f.vc) then hold s
  else
    let r := arrive p f s
    if r.2 then r.1 else hold r.1

/-- The arrivals of a VC that a port holds go on, in order, as far as they can. -/
def retryVc (p vc : Nat) : Nat → State → State
  | 0, s => s
  | n + 1, s =>
    match (s.port p).held.find? (fun h => h.vc == vc) with
    | none => s
    | some f =>
      let r := arrive p f s
      if r.2 then retryVc p vc n (r.1.updPort p (fun x => { x with held := x.held.erase f })) else r.1

/-- The arrivals that ports hold go on where they can. -/
def settleArrivals (s : State) : State :=
  s.ports.foldl (fun s p => (List.range 8).foldl (fun s v => retryVc p.1 v (s.port p.1).held.length s) s) s

/-- The acknowledgement and credit that a flit carries for the reverse direction (R350). -/
def takeCarried (p : Nat) (f : Flit) (s : State) : State :=
  let s := if f.ackV then ackTriple s (carriedKey s p f) f.ackSeq else s
  if f.crV then giveCredit p (Config.farPort p f.src) f.crVc f.crN s else s

/-- Whether a port receives. -/
def portReceives (s : State) (p : Nat) : Bool := decide (16 ≤ p) || (s.port p).st.isUp || (s.port p).st == .drain

/-- A flit of type `t` arrives; a bad CRC leaves a count alone (R351). -/
def receive (t p : Nat) (f : Flit) (s : State) : State :=
  if !portReceives s p then s
  else if !flitGood f then s.updPort p (fun x => { x with crc := (recentCrc s p) ++ [s.cyc.toNat], crcTot := x.crcTot + 1 })
  else if f.type = t then present p f (takeCarried p f s)
  else s

/-- The meaning of DATA_FLIT. -/
def execDataFlit (port : Nat) (flit : Flit) (s : State) : Host.Outcome State Fault Refusal :=
  withUnit port 24 (receive 1 port flit s)

/-- The meaning of ADD_FLIT. -/
def execAddFlit (port : Nat) (flit : Flit) (s : State) : Host.Outcome State Fault Refusal :=
  withUnit port 24 (receive 2 port flit s)

/-- The windows of a (source chip, VC), of every epoch. -/
def windowsOf (s : State) (chip vc : Nat) : List Nat := (s.windows.filter (fun t => t.1 / 256 == chip * 8 + vc)).map (·.1)

/-- ACK_TIMER: accepted flits of a triple are acknowledged no later than 2,000 cycles after the oldest (R355). -/
def ackWindow (chip vc : Nat) (s : State) (k : Nat) : State :=
  let w := s.window k
  if w.unacked = 0 then s
  else
    let dst := if netKey k then (chip - 4096) % 2048 else if 2048 ≤ chip then s.sorric.phys else chip
    let q := recvSeq s k (w.ext + seqMod k - 1)
    emit w.port { blankFlit s 3 vc dst 0 with seq := q, epoch := k % 256, ackV := true, ackSeq := q, ackVc := vc }
      (s.setWindow k { w with unacked := 0 })

/-- The meaning of ACK_TIMER. -/
def execAckTimer (chip vc : Nat) (s : State) : Host.Outcome State Fault Refusal :=
  .next ((windowsOf s chip vc).foldl (ackWindow chip vc) s)

/-! ### The ops (R372 to R377) -/

/-- A pod address in this chip's local form. -/
def localPod (a : Word64) : Word64 := n64 (0x7FF * 2 ^ 53 + a.toNat % 2 ^ 53)

/-- A CHIP that the job does not hold (R31, R377). -/
def chipErr (s : State) (a : Word64) : Option Exc :=
  if s.place (s.jobOf s.cur) a = .notHeld then some (reachExc 0x80 0x04 a) else none

/-- The translation of a local destination (R377). -/
def localErr (s : State) (need : Need) (a : Word64) (n : Nat) : Option Exc :=
  match s.place (s.jobOf s.cur) a with
  | .here => match rangeOf s (s.jobOf s.cur) need false (localPod a) n with
    | .miss k id b => some (missExc k id b)
    | _ => none
  | _ => none

/-- The logical number of a live or dead remote destination. -/
def remoteOf (s : State) (a : Word64) : Option Nat :=
  match s.place (s.jobOf s.cur) a with
  | .there c => some c
  | _ => none

/-- Whether a destination's route is dead. -/
def deadDest (s : State) (a : Word64) : Bool :=
  match remoteOf s a with
  | some c => rtState (s.route (s.jobOf s.cur) c) == 2
  | none => false

/-- The wait for a time-buffer entry; an operation to a dead route takes none (R364). -/
def sendWait (a : State → Word64) (s : State) : Option (Nat × (State → State)) :=
  if deadDest s (a s) then none else bufferWait s

/-- A box that only names a destination. -/
def pointBox (dst ctr : Word64) : Box :=
  { src := 0, dst := dst, bar := 0, ctr := ctr, cval := 0, ndim := 1, esz := 0, bound := false, fill := 0, ext := [1], orig := [0],
    tdim := [0], sstr := [0], dstr := [0] }

/-- An `XREMW` or `XCADD` becomes a job of the engine, local or remote. -/
def sendJob (pre cur : State) (kind : JobKind) (a : Word64) (data : List Byte) (vc : Nat) (conf : Bool) : State :=
  let j := pre.jobOf pre.cur
  let g := pre.homeCore pre.cur
  let here := pre.place j a == .here
  let a := if here then localPod a else a
  let foot : Foot := { rd := [], wr := [rangeAt (canon pre j g a) data.length] }
  let box := if kind == .cadd then { pointBox a a with cval := n64 (leNat data) } else pointBox a 0
  let segs := if here then segsOf pre j [a] else []
  let cur := if here then wantPages j [a] cur else cur
  acceptJob { newJob pre cur kind box false segs [] 0 foot with data := data, vc := vc, conf := conf } cur

/-- `XREMW` or `XCADD` at issue: to a dead route it is counted lost (R364). -/
def sendIssue (pre cur : State) (kind : JobKind) (a : Word64) (data : List Byte) (vc : Nat) (conf : Bool) : State :=
  match remoteOf pre a with
  | some c => if deadDest pre a then countLoss cur cur.cur (pre.me.launch.getD 0) c else sendJob pre cur kind a data vc conf
  | none => sendJob pre cur kind a data vc conf

/-- VC of the three ops. -/
def optVc (x : ArgX) : Nat := x.opt.toNat % 8

/-- The count and the offset of an `XREMW`. -/
def remCount (x : ArgX) (c : Context) : Nat := bits (c.rS x.sarg).toNat 6 0
def remOfs (x : ArgX) (c : Context) : Nat := bits (c.rS x.sarg).toNat 15 8

/-- The bytes that an `XREMW` sends. -/
def remData (x : ArgX) (c : Context) : List Byte :=
  leBytes (remCount x c) ((c.rV x.sreg).toNat / 2 ^ (8 * remOfs x c))

/-- The checks of `XREMW`, in the order of R377. -/
def xremwChk (x : ArgX) (s : State) : Option Exc :=
  let c := s.me
  let v := (c.rS x.sarg).toNat
  let n := remCount x c
  let a := c.rA x.adesc
  if n = 0 ∨ 64 < n ∨ 256 < remOfs x c + n ∨ bits v 63 16 ≠ 0 ∨ bitOf v 7 = true then some (illegal 6 0x80 0)
  else if 64 < a.toNat % 64 + n then some (illegal 6 0x81 0)
  else firstSome [chipErr s a, localErr s .write a n]

/-- `XREMW` (R373). -/
def xremwOp (x : ArgX) : Op :=
  { Op.plain 6 [srcA x.adesc x.b, srcS x.sarg x.b, srcV x.sreg x.b] [] (fun pre cur =>
      sendIssue pre cur .remw (pre.me.rA x.adesc) (remData x pre.me) (optVc x) (x.opt.getLsbD 3)) with
    hold := heldBy x.hold (.xremw x), chk := xremwChk x, wait := sendWait (fun s => s.me.rA x.adesc) }

/-- The meaning of `XREMW`. -/
def execXremw (x : ArgX) (s : State) : Host.Outcome State Fault Refusal := issueOne (xremwOp x) s

/-- The checks of `XCADD`, in the order of R377. -/
def xcaddChk (x : ArgX) (s : State) : Option Exc :=
  let a := s.me.rA x.adesc
  let v := s.me.rS x.sarg
  if a.toNat % 8 ≠ 0 then some (illegal 6 0x61 0)
  else if v.toInt < 0 then some (Exc.mk' 0x32 a (barInfo 0 6 v.toNat))
  else firstSome [chipErr s a, localErr s .add a 8]

/-- `XCADD` (R376). -/
def xcaddOp (x : ArgX) : Op :=
  { Op.plain 6 [srcA x.adesc x.b, srcS x.sarg x.b] [] (fun pre cur =>
      sendIssue pre cur .cadd (pre.me.rA x.adesc) (leBytes 8 (pre.me.rS x.sarg).toNat) (optVc x) false) with
    chk := xcaddChk x, wait := sendWait (fun s => s.me.rA x.adesc) }

/-- The meaning of `XCADD`. -/
def execXcadd (x : ArgX) (s : State) : Host.Outcome State Fault Refusal := issueOne (xcaddOp x) s

/-- The options of an `XRCOPY` in the places of `XCOPY`'s: `.pb` and `.dofs` (R372, R316). -/
def rcX (x : ArgX) : ArgX := { x with opt := BitVec.ofNat 6 (b2n (x.opt.getLsbD 4) * 8 + b2n (x.opt.getLsbD 5) * 4) }

/-- The box of an `XRCOPY` whose destination is this chip, as `XCOPY` performs it: its destination in the local form. -/
def localBox (b : Box) : Box := { b with dst := localPod b.dst, ctr := if isShort b.ctr then b.ctr else localPod b.ctr }

/-- Whether CTR lies on DSTBASE's chip (R374). -/
def ctrWith (s : State) (b : Box) : Bool :=
  let j := s.jobOf s.cur
  b.ctr == 0 || (if s.place j b.dst == .here then isShort b.ctr || s.place j b.ctr == .here else chipOf b.ctr == chipOf b.dst)

/-- A destination element on another chip or tier than DSTBASE. -/
def strays (b : Box) : Bool := (dstAddrs b).any (fun a => bits a.toNat 63 52 != bits b.dst.toNat 63 52)

/-- The reach of an `XRCOPY`: its sources, then what is local of its destination. -/
def rcReach (s : State) (b : Box) : Option Exc :=
  if s.place (s.jobOf s.cur) b.dst = .here then copyReach s (localBox b) false false
  else firstSome ((srcAddrs b).map (engErr s .read true b.esize) ++ [barReach s b.bar])

/-- The checks of `XRCOPY`, in the order of R377. -/
def xrcopyChk (x : ArgX) (s : State) : Option Exc :=
  match descErr (rcX x) 192 s with
  | some e => some e
  | none =>
    if boxBad (descBytes s (rcX x) 192) then some (illegal 6 0x62 0)
    else
      let b := boxAt (rcX x) s
      if misSized b false then some (illegal 6 0x63 0)
      else firstSome
        [barErr s b.bar, if strays b then some (illegal 6 0x82 0) else none, if ctrWith s b then none else some (illegal 6 0x83 0),
         ctrErr b.ctr, cvalErr b, chipErr s b.dst, rcReach s b, if deadDest s b.dst then none else expectErr s b]

/-- An address in its pod form: a short one lies in the scratchpad of core `g`. -/
def podForm (g : Nat) (a : Word64) : Word64 := if isShort a then podSp g a.toNat else a

/-- Whether an operation is sent encrypted: `.conf`, or a source in a CONF segment, be it named by a short address (R246). -/
def sendsConf (s : State) (x : ArgX) (b : Box) : Bool :=
  x.opt.getLsbD 3 || (segsOf s (s.jobOf s.cur) ((srcAddrs b).map (podForm (s.homeCore s.cur)))).any
    (fun i => (s.seg (s.jobOf s.cur) i).conf)

/-- The engine reads of a traced block that R339 does not record as ranges set UNTRK alone. -/
def traceUntrk (j : Nat) (l : List Word64) (s : State) : State :=
  let far (a : Word64) : Bool := !isShort a && !tierOf a && (segOf s j a).any (fun id =>
    !(s.seg j id).trk || decide (2 ^ 24 ≤ (ofsOf a - (s.seg j id).vbase) / 16384))
  if l.any far then s.updMe (fun c => { c with trec := c.trec.map (fun r => { r with untrk := true }) }) else s

/-- The acceptance of an `XRCOPY` to another chip (R374, R375), or its loss. -/
def rcIssue (x : ArgX) (pre cur : State) : State :=
  let b := boxAt (rcX x) pre
  let g := pre.homeCore pre.cur
  let j := pre.jobOf pre.cur
  match remoteOf pre b.dst with
  | none =>
    let b := localBox b
    let all := srcAddrs b ++ dstAddrs b
    let path := jobPath g all
    let cyc := reserveAt cur g (pre.partOf pre.cur) path.1 ((b.bytes + 63) / 64) (startAt pre (pre.me.rS x.sarg))
    let promise := endOf cyc 0 + path.2
    let foot : Foot := { rd := srcFoot pre j g b, wr := dstFoot pre j g b ++ barFoot pre j g b.bar ++ ctrFoot pre j g b.ctr }
    let cur := traceReads j (srcAddrs b) (wantPages j (dstAddrs b) cur)
    let job := newJob pre cur .copy b false (segsOf pre j (b.ctr :: all)) cyc promise foot
    givePromise x.sreg promise (acceptJob { job with slotted := path.1 } cur)
  | some c =>
    if deadDest pre b.dst then
      givePromise x.sreg (pre.cyc.toNat + 1) (countLoss cur cur.cur (pre.me.launch.getD 0) c)
    else
      let srcs := srcAddrs b
      let cyc := reserveAt cur g (pre.partOf pre.cur) true ((b.bytes + 63) / 64) (startAt pre (pre.me.rS x.sarg))
      let promise := endOf cyc 0 + (jobPath g srcs).2
      let foot : Foot := { rd := srcFoot pre j g b, wr := dstFoot pre j g b ++ ctrFoot pre j g b.ctr }
      let cur := traceUntrk j srcs cur
      let job := newJob pre cur .rcopy b false (segsOf pre j srcs) cyc promise foot
      givePromise x.sreg promise (acceptJob { job with vc := optVc x, conf := sendsConf pre x b, slotted := true } cur)

/-- The destination of an `XRCOPY`; any where its descriptor fails a check. -/
def rcDest (x : ArgX) (s : State) : Word64 := (boxAt (rcX x) s).dst

/-- `XRCOPY` (R374, R375). -/
def xrcopyOp (x : ArgX) : Op :=
  { Op.plain 6 (descSrcs (rcX x) [srcS x.sarg x.b]) [(0, x.sreg.val)] (rcIssue x) with
    early := fun _ => oddDesc (rcX x), chk := xrcopyChk x, wait := sendWait (rcDest x),
    posts := fun s => if deadDest s (rcDest x s) then none else expectOf s (boxAt (rcX x) s),
    bars := fun s => if deadDest s (rcDest x s) then [] else expectBars s (boxAt (rcX x) s) }

/-- The meaning of `XRCOPY`. -/
def execXrcopy (x : ArgX) (s : State) : Host.Outcome State Fault Refusal := issueOne (xrcopyOp x) s

end Sys2Proof.Machine
end

