-- ==== Sys2Proof/Machine/Engines.lean ====
section
/-! DEFINITION. The copy engine, the quays and multicast at work (R290, R303 to R314, R373 to R376): a job's start, its bytes,
its completion, ring fills and pulls, and the close of a subscription. -/

namespace Sys2Proof.Machine

open Sys2Proof

/-! ### Bytes of an engine job -/

/-- `n` bytes that an engine of core `g` reads at an address: a short one lies in that core's scratchpad. -/
def engRead (s : State) (j g : Nat) (a : Word64) (n : Nat) : List Byte :=
  if isShort a then rdBytes s (spAddr g a.toNat) n else peek s j a n

/-- Bytes that an engine of core `g` writes. -/
def engWrite (s : State) (j g : Nat) (a : Word64) (bs : List Byte) : State :=
  if isShort a then wrBytes s (spAddr g a.toNat) bs else poke s j a bs

/-- The source bytes of element `e` of a box: the fill outside the tensor. -/
def elemBytesAt (s : State) (j g : Nat) (b : Box) (fill : Bool) (e : Nat) : List Byte :=
  if fill || !b.inside e then b.fillBytes else engRead s j g (b.srcAt e) b.esize

/-- All the source bytes of a box, in element order. -/
def boxBytes (s : State) (j g : Nat) (b : Box) : List Byte := (List.range b.count).flatMap (elemBytesAt s j g b false)

/-! ### Jobs -/

/-- The job of an engine by its issue number. -/
def findJob (s : State) (g n : Nat) : Option CopyJob := (s.core g).jobs.find? (fun x => x.num == n)

/-- The job of an engine replaced. -/
def putJob (s : State) (g : Nat) (x : CopyJob) : State :=
  s.updCore g (fun k => { k with jobs := k.jobs.map (fun y => if y.num = x.num then x else y) })

/-- Whether a launch's halt line is raised. -/
def State.haltedL (s : State) (lid : Nat) : Bool :=
  match s.launchOf lid with
  | some l => l.halt.isSome
  | none => false

/-- Whether a job's destination is another chip (R373 to R376). -/
def remoteJob (s : State) (x : CopyJob) : Option Nat :=
  if x.kind = .remw ∨ x.kind = .cadd ∨ x.kind = .rcopy then
    match s.place x.job x.box.dst with
    | .there c => some c
    | _ => none
  else none

/-- Whether the hand-over order of R211 lets a remote job begin: no earlier one of its context to the same chip and VC that is
still to be handed over. -/
def handTurn (s : State) (g : Nat) (x : CopyJob) : Bool :=
  match remoteJob s x with
  | none => true
  | some _ => !((s.core g).jobs.any (fun y =>
      y.ctx == x.ctx && decide (y.num < x.num) && (remoteJob s y).isSome && chipOf y.box.dst == chipOf x.box.dst && y.vc == x.vc
        && !y.handed && !y.dead))

/-- A job whose read and write footprints share a byte (R305). -/
def overlapping (x : CopyJob) : Bool := meets x.foot.rd x.foot.wr

/-- Whether a job that is to run alone is in progress on the engine (R305). -/
def aloneRuns (s : State) (g : Nat) : Bool := (s.core g).jobs.any (fun y => y.began && overlapping y && !y.dead)

/-- Whether some job is in progress on the engine. -/
def engineRuns (s : State) (g : Nat) : Bool := (s.core g).jobs.any (fun y => y.began && !y.dead && !y.handed)

/-- Whether nothing but the engine's order holds a job back (R207, R211, R216, R232, R243, R303): a halted launch's jobs go no
further, but for those whose flit is delivered all the same (R365), and a job whose footprints overlap runs alone (R305). -/
def jobReady (s : State) (g : Nat) (x : CopyJob) : Bool :=
  !x.began && !x.dead && decide (x.first ≤ s.cyc.toNat) && x.bound && mayBegin s x.ctx x.num x.foot && handTurn s g x
    && !aloneRuns s g && !(overlapping x && engineRuns s g) && (!s.haltedL x.launch || (remoteJob s x).isSome && x.kind != .rcopy)

/-- The order of a time buffer: issue time, then issue order (R286, R303). -/
def beforeJob (y x : CopyJob) : Bool := decide (y.first < x.first) || (y.first == x.first && decide (y.num < x.num))

/-- Whether a job can begin now: it is the first of those that nothing holds back. -/
def startable (s : State) (g : Nat) (x : CopyJob) : Bool :=
  jobReady s g x && !(s.core g).jobs.any (fun y => beforeJob y x && jobReady s g y)

/-- The origin of a remote job's flits. -/
def originOf (x : CopyJob) (c : Nat) : Origin :=
  { ctx := x.ctx, launch := x.launch, part := x.part, job := x.job, lchip := c, op := x.num, vc := x.vc }

/-- A flit of a job that meets a dead route at its hand-over: dropped, its operation counted lost once (R364). -/
def dropFlit (s : State) (x : CopyJob) (c : Nat) : State := if x.lost then s else markLost (countLoss s x.ctx x.launch c) x.num

/-- One flit of a remote job is handed over, or dropped on a dead route; none where the port accepts none. -/
def sendOne (s : State) (x : CopyJob) (c type : Nat) (first last : Bool) (a : Word64) (d : List Byte) : Option State :=
  if rtState (s.route x.job c) ≠ 1 then some (dropFlit s x c) else handOver s (originOf x c) type first last x.conf a d

/-- A job begins; the sources of an overlapping job and of a multicast are read (R305, R314). -/
def beginJob (s : State) (g : Nat) (x : CopyJob) : State :=
  let snap := if (x.kind = .copy ∧ overlapping x = true) ∨ x.kind = .mcast then some (boxBytes s x.job g x.box) else none
  putJob s g { x with began := true, start := s.cyc.toNat, snap := snap }

/-- An `XREMW` or `XCADD` on this chip is performed. -/
def localSend (s : State) (g : Nat) (x : CopyJob) : State :=
  withPage x.job x.box.dst (fun s =>
    let s := beginJob s g x
    let s := if x.kind = .cadd then addCtr s x.job g x.box.dst (leNat x.data) else poke s x.job x.box.dst x.data
    s.updCore g (fun k => { k with jobs := k.jobs.map (fun y =>
      if y.num = x.num then { y with done := [0], handed := true } else y) })) s

/-- An `XREMW` or `XCADD` to another chip hands over its one flit. -/
def remoteSend (s : State) (g : Nat) (x : CopyJob) (c : Nat) : State :=
  match sendOne s x c (if x.kind = .cadd then 2 else 1) true true x.box.dst x.data with
  | none => s
  | some s => s.updCore g (fun k => { k with jobs := k.jobs.map (fun y =>
      if y.num = x.num then { y with began := true, done := [0], handed := true } else y) })

/-- The expectations of a multicast, at each member's barrier before any byte (R314). -/
def mcastExpect (x : CopyJob) (s : State) : State :=
  if x.noexp || x.box.bar == 0 then s
  else x.members.foldl (fun s m => barExpectMember s (spAddr m x.box.bar.toNat) x.box.bytes) s

/-- The `k`-th cycle of a list of intervals. -/
def nthCycle : List (Nat × Nat) → Nat → Option Nat
  | [], _ => none
  | (a, n) :: t, k => if k < n then some (a + k) else nthCycle t (k - n)

/-- Whether one of a partition's own slots lies in the cycles from `a` to `b`; slots repeat every 1,024 cycles (R297). -/
def ownBetween (s : State) (p a b : Nat) : Bool := (List.range (min (b + 1 - a) 1024)).any (fun i => s.ownSlot p (a + i))

/-- Whether the 64-byte unit that holds byte `n` of a job has been sent by now: in the cycle that it reserved or, where the job
began later, in the first of its partition's own slots since (R298, R303). -/
def unitSent (s : State) (x : CopyJob) (n : Nat) : Bool :=
  match nthCycle x.cycles (n / 64) with
  | none => true
  | some c => decide (max c x.start ≤ s.cyc.toNat) && (!x.slotted || ownBetween s x.part (max c x.start) s.cyc.toNat)

/-- COPY_START. -/
def copyStart (g n : Nat) (s : State) : State :=
  match findJob s g n with
  | none => s
  | some x =>
    if !startable s g x then s
    else match remoteJob s x with
      | some c => if x.kind = .rcopy then beginJob s g x else remoteSend s g x c
      | none =>
        if x.kind = .remw ∨ x.kind = .cadd then localSend s g x
        else if x.kind = .mcast then beginJob (mcastExpect x s) g x
        else beginJob s g x

/-- The meaning of COPY_START. -/
def execCopyStart (core job : Nat) (s : State) : Host.Outcome State Fault Refusal :=
  withUnit core Config.nCores (copyStart core job s)

/-- Element `e` of a job is done. -/
def doneElem (s : State) (g n e : Nat) : State :=
  s.updCore g (fun k => { k with jobs := k.jobs.map (fun y => if y.num = n then { y with done := y.done ++ [e] } else y) })

/-- Bytes counted at a job's barrier (R290). -/
def countBar (s : State) (g : Nat) (bar : Word64) (n : Nat) : State :=
  if bar = 0 then s else barUpdate s (barAddr g bar) (-(n : Int)) 0

/-- One element of a copy or fill is performed and counted. -/
def moveElem (s : State) (g : Nat) (x : CopyJob) (e : Nat) : State :=
  if x.box.count ≤ e ∨ x.done.contains e = true then s
  else withPage x.job (x.box.dstAt e) (fun s =>
    let d := match x.snap with
      | some l => (l.drop (e * x.box.esize)).take x.box.esize
      | none => elemBytesAt s x.job g x.box (x.kind == .fill) e
    doneElem (countBar (engWrite s x.job g (x.box.dstAt e) d) g x.box.bar x.box.esize) g x.num e) s

/-- The elements of a job not yet done in the aligned 8-byte word that holds element `e` of its destination. -/
def wordMates (x : CopyJob) (e : Nat) : List Nat :=
  (List.range x.box.count).filter (fun k =>
    (x.box.dstAt k).toNat / 8 == (x.box.dstAt e).toNat / 8 && !x.done.contains k)

/-- The elements in one aligned 8-byte word are performed together, for no access sees part of the word written (R202). -/
def moveWord (s : State) (g : Nat) (x : CopyJob) (e : Nat) : State := (wordMates x e).foldl (fun s k => moveElem s g x k) s

/-! ### The flits of an `XRCOPY` (R374) -/

/-- Whether element `e` goes on in the flit that holds elements from `a` on: consecutive, within `cap` bytes and one 2 MiB
range. -/
def sameFlit (b : Box) (cap a e : Nat) : Bool :=
  decide ((e + 1 - a) * b.esize ≤ cap) && b.dstAt e == b.dstAt (e - 1) + n64 b.esize
    && (b.dstAt e).toNat / 2 ^ 21 == (b.dstAt a).toNat / 2 ^ 21

/-- The flits of a box: first element and number of elements, in order. -/
def flitRuns (b : Box) (cap : Nat) : List (Nat × Nat) :=
  ((List.range b.count).foldl (fun (l : List (Nat × Nat)) e =>
    match l with
    | (a, n) :: t => if sameFlit b cap a e then (a, n + 1) :: t else (e, 1) :: (a, n) :: t
    | [] => [(e, 1)]) []).reverse

/-- The data flits of an `XRCOPY`. -/
def rcFlits (x : CopyJob) : List (Nat × Nat) := flitRuns x.box (if x.conf then 208 else 224)

/-- The number of flits of an `XRCOPY`, with its add flit. -/
def rcTotal (x : CopyJob) : Nat := (rcFlits x).length + (if x.box.ctr = 0 then 0 else 1)

/-- The last element of flit `i` of an `XRCOPY`; the add flit follows the last data flit. -/
def rcLast (x : CopyJob) (i : Nat) : Nat :=
  match (rcFlits x)[i]? with
  | some (a, n) => a + n - 1
  | none => x.box.count - 1

/-- The next flit of an `XRCOPY` enters the replay buffer, and its source bytes are counted at BAR. -/
def rcNext (s : State) (g : Nat) (x : CopyJob) (c i : Nat) : State :=
  let fs := rcFlits x
  let last := i + 1 == rcTotal x
  let mark (s : State) : State :=
    s.updCore g (fun k => { k with jobs := k.jobs.map (fun y =>
      if y.num = x.num then { y with done := y.done ++ [i], handed := last } else y) })
  match fs[i]? with
  | some (a, n) =>
    let d := (List.range n).flatMap (fun q => elemBytesAt s x.job g x.box false (a + q))
    match sendOne s x c 1 (i == 0) last (x.box.dstAt a) d with
    | none => s
    | some s => mark (countBar s g x.box.bar d.length)
  | none =>
    if i = fs.length ∧ x.box.ctr ≠ 0 then
      match sendOne s x c 2 false true x.box.ctr (leBytes 8 x.box.cval.toNat) with
      | none => s
      | some s => mark s
    else s

/-- BYTE_ARRIVAL: the word of one element of a copy or fill, or the next flit of a remote copy. -/
def byteArrival (g n e : Nat) (s : State) : State :=
  match findJob s g n with
  | none => s
  | some x =>
    if !x.began || x.dead || s.haltedL x.launch then s
    else match x.kind with
      | .copy => if unitSent s x (e * x.box.esize) then moveWord s g x e else s
      | .fill => if unitSent s x (e * x.box.esize) then moveWord s g x e else s
      | .rcopy => match remoteJob s x with
        | some c => if e = x.done.length && unitSent s x (rcLast x e * x.box.esize) then rcNext s g x c e else s
        | none => s
      | .remw => s
      | .cadd => s
      | .mcast => s

/-- The meaning of BYTE_ARRIVAL. -/
def execByteArrival (core job elem : Nat) (s : State) : Host.Outcome State Fault Refusal :=
  withUnit core Config.nCores (byteArrival core job elem s)

/-- MULTICAST_DELIVERY: the box is performed in a member's scratchpad and counted at its barrier. -/
def deliver (g n i : Nat) (s : State) : State :=
  match findJob s g n with
  | none => s
  | some x =>
    if !x.began || x.dead || s.haltedL x.launch || x.kind != .mcast || x.done.contains i
        || !unitSent s x ((i + 1) * x.box.bytes - 1) then s
    else match x.members[i]? with
      | none => s
      | some m =>
        let l := x.snap.getD []
        let s := (List.range x.box.count).foldl (fun s e =>
          countBar (wrBytes s (spAddr m (x.box.dstAt e).toNat) ((l.drop (e * x.box.esize)).take x.box.esize)) m x.box.bar x.box.esize) s
        doneElem s g n i

/-- The meaning of MULTICAST_DELIVERY. -/
def execMulticastDelivery (core job mem : Nat) (s : State) : Host.Outcome State Fault Refusal :=
  withUnit core Config.nCores (deliver core job mem s)

/-- A job leaves its engine, no longer counted. -/
def endJob (s : State) (g : Nat) (x : CopyJob) : State :=
  let s := if x.bound then freeBusy s x.job x.segs else s
  s.updCore g (fun k => { k with jobs := k.jobs.filter (fun y => y.num != x.num) })

/-- COPY_COMPLETE (R306): the counter add of a copy, then the job is complete; a remote one is complete once no flit of it is
unacknowledged (R375). -/
def copyComplete (g n : Nat) (s : State) : State :=
  match findJob s g n with
  | none => s
  | some x =>
    if !x.began || x.dead then s
    else match x.kind with
      | .copy => finishCopy s x
      | .fill => finishCopy s x
      | .mcast => if x.done.length = x.members.length then endJob s g x else s
      | .rcopy => if x.handed && !inFlight s n then endJob s g x else s
      | .remw => if x.handed && !inFlight s n then endJob s g x else s
      | .cadd => if x.handed && !inFlight s n then endJob s g x else s
where
  /-- A copy or fill whose bytes are performed and counted. -/
  finishCopy (s : State) (x : CopyJob) : State :=
    if x.done.length ≠ x.box.count ∨ s.haltedL x.launch = true then s
    else if x.box.ctr = 0 then endJob s g x
    else withPage x.job x.box.ctr (fun s => endJob (addCtr s x.job g x.box.ctr x.box.cval.toNat) g x) s

/-- The meaning of COPY_COMPLETE. -/
def execCopyComplete (core job : Nat) (s : State) : Host.Outcome State Fault Refusal :=
  withUnit core Config.nCores (copyComplete core job s)

/-! ### Rings (R309, R310, R312) -/

/-- Whether a generation has reached another, modulo 2^32. -/
def genReached (gen r : Nat) : Bool := decide ((gen + 2 ^ 32 - r % 2 ^ 32) % 2 ^ 32 < 2 ^ 31)

/-- Whether the slot of tile `t` lets the quay start it. -/
def tileReady (s : State) (x : Sub) (t : Nat) : Bool :=
  let k := t % x.ring.nslot
  let r := t / x.ring.nslot
  if x.ring.storer then genReached (barGen s (spAddr x.core (x.ring.fullBar k))) (r + 1)
  else genReached (barGen s (spAddr x.core (x.ring.emptyBar k))) r

/-- Whether the quay may start the next tile of a subscription. -/
def tileStarts (s : State) (x : Sub) : Bool :=
  let t := x.next
  x.prog.isNone && decide (t < x.ring.tiles) && tileReady s x t && (!x.closing || (x.ring.storer && decide (t < x.cursor)))
    && mayBegin s x.ctx (Sparse.get (x.num + 1) x.tnums t - 1) (x.tileFoot s t) && x.bound

/-- The quay starts the next tile: a loader's expectation comes before any byte. -/
def startTile (s : State) (q i : Nat) (x : Sub) : State :=
  let s := if x.ring.storer then s
    else barExpectMember s (spAddr x.core (x.ring.fullBar (x.next % x.ring.nslot))) x.ring.geom.bytes
  s.setSub q i (some { x with prog := some (x.next, 0) })

/-- Where a ring writes element `e` of a tile: its slot, or its tensor for a storer. -/
def ringDst (x : Sub) (b : Box) (e : Nat) : Word64 := if x.ring.storer then b.srcAt e else b.dstAt e

/-- The elements of a tile that are written in the aligned 8-byte word of element `e`; an element that a storer does not write
stands alone. -/
def ringMates (x : Sub) (b : Box) (e : Nat) : List Nat :=
  if x.ring.storer && !b.inside e then [e]
  else (List.range b.count).filter (fun k => (!x.ring.storer || b.inside k)
    && (ringDst x b k).toNat / 8 == (ringDst x b e).toNat / 8)

/-- One element of a tile is moved and counted. -/
def ringMove (x : Sub) (b : Box) (t e : Nat) (s : State) : State :=
  let k := t % x.ring.nslot
  if x.ring.storer then
    let s := if b.inside e then poke s x.job (b.srcAt e) (engRead s x.job x.core (b.dstAt e) b.esize) else s
    barUpdate s (spAddr x.core (x.ring.emptyBar k)) (-(b.esize : Int)) 0
  else
    let d := if b.inside e then peek s x.job (b.srcAt e) b.esize else b.fillBytes
    barUpdate (engWrite s x.job x.core (b.dstAt e) d) (spAddr x.core (x.ring.fullBar k)) (-(b.esize : Int)) 0

/-- One element of the tile in progress: with the first element of a word, all that lie in it are moved (R202). -/
def ringElem (q i : Nat) (s : State) : State :=
  match s.sub q i with
  | none => s
  | some x => match x.prog with
    | none => s
    | some (t, e) =>
      let b := x.ring.tile t
      let next (s : State) : State :=
        s.setSub q i (some (if e + 1 = b.count then
            { x with prog := none, next := t + 1, tnums := Sparse.del t x.tnums } else { x with prog := some (t, e + 1) }))
      let go (s : State) : State :=
        next (if (ringMates x b e).head? = some e then (ringMates x b e).foldl (fun s k => ringMove x b t k s) s else s)
      if x.ring.storer && b.inside e then withPage x.job (b.srcAt e) go s else go s

/-- Whether a quay has something to do for a ring in this cycle, one of its partition's own slots (R298). -/
def ringServes (s : State) (q i : Nat) : Bool :=
  match s.sub q i with
  | none => false
  | some x => s.ownSlot x.part s.cyc.toNat && !s.haltedL x.launch && (x.prog.isSome || tileStarts s x)

/-- The ring whose turn it is at a quay: round-robin from the one served last (R286). -/
def ringTurn (s : State) (q : Nat) : Option Nat :=
  ((List.range 64).map (fun k => ((s.quay q).rr + 1 + k) % 64)).find? (ringServes s q)

/-- A unit of the transfer of the ring whose turn it is: the next tile is started if none is in progress, and the next `n`
elements are performed. -/
def ringUnit (storer : Bool) (q i n : Nat) (s : State) : State :=
  match s.sub q i with
  | none => s
  | some x =>
    if x.ring.storer != storer || ringTurn s q != some i then s
    else
      let s := if tileStarts s x then startTile s q i x else s
      let s := (List.range n).foldl (fun s _ => ringElem q i s) s
      { s with quays := Sparse.set Quay.cold s.quays q { (s.quay q) with rr := i } }

/-- The meaning of RING_FILL. -/
def execRingFill (quay idx n : Nat) (s : State) : Host.Outcome State Fault Refusal := withUnit quay 8 (ringUnit false quay idx n s)

/-- The meaning of RING_PULL. -/
def execRingPull (quay idx n : Nat) (s : State) : Host.Outcome State Fault Refusal := withUnit quay 8 (ringUnit true quay idx n s)

/-- Whether a closing subscription has nothing left to do (R312). -/
def closable (x : Sub) : Bool := x.closing && x.prog.isNone && (!x.ring.storer || decide (x.cursor ≤ x.next))

/-- SUBSCRIPTION_CLOSE. -/
def subClose (q i : Nat) (s : State) : State :=
  match s.sub q i with
  | none => s
  | some x =>
    if !closable x || s.haltedL x.launch || ctrHeld s x.job x.segs x.ctr then s
    else
      let free (s : State) : State := (if x.bound then freeBusy s x.job x.segs else s).setSub q i none
      if x.ctr = 0 then free s else withPage x.job x.ctr (fun s => free (addCtr s x.job x.core x.ctr 1)) s

/-- The meaning of SUBSCRIPTION_CLOSE. -/
def execSubscriptionClose (quay idx : Nat) (s : State) : Host.Outcome State Fault Refusal :=
  withUnit quay 8 (subClose quay idx s)

end Sys2Proof.Machine
end

