-- ==== Sys2Proof/Machine/Collectives.lean ====
section
/-! DEFINITION. The four X-slot ops of "Groups" as they issue (R386 to R392, R401 to R403): collective records, the loop
walker, and the group queues of the collective engines (R396). -/

namespace Sys2Proof.Machine

open Sys2Proof

/-! ### Group entries and engines -/

/-- A group entry (R381). -/
def State.group (s : State) (j g : Nat) : Group := Sparse.get Group.unused s.groups (j * 256 + g)

/-- A group entry updated. -/
def State.updGroup (s : State) (j g : Nat) (f : Group → Group) : State :=
  { s with groups := Sparse.set Group.unused s.groups (j * 256 + g) (f (s.group j g)) }

/-- Collective engine `k`. -/
def State.engine (s : State) (k : Nat) : CollEngine := Sparse.get CollEngine.cold s.coll k

/-- A collective engine updated. -/
def State.updEngine (s : State) (k : Nat) (f : CollEngine → CollEngine) : State :=
  { s with coll := Sparse.set CollEngine.cold s.coll k (f (s.engine k)) }

/-- The engine of the issuing core. -/
def myEngine (s : State) : Nat := s.homeCore s.cur / Config.coresPerCluster

/-- The rank of engine `k`; 0xFFFF for none. -/
def Group.rank (e : Group) (k : Nat) : Nat := e.ranks.getD k 0xFFFF

/-- The records of a group in an engine's queue. -/
def queuedOf (s : State) (k j g : Nat) : List GRec := (s.engine k).queue.filter (fun r => r.job == j && r.group == g)

/-- A join record. -/
def GRec.isJoin (r : GRec) : Bool :=
  match r.kind with
  | .join _ => true
  | .coll _ _ => false
  | .agree _ _ => false

/-- An agreement record. -/
def GRec.isAgree (r : GRec) : Bool :=
  match r.kind with
  | .agree _ _ => true
  | .coll _ _ => false
  | .join _ => false

/-- The key of a (group, PID) pair. -/
def pidKey (j g pid : Nat) : Nat := (j * 256 + g) * 65536 + pid

/-- Whether an instance has its complete notice. The word holds twice the number of the first instance without one, plus 1
when the instance after that has one. -/
def noticed (v inst : Nat) : Bool := decide (inst < v / 2) || (decide (inst = v / 2 + 1) && v % 2 == 1)

/-- A notice for an instance. -/
def addNotice (v inst : Nat) : Nat :=
  if inst = v / 2 then (if v % 2 = 1 then (v / 2 + 2) * 2 else (v / 2 + 1) * 2)
  else if inst = v / 2 + 1 then v / 2 * 2 + 1 else v

/-! ### Collective records (R390, R391, R392) -/

/-- A collective record from its 128 bytes. -/
def collRec (d : List Byte) : CollRec :=
  let lv (o : Nat) (w : Nat) : List Nat := (List.range 4).map (fun l => leAt d (o + 16 * l) w)
  { op := leAt d 0 1, rop := leAt d 1 1, ety := leAt d 2 1, nlev := leAt d 3 1, pid := leAt d 4 2, chunk := leAt d 8 4,
    pn := leAt d 12 2, pbase := leAt d 14 2, pb := sx 16 (leAt d 16 2), pc := sx 16 (leAt d 18 2), src := n64 (leAt d 24 8),
    dst := n64 (leAt d 32 8), ctr := n64 (leAt d 40 8), sctr := n64 (leAt d 48 8), pstr := sx 32 (leAt d 56 4),
    bounds := lv 64 4, sstr := (lv 68 4).map (sx 32), dstr := (lv 72 4).map (sx 32), pa := (lv 76 2).map (sx 16),
    zeros := leAt d 6 2 == 0 && leAt d 20 4 == 0 && leAt d 60 4 == 0 && (lv 78 2).all (· == 0) }

/-- The chunk count T. -/
def CollRec.chunks (r : CollRec) : Nat := prodOf r.bounds

/-- The bytes of an element of its type. -/
def CollRec.esize (r : CollRec) : Nat := if r.ety = 2 then 2 else 4

/-- The effective chunk size C under a group's default. -/
def CollRec.size (r : CollRec) (e : Group) : Nat := if r.chunk = 0 then e.chunk else r.chunk

/-- A malformed record (R403); a BARRIER's CHUNK is ignored (R392). -/
def CollRec.bad (r : CollRec) : Bool :=
  decide (4 < r.op) || decide (2 < r.rop) || !(r.ety == 0 || r.ety == 2 || r.ety == 0xA) || r.nlev == 0 || decide (4 < r.nlev)
    || (r.ety == 0xA && r.rop != 0) || !r.zeros
    || (r.op != 4 && r.chunk != 0 && (r.chunk % 4096 != 0 || decide (1048576 < r.chunk)))
    || r.bounds.any (· == 0) || (r.bounds.drop r.nlev).any (· != 1)
    || (r.sstr.drop r.nlev).any (· != 0) || (r.dstr.drop r.nlev).any (· != 0) || (r.pa.drop r.nlev).any (· != 0)
    || decide (2 ^ 24 < r.chunks) || (r.op == 0 && (r.pn != 0 || r.pstr != 0))

/-- The indices of chunk `t`. -/
def CollRec.idx (r : CollRec) (t : Nat) : List Int := (digits r.bounds t).map Int.ofNat

/-- The peer of chunk `t` for a member of rank `j` (R391). -/
def CollRec.peer (r : CollRec) (j t : Nat) : Nat :=
  if r.pn = 0 then 0 else ((dotI r.pa (r.idx t) + r.pb * j + r.pc) % (r.pn : Int)).toNat + r.pbase

/-- The contribution address of chunk `t`. -/
def CollRec.srcAt (r : CollRec) (t : Nat) : Word64 := r.src + w64 (dotI r.sstr (r.idx t))

/-- The result address of chunk `t` as a member of rank `j` computes it. -/
def CollRec.dstAt (r : CollRec) (j t : Nat) : Word64 := r.dst + w64 (dotI r.dstr (r.idx t) + (r.peer j t : Int) * r.pstr)

/-- Whether a member of rank `j` sends data for chunk `t`, or else a ready mark (R392). -/
def CollRec.sends (r : CollRec) (j t : Nat) : Bool := r.op == 0 || r.op == 1 || r.op == 2 || (r.op == 3 && r.peer j t == j)

/-- The ranks that a chunk's destination can name at a member: every peer of the record's expression. -/
def CollRec.peers (r : CollRec) : List Nat := if r.pn = 0 then [0] else (List.range r.pn).map (fun i => r.pbase + i)

/-- The destinations of an instance at a member: its own for RSCATTER, those of every contributor otherwise (R392). -/
def CollRec.dests (r : CollRec) (rank : Nat) : List Word64 :=
  (List.range r.chunks).flatMap (fun t =>
    if r.op = 4 then []
    else if r.op = 1 then (if r.peer rank t = rank then [r.dstAt rank t] else [])
    else if r.op = 2 then r.peers.map (fun (p : Nat) => r.dst + w64 (dotI r.dstr (r.idx t) + (p : Int) * r.pstr))
    else [r.dstAt rank t])

/-- NDEL: the counter adds that an instance makes at a member (R394). -/
def CollRec.ndel (r : CollRec) (j nmem : Nat) : Nat :=
  if r.op = 2 then r.chunks * nmem
  else if r.op = 1 then ((List.range r.chunks).filter (fun t => r.peer j t == j)).length
  else r.chunks

/-! ### The checks (R389, R403) -/

/-- The group number that an op reads. -/
def grpOf (x : ArgX) (s : State) : Nat := bits (s.me.rS x.sarg).toNat 7 0

/-- The group entry that an op names. -/
def myGroup (x : ArgX) (s : State) : Group := s.group (s.jobOf s.cur) (grpOf x s)

/-- Reserved bits of s[sarg] (R389, R403). -/
def sargErr (x : ArgX) (hi lo : Nat) (s : State) : Option Exc :=
  if bits (s.me.rS x.sarg).toNat hi lo ≠ 0 then some (illegal 6 0 0) else none

/-- An entry that no record may name. -/
def closedErr (e : Group) : Option Exc :=
  if !e.used || e.st == .unbound || e.st == .creating || e.st == .destroyed then some (illegal 6 0x92 0) else none

/-- The full-queue wait (R286). -/
def groupFull (x : ArgX) (s : State) : Bool :=
  decide (16 ≤ (queuedOf s (myEngine s) (s.jobOf s.cur) (grpOf x s)).length)

/-- A pod or short address of this chip that an engine writes and adds to, over `n` bytes. -/
def ownRange (s : State) (need : Need) (a : Word64) (n : Nat) : Option Exc :=
  if isShort a then (if Config.spBytes < a.toNat + n then some (reachExc 0x80 0 (n64 Config.spBytes)) else none)
  else
    let j := s.jobOf s.cur
    match s.place j a with
    | .notHeld => some (reachExc 0x80 0x04 a)
    | .there _ => some (reachExc 0x81 0 a)
    | .here =>
      if !badSp a && tierOf a && coreOfAddr a / Config.coresPerCluster != myEngine s then some (reachExc 0x81 0 a)
      else match rangeOf s j need false a n with
        | .miss k id b => some (missExc k id b)
        | _ => none

/-- A result record (R388): its REASON, then its translation. -/
def resultErr (x : ArgX) (s : State) : Option Exc :=
  let a := s.me.rA x.adesc
  if a.toNat % 32 ≠ 0 ∨ (isShort a = false ∧ s.place (s.jobOf s.cur) a ≠ .here) then some (illegal 6 0x96 0)
  else if isShort a then none
  else match rangeOf s (s.jobOf s.cur) { Need.write with a := true } false a 24 with
    | .miss k id b => some (missExc k id b)
    | _ => none

/-- A record joins the group queue of the issuing core's engine; `ok` says whether its transfer is counted already. -/
def appendRec (x : ArgX) (kind : RecKind) (segs : List Nat) (ok : Bool) (foot : Foot) (pre cur : State) : State :=
  let k := myEngine pre
  let r : GRec :=
    { num := cur.num, job := pre.jobOf pre.cur, group := grpOf x pre, kind := kind, ctx := cur.cur, launch := pre.me.launch.getD 0,
      part := pre.partOf pre.cur, core := pre.homeCore pre.cur, bundle := pre.me.point, started := false, version := 0, chunk := 0,
      segs := segs, bound := ok, owed := 0, aborted := false, foot := foot }
  { cur.updEngine k (fun y => { y with queue := y.queue ++ [r] }) with num := cur.num + 1 }

/-- The VERSION that the three membership ops give. -/
def giveVersion (x : ArgX) (pre cur : State) : State := cur.updMe (fun c => c.wS x.sreg ((myGroup x pre).version.setWidth 64))

/-- The footprint of a result record. -/
def resultFoot (x : ArgX) (s : State) : Foot :=
  { rd := [], wr := [rangeAt (canon s (s.jobOf s.cur) (s.homeCore s.cur) (s.me.rA x.adesc)) 24] }

/-- Whether a result record's segment lets its translation end now; one in ZEROING makes the record wait (R231). -/
def resultOk (x : ArgX) (s : State) : Bool := canBind s (s.jobOf s.cur) (segsOf s (s.jobOf s.cur) [s.me.rA x.adesc])

/-- `XGJOIN` (R387). -/
def xgjoinOp (x : ArgX) : Op :=
  { Op.plain 6 [srcA x.adesc x.b, srcS x.sarg x.b] [(0, x.sreg.val)] (fun pre cur =>
      let k := myEngine pre
      let cur := cur.updGroup (pre.jobOf pre.cur) (grpOf x pre) (fun e => { e with joinp := e.joinp ++ [k] })
      let cur := wantPages (pre.jobOf pre.cur) [pre.me.rA x.adesc] cur
      giveVersion x pre (appendRec x (.join (pre.me.rA x.adesc)) [] (resultOk x pre) (resultFoot x pre) pre cur)) with
    chk := fun s =>
      let e := myGroup x s
      let k := myEngine s
      firstSome [sargErr x 63 8 s, closedErr e, if e.rank k = 0xFFFF then some (illegal 6 0x93 0) else none,
        if e.memb.contains k || e.joinp.contains k then some (illegal 6 0x94 0) else none, resultErr x s],
    wait := fun s => if groupFull x s then some (2, id) else none }

/-- The meaning of `XGJOIN`. -/
def execXgjoin (x : ArgX) (s : State) : Host.Outcome State Fault Refusal := issueOne (xgjoinOp x) s

/-- `XGLEAVE` (R387). -/
def xgleaveOp (x : ArgX) : Op :=
  { Op.plain 6 [srcS x.sarg x.b] [(0, x.sreg.val)] (fun pre cur =>
      giveVersion x pre (cur.updGroup (pre.jobOf pre.cur) (grpOf x pre) (fun e => { e with leavep := e.leavep ++ [myEngine pre] }))) with
    chk := fun s =>
      let e := myGroup x s
      let k := myEngine s
      firstSome [sargErr x 63 8 s, closedErr e, if e.rank k = 0xFFFF then some (illegal 6 0x93 0) else none,
        if !e.memb.contains k || e.leavep.contains k then some (illegal 6 0x95 0) else none] }

/-- The meaning of `XGLEAVE`. -/
def execXgleave (x : ArgX) (s : State) : Host.Outcome State Fault Refusal := issueOne (xgleaveOp x) s

/-- `XGAGREE` (R387). -/
def xgagreeOp (x : ArgX) : Op :=
  { Op.plain 6 [srcA x.adesc x.b, srcS x.sarg x.b] [(0, x.sreg.val)] (fun pre cur =>
      let v := BitVec.ofNat 32 (bits (pre.me.rS x.sarg).toNat 63 32)
      let cur := wantPages (pre.jobOf pre.cur) [pre.me.rA x.adesc] cur
      giveVersion x pre (appendRec x (.agree (pre.me.rA x.adesc) v) [] (resultOk x pre) (resultFoot x pre) pre cur)) with
    chk := fun s =>
      let e := myGroup x s
      let k := myEngine s
      firstSome [sargErr x 31 8 s, closedErr e, if e.rank k = 0xFFFF then some (illegal 6 0x93 0) else none,
        if !e.memb.contains k || (queuedOf s k (s.jobOf s.cur) (grpOf x s)).any GRec.isAgree then some (illegal 6 0x93 0) else none,
        resultErr x s],
    wait := fun s => if groupFull x s then some (2, id) else none }

/-- The meaning of `XGAGREE`. -/
def execXgagree (x : ArgX) (s : State) : Host.Outcome State Fault Refusal := issueOne (xgagreeOp x) s

/-! ### `XCOLL` (R401 to R403) -/

/-- The address of the record, and its 128 bytes. -/
def collBytes (x : ArgX) (s : State) : List Byte :=
  let a := s.me.rA x.adesc
  if x.opt.getLsbD 1 then (s.me.constBuf.drop a.toNat).take 128 else rdBytes s (spAddr (s.homeCore s.cur) a.toNat) 128

/-- The record that an `XCOLL` names. -/
def myColl (x : ArgX) (s : State) : CollRec := collRec (collBytes x s)

/-- The record's place (R403). -/
def collPlace (x : ArgX) (s : State) : Option Exc :=
  let a := s.me.rA x.adesc
  let len := s.me.constBuf.length
  if a.toNat % 64 ≠ 0 ∨ (x.opt.getLsbD 1 = false ∧ isShort a = false) then some (illegal 6 0x90 0)
  else if x.opt.getLsbD 1 then
    if len < a.toNat + 128 then some (reachExc 0x80 0 (if a.toNat < len then n64 len else a)) else none
  else if Config.spBytes < a.toNat + 128 then some (reachExc 0x80 0 (n64 Config.spBytes)) else none

/-- Whether the buffers are used: a BARRIER ignores them. -/
def CollRec.hasData (r : CollRec) : Bool := r.op != 4

/-- The alignment of buffers and counters. -/
def collAlign (r : CollRec) : Option Exc :=
  let n : Int := r.esize
  let off (l : List Int) : Bool := (List.zip r.bounds l).any (fun p => p.1 != 1 && p.2 % n != 0)
  if r.hasData && (r.src.toNat % r.esize != 0 || r.dst.toNat % r.esize != 0 || off r.sstr || off r.dstr
      || (r.pn != 0 && r.pstr % n != 0)) then some (illegal 6 0x63 0)
  else if r.ctr.toNat % 8 ≠ 0 ∨ r.sctr.toNat % 8 ≠ 0 then some (illegal 6 0x61 0)
  else none

/-- Fault 0x81 for `n` bytes of a buffer or counter of which some lie in a CONF segment (R403). -/
def confErr (s : State) (n : Nat) (a : Word64) : Option Exc :=
  let j := s.jobOf s.cur
  if isShort a then none
  else if s.segs.any (fun p => p.1 / 4096 == j && p.2.st != .free && p.2.conf && p.2.tier == tierOf a
      && decide (ofsOf a < p.2.vbase + p.2.len) && decide (p.2.vbase < ofsOf a + n)) then some (reachExc 0x81 0 a)
  else none

/-- The contribution addresses of a member. -/
def collSrcs (r : CollRec) (rank : Nat) : List Word64 :=
  ((List.range r.chunks).filter (r.sends rank)).map r.srcAt

/-- The addresses that a record names: contributions, DSTBASE, CTR and SCTR, with what each needs. -/
def collReach (s : State) (r : CollRec) (e : Group) (rank : Nat) : Option Exc :=
  let both (need : Need) (n : Nat) (a : Word64) : Option Exc := firstSome [ownRange s need a n, confErr s n a]
  firstSome (((if r.hasData then collSrcs r rank else []).map (both .read (r.size e)))
    ++ [if r.hasData then both .write 1 r.dst else none] ++ (r.dests rank).map (confErr s (r.size e))
    ++ [if r.ctr = 0 then none else both .add 8 r.ctr, if r.sctr = 0 then none else both .add 8 r.sctr])

/-- The checks of `XCOLL`, in the order of R403. -/
def xcollChk (x : ArgX) (s : State) : Option Exc :=
  match sargErr x 63 8 s with
  | some e => some e
  | none => match collPlace x s with
    | some e => some e
    | none =>
      let r := myColl x s
      let e := myGroup x s
      let k := myEngine s
      let q := queuedOf s k (s.jobOf s.cur) (grpOf x s)
      if r.bad then some (illegal 6 0x91 0)
      else firstSome
        [closedErr e,
         if (!e.memb.contains k && !q.any GRec.isJoin) || (e.leavep.contains k && q.any GRec.isAgree) then some (illegal 6 0x93 0)
         else none,
         collAlign r, collReach s r e (e.rank k)]

/-- The instance number that an `XCOLL` takes. -/
def instOf (x : ArgX) (s : State) : Nat :=
  Sparse.get 0 (s.engine (myEngine s)).count (pidKey (s.jobOf s.cur) (grpOf x s) (myColl x s).pid)

/-- Whether the window of R395 or the queue holds an `XCOLL` back. -/
def collHeld (x : ArgX) (s : State) : Bool :=
  let n := instOf x s
  groupFull x s || (decide (2 ≤ n) && !noticed
    (Sparse.get 0 (s.engine (myEngine s)).complete (pidKey (s.jobOf s.cur) (grpOf x s) (myColl x s).pid)) (n - 2))

/-- The footprint of a collective (R206): the bounding ranges of its buffers, and its counters. -/
def collFoot (s : State) (r : CollRec) (e : Group) : Foot :=
  let j := s.jobOf s.cur
  let g := s.homeCore s.cur
  let dims (l : List Int) : List ((Int × Int) × Int) := List.zipWith (fun (n : Nat) k => (((0 : Int), (n : Int) - 1), k)) r.bounds l
  let peers : (Int × Int) × Int := if r.pn = 0 then ((0, 0), 0) else (((r.pbase : Int), (r.pbase : Int) + r.pn - 1), r.pstr)
  let n := r.size e
  { rd := if r.hasData then [moved (canon s j g r.src) (spanOf n (dims r.sstr))] else [],
    wr := (if r.hasData then [moved (canon s j g r.dst) (spanOf n (peers :: dims r.dstr))] else [])
      ++ ctrFoot s j g r.ctr ++ ctrFoot s j g r.sctr }

/-- The append of an `XCOLL` (R402): its transfer is counted in BUSY unless its segments hold it at the engine (R232, R243). A traced
block's inputs are untracked from its issue on, whether `.try` takes effect or not (R339). -/
def xcollIssue (x : ArgX) (pre cur : State) : State :=
  let cur := cur.updMe (fun c => { c with trec := c.trec.map (fun t => { t with untrk := true }) })
  if collHeld x pre then cur.updMe (fun c => c.wS x.sreg (BitVec.allOnes 64))
  else
    let r := myColl x pre
    let e := myGroup x pre
    let j := pre.jobOf pre.cur
    let k := myEngine pre
    let n := instOf x pre
    let srcs := if r.hasData then collSrcs r (e.rank k) else []
    let segs := segsOf pre j (srcs ++ (if r.hasData then [r.dst] else []) ++ [r.ctr, r.sctr])
    let key := pidKey j (grpOf x pre) r.pid
    let ok := canBind cur j segs
    let cur := if ok then bindBusy cur j segs else cur
    let cur := cur.updEngine k (fun y => { y with count := Sparse.set 0 y.count key (n + 1) })
    (appendRec x (.coll r n) segs ok (collFoot pre r e) pre cur).updMe (fun c => c.wS x.sreg (n64 n))

/-- `XCOLL` (R402): it waits, reason 2, for its window or its queue. -/
def xcollOp (x : ArgX) : Op :=
  { Op.plain 6 [srcA x.adesc x.b, srcS x.sarg x.b] [(0, x.sreg.val)] (xcollIssue x) with
    chk := xcollChk x,
    wait := fun s => if collHeld x s && !x.opt.getLsbD 0 then some (2, id) else none }

/-- The meaning of `XCOLL`. -/
def execXcoll (x : ArgX) (s : State) : Host.Outcome State Fault Refusal := issueOne (xcollOp x) s

end Sys2Proof.Machine
end

