-- ==== Sys2Proof/Machine/Snapshot.lean ====
section
/-! DEFINITION. The snapshot's 512 bytes (R258) and `SNAPST`, `SNAPLD`, `SNAPREL` (R273, R274). -/

namespace Sys2Proof.Machine

open Sys2Proof

/-- A held op as its HOLDOP word. -/
def holdWord (h : Option HeldOp) : Nat :=
  match h with
  | none => 0
  | some o => o.ext.toNat * 2 ^ 32 + o.word.toNat

/-- Pending `FMT` write `k` (R258): its value. -/
def Snap.pendVal (c : Snap) (k : Nat) : Nat := ((c.fmtPend.map (fun p => p.2.toNat)).getD k 0)

/-- Its count. -/
def Snap.pendCnt (c : Snap) (k : Nat) : Nat := ((c.fmtPend.map (fun p => p.1)).getD k 0) % 4

/-- The 63 words before CHK, in order (R258). -/
def Snap.words (c : Snap) : List Nat :=
  let np := c.fmtPend.length
  let h := c.held
  let heldBits := b2n h.l.isSome + 2 * b2n h.v.isSome + 4 * b2n h.m.isSome + 8 * b2n h.x.isSome
  let recs := (List.range 6).flatMap (fun l =>
    let r := c.nest.recs.getD l { head := 0, strides := [] }
    r.head.toNat :: (List.range 4).map (fun k =>
      (r.strides.getD (2 * k + 1) 0).toNat * 2 ^ 32 + (r.strides.getD (2 * k) 0).toNat))
  [0xC9A5 * 2 ^ 48 + 2 ^ 32 + c.ctxid % 4096 * 2 ^ 16 + c.level % 4, c.repn % 16 * 256 + heldBits]
  ++ [holdWord h.l, holdWord h.v, holdWord h.m, holdWord h.x, c.fmtCur.toNat, c.pendVal 0]
  ++ [c.pendCnt 3 * 2 ^ 20 + c.pendCnt 2 * 2 ^ 18 + c.pendCnt 1 * 2 ^ 16 + np % 8 * 256 + b2n (decide (1 ≤ np)) * 4
        + c.pendCnt 0]
  ++ [c.pends.toNat, c.pendo.toNat, c.nest.body % 32 * 16 + c.nest.levels % 8 * 2 + b2n c.nest.active, c.nest.first.toNat]
  ++ (List.range 3).map (fun k => (c.nest.trip.getD (2 * k + 1) 0).toNat * 2 ^ 32 + (c.nest.trip.getD (2 * k) 0).toNat)
  ++ recs ++ [c.pendVal 1, c.pendVal 2, c.pendVal 3] ++ List.replicate 14 0

/-- CHK: the XOR of the 63 words. -/
def chkOf (l : List Nat) : Nat := l.foldl (fun a x => a ^^^ x) 0

/-- The 512 bytes of a snapshot. -/
def Snap.bytes (c : Snap) : List Byte := (c.words ++ [chkOf c.words]).flatMap (leBytes 8)

/-- The 64 words of an image. -/
def imageWords (b : List Byte) : List Nat := (List.range 64).map (fun i => leAt b (8 * i) 8)

/-- A HOLDOP word as a held op, when its HELD bit is set. -/
def heldWord (b : Bool) (w : Nat) : Option HeldOp :=
  if b then some { word := BitVec.ofNat 32 w, ext := BitVec.ofNat 32 (w / 2 ^ 32) } else none

/-- Whether a held word is a holdable op of its slot with HOLD set; a word that is not held is zero. -/
def heldOk (slot : Nat) (b : Bool) (w : Nat) : Bool :=
  if b then bitOf w 30 && (decode slot (BitVec.ofNat 32 w) (BitVec.ofNat 32 (w / 2 ^ 32))).isSome
    && (bitOf w 31 || w / 2 ^ 32 == 0)
  else w == 0

/-- Rising counts. -/
def rising : List Nat → Bool
  | [] => true
  | x :: t => (match t with
    | [] => true
    | y :: _ => decide (x < y)) && rising t

/-- The pending `FMT` writes of an image. -/
def imagePend (w : List Nat) : List (Nat × Word64) :=
  let m := w.getD 8 0
  ([(bits m 1 0, n64 (w.getD 7 0)), (bits m 17 16, n64 (w.getD 46 0)), (bits m 19 18, n64 (w.getD 47 0)),
    (bits m 21 20, n64 (w.getD 48 0))]).take (bits m 10 8)

/-- Whether an image is well formed for a context (R273): MAGIC, VER, CTXID, LEVEL 0, CHK, the Zero fields, the held words,
the loop limits and the pending writes. -/
def imageOk (ctxid : Nat) (w : List Nat) : Bool :=
  let m := w.getD 8 0
  let np := bits m 10 8
  let h := w.getD 1 0
  let l := w.getD 11 0
  w.getD 63 0 == chkOf (w.take 63) && w.getD 0 0 == 0xC9A5 * 2 ^ 48 + 2 ^ 32 + ctxid * 2 ^ 16
  && bits h 63 12 == 0 && bits h 7 4 == 0
  && heldOk 3 (bitOf h 0) (w.getD 2 0) && heldOk 4 (bitOf h 1) (w.getD 3 0) && heldOk 5 (bitOf h 2) (w.getD 4 0)
  && heldOk 6 (bitOf h 3) (w.getD 5 0)
  && bits m 63 22 == 0 && bits m 15 11 == 0 && bits m 7 3 == 0 && decide (np ≤ 4) && (bitOf m 2 == decide (1 ≤ np))
  && rising ((imagePend w).map (·.1)) && fmtOk (n64 (w.getD 6 0)) && (imagePend w).all (fun p => fmtOk p.2)
  && (decide (2 ≤ np) || bits m 17 16 == 0) && (decide (3 ≤ np) || bits m 19 18 == 0)
  && (decide (4 ≤ np) || bits m 21 20 == 0) && (decide (1 ≤ np) || w.getD 7 0 == 0)
  && (decide (2 ≤ np) || w.getD 46 0 == 0) && (decide (3 ≤ np) || w.getD 47 0 == 0)
  && (decide (4 ≤ np) || w.getD 48 0 == 0)
  && bits l 63 9 == 0 && decide (bits l 3 1 ≤ 5)
  && (List.range 6).all (fun i => let r := w.getD (16 + 5 * i) 0
      bits r 63 40 == 0 && bits r 7 4 == 0 && decide (bits r 3 0 ≤ 8))
  && ((w.drop 49).take 14).all (fun x => x == 0)

/-- The copy that an image holds. -/
def imageSnap (w : List Nat) : Snap :=
  let h := w.getD 1 0
  let l := w.getD 11 0
  { ctxid := bits (w.getD 0 0) 27 16, level := bits (w.getD 0 0) 1 0, repn := bits h 11 8,
    held := { l := heldWord (bitOf h 0) (w.getD 2 0), v := heldWord (bitOf h 1) (w.getD 3 0),
              m := heldWord (bitOf h 2) (w.getD 4 0), x := heldWord (bitOf h 3) (w.getD 5 0) },
    fmtCur := n64 (w.getD 6 0), fmtPend := imagePend w, pends := n64 (w.getD 9 0), pendo := n64 (w.getD 10 0),
    nest := { active := bitOf l 0, levels := bits l 3 1, body := bits l 8 4, first := n64 (w.getD 12 0), pos := 0,
              trip := (List.range 6).map (fun i => BitVec.ofNat 32 (w.getD (13 + i / 2) 0 / 2 ^ (32 * (i % 2)))),
              recs := (List.range 6).map (fun i =>
                { head := n64 (w.getD (16 + 5 * i) 0),
                  strides := (List.range 8).map (fun k =>
                    BitVec.ofNat 32 (w.getD (17 + 5 * i + k / 2) 0 / 2 ^ (32 * (k % 2)))) }),
              buf := [] } }

/-- The REASON of a save area address that `SNAPST` and `SNAPLD` refuse (R274), 0 when they take it. -/
def areaReason (s : State) (cid : Nat) (a : Word64) : Nat :=
  if a.toNat % 64 ≠ 0 then 0x55
  else if isShort a then 0
  else if tierOf a || s.place (s.jobOf cid) a != .here then 0x56
  else 0

/-- A short save area that passes the scratchpad's end is beyond reach (R126). -/
def areaExc (a : Word64) : Option Exc :=
  if isShort a && decide (Config.spBytes < a.toNat + 512) then some (reachExc 0x80 0 (n64 Config.spBytes)) else none

/-- The write of a `SNAPST` is performed at its target (R273). -/
def snapWrite (s : State) (cid : Nat) (a : Word64) : State :=
  if isShort a then wrBytes s (spAddr (s.homeCore cid) a.toNat) (s.ctx cid).snap.bytes
  else poke s (s.jobOf cid) a (s.ctx cid).snap.bytes

/-- `SNAPST` (R273): from its issue the context is BLOCKED, reason 12, until the write is performed (`finish`, `snapWrite`). It
waits for its writebacks and for a segment in ZEROING before. -/
def snapstOp (x : ArgA) : Op :=
  { Op.plain 0 [srcS x.src1 x.b1] [] (fun pre cur => cur.updMe (fun c => { c with after := .snapst (pre.me.rS x.src1) })) with
    chk := fun s =>
      let a := s.me.rS x.src1
      if s.me.tlevel ≠ 1 then some (illegal 0 0x52 0)
      else if !s.me.snapv then some (illegal 0 0x53 0)
      else if areaReason s s.cur a ≠ 0 then some (illegal 0 (areaReason s s.cur a) 0)
      else match areaExc a with
        | some e => some e
        | none =>
          if s.me.pend.isEmpty then
            match probe s s.cur .write true 0x0F a 512 with
            | .trap c v e => some { Exc.mk' c v e with snapst := true }
            | _ => none
          else none,
    wait := fun s =>
      if !s.me.pend.isEmpty || probe s s.cur .write true 0x0F (s.me.rS x.src1) 512 == .wait then some (12, id) else none }

/-- The meaning of `SNAPST`. -/
def execSnapst (x : ArgA) (s : State) : Host.Outcome State Fault Refusal := issueOne (snapstOp x) s

/-- The 512 bytes that `SNAPLD` reads. -/
def areaBytes (s : State) (cid : Nat) (a : Word64) : List Byte :=
  if isShort a then rdBytes s (spAddr (s.homeCore cid) a.toNat) 512 else peek s (s.jobOf cid) a 512

/-- Whether a word of a save area is marked as an uncorrectable error (R274). -/
def areaEcc (s : State) (cid : Nat) (a : Word64) : Bool :=
  (List.range 64).any (fun i =>
    match ctrPa s (s.jobOf cid) (s.homeCore cid) (a + n64 (8 * i)) with
    | some pa => s.eccWords.contains (pa / 8)
    | none => false)

/-- The checks of `SNAPLD` once its address is settled: translation, errors, and the image. -/
def snapldImage (s : State) (a : Word64) : Option Exc :=
  let rest : Option Exc :=
    if areaEcc s s.cur a then some (Exc.mk' 0x85 0 0)
    else if imageOk (s.ctxid s.cur) (imageWords (areaBytes s s.cur a)) then none
    else some (illegal 0 0x51 0)
  match areaExc a with
  | some e => some e
  | none =>
    if isShort a then rest
    else match rangeOf s (s.jobOf s.cur) .read false a 512 with
      | .miss k id b => some (missExc k id b)
      | .zeroing _ => none
      | .absent .. => rest
      | .ok => rest

/-- `SNAPLD` (R273): the image is read at its issue, and the context is BLOCKED, reason 12, until the transfer is performed. -/
def snapldOp (x : ArgA) : Op :=
  { Op.plain 0 [srcS x.src1 x.b1] [] (fun pre cur =>
      let img := imageSnap (imageWords (areaBytes pre pre.cur (pre.me.rS x.src1)))
      cur.updMe (fun c => { c with snap := img, snapv := true, mask := true, after := .snapld })) with
    chk := fun s =>
      let a := s.me.rS x.src1
      if s.me.tlevel ≠ 1 then some (illegal 0 0x52 0)
      else if s.me.snapv then some (illegal 0 0x54 0)
      else if areaReason s s.cur a ≠ 0 then some (illegal 0 (areaReason s s.cur a) 0)
      else snapldImage s a,
    wait := fun s =>
      let a := s.me.rS x.src1
      match if isShort a then Range.ok else rangeOf s (s.jobOf s.cur) .read false a 512 with
      | .zeroing _ => some (12, id)
      | _ => none }

/-- The meaning of `SNAPLD`. -/
def execSnapld (x : ArgA) (s : State) : Host.Outcome State Fault Refusal := issueOne (snapldOp x) s

/-- `SNAPREL` (R273, R274). -/
def snaprelOp : Op :=
  { Op.plain 0 [] [] (fun _ cur => cur.updMe (fun c => { c with mask := false, snapv := false })) with
    chk := fun s =>
      if s.me.tlevel ≠ 1 then some (illegal 0 0x52 0)
      else if !s.me.snapv then some (illegal 0 0x53 0)
      else if !s.me.mask then some (illegal 0 0x58 0)
      else none }

/-- The meaning of `SNAPREL`. -/
def execSnaprel (s : State) : Host.Outcome State Fault Refusal := issueOne snaprelOp s

end Sys2Proof.Machine
end

