-- ==== Sys2Proof/Machine/Bundle.lean ====
section
/-! DEFINITION. One issue of a bundle (R39, R47 to R63): the Roundabout (R250, R251), fetch, header and decode checks, the
guard, held re-issues, then the issue of Issue.lean; and the events of a context: writebacks (R36), wakes (R248, R249), the
quantum, sleeps, promises, the watchdog (R265), trap entry (R257) and the release of a step stop (R268). -/

namespace Sys2Proof.Machine

open Sys2Proof

/-- The op of an instruction in a slot (S0 is 1, S1 is 2); an event is no op. -/
def opOf (slot : Nat) : Instr → Option Op
  | .nop => some nopOp
  | .br x => some (brOp x)
  | .brp x => some (brpOp x)
  | .bri x => some (briOp x)
  | .call x => some (callOp x)
  | .calli x => some (calliOp x)
  | .ret => some retOp
  | .loopn x => some (loopnOp x)
  | .lexit => some lexitOp
  | .haltb => some haltbOp
  | .yield => some yieldOp
  | .sleepu x => some (sleepuOp x)
  | .waitfe x => some (waitfeOp x)
  | .trap x => some (trapOp x)
  | .eret => some eretOp
  | .snapst x => some (snapstOp x)
  | .snapld x => some (snapldOp x)
  | .snaprel => some snaprelOp
  | .rprobe x => some (rprobeOp x)
  | .wprobe x => some (wprobeOp x)
  | .pgalloc x => some (pgallocOp x)
  | .fmtset x => some (fmtsetOp x)
  | .csrr x => some (csrrOp x)
  | .csrw x => some (csrwOp x)
  | .fence x => some (fenceOp x)
  | .bkpt x => some (bkptOp x)
  | .abort x => some (abortOp x)
  | .launch x => some (launchOp x)
  | .launcht x => some (launchtOp x)
  | .kjoin x => some (kjoinOp x)
  | .relaunch x => some (relaunchOp x)
  | .add x => some (addOp slot x)
  | .addi x => some (addiOp slot x)
  | .sub x => some (subOp slot x)
  | .mul x => some (mulOp slot x)
  | .mulhi x => some (mulhiOp slot x)
  | .mulhn x => some (mulhnOp slot x)
  | .div x => some (divOp slot x)
  | .divn x => some (divnOp slot x)
  | .rem x => some (remOp slot x)
  | .remn x => some (remnOp slot x)
  | .min x => some (minOp slot x)
  | .minn x => some (minnOp slot x)
  | .max x => some (maxOp slot x)
  | .maxn x => some (maxnOp slot x)
  | .and x => some (andOp slot x)
  | .andi x => some (andiOp slot x)
  | .or x => some (orOp slot x)
  | .ori x => some (oriOp slot x)
  | .xor x => some (xorOp slot x)
  | .xori x => some (xoriOp slot x)
  | .andn x => some (andnOp slot x)
  | .shl x => some (shlOp slot x)
  | .shli x => some (shliOp slot x)
  | .shr x => some (shrOp slot x)
  | .shri x => some (shriOp slot x)
  | .sra x => some (sraOp slot x)
  | .srai x => some (sraiOp slot x)
  | .rotl x => some (rotlOp slot x)
  | .clz x => some (clzOp slot x)
  | .ctz x => some (ctzOp slot x)
  | .popc x => some (popcOp slot x)
  | .bfx x => some (bfxOp slot x)
  | .bfxs x => some (bfxsOp slot x)
  | .bfi x => some (bfiOp slot x)
  | .sext x => some (sextOp slot x)
  | .zext x => some (zextOp slot x)
  | .mov x => some (movOp slot x)
  | .movi x => some (moviOp slot x)
  | .movhi x => some (movhiOp slot x)
  | .cmp x => some (cmpOp slot x)
  | .cmpi x => some (cmpiOp slot x)
  | .sel x => some (selOp slot x)
  | .abs x => some (absOp slot x)
  | .neg x => some (negOp slot x)
  | .pand x => some (pandOp slot x)
  | .por x => some (porOp slot x)
  | .pxor x => some (pxorOp slot x)
  | .pnot x => some (pnotOp slot x)
  | .pmov x => some (pmovOp slot x)
  | .fadds x => some (faddsOp slot x)
  | .fsubs x => some (fsubsOp slot x)
  | .fmuls x => some (fmulsOp slot x)
  | .ffmas x => some (ffmasOp slot x)
  | .fmins x => some (fminsOp slot x)
  | .fmaxs x => some (fmaxsOp slot x)
  | .fcmps x => some (fcmpsOp slot x)
  | .fcvts x => some (fcvtsOp slot x)
  | .ld x => some (ldOp x)
  | .st x => some (stOp x)
  | .ldv x => some (ldvOp x)
  | .stv x => some (stvOp x)
  | .ldvs x => some (ldvsOp x)
  | .stvs x => some (stvsOp x)
  | .gath x => some (gathOp x)
  | .scat x => some (scatOp x)
  | .ldl x => some (ldlOp x)
  | .stul x => some (stulOp x)
  | .atom x => some (atomOp x)
  | .cas x => some (casOp x)
  | .aadd x => some (aaddOp x)
  | .amov x => some (amovOp x)
  | .ldc x => some (ldcOp x)
  | .binit x => some (binitOp x)
  | .bexpect x => some (bexpectOp x)
  | .barrive x => some (barriveOp x)
  | .bwait x => some (bwaitOp x)
  | .bwaitp x => some (bwaitpOp x)
  | .btest x => some (btestOp x)
  | .cadd x => some (caddOp x)
  | .cwaitge x => some (cwaitgeOp x)
  | .nopL => some (slotNop 3)
  | .vadd x => some (vaddOp x)
  | .vsub x => some (vsubOp x)
  | .vmul x => some (vmulOp x)
  | .vfma x => some (vfmaOp x)
  | .vfms x => some (vfmsOp x)
  | .vmin x => some (vminOp x)
  | .vmax x => some (vmaxOp x)
  | .vabs x => some (vabsOp x)
  | .vneg x => some (vnegOp x)
  | .vand x => some (vandOp x)
  | .vor x => some (vorOp x)
  | .vxor x => some (vxorOp x)
  | .vnot x => some (vnotOp x)
  | .vshl x => some (vshlOp x)
  | .vshr x => some (vshrOp x)
  | .vsra x => some (vsraOp x)
  | .vcmp x => some (vcmpOp x)
  | .vsel x => some (vselOp x)
  | .vmov x => some (vmovOp x)
  | .vmovs x => some (vmovsOp x)
  | .vextr x => some (vextrOp x)
  | .vins x => some (vinsOp x)
  | .vperm x => some (vpermOp x)
  | .vslide x => some (vslideOp x)
  | .viota x => some (viotaOp x)
  | .vcompr x => some (vcomprOp x)
  | .vcvt x => some (vcvtOp x)
  | .vquant x => some (vquantOp x)
  | .vdeq x => some (vdeqOp x)
  | .vdot x => some (vdotOp x)
  | .vrsum x => some (vrsumOp x)
  | .vrmax x => some (vrmaxOp x)
  | .vrmin x => some (vrminOp x)
  | .vrmaxi x => some (vrmaxiOp x)
  | .vrmini x => some (vrminiOp x)
  | .vscan x => some (vscanOp x)
  | .vpopc x => some (vpopcOp x)
  | .vclz x => some (vclzOp x)
  | .vrcp x => some (vrcpOp x)
  | .vrsq x => some (vrsqOp x)
  | .vexp2 x => some (vexp2Op x)
  | .vlog2 x => some (vlog2Op x)
  | .vtanh x => some (vtanhOp x)
  | .vmset x => some (vmsetOp x)
  | .vmops x => some (vmopsOp x)
  | .nopV => some (slotNop 4)
  | .mma x => some (mmaOp x)
  | .mmaz x => some (mmazOp x)
  | .mmas x => some (mmasOp x)
  | .mcbld x => some (mcbldOp x)
  | .accrd x => some (accrdOp x)
  | .accwr x => some (accwrOp x)
  | .accz x => some (acczOp x)
  | .mwait x => some (mwaitOp x)
  | .mstat x => some (mstatOp x)
  | .mdrain _ => some mdrainOp
  | .nopM => some (slotNop 5)
  | .xcopy x => some (xcopyOp x)
  | .xfill x => some (xfillOp x)
  | .xsub x => some (xsubOp x)
  | .xunsub x => some (xunsubOp x)
  | .xslot x => some (xslotOp x)
  | .xremw x => some (xremwOp x)
  | .xrcopy x => some (xrcopyOp x)
  | .xcadd x => some (xcaddOp x)
  | .xmcast x => some (xmcastOp x)
  | .xmcastSet x => some (xmcastSetOp x)
  | .xmigr x => some (xmigrOp x)
  | .xcoll x => some (xcollOp x)
  | .xgjoin x => some (xgjoinOp x)
  | .xgleave x => some (xgleaveOp x)
  | .xgagree x => some (xgagreeOp x)
  | .xcancel x => some (xcancelOp x)
  | .nopX => some (slotNop 6)
  | .bundleIssue _ => none
  | .writeback _ _ => none
  | .reasonCleared _ => none
  | .quantum _ => none
  | .sleepWake _ => none
  | .promiseWake _ => none
  | .watchdog _ => none
  | .trapEntry _ => none
  | .haltLine _ _ _ => none
  | .haltArrival _ _ => none
  | .faultCompletion _ => none
  | .preemptionRequest _ => none
  | .preload _ => none
  | .swap _ => none
  | .spill _ => none
  | .tileFill _ _ => none
  | .restore _ => none
  | .entryStart _ => none
  | .wave _ => none
  | .entryComplete _ => none
  | .copyStart _ _ => none
  | .byteArrival _ _ _ => none
  | .copyComplete _ _ => none
  | .ringFill _ _ _ => none
  | .ringPull _ _ _ => none
  | .subscriptionClose _ _ => none
  | .multicastDelivery _ _ _ => none
  | .zeroingComplete _ _ => none
  | .drained _ _ => none
  | .demandFill _ _ _ => none
  | .fillTimeout _ _ _ => none
  | .migrationAccept _ => none
  | .migrationCopy _ _ => none
  | .rebind _ _ => none
  | .qtail _ _ => none
  | .enable _ => none
  | .disable _ => none
  | .resume _ => none
  | .kill _ => none
  | .packetWaits _ => none
  | .dispatch _ => none
  | .blockLoad _ => none
  | .predelay _ => none
  | .retirement _ => none
  | .launchCompletion _ => none
  | .eventRecord _ => none
  | .bind _ => none
  | .unbind _ => none
  | .release _ => none
  | .pool _ => none
  | .pageresp _ _ => none
  | .steprel _ => none
  | .preempt _ _ => none
  | .registerWrite _ _ => none
  | .hostWrite _ _ _ => none
  | .flitSend _ => none
  | .dataFlit _ _ => none
  | .addFlit _ _ => none
  | .ack _ _ _ _ => none
  | .nak _ _ _ _ _ => none
  | .ackTimer _ _ => none
  | .replay _ _ => none
  | .routeDead _ _ _ => none
  | .noPath _ _ => none
  | .lossOfLight _ _ => none
  | .restripe _ => none
  | .training _ _ => none
  | .trainTimeout _ => none
  | .crcThreshold _ => none
  | .drain _ => none
  | .drainTimeout _ => none
  | .retrain _ => none
  | .fencePort _ => none
  | .disablePort _ => none
  | .repin _ _ => none
  | .qpError _ _ _ => none
  | .routeWrite _ _ _ => none
  | .keyInstall _ _ => none
  | .gcreate _ _ _ => none
  | .gbind _ _ => none
  | .gquiesce _ _ => none
  | .gresume _ _ => none
  | .gevict _ _ _ => none
  | .gabort _ _ => none
  | .gdestroy _ _ => none
  | .treeProgrammed _ _ _ _ _ => none
  | .recordStart _ => none
  | .commit _ _ _ => none
  | .instanceComplete _ _ _ _ _ => none
  | .instanceAbort _ _ _ _ _ => none
  | .resetCold => none
  | .resetWarm => none
  | .resetDie _ => none
  | .resetCluster _ => none
  | .resetCore _ => none
  | .resetMatrix _ => none
  | .resetCopy _ => none
  | .resetQuay _ => none
  | .resetPort _ => none
  | .resetCollective _ => none
  | .perst => none
  | .hotReset => none
  | .setmode _ _ => none
  | .sensorRead _ => none
  | .telemetryUpdate _ _ => none
  | .scrub _ => none
  | .partition _ _ _ => none
  | .powerUp _ => none
  | .slotMask _ _ _ => none
  | .watchdogLimit _ _ => none
  | .powerCap _ => none
  | .capWindow _ => none
  | .frequencyStep _ _ => none
  | .relock _ => none
  | .ageingStep _ => none
  | .chipNumber _ => none
  | .spdmSession _ => none
  | .firmwareWrite _ _ => none
  | .activate _ => none
  | .selfCheck _ _ => none
  | .creditReturn _ _ _ _ => none
  | .priorityFlowControl _ _ _ => none
  | .createJob _ _ => none
  | .ageingApproval _ _ => none

/-! ### The Roundabout (R250, R251) -/

/-- The frequency of a cluster in MHz; 2,000 until a step sets it (R25, log entry 3). -/
def State.mhz (s : State) (n : Nat) : Nat := Sparse.get 2000 s.sorric.freq n

/-- Whether a core's cluster is in a relock pause (R26). -/
def relocking (s : State) (g : Nat) : Bool := Sparse.get 0 s.sorric.relock (g / Config.coresPerCluster) != 0

/-- The slot that receives the width next: rising slot order from the last holder's, wrapping round. -/
def nextHolder (s : State) (g : Nat) : Option Nat :=
  ([1, 2, 3, 4].map (fun i => ((s.core g).lastHolder + i) % 4)).find? (ableTo s g)

/-- The holder of a core's width, where it can issue. -/
def holderOf (s : State) (g : Nat) : Option Nat :=
  match (s.core g).holder with
  | some k => if ableTo s g k then some k else none
  | none => none

/-- A quantum begins now. -/
def freshQuantum (s : State) (g : Nat) : State := s.updCore g (fun c => { c with quantum := s.cyc.toNat, qused := 0 })

/-- The width goes to a slot: a fresh quantum, and READY becomes RUNNING (R249). -/
def giveWidth (s : State) (g k : Nat) : State :=
  ((freshQuantum s g).updCore g (fun c => { c with holder := some k })).updCtx (g * 4 + k)
    (fun c => { c with st := if c.st = .ready then .running else c.st })

/-- What the holder of a core has used of its quantum, in core cycles times 2,000 (R5, R251). -/
def quantumUsed (s : State) (g : Nat) : Nat :=
  (s.core g).qused + (s.cyc.toNat - (s.core g).quantum) * s.mhz (g / Config.coresPerCluster)

/-- Whether the holder's quantum of 4,096 core cycles is used up. -/
def quantumOver (s : State) (g : Nat) : Bool := decide (4096 * 2000 ≤ quantumUsed s g)

/-- A holder whose quantum is used up goes to the back of the rotation, or keeps the width with a fresh quantum (R251). -/
def expireQuantum (g : Nat) (s : State) : State :=
  match holderOf s g with
  | none => s
  | some k =>
    if !quantumOver s g then s
    else if otherReady s (g * 4 + k) then passWidth s (g * 4 + k)
    else freshQuantum s g

/-! ### The bundle (R47 to R49, R55) -/

/-- The slots of a MASK. -/
def maskSlots (m : Nat) : List Nat := (List.range 7).filter (fun i => bitOf m i)

/-- The slot words after a header, each with its extension word. -/
def slotPairs : List Nat → List Word32 → List SlotWords
  | [], _ => []
  | _ :: _, [] => []
  | k :: t, w :: r =>
    if bitOf w.toNat 31 then { slot := k, word := w, ext := r.headD 0 } :: slotPairs t r.tail
    else { slot := k, word := w, ext := 0 } :: slotPairs t r

/-- The C-slot opcodes that may not stand in a bundle with REP (R49). -/
def noRepeat : List Nat := [1, 2, 3, 4, 5, 6, 7, 8, 9, 14]

/-- Whether a word of the bundle in memory is marked as an uncorrectable error (R48). -/
def codeEcc (s : State) (j : Nat) (a : Word64) (n : Nat) : Bool :=
  (List.range n).any (fun i => match xlate s j .fetch (a + n64 (4 * i)) with
    | .ok pa _ => s.eccWords.contains (pa / 8)
    | _ => false)

/-- The registers that an op writes, as the check of R40 sees them. -/
def opDsts (o : Op) : List (Nat × Nat) := o.dsts.filter (fun d => !(d.2 == 0 && (d.1 == 0 || d.1 == 2 || d.1 == 4)))

/-- The registers that a slot word's op writes; the op is not yet decoded (R49). -/
def wordDsts (w : SlotWords) : List (Nat × Nat) :=
  match (rawSlot w.slot w.word.toNat w.ext).bind (opOf w.slot) with
  | some o => opDsts o
  | none => []

/-- Whether a list names something twice. -/
def repeats : List (Nat × Nat) → Bool
  | [] => false
  | x :: t => t.contains x || repeats t

/-- The op of a slot word, where it decodes (R55). -/
def wordOp (w : SlotWords) : Option Op := (decode w.slot w.word w.ext).bind (opOf w.slot)

/-- The first slot whose word does not decode. -/
def badSlot (l : List SlotWords) : Option Nat := (l.find? (fun w => (wordOp w).isNone)).map (·.slot)

/-- What a slot holds (R59). -/
def heldAt (h : Held) (k : Nat) : Option HeldOp :=
  if k = 3 then h.l else if k = 4 then h.v else if k = 5 then h.m else if k = 6 then h.x else none

/-- The word at a slot position at an issue whose guard holds: the bundle's, or a held re-issue of an omitted slot (R60). -/
def slotAt (l : List SlotWords) (h : Held) (k : Nat) : Option (Bool × SlotWords) :=
  match l.find? (fun w => w.slot == k) with
  | some w => some (false, w)
  | none => (heldAt h k).map (fun o => (true, { slot := k, word := o.word, ext := o.ext }))

/-- The ops of an issue, in slot order, held re-issues in the place of their slots (R39). -/
def issueOps (l : List SlotWords) (h : Held) : List Op :=
  (List.range 7).filterMap (fun k => match slotAt l h k with
    | some (b, w) => (wordOp w).map (fun o => { o with held := b })
    | none => none)

/-! ### Trying a bundle (R51, R58) -/

/-- What the next issue of a context finds: its fetch waits for a segment in ZEROING, an exception, an empty guard register
(with the ops and the register), an issue whose guard is false, or these ops, whose own checks come next. -/
inductive Try where
  | stall
  | exc (e : Exc)
  | empty (ops : List Op) (guard : Nat)
  | skip (ws : List Word32)
  | ready (ws : List Word32) (ops : List Op)

/-- Trap 0x01 with an `EINFO`. -/
def badBundle (info : Word64) : Exc := Exc.mk' 0x01 0 info

/-- The guard of a header holds (R51). -/
def guardHolds (h : Nat) (c : Context) : Bool := c.rP (bits h 14 12) ^^ bitOf h 15

/-- The checks of a bundle whose words are `ws`; `fresh` says that they come from memory. -/
def tryWords (fresh : Bool) (ws : List Word32) (s : State) : Try :=
  let c := s.me
  let h := (ws.headD 0).toNat
  let l := slotPairs (maskSlots (bits h 27 21)) ws.tail
  let live := c.full .p (bits h 14 12) && guardHolds h c
  let ops := issueOps l c.held
  let nx := c.pc + n64 (4 * ws.length)
  if fresh && codeEcc s (s.jobOf s.cur) c.pc ws.length then .exc (Exc.mk' 0x85 0 0)
  else if !headerOk (ws.headD 0) || decide (bits h 20 17 < c.rep) then .exc (badBundle c.brSrc)
  else if (bits h 20 17 != 0 && l.any (fun w => w.slot == 0 && noRepeat.contains (bits w.word.toNat 29 23)))
      || repeats (l.flatMap wordDsts) || (live && repeats (ops.flatMap opDsts)) then .exc (badBundle 0)
  else if fresh && c.nest.active && breaksLimit c.nest.body c.nest.pos ((nx - c.nest.first).toNat / 4) (bitOf h 16) then
    .exc { badBundle 0 with pre := fun s => s.updMe (fun c => { c with nest := .none }) }
  else match badSlot l with
    | some k => .exc (illegal k 0 0)
    | none =>
      if !c.full .p (bits h 14 12) then .empty ops (bits h 14 12)
      else if !live then .skip ws
      else .ready ws ops

/-- The next issue of the context `s.cur`: a misaligned address (R104), then the fetch (R48, R66), then the checks. -/
def tryBundle (s : State) : Try :=
  let c := s.me
  let j := s.jobOf s.cur
  if c.pc.toNat % 4 ≠ 0 then .exc (badBundle c.brSrc)
  else match if c.nest.active then Sparse.get [] c.nest.buf c.nest.pos else [] with
    | w :: t => tryWords false (w :: t) s
    | [] =>
      match fetchBundle s j c.pc with
      | .ok ws => tryWords true ws s
      | .error (a, e) =>
        match xlate s j .fetch a with
        | .zeroing _ => if s.place j a = .here then .stall else .exc e
        | _ => .exc e

/-- The latch takes note of the bundle that issues. -/
def latchBundle (ws : List Word32) (s : State) : State :=
  let h := (ws.headD 0).toNat
  s.latched (fun l =>
    { l with next := s.me.pc + n64 (4 * ws.length), repn := bits h 20 17, lbe := bitOf h 16, words := ws })

/-- The context `s.cur` tries its next bundle. -/
def issueNext (s : State) : State :=
  match tryBundle s with
  | .stall => s
  | .exc e => raise s e
  | .empty ops p => block (noteBlock ops 2 p s) s.cur 1
  | .skip ws => finish false s.num (beginIssue (latchBundle ws s))
  | .ready ws ops => issue ops (latchBundle ws s)

/-- The holder of a core's width tries its bundle; the width goes on if no context able to issue holds it. -/
def roundabout (g : Nat) (s : State) : State :=
  match holderOf s g with
  | some k => issueNext { s with cur := g * 4 + k }
  | none =>
    match nextHolder s g with
    | some k => issueNext { giveWidth s g k with cur := g * 4 + k }
    | none => s

/-- BUNDLE_ISSUE on a core, outside a relock pause (R26): a quantum that is used up expires, and the Roundabout issues. -/
def bundleIssue (g : Nat) (s : State) : State := if relocking s g then s else roundabout g (expireQuantum g s)

/-- The state that a unit's event leaves, where the package has the unit. -/
def onUnit (n bound : Nat) (f : State → State) (s : State) : Host.Outcome State Fault Refusal :=
  if n < bound then .next (f s) else .fault (.noSuchUnit n)

/-- The meaning of BUNDLE_ISSUE. -/
def execBundleIssue (core : Nat) (s : State) : Host.Outcome State Fault Refusal := onUnit core Config.nCores (bundleIssue core) s

/-! ### The events of a context -/

/-- The meaning of WRITEBACK (R36): pending writeback number `idx` of a context completes. -/
def execWriteback (ctx idx : Nat) (s : State) : Host.Outcome State Fault Refusal :=
  .next (s.updCtx ctx (fun c => c.writeback idx))

/-- The state in which a held-back op sees the registers of its issue (R216). -/
def asIssued (s : State) (d : Deferred) : State := ({ s with cur := d.ctx }).setCtx d.ctx d.pre

/-- The trap of a barrier or counter update that a fence held back, where the word has changed meanwhile so that the update now
overflows or comes too late (log entry 76). -/
def deferredExc (s : State) (d : Deferred) : Option Exc :=
  match d.op.bind (opOf 3) with
  | some o => ((o.chk (asIssued s d)).filter (fun e => e.code == 0x31 || e.code == 0x32))
  | none => d.bars.findSome? (fun b => match b with
      | .post pa dp a i => if barOver s pa dp then some (Exc.mk' 0x31 a i) else none
      | _ => none)

/-- The memory write of a held-back op is performed. -/
def performDeferred (s : State) (d : Deferred) : State :=
  match (d.op.bind (opOf 3)).bind (·.mem) with
  | some m => { m.2 (asIssued s d) { s with cur := d.ctx } with cur := s.cur }
  | none => d.bars.foldl runBar s

/-- The memory writes that a fence held back are performed, in slot order (R216), with the first trap among them. An update that
traps is not made, but for what comes before its raise (R8). -/
def settleDeferred (s : State) (cid : Nat) : State × Option Exc :=
  (s.deferred.filter (fun d => d.ctx == cid)).foldl (fun r d =>
    match deferredExc r.1 d with
    | some e => ({ r.1 with mem := (e.pre (asIssued r.1 d)).mem }, r.2.or (some e))
    | none => (performDeferred r.1 d, r.2)) ({ s with deferred := s.deferred.filter (fun d => d.ctx != cid) }, none)

/-- The memory writes that a fence held back, where the context itself goes no further. -/
def runDeferred (s : State) (cid : Nat) : State := (settleDeferred s cid).1

/-- A fence that has waited ends: the writes of its bundle follow, then the fence ends (R216). A held-back update that traps
does so then, at the next issue point, unless a loss comes first (log entry 76). -/
def fenceClose (s : State) (cid : Nat) : State :=
  let r := settleDeferred (wake (s.updCtx cid (fun c => { c with after := .none })) cid) cid
  match r.2 with
  | some e => if (r.1.ctx cid).loss = 0 then
        raisePost (r.1.updCtx cid (fun c => { c with owed := none })) cid e.code e.eva e.einfo
      else fenceEnd r.1 cid
  | none => fenceEnd r.1 cid

/-- Whether the resource that a bundle of the context waits for, with the recorded reason, is there now (R248): the bundle would
not be held back for it. -/
def waitOver (s : State) (cid : Nat) : Bool :=
  match tryBundle { s with cur := cid } with
  | .stall => false
  | .exc _ => true
  | .empty .. => true
  | .skip _ => true
  | .ready _ ops => (match firstWait { s with cur := cid } ops with
    | some w => w.1 != (s.ctx cid).reason
    | none => true)

/-- Whether the reason for which a context is held back before an issue is cleared (R248): its source has become full (1), its
barrier has completed or been initialised anew (3, R293), or the resource is there. -/
def reasonGone (s : State) (cid : Nat) : Bool :=
  match (s.ctx cid).reason, (s.ctx cid).waitSrc, (s.ctx cid).claim with
  | 1, some (f, r), _ => srcFull s cid { file := f, reg := r, trap := false }
  | 3, _, some k => k.woken || k.retry
  | _, _, _ => waitOver s cid

/-- REASON_CLEARED: a BLOCKED context goes on, outside a relock pause (R26). A fence that is complete ends (R216), and a
snapshot's transfer is performed (R273); a context that waits for `HALTB`, trap entry or a step stop has events of its own. -/
def reasonCleared (cid : Nat) (s : State) : State :=
  let c := s.ctx cid
  let free (s : State) : State := wake (s.updCtx cid (fun c => { c with after := .none })) cid
  if c.st ≠ .blocked ∨ residents ≤ cid ∨ relocking s (coreOf cid) = true then s
  else match c.after with
    | .fence sc bound => if fenceDone s cid sc bound then fenceClose s cid else s
    | .snapst a => settleStep (free (snapWrite s cid a)) cid
    | .snapld => settleStep (free s) cid
    | .haltb => s
    | .trapEntry _ => s
    | .step => s
    | .none => if reasonGone s cid then wake s cid else s

/-- The meaning of REASON_CLEARED. -/
def execReasonCleared (ctx : Nat) (s : State) : Host.Outcome State Fault Refusal := .next (reasonCleared ctx s)

/-- QUANTUM (R251): outside a relock pause, a quantum that is used up expires. -/
def quantum (g : Nat) (s : State) : State := if relocking s g then s else expireQuantum g s

/-- The meaning of QUANTUM. -/
def execQuantum (core : Nat) (s : State) : Host.Outcome State Fault Refusal := onUnit core Config.nCores (quantum core) s

/-- SLEEP_WAKE (R275): `CYC` has reached the target; a step stop that the sleep held back follows. -/
def sleepWake (cid : Nat) (s : State) : State :=
  let c := s.ctx cid
  if c.st = .sleeping ∧ c.sleepTo ≤ s.cyc.toNat ∧ cid < residents ∧ relocking s (coreOf cid) = false then
    settleStep (wake s cid) cid
  else s

/-- The meaning of SLEEP_WAKE. -/
def execSleepWake (ctx : Nat) (s : State) : Host.Outcome State Fault Refusal := .next (sleepWake ctx s)

/-- Whether the promise of a `BWAITP` that waits has passed (R293). -/
def promisePassed (s : State) (c : Context) : Bool :=
  match c.claim with
  | some k => (match k.promise with
    | some p => decide (p ≤ s.cyc.toNat)
    | none => false)
  | none => false

/-- The meaning of PROMISE_WAKE: the bundle tries again at its promise. -/
def execPromiseWake (ctx : Nat) (s : State) : Host.Outcome State Fault Refusal :=
  let c := s.ctx ctx
  .next (if c.st = .blocked ∧ c.reason = 3 ∧ ctx < residents ∧ promisePassed s c = true ∧ relocking s (coreOf ctx) = false then
    wake s ctx else s)

/-- WATCHDOG (R265). -/
def watchdog (cid : Nat) (s : State) : State :=
  let c := s.ctx cid
  if c.st = .blocked ∧ cid < residents ∧ c.reason ≠ 11 ∧ c.reason ≠ 14 ∧ c.spared = false ∧ c.blockedAt ≠ 0
      ∧ relocking s (coreOf cid) = false ∧ pastLimit (s.watchLimit cid) (s.cyc.toNat + 1 - c.blockedAt) = true then
    faultCtx s cid 0x86 0 0 0 c.point
  else s

/-- The meaning of WATCHDOG. -/
def execWatchdog (ctx : Nat) (s : State) : Host.Outcome State Fault Refusal := .next (watchdog ctx s)

/-- TRAP_ENTRY (R257): every writeback has completed. -/
def trapEntry (cid : Nat) (s : State) : State :=
  match (s.ctx cid).after with
  | .trapEntry t =>
    if (s.ctx cid).st = .blocked ∧ (s.ctx cid).pend = [] ∧ cid < residents ∧ relocking s (coreOf cid) = false then
      enterTrap ((spare s cid).updCtx cid (fun c => { c with after := .none })) cid t
    else s
  | _ => s

/-- The meaning of TRAP_ENTRY. -/
def execTrapEntry (ctx : Nat) (s : State) : Host.Outcome State Fault Refusal := .next (trapEntry ctx s)

/-- A saved context that was swapped out in a host-mode step stop. -/
def savedStop (n : Nat) (x : Saved) : Bool :=
  x.core * 4 + x.slot == n && x.prevSt == .blocked && x.ctx.reason == 14 && x.ctx.after == .step

/-- STEPREL (R268, R277): the resident context of that `CTXID`, or else one that was swapped out in its step stop, goes on; in a
relock pause it stays BLOCKED until the pause ends (R26). -/
def steprel (n : Nat) (s : State) : State :=
  let cid := n % 4096
  let c := s.ctx cid
  if c.st = .blocked ∧ c.reason = 14 ∧ c.after = .step then
    let s := (spare s cid).updCtx cid (fun c => { c with after := .none })
    if relocking s (coreOf cid) then s else wake s cid
  else match s.saved.find? (savedStop cid) with
    | none => s
    | some x => { s with saved := s.saved.map (fun y =>
        if y.id == x.id then
          { y with prevSt := readyState y.ctx.tlevel,
                   ctx := { y.ctx with reason := 0, after := .none,
                                       spared := y.ctx.spared || pastLimit (s.watchLimit y.id) (y.ctx.blockedAt - 1) } }
        else y) }

/-- The meaning of STEPREL. -/
def execSteprel (ctx : Nat) (s : State) : Host.Outcome State Fault Refusal := .next (steprel ctx s)

end Sys2Proof.Machine
end

