-- ==== Sys2Proof/Machine/Dispatcher.lean ====
section
/-! DEFINITION. Launches (R318 to R330, R334, R337 to R344): the descriptor, the checks of R327, placement, the load of a
block, traces, retirement, and the end of a launch; and the queues that feed them (R278 to R285). -/

namespace Sys2Proof.Machine

open Sys2Proof

/-! ### The descriptor (R318, R319) -/

/-- A level from its 8 bytes, with whether its Zero bits are zero. -/
def levelAt (d : List Byte) (l : Nat) : Level × Bool :=
  let w := leAt d (64 + 8 * l) 8
  ({ kind := bits w 39 32, trip := bits w 31 0 }, bits w 63 40 == 0)

/-- A kernel descriptor from its 256 bytes. -/
def kdescOf (d : List Byte) : KDesc :=
  let f := leAt d 38 2
  let ls := (List.range 6).map (levelAt d)
  { codebase := n64 (leAt d 0 8), entry := leAt d 8 4, tvofs := leAt d 12 4, parambase := n64 (leAt d 16 8), plen := leAt d 24 2,
    mode := leAt d 26 1, cpc := leAt d 27 1, tpc := leAt d 28 1, prio := leAt d 29 1, part := leAt d 30 1, slotid := leAt d 31 1,
    spb := leAt d 32 4, quota := leAt d 36 2, step := bitOf f 2, relaunchable := bitOf f 1, traced := bitOf f 0,
    tracebase := n64 (leAt d 40 8), tracesize := leAt d 48 4, plane := leAt d 52 1, ltbase := n64 (leAt d 56 8),
    levels := ls.map (·.1), mctab := n64 (leAt d 112 8),
    zeros := bits f 15 3 == 0 && leAt d 53 3 == 0 && ls.all (·.2) && (d.drop 120).all (fun b => b == 0) }

/-- An HBM-tier address of the issuing chip, written with CHIP 0x7FF, aligned to `n`. -/
def ownHbm (a : Word64) (n : Nat) : Bool := a.toNat / 2 ^ 52 == 0xFFE && a.toNat % n == 0

/-- Whether a field lies outside its range in R318 (reject code 0x02). -/
def KDesc.malformed (d : KDesc) : Bool :=
  !d.zeros || !ownHbm d.codebase 4 || d.entry % 4 != 0 || d.tvofs % 4 != 0 || d.parambase.toNat % 8 != 0
    || (d.plen == 0 && d.parambase != 0) || decide (4096 < d.plen) || d.plen % 8 != 0 || decide (2 < d.mode)
    || d.cpc == 0 || decide (4 < d.cpc) || decide (16 < d.tpc) || decide (7 < d.prio) || decide (31 < d.part)
    || decide (63 < d.slotid) || decide (2 ^ 20 < d.spb) || (d.traced && d.tracebase.toNat % 64 != 0)
    || (!d.traced && d.tracebase != 0) || decide (3 < d.plane) || d.ltbase.toNat % 64 != 0

/-- SPBA (R322). -/
def KDesc.spba (d : KDesc) : Nat := (d.spb + 4095) / 4096 * 4096

/-- The non-inert T levels, with their numbers (R319). -/
def KDesc.tLevels (d : KDesc) : List (Nat × Nat) :=
  (List.range 6).filterMap (fun l => match d.levels[l]? with
    | some v => if v.kind = 0 ∧ v.trip ≠ 1 then some (l, v.trip) else none
    | none => none)

/-- NBLK (R319). -/
def KDesc.nblk (d : KDesc) : Nat := d.levels.foldl (fun n l => if l.kind = 0 then n else n * l.trip) 1

/-- Whether the kernel has a D level. -/
def KDesc.hasD (d : KDesc) : Bool := d.levels.any (fun l => l.kind == 2)

/-- LIDX of a block, level by level (R321). -/
def lidxOf : List Level → Nat → List Nat
  | [], _ => []
  | l :: t, b => if l.kind = 0 then 0 :: lidxOf t b else b % l.trip :: lidxOf t (b / l.trip)

/-- The die index of a block (R321). -/
def dieIdx : List Level → List Nat → Nat → Nat
  | l :: t, i :: r, m => if l.kind = 2 then i * m + dieIdx t r (m * l.trip) else dieIdx t r m
  | _, _, _ => 0

/-! ### Placement (R322, R324, R325) -/

/-- The cores of a partition, in rising number, where it is ready (R27). -/
def partCores (s : State) (p : Nat) : List Nat :=
  match s.part p with
  | some x => if x.ready then x.cores else []
  | none => []

/-- The cores of a partition, ready or not. -/
def partAll (s : State) (p : Nat) : List Nat := ((s.part p).map (·.cores)).getD []

/-- The cores of a compute die hold 192 numbers. -/
def dieOf (g : Nat) : Nat := g / (2 * Config.coresPerCluster)

/-- The sets of home cores of a kernel's blocks among a partition's cores (R324): one per die, or one without a D level. -/
def homesIn (cs : List Nat) (d : KDesc) : List (List Nat) :=
  if cs = [] then [] else if d.hasD then
    ((List.range 4).map (fun x => cs.filter (fun g => dieOf g == x))).filter (fun l => !l.isEmpty)
  else [cs]

/-- The sets of home cores in a partition that is ready. -/
def homes (s : State) (part : Nat) (d : KDesc) : List (List Nat) := homesIn (partCores s part) d

/-- The home set of a block. -/
def homeSet (d : KDesc) (m b : Nat) : Nat := if m = 0 then 0 else dieIdx d.levels (lidxOf d.levels b) 1 % m

/-- A slot that a block can take is EMPTY (R322); a RETIRED or KILLED context leaves it in the next cycle (R249). -/
def slotFree (c : Context) : Bool := c.st == .empty

/-- Whether two half-open ranges meet. -/
def rangesMeet (a n b m : Nat) : Bool := decide (0 < n) && decide (0 < m) && decide (a < b + m) && decide (b < a + n)

/-- Whether the context in slot `q` of another launch owns tiles or a region that slot `k` of a launch needs (R322). -/
def slotClash (s : State) (lid : Option Nat) (d : KDesc) (k q : Nat) (regions : Bool) (c : Context) : Bool :=
  match c.launch with
  | none => false
  | some m =>
    if lid = some m ∨ slotFree c = true then false
    else match s.launchOf m with
      | none => false
      | some l => rangesMeet (k * d.tpc) d.tpc (q * l.kd.tpc) l.kd.tpc
          || (regions && rangesMeet (k * d.spba) d.spba (q * l.kd.spba) l.kd.spba)

/-- Whether slot `k` of core `g` is usable for a launch (R322), when context `out` has left it. -/
def slotUsable (s : State) (lid : Option Nat) (d : KDesc) (g k : Nat) (out : Option Nat) : Bool :=
  let c := s.core g
  decide (k < d.cpc) && (slotFree (s.ctx (g * 4 + k)) || out == some (g * 4 + k))
    && (List.range 4).all (fun q => out == some (g * 4 + q) || !slotClash s lid d k q true (s.ctx (g * 4 + q)))
    && s.saved.all (fun x => x.core != g || !slotClash s lid d k x.slot (x.ctx.st == .mewsIn) x.ctx)
    && !(c.mews.slot == k && (c.mews.phase == .preloading || c.mews.phase == .loaded))

/-- Whether pre-empted contexts of the partition are to be restored before a new block of this priority is loaded (R285). -/
def heldBack (s : State) (part prio : Nat) : Bool :=
  s.saved.any (fun x => !x.fresh && match x.ctx.launch.bind s.launchOf with
    | some l => l.part == part && decide (prio ≤ l.prio) && l.halt.isNone
    | none => false)

/-- The contexts of a launch on a core, resident or preloading. -/
def ctxCount (s : State) (lid : Nat) (g : Nat) : Nat :=
  ((List.range 4).filter (fun k => (s.ctx (g * 4 + k)).launch == some lid)).length
    + (s.saved.filter (fun x => x.core == g && x.ctx.st == .mewsIn && x.ctx.launch == some lid)).length

/-- The place of a block among its home cores (R324): the core with the fewest contexts of the launch, then the lowest number,
and on it the lowest usable slot. -/
def spotIn (s : State) (lid : Option Nat) (d : KDesc) (cores : List Nat) : Option (Nat × Nat) :=
  let l := cores.filterMap (fun g =>
    ((List.range d.cpc).find? (fun k => slotUsable s lid d g k none)).map
      (fun k => ((lid.map (fun i => ctxCount s i g)).getD 0, g, k)))
  (l.foldl (fun (best : Option (Nat × Nat × Nat)) x => match best with
    | none => some x
    | some b => if x.1 < b.1 then some x else some b) none).map (fun x => x.2)

/-- The first block from `b` on that a test accepts. -/
def scanFrom (f : Nat → Bool) : Nat → Nat → Option Nat
  | 0, _ => none
  | n + 1, b => if f b then some b else scanFrom f n (b + 1)

/-- The next block of a launch in home set `i` that is not loaded and that `f` accepts. -/
def nextIn (l : Launch) (m i : Nat) (f : Nat → Bool) : Option Nat :=
  let ok (b : Nat) : Bool := homeSet l.kd m b == i && f b
  match l.todo with
  | some t => t.find? ok
  | none =>
    let c := Sparse.get 0 l.next i
    scanFrom (fun b => ok b && !l.extra.contains b) (l.nblk - c) c

/-- The block of least number that can be placed now, with its core and slot. -/
def placeable (s : State) (l : Launch) : Option (Nat × Nat × Nat) :=
  if heldBack s l.part l.prio then none else
  let hs := homes s l.part l.kd
  let cand := (List.range hs.length).filterMap (fun i =>
    match nextIn l hs.length i (fun _ => true) with
    | none => none
    | some b => (spotIn s (some l.id) l.kd (hs.getD i [])).map (fun p => (b, p.1, p.2)))
  cand.foldl (fun (best : Option (Nat × Nat × Nat)) x => match best with
    | none => some x
    | some y => if x.1 < y.1 then some x else some y) none

/-- The blocks of home set `i` of `m` (R321, R324). -/
def setCount (d : KDesc) (m i : Nat) : Nat :=
  if d.hasD then
    let nd := d.levels.foldl (fun n l => if l.kind = 2 then n * l.trip else n) 1
    d.nblk / nd * (nd / m + (if i < nd % m then 1 else 0))
  else d.nblk

/-- Whether every set of home cores holds its blocks, where a core holds `room` of them. -/
def setsHold (d : KDesc) (hs : List (List Nat)) (room : Nat → Nat) : Bool :=
  !hs.isEmpty && (List.range hs.length).all (fun i =>
    decide (setCount d hs.length i ≤ ((hs.getD i []).map room).foldl (· + ·) 0))

/-- Whether every block of a kernel can be placed at once (R325). -/
def allFit (s : State) (part : Nat) (d : KDesc) : Bool :=
  setsHold d (homes s part d) (fun g => ((List.range d.cpc).filter (fun k => slotUsable s none d g k none)).length)

/-- Whether every block of a kernel fits the empty partition, powered or not (R327). -/
def everFits (s : State) (part : Nat) (d : KDesc) : Bool := setsHold d (homesIn (partAll s part) d) (fun _ => d.cpc)

/-! ### Traces (R337 to R344) -/

/-- Bytes of a trace area, written at their quay without a mark on any plane (R337, R341). -/
def pokeQuiet (s : State) (j : Nat) : Word64 → List Byte → State
  | _, [] => s
  | a, b :: t =>
    pokeQuiet (match locate s j a with
      | .ok pa _ => s.setByte pa b
      | _ => s) j (a + 1) t

/-- The first absent demand-zero page of a range. -/
def absentIn (s : State) (j : Nat) (a : Word64) (n : Nat) : Option (Nat × Nat) :=
  match rangeOf s j .any true a n with
  | .absent id p _ => some (id, p)
  | _ => none

/-- Writes to a range wait for its pages (R233). -/
def withRange (j : Nat) (a : Word64) (n : Nat) (f : State → State) (s : State) : State :=
  match absentIn s j a n with
  | some (id, p) => wantPage s j id p
  | none => f s

/-- The address of the record of block `b`. -/
def recAt (base : Word64) (b : Nat) : Word64 := base + n64 (4160 + 272 * b)

/-- The TRK segments of a job. -/
def trkSegs (s : State) (j : Nat) : List (Nat × Seg) :=
  (s.segs.filter (fun p => p.1 / 4096 == j && p.2.trk && p.2.st != .free)).map (fun p => (p.1 % 4096, p.2))

/-- Whether a plane has a tile of a segment set. -/
def planeSet (s : State) (j p seg t : Nat) : Bool :=
  (trkSegs s j).any (fun x => x.1 == seg && decide (t < (x.2.len + 16383) / 16384)
    && (s.byte (planeAddr x.2 p t)).getLsbD (t % 8))

/-- A plane of every TRK segment of the job is cleared (R342). -/
def clearPlane (s : State) (j p : Nat) : State :=
  (trkSegs s j).foldl (fun s x => s.clearRange (planeAddr x.2 p 0) (planeBytes x.2.len)) s

/-- Whether a record's range meets a tile set in a plane. -/
def recMeets (s : State) (j p : Nat) (d : List Byte) : Bool :=
  (List.range (min (bits (leAt d 8 8) 23 16) 32)).any (fun n =>
    let w := leAt d (16 + 8 * n) 8
    (List.range (bits w 11 0)).any (fun i => planeSet s j p (bits w 47 36) (bits w 35 12 + i)))

/-- Whether a block reruns (R343), its round not being a full one. -/
def reruns (s : State) (j p : Nat) (base : Word64) (b : Nat) : Bool :=
  let d := peek s j (recAt base b) 272
  let w := leAt d 8 8
  !bitOf w 3 || bitOf w 0 || bitOf w 1 || recMeets s j p d

/-- The blocks that a round of a traced kernel reruns; none for all of them. -/
def rerunSet (s : State) (j : Nat) (kd : KDesc) (relaunch : Bool) (params : List Byte) : Option (List Nat) :=
  let h := peek s j kd.tracebase 64
  if !relaunch || !kd.traced || leAt h 2 1 != 2 || leAt h 3 1 % 2 == 1 || leAt h 16 2 != params.length
      || peek s j (kd.tracebase + 64) params.length != params then none
  else some ((List.range kd.nblk).filter (reruns s j kd.plane kd.tracebase))

/-- The header and PCOPY of a round as it starts. -/
def startTrace (s : State) (j : Nat) (kd : KDesc) (kaddr : Word64) (relaunch : Bool) (params : List Byte) : State :=
  let h := peek s j kd.tracebase 64
  let h0 : List Byte := if relaunch then h else
    leBytes 2 0xC9D7 ++ [0, 0] ++ leBytes 4 kd.nblk ++ leBytes 8 kaddr.toNat ++ zeroBytes 2 ++ leBytes 1 kd.plane ++ zeroBytes 45
  let h1 := patch (patch h0 2 [1]) 16 (leBytes 2 params.length)
  pokeQuiet (clearPlane s j kd.plane) j kd.tracebase (h1 ++ params ++ zeroBytes (4096 - params.length))

/-- The completion steps of a trace (R343). -/
def endTrace (s : State) (j : Nat) (kd : KDesc) (nrerun : Nat) : State :=
  let self (b : Nat) : Bool := recMeets s j kd.plane (peek s j (recAt kd.tracebase b) 272)
  let t := (List.range kd.nblk).foldl (fun t b =>
    let w := leAt (peek t j (recAt kd.tracebase b + 8) 8) 0 8
    pokeQuiet t j (recAt kd.tracebase b + 8) (leBytes 8 (w - b2n (bitOf w 2) * 4 + b2n (self b) * 4))) s
  let h := peek s j kd.tracebase 64
  let any := (List.range kd.nblk).any self
  pokeQuiet t j kd.tracebase
    (patch (patch (patch h 2 [2, if any then 1 else 0]) 20 (leBytes 4 (leAt h 20 4 + 1))) 24 (leBytes 4 nrerun))

/-- The record of a block at its retirement (R338, R340). -/
def recBytes (block : Word64) (r : TraceRec) : List Byte :=
  leBytes 8 block.toNat ++ leBytes 8 (r.entries.length * 2 ^ 16 + 8 + b2n r.untrk * 2 + b2n r.ovf)
    ++ r.entries.flatMap (fun e => leBytes 8 (e.seg * 2 ^ 36 + e.first * 2 ^ 12 + e.count))
    ++ zeroBytes (8 * (32 - r.entries.length))

/-! ### Loading a block (R34, R323) -/

/-- `SEED` of a block (R41). -/
def seedOf (b : Nat) : BitVec 16 :=
  let x := BitVec.ofNat 16 b ^^^ 0x5A5A
  if x = 0 then 1 else x

/-- The loop frame of a block; empty without a T level. -/
def frameOf (s : State) (l : Launch) : List Byte :=
  let ts := l.kd.tLevels
  if ts = [] then [] else
    let trips := ts.flatMap (fun t => leBytes 4 t.2)
    trips ++ zeroBytes (64 - trips.length) ++ ts.flatMap (fun t =>
      if l.kd.ltbase = 0 then zeroBytes 64 else peek s l.job (l.kd.ltbase + n64 (64 * t.1)) 64)

/-- The context of a new block. -/
def newCtx (s : State) (l : Launch) (b : Nat) : Context :=
  { Context.empty with
    st := .ready, pc := l.kd.codebase + n64 l.kd.entry, seed := seedOf b, tvec := l.kd.codebase + n64 l.kd.tvofs,
    blockid := n64 b, lidx := (lidxOf l.kd.levels b).map (BitVec.ofNat 32), kdesc := l.pkt.kdesc, param := l.paramAddr,
    slotid := l.kd.slotid, stepctl := if l.kd.step then 3 else 0, constBuf := peek s l.job l.paramAddr l.kd.plen,
    launch := some l.id, trec := if l.kd.traced then some { entries := [], untrk := false, ovf := false } else none }

/-- The tiles of slot `k` of a launch. -/
def slotTiles (d : KDesc) (k : Nat) : List Nat := (List.range d.tpc).map (fun i => k * d.tpc + i)

/-- Tiles of a core made zero with IMODE 0. -/
def zeroTiles (s : State) (g : Nat) (ts : List Nat) : State :=
  let s := ts.foldl (fun s t => s.updTile g t (fun _ => Tile.zero)) s
  (s.updCore g (fun c => { c with mews := { c.mews with fill := c.mews.fill.filter (fun p => !ts.contains p.1) } })).goodLanes g
    (fun t _ => ts.contains t)

/-- A launch takes note that a block is loaded. -/
def noteLoaded (s : State) (lid b : Nat) : State :=
  s.updLaunch lid (fun l =>
    let i := homeSet l.kd (homes s l.part l.kd).length b
    let l := { l with loaded := l.loaded + 1 }
    match l.todo with
    | some t => { l with todo := some (t.filter (· != b)) }
    | none =>
      if nextIn l (homes s l.part l.kd).length i (fun _ => true) = some b then { l with next := Sparse.set 0 l.next i (b + 1) }
      else { l with extra := l.extra ++ [b] })

/-- A waiting request for a block that has been placed falls away. -/
def dropRequest (s : State) (lid b : Nat) : State :=
  { s with preReqs := s.preReqs.filter (fun r => r.inc != some (.block lid b)) }

/-- Block `b` is loaded into slot `k` of core `g`. -/
def loadBlock (s : State) (l : Launch) (b g k : Nat) : State :=
  let c := newCtx s l b
  let s := wrBytes s (spAddr g (k * l.kd.spba)) (frameOf s l)
  let s := zeroTiles s g (slotTiles l.kd k)
  dropRequest (noteLoaded (s.setCtx (g * 4 + k) c) l.id b) l.id b

/-- BLOCK_LOAD (R324): the next block that can be placed. -/
def loadNext (lid : Nat) (s : State) : State :=
  match s.launchOf lid with
  | none => s
  | some l =>
    if l.halt.isSome then s
    else match placeable s l with
      | none => s
      | some (b, g, k) => loadBlock s l b g k

/-- Loads as long as blocks can be placed. -/
def loadAll (lid : Nat) : Nat → State → State
  | 0, s => s
  | n + 1, s => if (loadNext lid s) = s then s else loadAll lid n (loadNext lid s)

/-- The meaning of BLOCK_LOAD: of a CONC launch that pre-emption has dispatched (R285), as many blocks as room has appeared for. -/
def execBlockLoad (launch : Nat) (s : State) : Host.Outcome State Fault Refusal :=
  .next (match s.launchOf launch with
    | none => s
    | some l => if l.kd.mode = 2 then loadAll launch (l.nblk - l.loaded) s else loadNext launch s)

/-! ### Packets and their waits (R279, R281, R282) -/

/-- The pod address of this chip that a packet's counter names. -/
def podHere (a : Word64) : Word64 := n64 (0x7FF * 2 ^ 53 + a.toNat % 2 ^ 53)

/-- How an address of a packet translates for `need` over `n` bytes: ready, waiting for ZEROING, or failing with its code. -/
inductive Reach where
  | ok
  | wait
  | fail (code : Nat)
  deriving DecidableEq, Repr

/-- A packet's or descriptor's range on this chip. -/
def reachOn (s : State) (j : Nat) (need : Need) (a : Word64) (n : Nat) : Reach :=
  if s.place j a ≠ .here then .fail 0x80
  else match rangeOf s j need false (podHere a) n with
    | .ok => .ok
    | .absent .. => .ok
    | .zeroing _ => .wait
    | .miss k _ _ => .fail (missFault k)

/-- A counter of a packet; a misaligned one is no counter. -/
def ctrReachOn (s : State) (j : Nat) (a : Word64) : Reach := if a.toNat % 8 ≠ 0 then .fail 0x80 else reachOn s j .add a 8

/-- The waits of a packet. -/
def Packet.waits (p : Packet) : List (Word64 × Word64) :=
  [(p.wctr0, p.wval0), (p.wctr1, p.wval1)].take (min p.nwait 2)

/-- Whether a counter of a packet fails translation. -/
def Reach.fails : Reach → Bool
  | .fail _ => true
  | .ok => false
  | .wait => false

/-- Whether a packet's waits let it go on: every one is satisfied, or some counter fails translation, which rejects it (R281). -/
def waitsDone (s : State) (j : Nat) (p : Packet) : Bool :=
  p.waits.any (fun w => (ctrReachOn s j w.1).fails)
    || p.waits.all (fun w => ctrReachOn s j w.1 == .ok && decide (w.2.toNat ≤ leNat (peek s j (podHere w.1) 8)))

/-- The packet at the head of a queue (R279). -/
def headPacket (s : State) (q : Queue) : Packet :=
  packetOf (rdBytes s (hbmAddr (q.base.toNat + 256 * (q.head.toNat % 2 ^ bits q.ctl.toNat 4 0))) 256)

/-- A queue looks at its head (R282): IDLE without a packet, else BLOCKED or READY by the packet's waits. -/
def settleHead (s : State) (qn : Nat) : State :=
  let q := s.queue qn
  if q.tail = q.head then s.updQueue qn (fun q => { q with st := .idle, pkt := none, readyAt := 0 })
  else
    let p := headPacket s q
    s.updQueue qn (fun q => { q with
      st := if waitsDone s q.job p then .ready else .blocked, pkt := some p, readyAt := 0 })

/-- The head packet is settled: the index moves on, and the queue takes its next state. -/
def nextPacket (s : State) (qn : Nat) (st : Option QState) : State :=
  let s := s.updQueue qn (fun q => { q with head := q.head + 1, pkt := none, readyAt := 0 })
  match st with
  | none => settleHead s qn
  | some x => s.updQueue qn (fun q => { q with st := x })

/-! ### Context numbers in the engines -/

/-- A unit with a context renumbered. -/
def renameUnit (old new : Nat) (u : UnitId) : UnitId := if u.kind = 0 ∧ u.inst = old then { u with inst := new } else u

/-- Every reference of the engines to context `old` names `new` instead: the context has left its slot, returned to it, or
ended while its jobs go on. -/
def renameCtx (old new : Nat) (s : State) : State :=
  let f (c : Nat) : Nat := if c = old then new else c
  let m (l : List MEntry) : List MEntry := l.map (fun e => { e with ctx := f e.ctx })
  let lb (b : LockBit) : LockBit := match b with
    | .clear => .clear
    | .held c => .held (f c)
    | .granted c => .granted (f c)
  let gr (l : List GRec) : List GRec := l.map (fun r => { r with ctx := f r.ctx })
  { s with
    cores := Sparse.mapV Core.cold (fun _ k => { k with
      mq := m k.mq, savedOps := m k.savedOps, jobs := k.jobs.map (fun j => { j with ctx := f j.ctx }),
      locks := Sparse.mapV .clear (fun _ b => lb b) k.locks }) s.cores,
    saved := s.saved.map (fun x => { x with ops := m x.ops }),
    quays := Sparse.mapV Quay.cold (fun _ q => { q with
      subs := Sparse.mapV none (fun _ b => b.map (fun x => { x with ctx := f x.ctx })) q.subs }) s.quays,
    coll := Sparse.mapV CollEngine.cold (fun _ e => { e with queue := gr e.queue, flying := gr e.flying }) s.coll,
    ports := Sparse.mapV Port.cold (fun _ p => { p with buf := p.buf.map (fun x => { x with ctx := f x.ctx }) }) s.ports,
    fills := s.fills.map (fun r => { r with ctx := f r.ctx }),
    deferred := s.deferred.map (fun d => { d with ctx := f d.ctx }),
    launches := s.launches.map (fun l => { l with halt := l.halt.map (fun h => { h with
      unit := renameUnit old new h.unit, waiting := h.waiting.map (renameUnit old new),
      done := h.done.map (renameUnit old new) }) }) }

/-- The jobs of a context that ends keep a number of their own. -/
def setGone (s : State) (cid : Nat) : State :=
  renameCtx cid (gone + s.num * 4096 + s.ctxid cid) { s with num := s.num + 1 }

/-! ### Retirement (R328, R340) -/

/-- The open ring subscriptions of a context close, as `XUNSUB` with no counter. -/
def closeRings (s : State) (cid : Nat) : State :=
  { s with quays := Sparse.mapV Quay.cold (fun _ q => { q with
      subs := Sparse.mapV none (fun _ b => b.map (fun y =>
        if y.ctx = cid ∧ y.closing = false then
          { y with closing := true, ctr := 0,
                   tnums := if y.ring.storer then y.tnums else y.tnums.filter (fun t => (y.prog.map (·.1)) == some t.1) }
        else y)) q.subs }) s.quays }

/-- What a context keeps once its block has retired: its registers. -/
def Context.retire (c : Context) : Context :=
  { c with st := .retired, reason := 0, after := .none, owed := none, held := .none, nest := .none, tlevel := 0, mask := false,
           snapv := false, l2snap := false, snap := .zero, locks := [], claim := none, lockWait := none, grant := .none,
           mgrant := .none, blockedAt := 0, launch := none, trec := none, loss := 0, firstLost := 0 }

/-- The block of a context retires. -/
def retireCtx (s : State) (cid : Nat) (l : Launch) : State :=
  let c := s.ctx cid
  let s := closeRings (releaseLocks s cid) cid
  let s := match c.trec with
    | some r => pokeQuiet s l.job (recAt l.kd.tracebase c.blockid.toNat) (recBytes c.blockid r)
    | none => s
  let s := s.updLaunch l.id (fun l => { l with retired := l.retired + 1, lost := l.lost || decide (0 < c.loss) })
  (setGone s cid).updCtx cid Context.retire

/-- RETIREMENT (R328): a context that has issued `HALTB` has no matrix operation and no writeback outstanding. -/
def retirement (cid : Nat) (s : State) : State :=
  let c := s.ctx cid
  match s.ctxLaunch cid with
  | none => s
  | some l =>
    if residents ≤ cid ∨ c.st ≠ .blocked ∨ c.after ≠ .haltb ∨ c.out ≠ 0 ∨ c.pend ≠ [] ∨ l.halt.isSome = true
        ∨ relocking s (coreOf cid) = true then s
    else if c.trec.isSome then withRange l.job (recAt l.kd.tracebase c.blockid.toNat) 272 (fun s => retireCtx s cid l) s
    else retireCtx s cid l

/-- The meaning of RETIREMENT. -/
def execRetirement (ctx : Nat) (s : State) : Host.Outcome State Fault Refusal := .next (retirement ctx s)

/-! ### The end of a launch (R329, R334, R336, R284) -/

/-- A pool entry becomes free. -/
def freePool (s : State) (e : Nat) : State := s.setEntry e { s.entry e with st := .free }

/-- Whether a launch is still in progress: it has neither completed nor been settled by its fault completion. -/
def inProgress (s : State) (lid : Nat) : Bool :=
  match s.launchOf lid with
  | some l => match l.halt with
    | some h => !h.posted
    | none => true
  | none => false

/-- A child's entry keeps its status while its parent goes on, and is freed once both have ended (R334). -/
def endChild (s : State) (e : Nat) (parent : Nat) (status : Word64) : State :=
  if inProgress s parent then s.setEntry e { s.entry e with st := .ended parent status } else freePool s e

/-- A launch has ended: what remains of its reservation, and the entries of its ended children, are freed. -/
def freeReserve (s : State) (lid : Nat) : State :=
  let left := ((s.launchOf lid).map (·.left)).getD []
  let s := left.foldl freePool s
  let s := s.updLaunch lid (fun l => { l with left := [] })
  { s with pool := Sparse.mapV PoolEntry.free (fun _ e => match e.st with
      | .ended p _ => if p = lid then { e with st := .free } else e
      | _ => e) s.pool }

/-- A launch leaves the machine. -/
def dropLaunch (s : State) (lid : Nat) : State :=
  let s := freeReserve s lid
  { s with launches := s.launches.filter (fun l => l.id != lid) }

/-- A join status (R336). -/
def joinStatus (code status : Nat) : Word64 := n64 (code * 2 ^ 16 + status)

/-- How the CCTR add of a completion goes (R284): made, or not made with its code; a wait leaves it for later. -/
inductive Added where
  | done (s : State)
  | code (c : Nat) (s : State)
  | later (s : State)

/-- The CCTR add, as a release (R210). -/
def addCompletion (s : State) (j : Nat) (a v : Word64) : Added :=
  if a = 0 then .done s
  else match reachOn s j .add a 8 with
    | .fail c => .code c s
    | .wait => .later s
    | .ok =>
      match absentIn s j (podHere a) 8 with
      | some (id, p) =>
        if s.fillFail.contains (j, id, p) then .code 0x80 { s with fillFail := s.fillFail.filter (· != (j, id, p)) }
        else .later (wantPage s j id p)
      | none => .done (addCtr s j 0 (podHere a) v.toNat)

/-- The record and the next state that follow a completion with its code. -/
def postCompletion (s : State) (qn idx : Nat) (entry parent : Option Nat) (intr : Bool) (code join : Nat) : State :=
  match entry, parent with
  | some e, some p => endChild s e p (joinStatus join 0)
  | _, _ =>
    let drain := (s.queue qn).st == .draining
    let s := postRecord s qn (evtRecord s 0x10 code idx 0 0) intr
    let s := s.updQueue qn (fun q => { q with launch := none })
    nextPacket s qn (if drain then some .disabled else none)

/-- Whether work of a launch remains in the engines or on the links (R329). -/
def workLeft (s : State) (lid : Nat) : Bool :=
  s.cores.any (fun p => p.2.jobs.any (fun x => x.launch == lid) || p.2.mq.any (fun e => e.launch == lid)
    || p.2.savedOps.any (fun e => e.launch == lid))
  || s.quays.any (fun q => q.2.subs.any (fun p => (p.2.map (fun x => x.launch == lid)).getD false))
  || s.coll.any (fun e => (e.2.queue ++ e.2.flying).any (fun r => r.launch == lid))
  || s.ports.any (fun p => p.2.buf.any (fun f => f.launch == lid))

/-- Whether a launch's work is all done (R329). -/
def workDone (s : State) (l : Launch) : Bool := l.halt.isNone && l.full && l.retired == l.loaded && !workLeft s l.id

/-- The completion of a launch whose blocks have retired and whose work is done. -/
def completeLaunch (s : State) (l : Launch) : State :=
  let fin (s : State) (code : Nat) : State :=
    let t := if l.kd.traced then endTrace s l.job l.kd l.retired else s
    let j := if l.lost then 0x51 else 0
    postCompletion (dropLaunch t l.id) l.queue l.index l.entry l.parent (bitOf l.pkt.flags 0) (if code = 0 then j else code) j
  match addCompletion s l.job l.pkt.cctr l.pkt.caddv with
  | .later s => s
  | .code c t => fin t c
  | .done _ =>
    match addCompletion (if l.kd.traced then endTrace s l.job l.kd l.retired else s) l.job l.pkt.cctr l.pkt.caddv with
    | .done t =>
      let j := if l.lost then 0x51 else 0
      postCompletion (dropLaunch t l.id) l.queue l.index l.entry l.parent (bitOf l.pkt.flags 0) j j
    | .code c t => fin t c
    | .later t => t

/-- The meaning of LAUNCH_COMPLETION (R329). -/
def execLaunchCompletion (launch : Nat) (s : State) : Host.Outcome State Fault Refusal :=
  .next (match s.launchOf launch with
    | none => s
    | some l => if workDone s l then completeLaunch s l else s)

/-- The meaning of EVENT_RECORD (R284): the oldest waiting record is written once the ring has room. -/
def execEventRecord (q : Nat) (s : State) : Host.Outcome State Fault Refusal :=
  onUnit q 8192 (fun s => match (s.queue q).waiting with
    | [] => s
    | (rec, intr) :: t =>
      if (s.queue q).evtFull then s else putRecord (s.updQueue q (fun x => { x with waiting := t })) q rec intr) s

/-! ### Candidates (R283) -/

/-- A candidate for dispatch: its packet, job, partition, the priority it is compared at, the queue and index that its records
name, and for a child its entry and parent. -/
structure Cand where
  pkt : Packet
  job : Nat
  part : Nat
  prio : Nat
  queue : Nat
  index : Nat
  entry : Option Nat
  parent : Option Nat
  since : Nat
  deriving DecidableEq, Repr

/-- PRIO and PART of a queue (R278). -/
def Queue.prio (q : Queue) : Nat := bits q.ctl.toNat 7 5
def Queue.part (q : Queue) : Nat := bits q.ctl.toNat 12 8

/-- The priority at which a queue's head packet is compared (R283, R320): the lower of the queue's and of its descriptor's; the queue's
where the packet has no descriptor that can be read (log entry 57). -/
def packetPrio (s : State) (q : Queue) (p : Packet) : Nat :=
  if p.type = 3 ∨ reachOn s q.job .read p.kdesc 256 ≠ .ok then q.prio
  else min q.prio (kdescOf (peek s q.job (podHere p.kdesc) 256)).prio

/-- The READY queues of a partition that have no record waiting. -/
def queueCands (s : State) (part : Nat) : List Cand :=
  s.queues.filterMap (fun p => match p.2.pkt with
    | some k =>
      if p.2.st = .ready ∧ p.2.part = part ∧ p.2.waiting = [] then
        some { pkt := k, job := p.2.job, part := part, prio := packetPrio s p.2 k, queue := p.1, index := p.2.head.toNat, entry := none,
               parent := none, since := 0 }
      else none
    | none => none)

/-- The children of a partition whose waits are satisfied. -/
def childCands (s : State) (part : Nat) : List Cand :=
  s.pool.filterMap (fun p => match p.2.st with
    | .waiting k parent prio since job cp q i =>
      if cp = part ∧ waitsDone s job k = true then
        some { pkt := k, job := job, part := cp, prio := prio, queue := q, index := i, entry := some p.1, parent := some parent,
               since := since }
      else none
    | _ => none)

/-- The first of a list by a strict order. -/
def leastBy {α : Type} (lt : α → α → Bool) : List α → Option α
  | [] => none
  | x :: t => match leastBy lt t with
    | none => some x
    | some y => if lt y x then some y else some x

/-- The candidate of a partition: the highest priority, children before queues and the oldest first, and among queues the next
in rising number after the last dispatched at that priority. -/
def candidate (s : State) (part : Nat) : Option Cand :=
  let ch := leastBy (fun a b => decide (b.prio < a.prio) || (a.prio == b.prio && decide (a.since < b.since))) (childCands s part)
  let turn (c : Cand) : Nat := (c.queue + 8192 - (Sparse.get 8191 s.lastDisp (part * 8 + c.prio) + 1) % 8192) % 8192
  let qu := leastBy (fun a b => decide (b.prio < a.prio) || (a.prio == b.prio && decide (turn a < turn b))) (queueCands s part)
  match ch, qu with
  | none, x => x
  | x, none => x
  | some c, some q => if c.prio < q.prio then some q else some c

/-! ### The checks of R327 -/

/-- What a check of a candidate finds. -/
inductive Check where
  | pass
  | wait
  | code (n : Nat)
  deriving DecidableEq, Repr

/-- A condition that rejects. -/
def failIf (b : Bool) (n : Nat) : Check := if b then .code n else .pass

/-- A range that must be readable. -/
def mustReach (r : Reach) (n : Nat) : Check :=
  match r with
  | .ok => .pass
  | .wait => .wait
  | .fail _ => .code n

/-- The first check that does not pass. -/
def firstCheck : List Check → Check
  | [] => .pass
  | c :: t => if c = .pass then firstCheck t else c

/-- Whether a word of a range on this chip is marked as an uncorrectable error. -/
def rangeEcc (s : State) (j : Nat) (a : Word64) (n : Nat) : Bool :=
  (List.range (n / 8)).any (fun i => match locate s j (podHere a + n64 (8 * i)) with
    | .ok pa _ => s.eccWords.contains (pa / 8)
    | _ => false)

/-- A range that the dispatcher reads: translation with R, and no error in it. -/
def mustRead (s : State) (j : Nat) (a : Word64) (n code : Nat) : Check :=
  match mustReach (reachOn s j .read a n) code with
  | .pass => failIf (rangeEcc s j a n) code
  | c => c

/-- A malformed stride record (R106). -/
def strideBad (d : List Byte) : Bool :=
  bits (leAt d 0 8) 63 40 != 0 || bits (leAt d 0 8) 7 4 != 0 || decide (8 < bits (leAt d 0 8) 3 0) || leAt d 40 24 != 0

/-- The candidate's descriptor. -/
def candDesc (s : State) (c : Cand) : KDesc := kdescOf (peek s c.job (podHere c.pkt.kdesc) 256)

/-- The parameter block's address. -/
def candParam (c : Cand) (d : KDesc) : Word64 := if c.pkt.param ≠ 0 then c.pkt.param else d.parambase

/-- The trace's owner of a plane. -/
def State.owner (s : State) (j p : Nat) : Option (Nat × Nat) := Sparse.get none s.planeOwner (j * 4 + p)

/-- A trace area must lie in one W segment of this chip (R337). -/
def traceSeg (s : State) (j : Nat) (a : Word64) (n : Nat) : Check :=
  match mustReach (reachOn s j .write a n) 0x0A with
  | .pass => match s.lookup j false (ofsOf a) with
    | some (_, e) => failIf (decide (e.vbase + e.len < ofsOf a + n)) 0x0A
    | none => .code 0x0A
  | c => c

/-- The checks on the packet alone. -/
def packetChecks (s : State) (c : Cand) : List Check :=
  let p := c.pkt
  [failIf (!(decide (1 ≤ p.type) && decide (p.type ≤ 3)) || decide (4 ≤ p.flags) || decide (2 < p.nwait) || !p.zeros
      || (c.entry.isSome && p.flags != 0)) 0x0E,
    if p.cctr = 0 then .pass else mustReach (ctrReachOn s c.job p.cctr) 0x0F]
  ++ p.waits.map (fun w => mustReach (ctrReachOn s c.job w.1) 0x0F)

/-- The checks on the descriptor, in the order of R327; TYPE 3 has none. -/
def descChecks (s : State) (c : Cand) : List Check :=
  let d := candDesc s c
  let ts := d.tLevels
  let own := s.owner c.job d.plane
  let part := s.part c.part
  [failIf (c.pkt.kdesc.toNat % 64 != 0 || tierOf c.pkt.kdesc) 0x01, mustRead s c.job c.pkt.kdesc 256 0x01,
    failIf (d.malformed || (d.traced && s.place c.job d.tracebase == .here && !tierOf d.tracebase && !ownHbm d.tracebase 64)) 0x02,
    failIf (d.part != c.part) 0x03,
    failIf ((part.map (fun x => x.slotid != d.slotid)).getD true) 0x04,
    failIf (d.levels.any (fun l => l.trip == 0 || decide (2 < l.kind)) || decide (2 ^ 32 - 1 < d.nblk)) 0x05,
    failIf (decide (16 < d.cpc * d.tpc) || decide (2 ^ 20 < d.cpc * d.spba)
      || (!ts.isEmpty && decide (d.spb < 64 + 64 * ts.length))) 0x06,
    failIf (d.mode == 2 && !everFits s c.part d) 0x07,
    if d.plen = 0 then .pass else mustRead s c.job (candParam c d) d.plen 0x08]
  ++ (if d.ltbase = 0 then [] else ts.flatMap (fun t =>
        let a := d.ltbase + n64 (64 * t.1)
        [mustRead s c.job a 64 0x09, failIf (strideBad (peek s c.job (podHere a) 64)) 0x09]))
  ++ (if d.traced then
        [failIf (d.mode != 0 || d.quota != 0 || decide (d.tracesize < 4160 + 272 * d.nblk)) 0x0A,
          failIf (tierOf d.tracebase) 0x0A, traceSeg s c.job d.tracebase d.tracesize,
          failIf ((own.map (fun o => o.1 != d.tracebase.toNat && inProgress s o.2)).getD false) 0x0A]
      else [])
  ++ [failIf (c.pkt.type == 2 && (!d.relaunchable
        || (d.traced && (own.map (fun o => o.1 != d.tracebase.toNat)).getD true))) 0x0B]
  ++ (if d.mctab = 0 then [] else
        mustRead s c.job d.mctab 512 0x0C
        :: (List.range 8).map (fun g => failIf (memberBad (peek s c.job (podHere d.mctab + n64 (64 * g)) 64)) 0x0C))
  ++ [failIf (decide (1024 < d.quota)
        || ((c.parent.map (fun p => decide ((((s.launchOf p).map (·.left.length)).getD 0) < d.quota))).getD false)) 0x0D]

/-- The outcome of every check of a candidate. -/
def checkCand (s : State) (c : Cand) : Check :=
  firstCheck (packetChecks s c ++ if c.pkt.type = 3 then [] else descChecks s c)

/-! ### Dispatch (R282 to R285, R325, R330) -/

/-- The free entries of the pool, from a freely chosen one on (log entry 11). -/
def freeEntries (s : State) : List Nat :=
  ((List.range 1024).map (fun i => (Config.pick s.free + i) % 1024)).filter (fun e => (s.entry e).st == .free)

/-- The priority of the candidate's launch (R320), at which it was compared. -/
def launchPrio (c : Cand) (d : KDesc) : Nat := if c.parent.isSome then c.prio else min c.prio d.prio

/-- Whether the reservation of a candidate is free: a host queue's in the pool (R325), a child's in its parent's. -/
def quotaFree (s : State) (c : Cand) (d : KDesc) : Bool :=
  c.parent.isSome || decide (d.quota ≤ (freeEntries s).length)

/-- A relaunch waits for an earlier round of its trace (R344). -/
def roundFree (s : State) (c : Cand) (d : KDesc) : Bool :=
  !d.traced || !((s.owner c.job d.plane).map (fun o => o.1 == d.tracebase.toNat && inProgress s o.2)).getD false

/-- Whether a candidate has room (R325). -/
def hasRoom (s : State) (c : Cand) (d : KDesc) : Bool :=
  quotaFree s c d && roundFree s c d && !heldBack s c.part (launchPrio c d)
    && (if d.mode = 2 then allFit s c.part d
        else let hs := homes s c.part d
          (spotIn s none d (hs.getD (homeSet d hs.length 0) [])).isSome)

/-- A candidate is rejected (R282, R327, R334). -/
def reject (s : State) (c : Cand) (code : Nat) : State :=
  match c.entry, c.parent with
  | some e, some p =>
    endChild (postRecord s c.queue (evtRecord s 0x12 code c.index 0 0) false) e p (joinStatus code 2)
  | _, _ => nextPacket (postRecord s c.queue (evtRecord s 0x12 code c.index 0 0) (bitOf c.pkt.flags 0)) c.queue (some .faulted)

/-- The queue or the entry of a dispatched candidate takes note of its launch. -/
def noteDispatch (s : State) (c : Cand) (lid : Nat) : State :=
  match c.entry, c.parent with
  | some e, some p => s.setEntry e { s.entry e with st := .running p lid }
  | _, _ =>
    { s.updQueue c.queue (fun q => { q with st := .running, launch := some lid, stopWr := 0, readyAt := 0 }) with
      lastDisp := Sparse.set 8191 s.lastDisp (c.part * 8 + c.prio) c.queue }

/-- The reservation of a new launch (R330, R334). -/
def reserveQuota (s : State) (c : Cand) (d : KDesc) (lid : Nat) : State × List Nat :=
  match c.parent with
  | some p =>
    let l := (((s.launchOf p).map (·.left)).getD []).take d.quota
    (l.foldl (fun s e => s.setEntry e { s.entry e with st := .reserved lid })
      (s.updLaunch p (fun y => { y with left := y.left.drop d.quota })), l)
  | none =>
    let l := (freeEntries s).take d.quota
    (l.foldl (fun s e => s.setEntry e { s.entry e with st := .reserved lid }) (if d.quota = 0 then s else s.tick), l)

/-- A LAUNCH or RELAUNCH packet becomes a launch, with no block loaded yet. -/
def startLaunch (s : State) (c : Cand) (d : KDesc) : State × Nat :=
  let lid := s.num
  let s := { s with num := s.num + 1 }
  let relaunch := c.pkt.type == 2
  let params := peek s c.job (podHere (candParam c d)) d.plen
  let todo := rerunSet s c.job d relaunch params
  let s := if d.traced then
      { startTrace s c.job d c.pkt.kdesc relaunch params with
        planeOwner := Sparse.set none s.planeOwner (c.job * 4 + d.plane) (some (d.tracebase.toNat, lid)) }
    else s
  let r := reserveQuota s c d lid
  let mc : Sparse (List Nat) := if d.mctab = 0 then [] else
    (List.range 8).foldl (fun t g => Sparse.set [] t g (memberList (peek s c.job (podHere d.mctab + n64 (64 * g)) 64))) []
  let l : Launch :=
    { id := lid, queue := c.queue, index := c.index, job := c.job, part := c.part, prio := launchPrio c d, kd := d, pkt := c.pkt,
      paramAddr := candParam c d, nblk := d.nblk, todo := todo, next := [], extra := [], loaded := 0, retired := 0, left := r.2,
      entry := c.entry, parent := c.parent, mc := mc, halt := none, lost := false, relaunch := relaunch }
  (noteDispatch { r.1 with launches := r.1.launches ++ [l] } c lid, lid)

/-- A WAIT packet completes at once. -/
def completeWait (s : State) (c : Cand) : State :=
  let s := match c.entry with
    | some _ => s
    | none => { s.updQueue c.queue (fun q => { q with stopWr := 0 }) with
        lastDisp := Sparse.set 8191 s.lastDisp (c.part * 8 + c.prio) c.queue }
  match addCompletion s c.job c.pkt.cctr c.pkt.caddv with
  | .done t => postCompletion t c.queue c.index c.entry c.parent (bitOf c.pkt.flags 0) 0 0
  | .code n t => postCompletion t c.queue c.index c.entry c.parent (bitOf c.pkt.flags 0) n 0
  | .later t => t

/-- A candidate without room takes note of the cycle, for the pre-emption of R285. -/
def noteLack (s : State) (c : Cand) : State :=
  if c.entry.isSome then s
  else s.updQueue c.queue (fun q => { q with readyAt := if q.readyAt = 0 then s.cyc.toNat + 1 else q.readyAt })

/-- The pages of a trace area must be present before a round writes there (R233). -/
def withTrace (c : Cand) (d : KDesc) (f : State → State) (s : State) : State :=
  if d.traced then withRange c.job d.tracebase d.tracesize f s else f s

/-- A launch that has room is dispatched; the blocks of a CONC launch are loaded with it, together (R325). -/
def dispatchNow (c : Cand) (d : KDesc) (s : State) : State :=
  let r := startLaunch s c d
  if d.mode = 2 then loadAll r.2 d.nblk r.1 else r.1

/-- DISPATCH: the candidate of a partition is rejected, dispatched, or left waiting. -/
def dispatchPart (part : Nat) (s : State) : State :=
  match candidate s part with
  | none => s
  | some c =>
    match checkCand s c with
    | .code n => reject s c n
    | .wait => s
    | .pass =>
      if c.pkt.type = 3 then completeWait s c
      else
        let d := candDesc s c
        if hasRoom s c d then withTrace c d (dispatchNow c d) s else noteLack s c

/-- The meaning of DISPATCH. -/
def execDispatch (part : Nat) (s : State) : Host.Outcome State Fault Refusal := onUnit part 32 (dispatchPart part) s

/-! ### Pre-emption by the scheduler and the host (R252, R285) -/

/-- A context that R252 lets a request name as outgoing. -/
def mayLeave (s : State) (cid : Nat) : Bool :=
  let c := s.ctx cid
  (match s.ctxLaunch cid with
    | some l => l.kd.mode != 2
    | none => false)
  && (match c.st with
    | .ready => true
    | .running => true
    | .blocked => true
    | .sleeping => true
    | .trap1 => true
    | .trap2 => true
    | _ => false)

/-- The outgoing contexts for a candidate, in the order of R285: lowest launch priority, then highest core, then highest
slot. -/
def victims (s : State) (c : Cand) (d : KDesc) : List Nat :=
  let all := (partCores s c.part).reverse.flatMap (fun g => [3, 2, 1, 0].map (fun k => g * 4 + k))
  let prioOf (x : Nat) : Nat := ((s.ctxLaunch x).map (·.prio)).getD 8
  let ok (x : Nat) : Bool := mayLeave s x && decide (prioOf x < launchPrio c d)
    && !(s.preReqs.any (fun r => r.core == coreOf x && r.slot == slotOf x))
  (List.range 8).flatMap (fun p => all.filter (fun x => ok x && prioOf x == p))

/-- One request per block still needed: a context on the block's home cores whose slot would be usable. -/
def nameVictims (s : State) (l : Launch) : List Nat → List Nat → List PreReq
  | [], _ => []
  | x :: t, named =>
    let hs := homes s l.part l.kd
    let sets := (List.range hs.length).filter (fun i => (hs.getD i []).contains (coreOf x))
    let blk := (sets.filterMap (fun i => nextIn l hs.length i (fun b => !named.contains b))).head?
    match blk with
    | some b =>
      if slotUsable s (some l.id) l.kd (coreOf x) (slotOf x) (some x) then
        { core := coreOf x, slot := slotOf x, inc := some (.block l.id b), host := false } :: nameVictims s l t (b :: named)
      else nameVictims s l t named
    | none => nameVictims s l t named

/-- PREDELAY (R285): a candidate with PRE set that has lacked room for `PREDELAY` cycles is dispatched, and requests are
made for the contexts that make way. -/
def predelay (part : Nat) (s : State) : State :=
  match candidate s part with
  | none => s
  | some c =>
    let q := s.queue c.queue
    if c.entry.isSome || checkCand s c != .pass || c.pkt.type == 3 || !bitOf c.pkt.flags 1 || s.preDelay == 0 || q.readyAt == 0
        || decide (s.cyc.toNat + 1 < q.readyAt + s.preDelay.toNat) then s
    else
      let d := candDesc s c
      if hasRoom s c d || !quotaFree s c d || !roundFree s c d then s
      else withTrace c d (fun s =>
        let r := startLaunch s c d
        match r.1.launchOf r.2 with
        | none => r.1
        | some l => { r.1 with preReqs := r.1.preReqs ++ nameVictims r.1 l (victims s c d) [] }) s

/-- The meaning of PREDELAY. -/
def execPredelay (part : Nat) (s : State) : Host.Outcome State Fault Refusal := onUnit part 32 (predelay part) s

/-- The partition of a core. -/
def partOfCore (s : State) (g : Nat) : Option Nat :=
  (s.parts.find? (fun p => (p.2.map (fun x => x.cores.contains g)).getD false)).map (·.1)

/-- The oldest saved context that was pre-empted from a slot and whose launch goes on. -/
def savedAt (s : State) (g k : Nat) : Option Saved :=
  s.saved.find? (fun x => x.core == g && x.slot == k && x.spilled && x.ctx.st == .mewsOut
    && ((x.ctx.launch.bind s.launchOf).map (fun l => l.halt.isNone)).getD false)

/-- The launch priority of a saved context. -/
def savedPrio (s : State) (x : Saved) : Nat := ((x.ctx.launch.bind s.launchOf).map (·.prio)).getD 0

/-- The incoming context of a host's request, chosen when the request proceeds (R285): the state after a dispatch, if one is
made, and the context; none when there is neither. -/
def chooseIncoming (s : State) (g k part : Nat) : State × Option Incoming :=
  let cand := (candidate s part).filter (fun c => checkCand s c == .pass && c.pkt.type != 3)
  match savedAt s g k, cand with
  | some x, none => (s, some (.saved x.id))
  | none, none => (s, none)
  | sv, some c =>
    let d := candDesc s c
    if (sv.map (fun x => decide (launchPrio c d ≤ savedPrio s x))).getD false then (s, sv.map (fun x => .saved x.id))
    else if !quotaFree s c d || !roundFree s c d then (s, none)
    else
      let r := startLaunch s c d
      match r.1.launchOf r.2 with
      | none => (r.1, none)
      | some l =>
        let hs := homes s l.part l.kd
        let b := leastBy (fun x y => decide (x < y)) ((List.range hs.length).filterMap (fun i => nextIn l hs.length i (fun _ => true)))
        (r.1, b.map (fun b => .block l.id b))

/-- Whether every tile of a resident context has been filled (R254). -/
def tilesFull (s : State) (cid : Nat) : Bool :=
  match s.ctxLaunch cid with
  | some l => (slotTiles l.kd (slotOf cid)).all (fun t => !(s.tile (coreOf cid) t).unfilled)
  | none => true

/-- Whether a request can proceed now: its slot's context may leave, its tiles are filled, and the core's Mews bank is idle. -/
def canPreempt (s : State) (g k : Nat) : Bool :=
  mayLeave s (g * 4 + k) && (s.core g).mews.phase == .idle && tilesFull s (g * 4 + k)

/-- PREEMPT from the host (R285). A write with status 2 or 3 does nothing: a request that waits goes on waiting. -/
def preempt (g k : Nat) (s : State) : State :=
  match if g < Config.nCores then partOfCore s g else none with
  | none => { s with preStat := 3 }
  | some p =>
    if (savedAt s g k).isNone ∧ (candidate s p).isNone then { s with preStat := 2 }
    else if !canPreempt s g k then
      { s with preStat := 1, preReqs := s.preReqs ++ [{ core := g, slot := k, inc := none, host := true }] }
    else match chooseIncoming s g k p with
      | (t, none) => { t with preStat := 2 }
      | (t, some i) => { t with preStat := 0, preReqs := t.preReqs ++ [{ core := g, slot := k, inc := some i, host := true }] }

/-- The meaning of PREEMPT. -/
def execPreempt (core slot : Nat) (s : State) : Host.Outcome State Fault Refusal := .next (preempt core (slot % 4) s)

/-! ### Queue commands (R280, R282) -/

/-- QTAIL (R280). -/
def qtail (qn : Nat) (t : Word32) (s : State) : State :=
  let q := s.queue qn
  if q.st = .disabled then s
  else if 2 ^ bits q.ctl.toNat 4 0 < (t - q.head).toNat then postRecord s qn (evtRecord s 0x13 0 t.toNat 0 0) false
  else
    let s := s.updQueue qn (fun q => { q with tail := t })
    if q.st = .idle then settleHead s qn else s

/-- ENABLE (R278, R282). -/
def enable (qn : Nat) (s : State) : State :=
  let q := s.queue qn
  let n := bits q.ctl.toNat 4 0
  let e := bits q.evt.toNat 3 0
  if q.st ≠ .disabled ∨ n < 4 ∨ 16 < n ∨ q.base.toNat % 4096 ≠ 0 ∨ e < 4 ∨ 12 < e then s
  else s.updQueue qn (fun q => { q with st := .idle, head := q.tail, pkt := none, launch := none, readyAt := 0 })

/-- The meaning of ENABLE. -/
def execEnable (q : Nat) (s : State) : Host.Outcome State Fault Refusal := onUnit q 8192 (enable q) s

/-- The meaning of PACKET_WAITS: a BLOCKED queue whose waits are satisfied is READY. -/
def execPacketWaits (q : Nat) (s : State) : Host.Outcome State Fault Refusal :=
  onUnit q 8192 (fun s => match (s.queue q).st, (s.queue q).pkt with
    | .blocked, some p => if waitsDone s (s.queue q).job p then s.updQueue q (fun x => { x with st := .ready }) else s
    | _, _ => s) s

/-! ### Kills (R266, R282) -/

/-- A context is killed: its locks are released, its matrix entries discarded, its waits ended, its state discarded; a saved
context's save area is released. -/
def killCtx (s : State) (cid : Nat) : State :=
  let s := releaseLocks s cid
  let s := { s with
    cores := Sparse.mapV Core.cold (fun _ k => { k with
      mq := k.mq.filter (fun e => e.ctx != cid), savedOps := k.savedOps.filter (fun e => e.ctx != cid) }) s.cores,
    fills := s.fills.filter (fun r => r.ctx != cid), deferred := s.deferred.filter (fun d => d.ctx != cid) }
  let s := setGone s cid
  if cid < residents then releaseWidth (s.setCtx cid { Context.empty with st := .killed }) cid
  else { s with saved := s.saved.filter (fun x => x.id != cid) }

/-- Every context of a halted launch is killed, and the launch leaves the machine. -/
def killLaunch (s : State) (lid : Nat) : State :=
  let s := (s.ctxsOf lid).foldl killCtx s
  let s := { s with preReqs := s.preReqs.filter (fun r => match r.inc with
    | some (.block l _) => l != lid
    | _ => true) }
  dropLaunch s lid

/-- Every launch of a queue whose fault completion has been posted is killed: the halted launch, and halted children. -/
def killHalted (s : State) (qn : Nat) : State :=
  (s.launches.filter (fun l => l.queue == qn && (l.halt.map (·.posted)).getD false)).foldl (fun s l => killLaunch s l.id) s

/-- DISABLE (R282). -/
def disable (qn : Nat) (s : State) : State :=
  match (s.queue qn).st with
  | .running => s.updQueue qn (fun q => { q with st := .draining })
  | .faulted => (killHalted s qn).updQueue qn (fun q => { q with st := .disabled, pkt := none, launch := none })
  | .idle => s.updQueue qn (fun q => { q with st := .disabled, pkt := none })
  | .blocked => s.updQueue qn (fun q => { q with st := .disabled, pkt := none })
  | .ready => s.updQueue qn (fun q => { q with st := .disabled, pkt := none })
  | .disabled => s
  | .draining => s

/-- The meaning of DISABLE. -/
def execDisable (q : Nat) (s : State) : Host.Outcome State Fault Refusal := onUnit q 8192 (disable q) s

/-- RESUME (R282). -/
def resume (qn : Nat) (s : State) : State :=
  if (s.queue qn).st = .faulted then settleHead ((killHalted s qn).updQueue qn (fun q => { q with launch := none })) qn else s

/-- The meaning of RESUME. -/
def execResume (q : Nat) (s : State) : Host.Outcome State Fault Refusal := onUnit q 8192 (resume q) s

/-- KILL (R266, R282): of a running launch, the halt line is raised first, by the host, and the kill follows the fault
completion. A launch whose completion is due wins over the kill, which is ignored. -/
def kill (qn : Nat) (s : State) : State :=
  let q := s.queue qn
  match q.st with
  | .faulted => killHalted s qn
  | .running => raise q
  | .draining => raise q
  | .disabled => s
  | .idle => s
  | .ready => s
  | .blocked => s
where
  /-- The running launch's line is raised and the kill noted. -/
  raise (q : Queue) : State :=
    match q.launch with
    | none => s
    | some lid =>
      if ((s.launchOf lid).map (workDone s)).getD false then s
      else (raiseHalt s lid { kind := 15, inst := 0 } 0x87 0 0).updLaunch lid (fun l =>
        { l with halt := l.halt.map (fun h => { h with killed := true }) })

/-- The meaning of KILL. -/
def execKill (q : Nat) (s : State) : Host.Outcome State Fault Refusal := onUnit q 8192 (kill q) s

end Sys2Proof.Machine
end

