-- ==== Sys2Proof/Machine/Mews.lean ====
section
/-! DEFINITION. Pre-emption through the Mews bank (R252 to R254, R187, R404): request, preload, swap, spill, the fill of the
incoming context's tiles, and the restore of a saved context into its own slot. -/

namespace Sys2Proof.Machine

open Sys2Proof

/-! ### Saved contexts -/

/-- A saved context. -/
def State.savedOf (s : State) (id : Nat) : Option Saved := s.saved.find? (fun x => x.id == id)

/-- A saved context updated. -/
def State.updSaved (s : State) (id : Nat) (f : Saved → Saved) : State :=
  { s with saved := s.saved.map (fun x => if x.id == id then f x else x) }

/-- The number of the next saved context: above the residents and the tag 0xFFFF of an engine (log entry 2). -/
def newSavedId (s : State) : Nat := 2 ^ 20 + s.num

/-- The tiles of a saved context. -/
def savedTiles (s : State) (x : Saved) : List Nat :=
  match x.ctx.launch.bind s.launchOf with
  | some l => slotTiles l.kd x.slot
  | none => []

/-- The partition of a saved context's launch. -/
def savedPart (s : State) (x : Saved) : Nat := ((x.ctx.launch.bind s.launchOf).map (·.part)).getD 0

/-- Whether the Mews engine may start a transfer for a partition (R253): only in the partition's own slots. -/
def mewsSlot (s : State) (p : Nat) : Bool := s.ownSlot p s.cyc.toNat

/-- The saved context that a core's Mews bank is bringing in. -/
def incomingOf (s : State) (g : Nat) : Option Saved := s.saved.find? (fun x => x.core == g && x.ctx.st == .mewsIn)

/-- The context that a core's Mews bank is spilling. -/
def outgoingOf (s : State) (g : Nat) : Option Saved := s.saved.find? (fun x => x.core == g && !x.spilled)

/-! ### The request and the preload (R252, R253) -/

/-- The bank of a core starts a preload for a slot. -/
def beginPreload (g k : Nat) (i : Incoming) (s : State) : State :=
  s.updCore g (fun c => { c with mews := { c.mews with phase := .preloading, slot := k, inc := some i } })

/-- A new block joins the contexts that are not resident while its preload lasts. -/
def stageBlock (g k : Nat) (l : Launch) (b : Nat) (s : State) : State :=
  let x : Saved :=
    { id := newSavedId s, core := g, slot := k, ctx := { newCtx s l b with st := .mewsIn }, tiles := [], ops := [],
      spilled := true, prevSt := .ready, fresh := true }
  dropRequest (noteLoaded { s with num := s.num + 1, saved := s.saved ++ [x] } l.id b) l.id b

/-- The preload of an incoming context starts. -/
def startPreload (g k : Nat) (i : Incoming) (s : State) : State :=
  match i with
  | .block lid b =>
    match s.launchOf lid with
    | some l => if l.halt.isSome then s else beginPreload g k i (stageBlock g k l b s)
    | none => s
  | .saved id =>
    match s.savedOf id with
    | some x =>
      if x.ctx.st = .mewsOut then
        beginPreload g k i (s.updSaved id (fun x => { x with ctx := { x.ctx with st := .mewsIn } }))
      else s
    | none => s

/-- Whether an incoming block must wait for a pre-empted context of its launch's priority or a higher one to be restored first (R285,
R404). -/
def incHeld (s : State) : Incoming → Bool
  | .block lid _ => ((s.launchOf lid).map (fun l => heldBack s l.part l.prio)).getD false
  | .saved _ => false

/-- PREEMPTION_REQUEST: a request that can proceed does so. A host's that waited chooses its incoming context now; one whose incoming
block is held back waits on. -/
def preemptionRequest (idx : Nat) (s : State) : State :=
  match s.preReqs[idx]? with
  | none => s
  | some r =>
    if !canPreempt s r.core r.slot || (r.inc.map (incHeld s)).getD false then s
    else
      let s := { s with preReqs := s.preReqs.eraseIdx idx }
      match r.inc with
      | some i => startPreload r.core r.slot i s
      | none =>
        match partOfCore s r.core with
        | none => { s with preStat := 3 }
        | some p => match chooseIncoming s r.core r.slot p with
          | (t, none) => { t with preStat := 2 }
          | (t, some i) =>
            let t := { t with preStat := 0 }
            if incHeld t i then { t with preReqs := t.preReqs ++ [{ r with inc := some i }] } else startPreload r.core r.slot i t

/-- The meaning of PREEMPTION_REQUEST. -/
def execPreemptionRequest (idx : Nat) (s : State) : Host.Outcome State Fault Refusal := .next (preemptionRequest idx s)

/-- PRELOAD: the incoming context's state is in the bank. A new block reads nothing. -/
def preload (g : Nat) (s : State) : State :=
  match (s.core g).mews.phase, incomingOf s g with
  | .preloading, some x =>
    if x.fresh || mewsSlot s (savedPart s x) then s.updCore g (fun c => { c with mews := { c.mews with phase := .loaded } })
    else s
  | _, _ => s

/-- The meaning of PRELOAD. -/
def execPreload (core : Nat) (s : State) : Host.Outcome State Fault Refusal := onUnit core Config.nCores (preload core) s

/-! ### The swap (R187, R253, R254) -/

/-- What R187 does with an entry of the outgoing context: whether it stays in the queue. -/
def entryStays (e : MEntry) : Bool :=
  e.opc == 3 || (e.begun && (decide (2 < e.opc) || decide (e.waves - e.wave ≤ 4)))

/-- An operation that is saved: stopped at its next wave, or not begun. -/
def stopEntry (e : MEntry) : MEntry := { e with begun := false }

/-- The matrix entries of a context are settled (R187): the core without those that are saved. -/
def settleEntries (cid : Nat) (k : Core) : Core × List MEntry :=
  let out (e : MEntry) : Bool := e.ctx == cid && !entryStays e
  ({ k with mq := k.mq.filter (fun e => !out e), savedOps := k.savedOps.filter (fun e => e.ctx != cid) },
    (k.mq.filter out ++ k.savedOps.filter (fun e => e.ctx == cid)).map stopEntry)

/-- Blocked time as it is carried while a context is away (R265), and the cycle it stands for on its return. -/
def awayTime (cyc blockedAt : Nat) : Nat := if blockedAt = 0 then 0 else cyc + 2 - blockedAt

/-- The IMODEs of tiles, as a swap finds them (R253): an operation that the incoming context issues on the same physical tile
before the spill does not change them. -/
def modesOf (s : State) (g : Nat) (ts : List Nat) : Sparse Tile :=
  ts.foldl (fun d t => Sparse.set Tile.zero d t { Tile.zero with imode := (s.tile g t).imode }) []

/-- The tiles of a resident context. -/
def ctxTiles (s : State) (cid : Nat) : List Nat :=
  match s.ctxLaunch cid with
  | some l => slotTiles l.kd (slotOf cid)
  | none => []

/-- The outgoing context leaves its slot, and its references follow it. The loop buffer is not carried: the body is fetched
again (R67). -/
def swapOut (g k : Nat) (s : State) : State :=
  let cid := g * 4 + k
  let id := newSavedId s
  let c := s.ctx cid
  let r := settleEntries cid (s.core g)
  let ctx := { c with st := .mewsOut, blockedAt := awayTime s.cyc.toNat c.blockedAt, nest := { c.nest with buf := [] } }
  let x : Saved :=
    { id := id, core := g, slot := k, ctx := ctx, tiles := modesOf s g (ctxTiles s cid), ops := r.2, spilled := false, prevSt := if c.st = .running then .ready else c.st, fresh := false }
  let s := releaseWidth (s.setCore g r.1) cid
  renameCtx cid id (({ s with num := s.num + 1, saved := s.saved ++ [x] }).setCtx cid Context.empty)

/-- The freed entries of the queue go to saved operations, up to `n` of them (R189). -/
def requeueAll (g : Nat) : Nat → State → State
  | 0, s => s
  | n + 1, s => requeueAll g n (requeueSaved s g)

/-- The tiles of the incoming context wait for their fill with its saved contents (R254); their IMODEs are its own from here. -/
def markTiles (g : Nat) (ts : List Nat) (data : Sparse Tile) (s : State) : State :=
  ts.foldl (fun s t =>
    (s.updTile g t (fun y => { y with unfilled := true, imode := (Sparse.get Tile.zero data t).imode })).updCore g (fun c =>
      { c with mews := { c.mews with fill := Sparse.set Tile.zero c.mews.fill t (Sparse.get Tile.zero data t) } })) s

/-- The incoming context takes the slot in its saved state. -/
def swapIn (g k : Nat) (x : Saved) (s : State) : State :=
  let cid := g * 4 + k
  let c := { x.ctx with st := x.prevSt, blockedAt := awayTime s.cyc.toNat x.ctx.blockedAt }
  let ts := savedTiles s x
  let frame := match x.ctx.launch.bind s.launchOf with
    | some l => if x.fresh then (frameOf s l, k * l.kd.spba) else ([], 0)
    | none => ([], 0)
  let s := ({ s with saved := s.saved.filter (fun y => y.id != x.id) }).setCtx cid c
  let s := s.updCore g (fun k => { k with savedOps := k.savedOps ++ x.ops })
  let s := wrBytes s (spAddr g frame.2) frame.1
  requeueAll g 16 (markTiles g ts x.tiles (renameCtx x.id cid s))

/-- SWAP: at a bundle boundary of the outgoing context the banks exchange roles; a slot that has become free in the meantime
is taken without a spill (R404). -/
def swap (g : Nat) (s : State) : State :=
  let m := (s.core g).mews
  let cid := g * 4 + m.slot
  match m.phase, incomingOf s g with
  | .loaded, some x =>
    if mayLeave s cid then
      let s := swapIn g m.slot x (swapOut g m.slot s)
      s.updCore g (fun c => { c with mews := { c.mews with phase := .spilling, inc := none } })
    else if slotFree (s.ctx cid) then
      (swapIn g m.slot x s).updCore g (fun c => { c with mews := { c.mews with phase := .idle, inc := none } })
    else s
  | _, _ => s

/-- The meaning of SWAP. -/
def execSwap (core : Nat) (s : State) : Host.Outcome State Fault Refusal := onUnit core Config.nCores (swap core) s

/-! ### The spill and the fill (R187, R253, R254) -/

/-- A tile is quiescent for a context: none of its operations on the core is still to complete. -/
def quiescent (s : State) (g id : Nat) : Bool :=
  !((s.core g).mq.any (fun e => e.ctx == id && e.opc != 3))

/-- The errors of a tile's lanes are recorded for the spilled context, and the lanes healed (R183, R185). -/
def spillErrs (g : Nat) (x : Saved) (s : State) (t : Nat) : State :=
  let errs := laneErrs (fun n => s.eccLanes.contains (g, t, n)) 0 0 63 0 63
  let soft := laneErrs (softLane s g t) 0 0 63 0 63
  errs.foldl (recordErr g x.id t 0 (x.slot + 128)) (countSoft g soft.length (healLanes s g t 0 63 0 63))

/-- SPILL: the outgoing context's tiles are written to its save area once they are quiescent, and the bank is free. -/
def spill (g : Nat) (s : State) : State :=
  match (s.core g).mews.phase, outgoingOf s g with
  | .spilling, some x =>
    if !quiescent s g x.id || !mewsSlot s (savedPart s x) then s
    else
      let ts := savedTiles s x
      let s := ts.foldl (spillErrs g x) s
      let data := ts.foldl (fun d t =>
        Sparse.set Tile.zero d t { (s.tile g t) with unfilled := false, imode := (Sparse.get Tile.zero x.tiles t).imode }) ([] : Sparse Tile)
      (s.updSaved x.id (fun y => { y with tiles := data, spilled := true })).updCore g (fun c =>
        { c with mews := { c.mews with phase := .idle } })
  | _, _ => s

/-- The meaning of SPILL. -/
def execSpill (core : Nat) (s : State) : Host.Outcome State Fault Refusal := onUnit core Config.nCores (spill core) s

/-- TILE_FILL: the tiles of a swapped-in context take their contents (IMODE as it stands since the swap), zero for a new block, once
the spill of any context that used them has completed. -/
def tileFill (g k : Nat) (s : State) : State :=
  let cid := g * 4 + k
  match s.ctxLaunch cid with
  | none => s
  | some l =>
    let ts := (slotTiles l.kd k).filter (fun t => (s.tile g t).unfilled)
    let busy := s.saved.any (fun x => x.core == g && !x.spilled && (savedTiles s x).any (fun t => ts.contains t))
    let data := ts.any (fun t => Sparse.get Tile.zero (s.core g).mews.fill t != Tile.zero)
    if ts.isEmpty || busy || (data && !mewsSlot s l.part) then s
    else
      let s := ts.foldl (fun s t =>
        let v := Sparse.get Tile.zero (s.core g).mews.fill t
        (s.updTile g t (fun y => { v with unfilled := false, imode := y.imode })).updCore g (fun c =>
          { c with mews := { c.mews with fill := Sparse.del t c.mews.fill } })) s
      s.goodLanes g (fun t _ => ts.contains t)

/-- The meaning of TILE_FILL. -/
def execTileFill (core slot : Nat) (s : State) : Host.Outcome State Fault Refusal :=
  onUnit core Config.nCores (tileFill core (slot % 4)) s

/-! ### The restore (R285, R404) -/

/-- Whether a saved context can be restored now: spilled, its launch not halted, its own slot free and the bank idle. -/
def canRestore (s : State) (x : Saved) : Bool :=
  x.spilled && x.ctx.st == .mewsOut && slotFree (s.ctx (x.core * 4 + x.slot)) && (s.core x.core).mews.phase == .idle
    && ((x.ctx.launch.bind s.launchOf).map (fun l => l.halt.isNone)).getD false

/-- RESTORE: the oldest saved context of a core that can be restored starts its preload. -/
def restore (id : Nat) (s : State) : State :=
  match s.savedOf id with
  | none => s
  | some x =>
    match s.saved.find? (fun y => y.core == x.core && canRestore s y) with
    | some y => if y.id = id then startPreload x.core x.slot (.saved id) s else s
    | none => s

/-- The meaning of RESTORE. -/
def execRestore (saved : Nat) (s : State) : Host.Outcome State Fault Refusal := .next (restore saved s)

end Sys2Proof.Machine
end

