-- ==== Sys2Proof/Machine/Halts.lean ====
section
/-! DEFINITION. The halt line as it arrives (R261 to R266, R286): each unit stops and writes its stop record (R186, R264, R370,
R399, R414, R415), and the fault completion follows once every unit has stopped (R262, R282, R284, R334, R340). -/

namespace Sys2Proof.Machine

open Sys2Proof

/-! ### Raising the line from outside an instruction (R261) -/

/-- The causes that a halt line can carry (R260). -/
def faultCode (n : Nat) : Bool := decide (0x80 ≤ n) && decide (n ≤ 0x88)

/-- HALT_LINE: a unit, or the host, raises a launch's line. A context that raises it faults. -/
def haltLine (lid : Nat) (u : UnitId) (cause : Nat) (s : State) : State :=
  if !faultCode cause || (s.launchOf lid).isNone || s.haltedL lid then s
  else if u.kind = 0 then (if (s.ctx u.inst).launch = some lid then faultCtx s u.inst cause 0 0 0 (s.ctx u.inst).point else s)
  else raiseHalt s lid u cause 0 0

/-- The meaning of HALT_LINE. -/
def execHaltLine (launch : Nat) (unit : UnitId) (cause : Nat) (s : State) : Host.Outcome State Fault Refusal :=
  .next (haltLine launch unit cause s)

/-! ### Stop records -/

/-- A unit's stop record takes its position, and the unit has stopped (R262, R263); FSTOP is the position of the first record
(R284). -/
def stopUnit (s : State) (l : Launch) (h : Halt) (u shown : UnitId) (baddr : Word64) (tail : List Byte) : State :=
  let us := h.unit == u
  let orig : UnitId := if h.unit.kind = 0 then { kind := 0, inst := s.ctxid h.unit.inst } else h.unit
  let rec' := stopCommon s l shown orig (if us then h.cause else 0x87) us baddr ++ tail
  (putStop s l.queue rec').updLaunch l.id (fun l => { l with halt := l.halt.map (fun h =>
    { h with waiting := h.waiting.filter (· != u), done := u :: h.done, nstop := h.nstop + 1,
             fstop := if h.nstop = 0 then (s.queue l.queue).stopWr else h.fstop }) })

/-! ### The matrix engine (R186) -/

/-- Bytes 32..63 of its record. -/
def stopMatrix (s : State) (k : Core) (cur : Option MEntry) (depth : Nat) : List Byte :=
  (match cur with
    | some e => leBytes 4 (if e.wave = 0 then 2 ^ 32 - 1 else e.wave - 1) ++ leBytes 4 e.waves ++ leBytes 1 e.token
        ++ leBytes 1 (128 + slotOf (s.ctxid e.ctx)) ++ leBytes 1 e.tile ++ leBytes 1 e.opc
    | none => leBytes 4 (2 ^ 32 - 1) ++ zeroBytes 8)
  ++ leBytes 1 depth ++ zeroBytes 3 ++ leBytes 8 k.waveTot ++ leBytes 4 k.errTot ++ zeroBytes 4

/-- The matrix engine of a core discards a launch's entries, and the saved operations not yet queued (R186, R189). -/
def dropEntries (lid g : Nat) (s : State) : State :=
  let others (q : List MEntry) : List MEntry := q.filter (fun e => e.launch != lid)
  requeueAll g 16 (s.updCore g (fun k => { k with mq := others k.mq, savedOps := others k.savedOps }))

/-- The matrix engine of a core stops for a launch. -/
def stopMatrixUnit (s : State) (l : Launch) (h : Halt) (g : Nat) : State :=
  let k := s.core g
  let mine := k.mq.filter (fun e => e.launch == l.id)
  let cur := (k.mq.head?).filter (fun e => e.begun && e.launch == l.id)
  let u : UnitId := { kind := 1, inst := g }
  stopUnit (dropEntries l.id g s) l h u u ((cur.map (·.bundle)).getD 0) (stopMatrix s k cur mine.length)

/-! ### The copy engine (R365, R414) -/

/-- A job that a halt abandons (R365, R414): an accepted `XREMW` or `XCADD` to another chip is delivered, and so is what a port has
taken. -/
def abandons (s : State) (lid : Nat) (x : CopyJob) : Bool :=
  x.launch == lid && !x.handed && ((x.kind != .remw && x.kind != .cadd) || (remoteJob s x).isNone)

/-- The byte count B of a job. -/
def CopyJob.total (x : CopyJob) : Nat := if x.kind = .remw ∨ x.kind = .cadd then x.data.length else x.box.bytes

/-- The bytes of a job counted so far. -/
def CopyJob.counted (x : CopyJob) : Nat :=
  if x.kind = .mcast then x.box.bytes * x.done.length
  else if x.kind = .rcopy then
    (((rcFlits x).take x.done.length).map (fun f => f.2 * x.box.esize)).foldl (· + ·) 0
  else x.done.length * x.box.esize

/-- Bytes 32..63 of a copy engine's record. -/
def stopCopy (l : List CopyJob) : List Byte :=
  let begun := l.filter (·.began)
  leBytes 2 l.length ++ leBytes 2 begun.length ++ zeroBytes 4
    ++ (match begun.head? with
      | some x => leBytes 8 x.box.bar.toNat ++ leBytes 8 x.counted ++ leBytes 8 x.total
      | none => zeroBytes 24)

/-- The copy engine of a core gives up a launch's jobs. -/
def dropCopies (lid g : Nat) (s : State) : State :=
  ((s.core g).jobs.filter (fun x => x.launch == lid && (abandons s lid x || x.kind == .rcopy))).foldl (fun s x => endJob s g x) s

/-- The copy engine of a core stops for a launch. -/
def stopCopyUnit (s : State) (l : Launch) (h : Halt) (g : Nat) : State :=
  let mine := (s.core g).jobs.filter (abandons s l.id)
  let u : UnitId := { kind := 2, inst := g }
  stopUnit (dropCopies l.id g s) l h u u (((mine.find? (·.began)).map (·.bundle)).getD 0) (stopCopy mine)

/-! ### Quays (R415) -/

/-- Bytes 32..63 of a quay's record: NEXT is the tile after the one in progress. -/
def stopQuay (l : List (Nat × Sub)) : List Byte :=
  leBytes 2 l.length
    ++ (match l with
      | (i, x) :: _ => leBytes 2 x.serial ++ leBytes 1 i ++ leBytes 1 (b2n x.ring.storer) ++ zeroBytes 2 ++ leBytes 4 (x.next + b2n x.prog.isSome)
          ++ zeroBytes 4 ++ leBytes 8 ((x.prog.map (fun p => p.2 * x.ring.geom.esize)).getD 0)
      | [] => zeroBytes 22)
    ++ zeroBytes 8

/-- The subscriptions of a launch on a quay, lowest entry first. -/
def launchSubs (s : State) (q lid : Nat) : List (Nat × Sub) :=
  (Sparse.get Quay.cold s.quays q).subs.filterMap (fun p => match p.2 with
    | some x => if x.launch = lid then some (p.1, x) else none
    | none => none)

/-- A quay gives up a launch's subscriptions. -/
def dropSubs (lid q : Nat) (s : State) : State :=
  (launchSubs s q lid).foldl (fun s p => (if p.2.bound then freeBusy s p.2.job p.2.segs else s).setSub q p.1 none) s

/-- A quay stops for a launch. -/
def stopQuayUnit (s : State) (l : Launch) (h : Halt) (q : Nat) : State :=
  let mine := launchSubs s q l.id
  let u : UnitId := { kind := 3, inst := q }
  let run := (mine.find? (fun p => p.2.prog.isSome)).map (fun p => p.2.bundle)
  stopUnit (dropSubs l.id q s) l h u u (run.getD 0) (stopQuay mine)

/-! ### Collective engines (R399) -/

/-- The record in progress of a launch at an engine: that of the chunk in which the halt line found it, or else one that has
started. -/
def collInProgress (e : CollEngine) (lid : Nat) : Option GRec :=
  match e.caught.bind (fun x => (e.queue ++ e.flying).find? (fun r => r.num == x.1 && r.launch == lid)) with
  | some r => some r
  | none => e.queue.find? (fun r => r.launch == lid && r.started)

/-- The chunk of a record in which the halt line found the engine, and the bytes of it sent: all of them, for it was finished. -/
def chunkCaught (s : State) (e : CollEngine) (r : GRec) : Nat × Nat :=
  match e.caught, r.kind with
  | some (n, t), .coll c _ => if n = r.num then (t, c.size (s.group r.job r.group)) else (2 ^ 32 - 1, 0)
  | _, _ => (2 ^ 32 - 1, 0)

/-- Bytes 32..63 of a collective engine's record (R399). -/
def stopColl (s : State) (e : CollEngine) (cur : Option GRec) (disc : Nat) : List Byte :=
  (match cur with
    | some r =>
      let p : Nat × Nat × Nat := match r.kind with
        | .coll c n => (n, c.pid, c.op)
        | .join _ => (0, 0, 0xFF)
        | .agree _ _ => (0, 0, 0xFF)
      leBytes 2 r.group ++ leBytes 2 (s.group r.job r.group).tree ++ leBytes 4 p.1 ++ leBytes 4 (chunkCaught s e r).1 ++ leBytes 2 p.2.1
        ++ leBytes 1 p.2.2
    | none => leBytes 2 0xFFFF ++ zeroBytes 6 ++ leBytes 4 (2 ^ 32 - 1) ++ zeroBytes 2 ++ leBytes 1 0xFF)
  ++ leBytes 1 (min disc 255) ++ leBytes 8 ((cur.map (fun r => (chunkCaught s e r).2)).getD 0) ++ zeroBytes 8

/-- Whether an engine is inside a chunk of a launch, which it finishes before it stops (R262, R397). -/
def midChunk (e : CollEngine) (lid : Nat) : Bool :=
  match e.cur with
  | some n => e.queue.any (fun r => r.num == n && r.launch == lid)
  | none => false

/-- The halt line finds an engine inside a chunk, which its stop record will name. -/
def catchChunk (k : Nat) (s : State) : State :=
  s.updEngine k (fun e => match e.caught, e.cur with
    | none, some n => { e with caught := (e.queue.find? (fun r => r.num == n)).map (fun r => (n, r.chunk)) }
    | _, _ => e)

/-- A collective engine discards a launch's records. -/
def dropRecs (lid k : Nat) (s : State) : State :=
  let e := s.engine k
  let s := ((e.queue ++ e.flying).filter (fun r => r.launch == lid)).foldl
    (fun s r => if r.bound then freeBusy s r.job r.segs else s) s
  s.updEngine k (fun e => { e with queue := e.queue.filter (fun r => r.launch != lid),
                                   flying := e.flying.filter (fun r => r.launch != lid), caught := none })

/-- A collective engine stops for a launch. -/
def stopCollUnit (s : State) (l : Launch) (h : Halt) (k : Nat) : State :=
  let e := s.engine k
  let cur := collInProgress e l.id
  let mine := e.queue.filter (fun r => r.launch == l.id)
  let u : UnitId := { kind := 4, inst := k }
  stopUnit (dropRecs l.id k s) l h u u ((cur.map (·.bundle)).getD 0) (stopColl s e cur mine.length)

/-! ### Contexts (R262, R264) -/

/-- A preload that is under way is abandoned, and its context is not resident again (R255). -/
def dropPreload (g : Nat) (s : State) : State :=
  let s := match incomingOf s g with
    | some x => s.updSaved x.id (fun x => { x with ctx := { x.ctx with st := .mewsOut } })
    | none => s
  s.updCore g (fun c => { c with mews := { c.mews with phase := .idle, inc := none } })

/-- Whether a context can stop now: its writebacks have completed, and a spill of it has ended (R132, R255). -/
def ctxStops (s : State) (cid : Nat) : Bool :=
  (s.ctx cid).pend.isEmpty && ((s.savedOf cid).map (·.spilled)).getD true

/-- What a context that stops has under way is performed: the stores that a fence held back, and a `SNAPST`'s write (R132, R274). -/
def settleStores (s : State) (cid : Nat) : State :=
  match (s.ctx cid).after with
  | .snapst a => snapWrite s cid a
  | _ => runDeferred s cid

/-- A unit that holds work of a launch whose line is raised, given to it after the line was raised: one that has yet to stop is
waited for, and one that has stopped discards the work. -/
def lateUnit (lid : Nat) (h : Halt) (s : State) (u : UnitId) : State :=
  if h.done.contains u then
    match u.kind with
    | 1 => dropEntries lid u.inst s
    | 2 => dropCopies lid u.inst s
    | 3 => dropSubs lid u.inst s
    | 4 => dropRecs lid u.inst s
    | _ => s
  else s.updLaunch lid (fun l => { l with halt := l.halt.map (fun h =>
    { h with waiting := if h.waiting.contains u then h.waiting else h.waiting ++ [u] }) })

/-- The engines that a context of a halted launch gave work to before it stopped (R262). -/
def lateUnits (s : State) (l : Launch) (h : Halt) : State :=
  ((s.unitsOf l.id).filter (fun u => u.kind != 0)).foldl (lateUnit l.id h) s

/-- A context stops: the stores that it issued are performed, and it is HALTED, or stays KILLED. -/
def stopCtx (s : State) (l : Launch) (h : Halt) (cid : Nat) : State :=
  let u : UnitId := { kind := 0, inst := cid }
  let c := s.ctx cid
  let st : CtxState := if c.st = .killed then .killed else .halted
  let f := c.fault.getD { tcause := 0, detail := 0, daddr := 0, pc := c.point }
  let tail := stopContext c st c.reason f.tcause f.detail f.daddr
  let s := if c.st = .mewsIn then dropPreload (s.homeCore cid) s else s
  let s := (settleStores s cid).updCtx cid (fun c => { c with st := st, after := .none, owed := none })
  let s := s.updCore (s.homeCore cid) (fun k => { k with savedOps := k.savedOps.filter (fun e => e.ctx != cid) })
  let s := { s with saved := s.saved.map (fun x => if x.id == cid then { x with ops := [] } else x) }
  lateUnits (stopUnit (releaseWidth s cid) l h u { kind := 0, inst := s.ctxid cid } f.pc tail) l h

/-! ### The arrival (R262) -/

/-- HALT_ARRIVAL: a unit of a halted launch stops, once it can, and writes its record. -/
def haltArrival (lid : Nat) (u : UnitId) (s : State) : State :=
  match s.launchOf lid with
  | none => s
  | some l => match l.halt with
    | none => s
    | some h =>
      if !h.waiting.contains u then s
      else match u.kind with
        | 0 => if ctxStops s u.inst then stopCtx s l h u.inst else s
        | 1 => stopMatrixUnit s l h u.inst
        | 2 => stopCopyUnit s l h u.inst
        | 3 => stopQuayUnit s l h u.inst
        | 4 => if midChunk (s.engine u.inst) lid then catchChunk u.inst s else stopCollUnit s l h u.inst
        | 5 => stopUnit s l h u u 0 (leBytes 8 h.detail.toNat ++ leBytes 8 h.daddr.toNat ++ zeroBytes 16)
        | 6 =>
          if (outgoingOf s u.inst).any (fun x => x.ctx.launch == some lid) then s
          else
            let mine := (incomingOf s u.inst).any (fun x => x.ctx.launch == some lid)
            stopUnit (if mine then dropPreload u.inst s else s) l h u u 0 (zeroBytes 32)
        | _ => stopUnit s l h u u 0 (zeroBytes 32)

/-- The meaning of HALT_ARRIVAL. -/
def execHaltArrival (launch : Nat) (unit : UnitId) (s : State) : Host.Outcome State Fault Refusal :=
  .next (haltArrival launch unit s)

/-! ### The fault completion (R262, R282, R284, R334) -/

/-- The queue of a faulted launch is FAULTED, or DISABLED when it was draining; a child's entry takes its status. -/
def settleFault (s : State) (l : Launch) (h : Halt) : State :=
  let rec' := evtRecord s 0x11 h.cause l.index h.nstop h.fstop
  match l.entry, l.parent with
  | some e, some p => endChild (postRecord s l.queue rec' false) e p (joinStatus h.cause 1)
  | _, _ =>
    let drain := (s.queue l.queue).st == .draining
    nextPacket (postRecord s l.queue rec' (bitOf l.pkt.flags 0)) l.queue (some (if drain then .disabled else .faulted))

/-- FAULT_COMPLETION: every unit has stopped and every record is written. A kill that waited for it follows (R266). -/
def faultCompletion (lid : Nat) (s : State) : State :=
  match s.launchOf lid with
  | none => s
  | some l => match l.halt with
    | none => s
    | some h =>
      if h.posted || !h.waiting.isEmpty then s
      else
        let s := if l.kd.traced then pokeQuiet s l.job (l.kd.tracebase + 2) [0] else s
        let s := freeReserve (settleFault s l h) lid
        let s := s.updLaunch lid (fun l => { l with halt := l.halt.map (fun h => { h with posted := true }) })
        if h.killed then killLaunch s lid else s

/-- The meaning of FAULT_COMPLETION. -/
def execFaultCompletion (launch : Nat) (s : State) : Host.Outcome State Fault Refusal := .next (faultCompletion launch s)

end Sys2Proof.Machine
end

