-- ==== Sys2Proof/Machine/Groups.lean ====
section
/-! DEFINITION. Groups as the host and the fabric drive them (R382, R383), commits (R385), and the collective engines at work
(R394 to R398, R400). The switches are outside the package: their commits, notices and aborts arrive as events, their results
as flits. -/

namespace Sys2Proof.Machine

open Sys2Proof

/-! ### Group event records (R400) -/

/-- A group event record goes to the job's event ring (R369, R383). -/
def groupRecord (s : State) (j g type code pid inst : Nat) : State :=
  let e := s.group j g
  postFor s (some j)
    (leBytes 2 type ++ leBytes 2 code ++ zeroBytes 4 ++ leBytes 8 s.cyc.toNat ++ leBytes 2 g ++ leBytes 2 e.tree
      ++ leBytes 4 e.version.toNat ++ leBytes 2 pid ++ leBytes 4 inst ++ leBytes 1 j ++ zeroBytes 33)

/-- The code of a group state (R381). -/
def GState.code : GState → Nat
  | .unbound => 0
  | .creating => 1
  | .active => 2
  | .agreeing => 3
  | .quiesced => 4
  | .destroyed => 5

/-- A group takes a state, with its event record (R383). -/
def setGroup (s : State) (j g : Nat) (st : GState) : State :=
  groupRecord (s.updGroup j g (fun e => { e with st := st })) j g 0x50 st.code 0 0

/-- A group command on an entry whose state a test accepts; CONFLICT otherwise. -/
def groupCmd (j g : Nat) (ok : Group → Bool) (f : State → State) (s : State) : State :=
  if g < 256 ∧ (s.group j g).used = true ∧ ok (s.group j g) = true then sorStatus 0 (f s) else sorStatus 2 s

/-! ### The commands (R382) -/

/-- Whether a list of ranks is malformed: not eight, one at or above 16,376 that is not 0xFFFF, or one named twice. -/
def badRanks (l : List Nat) : Bool :=
  let r := l.filter (· != 0xFFFF)
  l.length != 8 || r.any (fun x => decide (16376 ≤ x)) || (distinct r).length != r.length

/-- A malformed image of GCREATE. -/
def badGroupImage (i : GroupImage) : Bool :=
  !i.zeros || decide (7 < i.vc) || decide (7 < i.prio) || decide (15 < i.port) || i.chunk % 4096 != 0 || i.chunk == 0
    || decide (1048576 < i.chunk) || badRanks i.ranks

/-- GCREATE. -/
def gcreate (j g : Nat) (i : GroupImage) (s : State) : State :=
  if badGroupImage i then sorStatus 1 s
  else if 256 ≤ g ∨ (s.group j g).used = true ∨ (s.job j).present = false then sorStatus 2 s
  else sorStatus 0 (s.updGroup j g (fun _ =>
    { Group.unused with
      used := true, vc := i.vc, prio := i.prio, port := i.port, chunk := i.chunk, ranks := i.ranks,
      memb := (List.range 8).filter (fun k => i.ranks.getD k 0xFFFF != 0xFFFF) }))

/-- The meaning of GCREATE. -/
def execGcreate (job group : Nat) (image : GroupImage) (s : State) : Host.Outcome State Fault Refusal :=
  .next (gcreate job group image s)

/-- The tree request (R378, R410): in host-assisted mode an event to the host, in hardware mode a message on the management network,
outside the package. The manual gives the event no TYPE (log entry 91). -/
def requestTree (j g : Nat) (s : State) : State :=
  if s.sorric.modes.contains 3 then groupRecord s j g Config.treeRequest (GState.code .creating) 0 0 else s

/-- The meaning of GBIND: the tree is requested. -/
def execGbind (job group : Nat) (s : State) : Host.Outcome State Fault Refusal :=
  .next (groupCmd job group (fun e => e.st == .unbound) (fun s => requestTree job group (setGroup s job group .creating)) s)

/-- The meaning of TREE_PROGRAMMED (R378, R383): the tree is there, or the request failed with a status. -/
def execTreeProgrammed (job group tree status nmem : Nat) (s : State) : Host.Outcome State Fault Refusal :=
  let e := s.group job group
  .next (if e.used && e.st == .creating then
    if status = 0 then setGroup (s.updGroup job group (fun e => { e with tree := tree % 4096, nmem := nmem })) job group .active
    else groupRecord (s.updGroup job group (fun e => { e with st := .unbound })) job group 0x50 (0x100 + status) 0 0
  else s)

/-- The meaning of GQUIESCE. -/
def execGquiesce (job group : Nat) (s : State) : Host.Outcome State Fault Refusal :=
  .next (groupCmd job group (fun e => e.st == .active) (fun s => setGroup s job group .quiesced) s)

/-- The meaning of GRESUME. -/
def execGresume (job group : Nat) (s : State) : Host.Outcome State Fault Refusal :=
  .next (groupCmd job group (fun e => e.st == .quiesced) (fun s => setGroup s job group .active) s)

/-! ### Aborts (R400) -/

/-- Whether a record is the instance `inst` of a (group, PID) pair. -/
def GRec.isInst (r : GRec) (j g pid inst : Nat) : Bool :=
  match r.kind with
  | .coll c n => r.job == j && r.group == g && c.pid == pid && n == inst
  | .join _ => false
  | .agree _ _ => false

/-- A destination's bytes are undefined: free values (log entry 11). -/
def freeWrite (j core n : Nat) (s : State) (a : Word64) : State :=
  (engWrite s j core a ((List.range n).map (fun i => Config.freeByte (s.free + i)))) |> fun t => { t with free := s.free + n }

/-- Adds to a counter of a record are made, or wait for the counter's page or segment. -/
def payOwed (r : GRec) (a : Word64) (n : Nat) (s : State) : State := if a = 0 ∨ n = 0 then s else oweAdd s r.job r.core a n

/-- A record of an engine, queued or sent, updated. -/
def updRec (k n : Nat) (f : GRec → GRec) (s : State) : State :=
  let g (l : List GRec) : List GRec := l.map (fun r => if r.num = n then f r else r)
  s.updEngine k (fun e => { e with queue := g e.queue, flying := g e.flying })

/-- A record of an aborted instance is settled at its engine: its destinations are undefined and its counters take what they are
owed. One that has not started is discarded; one that has sends all its chunks (R396, R397), which the switch drops. -/
def abortRec (k : Nat) (s : State) (r : GRec) : State :=
  match r.kind with
  | .join _ => s
  | .agree _ _ => s
  | .coll c _ =>
    let e := s.group r.job r.group
    let rank := e.rank k
    let owed := if r.started then r.owed else c.ndel rank e.nmem
    let s := (c.dests rank).foldl (freeWrite r.job r.core (c.size e)) s
    let s := payOwed r c.sctr (c.chunks - r.chunk) (payOwed r c.ctr owed s)
    if r.started then updRec k r.num (fun x => { x with owed := 0, aborted := true }) s
    else
      (if r.bound then freeBusy s r.job r.segs else s).updEngine k (fun y =>
        { y with queue := y.queue.filter (fun x => x.num != r.num), flying := y.flying.filter (fun x => x.num != r.num) })

/-- An engine takes an aborted instance as over, so that its window goes on (R395). -/
def endInst (k key inst : Nat) (s : State) : State :=
  s.updEngine k (fun y => { y with complete := Sparse.set 0 y.complete key (addNotice (Sparse.get 0 y.complete key) inst) })

/-- An engine's records of an instance that was not aborted before. -/
def instRecs (s : State) (k j g : Nat) (pi : Nat × Nat) : List GRec :=
  ((s.engine k).queue ++ (s.engine k).flying).filter (fun r => r.isInst j g pi.1 pi.2 && !r.aborted)

/-- An instance is aborted at every engine of the chip that is a member or holds a record of it. -/
def abortInst (j g code : Nat) (s : State) (pi : Nat × Nat) : State :=
  let key := pidKey j g pi.1
  let ks := (List.range 8).filter (fun k => (s.group j g).memb.contains k || !(instRecs s k j g pi).isEmpty)
  let s := ks.foldl (fun t k =>
    groupRecord (endInst k key pi.2 ((instRecs t k j g pi).foldl (abortRec k) t)) j g 0x51 code pi.1 pi.2) s
  s.updGroup j g (fun e => { e with stale := true })

/-- The instances of a (group, PID) pair that an engine has appended and for which it has no complete notice (R394): whether or not
their records still stand there. -/
def openAt (e : CollEngine) (key : Nat) : List Nat :=
  let v := Sparse.get 0 e.complete key
  let n := Sparse.get 0 e.count key
  ((List.range (n - v / 2)).map (v / 2 + ·)).filter (fun i => !noticed v i)

/-- The open instances of a group on the chip as (PID, instance) pairs, each once. -/
def openInsts (s : State) (j g : Nat) : List (Nat × Nat) :=
  (s.coll.flatMap (fun p => p.2.count.flatMap (fun c =>
    if c.1 / 65536 = j * 256 + g then (openAt p.2 c.1).map (fun i => (c.1 % 65536, i)) else []))).foldl
    (fun l x => if l.contains x then l else l ++ [x]) []

/-- Whether every record of an instance on the chip has still to start: its version is not yet fixed (R384). -/
def notStarted (s : State) (j g : Nat) (pi : Nat × Nat) : Bool :=
  let l := s.coll.flatMap (fun p => (p.2.queue ++ p.2.flying).filter (fun r => r.isInst j g pi.1 pi.2))
  !l.isEmpty && l.all (fun r => !r.started)

/-- The states in which GEVICT and GABORT are accepted. -/
def Group.running (e : Group) : Bool := e.st == .active || e.st == .agreeing || e.st == .quiesced

/-- GEVICT: the version's open instances are aborted, and the rank is evicted from the rounds to come. A commit waits for every
instance of its version (R385), so the open instances that have started are the present version's. -/
def gevict (j g rank : Nat) (s : State) : State :=
  (((openInsts s j g).filter (fun i => !notStarted s j g i)).foldl (abortInst j g 1) s).updGroup j g (fun e =>
    { e with evicted := e.evicted ++ [rank] })

/-- The meaning of GEVICT. -/
def execGevict (job group rank : Nat) (s : State) : Host.Outcome State Fault Refusal :=
  .next (groupCmd job group Group.running (gevict job group rank) s)

/-- The meaning of GABORT. -/
def execGabort (job group : Nat) (s : State) : Host.Outcome State Fault Refusal :=
  .next (groupCmd job group Group.running
    (fun s => (openInsts s job group).foldl (abortInst job group 1) s) s)

/-- The meaning of INSTANCE_ABORT: the switch has aborted an instance, with its code (2 mismatch, 3 peer not a member). -/
def execInstanceAbort (job group pid inst code : Nat) (s : State) : Host.Outcome State Fault Refusal :=
  .next (if group < 256 ∧ (s.group job group).used = true then abortInst job group code s (pid, inst) else s)

/-- The counts of a group's pairs are forgotten. -/
def dropCounts (j g : Nat) (s : State) : State :=
  let out (t : Sparse Nat) : Sparse Nat := t.filter (fun p => p.1 / 65536 != j * 256 + g)
  { s with coll := Sparse.mapV CollEngine.cold (fun _ e => { e with count := out e.count, complete := out e.complete }) s.coll }

/-- GDESTROY (R382). -/
def gdestroy (j g : Nat) (s : State) : State :=
  let e := s.group j g
  let queued := s.coll.any (fun p => p.2.queue.any (fun r => r.job == j && r.group == g))
  if 256 ≤ g ∨ e.used = false then sorStatus 2 s
  else if e.st = .quiesced ∧ queued = true then sorStatus 3 s
  else if e.st = .unbound ∨ e.st = .quiesced then
    sorStatus 0 (dropCounts j g ((setGroup s j g .destroyed).updGroup j g (fun _ => Group.unused)))
  else sorStatus 2 s

/-- The meaning of GDESTROY. -/
def execGdestroy (job group : Nat) (s : State) : Host.Outcome State Fault Refusal := .next (gdestroy job group s)

/-! ### Commits (R385, R388) -/

/-- The result record's address of a record that a commit settles at engine `k`. -/
def waitsCommit (m : CommitMsg) (j g k : Nat) (r : GRec) : Option Word64 :=
  if r.job = j ∧ r.group = g ∧ r.started = true then
    match r.kind with
    | .agree a _ => some a
    | .join a => if m.memb.contains k then some a else none
    | .coll _ _ => none
  else none

/-- The first 16 bytes of a result record (R388). -/
def resultBytes (e : Group) (m : CommitMsg) (k : Nat) : List Byte :=
  leBytes 4 m.version.toNat ++ leBytes 4 m.agreed.toNat ++ leBytes 2 m.nmem ++ leBytes 2 (e.rank k)
    ++ leBytes 1 (b2n (m.memb.contains k) + b2n e.stale * 2) ++ zeroBytes 3

/-- A record that a commit settles: its result is written, DONE is added, and it leaves the queue. -/
def settleRec (e : Group) (m : CommitMsg) (k : Nat) (s : State) (r : GRec) : State :=
  match waitsCommit m r.job r.group k r with
  | none => s
  | some a =>
    (addCtr (engWrite s r.job r.core a (resultBytes e m k)) r.job r.core (a + 16) 1).updEngine k (fun y =>
      { y with queue := y.queue.filter (fun x => x.num != r.num) })

/-- Whether the segment of a commit's result still holds it back: its translation has not ended, or it migrates (R231, R243). -/
def commitHeld (m : CommitMsg) (j g : Nat) (s : State) : Bool :=
  s.coll.any (fun p => p.2.queue.any (fun r =>
    ((waitsCommit m j g p.1 r).map (fun a => ctrHeld s r.job [] a)).getD false))

/-- The first absent page that a commit's results need. -/
def commitPage (m : CommitMsg) (j g : Nat) (s : State) : Option (Nat × Nat) :=
  (s.coll.flatMap (fun p => p.2.queue.filterMap (fun r =>
    (waitsCommit m j g p.1 r).bind (absentAt s r.job)))).head?

/-- COMMIT: the entry's fields, then the waiting records of every engine; an AGREEING entry is ACTIVE again. The answer is the state,
and whether the commit is done with: one whose result records wait is not. -/
def commitGroup (j g : Nat) (m : CommitMsg) (s : State) : State × Bool :=
  let e := s.group j g
  if 256 ≤ g ∨ e.used = false ∨ e.running = false ∨ e.tree ≠ m.tree then (s, true)
  else if commitHeld m j g s then (s, false)
  else match commitPage m j g s with
    | some (id, p) => (wantPage s j id p, false)
    | none =>
      let recs (s : State) (k : Nat) : State := (s.engine k).queue.foldl (fun s r =>
        if r.job = j ∧ r.group = g then settleRec e m k s r else s) s
      let s := s.updGroup j g (fun e =>
        { e with memb := m.memb, joinp := e.joinp.filter (fun k => !m.memb.contains k),
                 leavep := e.leavep.filter (fun k => m.memb.contains k), nmem := m.nmem, version := m.version,
                 agreed := m.agreed, stale := false,
                 evicted := e.evicted.filter (fun r => m.memb.any (fun k => e.rank k == r)) })
      let s := (List.range 8).foldl recs s
      (if e.st = .agreeing then setGroup s j g .active else s, true)

/-- A commit arrives: behind one of the same group that waits, it waits as well. -/
def takeCommit (s : State) (x : Nat × Nat × CommitMsg) : State :=
  let hold (s : State) : State := { s with commits := s.commits ++ [x] }
  if s.commits.any (fun y => y.1 == x.1 && y.2.1 == x.2.1) then hold s
  else
    let r := commitGroup x.1 x.2.1 x.2.2 s
    if r.2 then r.1 else hold r.1

/-- The commits that wait are tried again, in order. -/
def settleCommits (s : State) : State := s.commits.foldl takeCommit { s with commits := [] }

/-- The meaning of COMMIT. -/
def execCommit (job group : Nat) (msg : CommitMsg) (s : State) : Host.Outcome State Fault Refusal :=
  .next (takeCommit s (job, group, msg))

/-- The meaning of INSTANCE_COMPLETE: the switch's notice reaches an engine (R394, R395). -/
def execInstanceComplete (engine job group pid inst : Nat) (s : State) : Host.Outcome State Fault Refusal :=
  let key := pidKey job group pid
  withUnit engine 8 (s.updEngine engine (fun e =>
    { e with complete := Sparse.set 0 e.complete key (addNotice (Sparse.get 0 e.complete key) inst) }))

/-! ### The engine at work (R396 to R398) -/

/-- A record whose contributions are acknowledged and whose adds have all come is complete: its BUSY counts end (R394). -/
def settleFlying (k : Nat) (s : State) : State :=
  let done := (s.engine k).flying.filter (fun r => !inFlight s r.num && r.owed == 0)
  let s := done.foldl (fun s r => if r.bound then freeBusy s r.job r.segs else s) s
  s.updEngine k (fun e => { e with flying := e.flying.filter (fun r => !done.any (fun d => d.num == r.num)) })

/-- A flit of tree traffic enters the replay buffer of the group's port (R380). -/
def pushTree (s : State) (e : Group) (r : GRec) (inst ofs : Nat) (first last : Bool) (d : List Byte) : State :=
  let o : Origin :=
    { ctx := r.ctx, launch := r.launch, part := r.part, job := r.job, lchip := 0, op := r.num, vc := e.vc }
  pushFlit s e.port (2048 + e.port) 0 o false d
    { blankFlit s 1 e.vc s.sorric.phys r.job with
      first := first, last := last, nb := d.length - 1,
      addr := e.tree % 4096 * 2 ^ 41 + inst % 512 * 2 ^ 32 + ofs % 2 ^ 32 }

/-- The heads of the group queues of an engine: the first record of each group. -/
def heads : List GRec → List GRec
  | [] => []
  | r :: t => r :: (heads t).filter (fun x => !(x.job == r.job && x.group == r.group))

/-- Whether the switches of a group's tree have a buffer for an instance, so that its chunk has the credit of R398; that is the
fabric's to say (log entry 90). -/
def hasCredit (s : State) (e : Group) (pid inst : Nat) : Bool := !s.noCredit.contains (e.tree, pid, inst)

/-- Whether a head record can start a chunk now (R396 to R398, R206, R231). -/
def headReady (s : State) (k : Nat) (r : GRec) : Bool :=
  let e := s.group r.job r.group
  let open' := e.st == .active || e.st == .agreeing
  portAccepts s e.port && s.ownSlot r.part s.cyc.toNat && !s.haltedL r.launch && r.bound &&
  match r.kind with
  | .coll c n => hasCredit s e c.pid n && (r.started || (open' && e.memb.contains k && mayBegin s r.ctx r.num r.foot))
  | .join _ => !r.started && open' && mayBegin s r.ctx r.num r.foot
  | .agree _ _ => !r.started && open' && mayBegin s r.ctx r.num r.foot

/-- The head that an engine takes at a chunk boundary (R397). -/
def pickHead (s : State) (k : Nat) : Option GRec :=
  let e := s.engine k
  let prio (r : GRec) : Nat := (s.group r.job r.group).prio
  let gid (r : GRec) : Nat := r.job * 256 + r.group
  let turn (r : GRec) : Nat := (gid r + 8192 - Sparse.get 0 e.lastServed (prio r) % 8192) % 8192
  leastBy (fun a b => decide (prio b < prio a) || (prio a == prio b && decide (turn a < turn b)))
    ((heads e.queue).filter (headReady s k))

/-- The turn of a group: one more than its number is where the next search begins. -/
def noteServed (k : Nat) (r : GRec) (s : State) : State :=
  let p := (s.group r.job r.group).prio
  s.updEngine k (fun e => { e with lastServed := Sparse.set 0 e.lastServed p (r.job * 256 + r.group + 1) })

/-- A record starts: its version, and the adds that it is owed. -/
def startRec (k : Nat) (r : GRec) (s : State) : State :=
  let e := s.group r.job r.group
  let owed := match r.kind with
    | .coll c _ => if c.ctr = 0 then 0 else c.ndel (e.rank k) e.nmem
    | .join _ => 0
    | .agree _ _ => 0
  if r.started then s else updRec k r.num (fun r => { r with started := true, version := e.version, owed := owed }) s

/-- A chunk's contribution has entered the replay buffer whole (R394): the drain counter, the next chunk, and with the last
one the record waits for its acknowledgements and results only. -/
def endChunk (k : Nat) (r : GRec) (c : CollRec) (s : State) : State :=
  let s := if r.aborted then s else payOwed r c.sctr 1 s
  let s := updRec k r.num (fun r => { r with chunk := r.chunk + 1 }) s
  let s := s.updEngine k (fun e => { e with cur := none, sentB := 0 })
  if r.chunk + 1 < c.chunks then s
  else s.updEngine k (fun e =>
    { e with flying := e.flying ++ e.queue.filter (fun x => x.num == r.num), queue := e.queue.filter (fun x => x.num != r.num) })

/-- The next flit of a collective record's chunk, or its ready mark; a ready mark ends its chunk at once. -/
def sendChunk (k : Nat) (r : GRec) (c : CollRec) (inst : Nat) (s : State) : State :=
  let e := s.group r.job r.group
  let size := c.size e
  let t := r.chunk
  let sent := (s.engine k).sentB
  let lastChunk := t + 1 == c.chunks
  if !c.sends (e.rank k) t then endChunk k r c (pushTree s e r inst (if c.hasData then t * size else 0) (t == 0) lastChunk [])
  else
    let n := min 224 (size - sent)
    let d := engRead s r.job r.core (c.srcAt t + n64 sent) n
    let s := pushTree s e r inst (t * size + sent) (t == 0 && sent == 0) (lastChunk && decide (size ≤ sent + n)) d
    let s := s.updEngine k (fun e => { e with cur := some r.num, sentB := sent + n })
    if size ≤ sent + n then endChunk k r c s else s

/-- A head record takes its chunk: a collective's, a proposal or a join request, each a flit on the group's port and VC (R385,
R387). -/
def runHead (k : Nat) (r : GRec) (s : State) : State :=
  let e := s.group r.job r.group
  let s := startRec k r (noteServed k r s)
  match r.kind with
  | .coll c n => sendChunk k r c n s
  | .join _ => pushTree s e r 0 0 true true (leBytes 4 e.version.toNat ++ leBytes 1 0)
  | .agree _ v =>
    let s := pushTree s e r 0 0 true true
      (leBytes 4 e.version.toNat ++ leBytes 1 1 ++ leBytes 1 (b2n (e.leavep.contains k)) ++ leBytes 4 v.toNat)
    if e.st = .active then setGroup s r.job r.group .agreeing else s

/-- RECORD_START: an engine goes on with its chunk, one flit at a time, or at a chunk boundary takes the next head. -/
def recordStart (k : Nat) (s : State) : State :=
  let s := settleFlying k s
  match (s.engine k).cur with
  | some n =>
    match (s.engine k).queue.find? (fun r => r.num == n) with
    | some r =>
      if portAccepts s (s.group r.job r.group).port && s.ownSlot r.part s.cyc.toNat then
        match r.kind with
        | .coll c i => sendChunk k r c i s
        | .join _ => s
        | .agree _ _ => s
      else s
    | none => s.updEngine k (fun e => { e with cur := none, sentB := 0 })
  | none => match pickHead s k with
    | some r => runHead k r s
    | none => s

/-- The meaning of RECORD_START. -/
def execRecordStart (engine : Nat) (s : State) : Host.Outcome State Fault Refusal := withUnit engine 8 (recordStart engine s)

end Sys2Proof.Machine
end

