-- ==== Sys2Proof/Machine/Host.lean ====
section
/-! DEFINITION. What the host does to the package: BAR0 writes (R277, R278), writes to device memory (R225, R230), the creation of
a job (R223, R357), the answers to page requests (R233, R239, R240); and the answer of the migration control (R243). -/

namespace Sys2Proof.Machine

open Sys2Proof

/-! ### BAR0 (R277, R278) -/

/-- The code of a queue state (R278). -/
def QState.code : QState → Nat
  | .disabled => 0
  | .idle => 1
  | .ready => 2
  | .running => 3
  | .blocked => 4
  | .faulted => 5
  | .draining => 6

/-- A register of a queue; those of its set-up are written only while it is DISABLED. -/
def queueWrite (q r : Nat) (v : Word64) (s : State) : State :=
  let setUp (f : Queue → Queue) : State := if (s.queue q).st = .disabled then s.updQueue q f else s
  match r with
  | 0x00 => setUp (fun x => { x with base := v })
  | 0x08 => setUp (fun x => { x with ctl := v &&& 0x1F1FFF })
  | 0x18 => setUp (fun x => { x with evt := v &&& 0x7FFFFFFFCF })
  | 0x20 => s.updQueue q (fun x => { x with evtHd := v })
  | 0x28 => setUp (fun x => { x with stop := v &&& 0x7FFFFFFFFF })
  | 0x30 =>
    match v.toNat with
    | 1 => enable q s
    | 2 => disable q s
    | 3 => resume q s
    | 4 => kill q s
    | _ => s
  | _ => s

/-- A `SEGCMD` write (R227): the command of its low bits on the block that it names. -/
def segWrite (v : Word64) (s : State) : State :=
  let b := bits v.toNat 38 6 * 64
  if s.segStat = 15 then s
  else match bits v.toNat 2 0 with
    | 0 => bindCmd s b
    | 1 => unbindCmd s b
    | 2 => releaseCmd s b
    | 3 => poolCmd s b
    | _ => s

/-- Whether every queue is DISABLED. -/
def allDisabled (s : State) : Bool := s.queues.all (fun q => q.2.st == .disabled)

/-! ### Page requests (R233, R239, R240) -/

/-- A fill fails (R230, R233): the launches of the engines that waited for it are halted with cause 0x80; for a port, a host
write or a completion the failure is kept for the access itself. -/
def failFill (s : State) (r : FillReq) : State :=
  let us := pageUsers s r.job r.seg r.page
  let s := { s with fills := s.fills.filter (fun x => !(x.job == r.job && x.seg == r.seg && x.page == r.page && x.ctx == 0xFFFF)) }
  let s := us.foldl (fun s u => raiseHalt s u.1 u.2 0x80 (missInfo 3 r.seg 0) (pageVa (s.seg r.job r.seg) r.page)) s
  if r.port || us.isEmpty then { s with fillFail := s.fillFail ++ [(r.job, r.seg, r.page)] } else s

/-- The host grants a request: its page map entry is there, the page is zero, and the requester's status is 2. -/
def grantPage (s : State) (r : FillReq) : State :=
  match s.dzPage (s.seg r.job r.seg) r.page with
  | none => s
  | some pa =>
    let s := s.clearRange pa (2 ^ 21)
    let s := { s with fills := s.fills.filter (fun x => x.tag != r.tag) }
    let s := if r.ctx = 0xFFFF then s else tellAsker s r (.done 2)
    answerPage s r.job r.seg r.page 0

/-- The host refuses a request. -/
def refusePage (s : State) (r : FillReq) : State :=
  if r.ctx = 0xFFFF then failFill s r
  else tellAsker { s with fills := s.fills.filter (fun x => x.tag != r.tag) } r .refused

/-- PAGERESP: a TAG that matches no unanswered request is ignored. -/
def pageresp (tag : BitVec 16) (refused : Bool) (s : State) : State :=
  match s.fills.find? (fun r => r.tag == some tag.toNat) with
  | none => s
  | some r => if refused then refusePage s r else grantPage s r

/-- The meaning of PAGERESP. -/
def execPageresp (tag : BitVec 16) (refused : Bool) (s : State) : Host.Outcome State Fault Refusal := .next (pageresp tag refused s)

/-- The meaning of FILL_TIMEOUT: 20,000,000 cycles without a grant (R233). -/
def execFillTimeout (job seg page : Nat) (s : State) : Host.Outcome State Fault Refusal :=
  .next (match s.fills.find? (fun r => r.job == job && r.seg == seg && r.page == page && r.ctx == 0xFFFF && r.tag.isSome) with
    | some r => if r.since + 20000000 ≤ s.cyc.toNat then failFill s r else s
    | none => s)

/-! ### Host writes (R220, R225, R230) -/

/-- How a byte of a host write translates: W or X is enough. -/
def hostXlat (s : State) (j : Nat) (a : Word64) : Xlat :=
  match xlate s j .write a with
  | .miss _ _ => xlate s j .fetch a
  | x => x

/-- Addresses from `a` upward. -/
def addrs (a : Word64) (n : Nat) : List Word64 := (List.range n).map (fun i => a + n64 i)

/-- Whether a byte of a host write misses; it then ends in an error completion. -/
def hostMiss (s : State) (j : Nat) (a : Word64) : Bool :=
  match hostXlat s j a with
  | .miss _ _ => true
  | .ok _ _ => false
  | .absent id p => s.fillFail.contains (j, id, p)
  | .zeroing _ => false

/-- The absent page that a byte of a host write waits for. -/
def hostAbsent (s : State) (j : Nat) (a : Word64) : Option (Nat × Nat) :=
  match hostXlat s j a with
  | .absent id p => some (id, p)
  | _ => none

/-- Whether a byte of a host write waits for its segment in ZEROING, or for a unit in reset (R409). -/
def hostHolds (s : State) (j : Nat) (a : Word64) : Bool :=
  (match hostXlat s j a with
    | .zeroing _ => true
    | _ => false) || resetHolds s j a

/-- A host write into a job's segments: an error completion leaves no effect; a segment in ZEROING, an absent page or a unit in reset
holds the write back. From job number 32 on, `a` is a device physical address: the host's own structures (rings, command blocks,
page maps) that no segment maps (log entry 51). The answer is the state, and whether the write is done with. -/
def tryWrite (j : Nat) (a : Word64) (d : List Byte) (s : State) : State × Bool :=
  if 32 ≤ j then (if a.toNat + d.length ≤ Config.hbmBytes then quayBytes s a.toNat d else s, true)
  else
    let l := addrs a d.length
    if d = [] ∨ s.place j a ≠ .here then (s, true)
    else if l.any (hostMiss s j) then
      ({ s with fillFail := s.fillFail.filter (fun x => !l.any (fun a => hostAbsent s j a == some x.2 && x.1 == j)) }, true)
    else match (l.filterMap (hostAbsent s j)).head? with
      | some (id, p) => (wantPage s j id p, false)
      | none => if l.any (hostHolds s j) then (s, false) else (poke s j a d, true)

/-- What the host has posted is performed, where it can be. -/
def tryHost (s : State) : HostOp → State × Bool
  | .write j a d => tryWrite j a d s
  | .tail q v => (qtail q v s, true)

/-- A host write or a `QTAIL` write joins those that are held back, in the order in which the host posts them (R220, R280), or is
performed. -/
def postHost (o : HostOp) (s : State) : State :=
  let hold (s : State) : State := { s with hostHeld := s.hostHeld ++ [o] }
  if !s.hostHeld.isEmpty then hold s
  else
    let r := tryHost s o
    if r.2 then r.1 else hold r.1

/-- The meaning of QTAIL: a tail write keeps its place behind the host writes that are held back (R280). -/
def execQtail (q : Nat) (t : Word32) (s : State) : Host.Outcome State Fault Refusal := onUnit q 8192 (postHost (.tail q t)) s

/-- The host's writes that are held back go on, in order, as far as they can. -/
def settleHost : Nat → State → State
  | 0, s => s
  | n + 1, s =>
    match s.hostHeld with
    | [] => s
    | o :: t =>
      let r := tryHost s o
      if r.2 then settleHost n { r.1 with hostHeld := t } else r.1

/-- HOST_WRITE. -/
def hostWrite (j : Nat) (a : Word64) (d : List Byte) (s : State) : State := postHost (.write j a d) s

/-- The meaning of HOST_WRITE. -/
def execHostWrite (job : Nat) (addr : Word64) (data : List Byte) (s : State) : Host.Outcome State Fault Refusal :=
  .next (hostWrite job addr data s)

/-! ### BAR0, whole -/

/-- A write to a device control register. -/
def deviceWrite (off : Nat) (v : Word64) (s : State) : State :=
  match off with
  | 0x100000 => segWrite v s
  | 0x100010 => pageresp (BitVec.ofNat 16 v.toNat) (bitOf v.toNat 16) s
  | 0x100018 => steprel (bits v.toNat 11 0) s
  | 0x100020 => preempt (bits v.toNat 11 2) (bits v.toNat 1 0) s
  | 0x100038 => if allDisabled s then { s with rsvBase := v } else s
  | 0x100040 => if allDisabled s then { s with rsvSize := v } else s
  | 0x100048 => { s with preDelay := v }
  | _ => s

/-- A whole write of 8 bytes at an offset of BAR0; one that names no register is ignored. -/
def registerWrite (off : Nat) (v : Word64) (s : State) : State :=
  if off % 8 ≠ 0 then s
  else if off < 0x10000 then postHost (.tail (off / 8) (v.setWidth 32)) s
  else if off < 0x90000 then queueWrite ((off - 0x10000) / 64) ((off - 0x10000) % 64) v s
  else deviceWrite off v s

/-- The meaning of REGISTER_WRITE. -/
def execRegisterWrite (off : Nat) (val : Word64) (s : State) : Host.Outcome State Fault Refusal := .next (registerWrite off val s)

/-- What a BAR0 read gives (R277, R278). -/
def registerRead (s : State) (off : Nat) : Word64 :=
  if off % 8 ≠ 0 ∨ off < 0x10000 then 0
  else if off < 0x90000 then
    let q := s.queue ((off - 0x10000) / 64)
    match (off - 0x10000) % 64 with
    | 0x00 => q.base
    | 0x08 => q.ctl ||| n64 (q.st.code * 2 ^ 32)
    | 0x10 => q.head.setWidth 64
    | 0x18 => q.evt
    | 0x20 => q.evtHd
    | 0x28 => q.stop
    | _ => 0
  else if 0x100100 ≤ off ∧ off < 0x100200 then
    ((s.part ((off - 0x100100) / 8)).map (fun p => p.slip.setWidth 64)).getD 0
  else match off with
    | 0x100008 => n64 s.segStat
    | 0x100028 => n64 s.preStat
    | 0x100030 => n64 s.dzPool.length
    | 0x100038 => s.rsvBase
    | 0x100040 => s.rsvSize
    | 0x100048 => s.preDelay
    | _ => 0

/-! ### Jobs (R223, R242, R357) -/

/-- CREATE_JOB. -/
def createJob (j : Nat) (i : JobImage) (s : State) : State :=
  if 32 ≤ j ∨ 2046 < i.own ∨ 11 < i.rglog2 ∨ i.rsvBase % 2 ^ 21 ≠ 0 ∨ i.rsvSize % 2 ^ 21 ≠ 0
      ∨ Config.hbmBytes < i.rsvBase + i.rsvSize then sorStatus 1 s
  else if (s.job j).present then sorStatus 2 s
  else
    let x : Job :=
      { present := true, own := i.own, rglog2 := i.rglog2, keyid := i.keyid, segBase := i.segBase, rsvBase := i.rsvBase,
        rsvSize := i.rsvSize }
    sorStatus 0 { s with jobs := Sparse.set Job.none s.jobs j x }

/-- The meaning of CREATE_JOB. -/
def execCreateJob (job : Nat) (image : JobImage) (s : State) : Host.Outcome State Fault Refusal := .next (createJob job image s)

/-! ### The migration control's answer (R243) -/

/-- The words of the bundle at which a context stands. -/
def standingWords (s : State) (cid : Nat) : List Word32 :=
  let c := s.ctx cid
  match if c.nest.active then Sparse.get [] c.nest.buf c.nest.pos else [] with
  | w :: t => w :: t
  | [] => match fetchBundle s (s.jobOf cid) c.pc with
    | .ok ws => ws
    | .error _ => []

/-- The `XMIGR` at which a context stands. -/
def standingXmigr (s : State) (cid : Nat) : Option ArgX :=
  match standingWords s cid with
  | [] => none
  | h :: t =>
    match (slotPairs (maskSlots (bits h.toNat 27 21)) t).find? (fun w => w.slot == 6) with
    | none => none
    | some w => match decode 6 w.word w.ext with
      | some (.xmigr x) => some x
      | _ => none

/-- MIGRATION_ACCEPT: the request of a context that waits for it, reason 13, is answered. -/
def migrationAccept (cid : Nat) (s : State) : State :=
  let c := s.ctx cid
  if c.mgrant = .asked 0 ∧ c.reason = 13 ∧ cid < gone then
    match standingXmigr s cid with
    | some x => acceptMig s cid x
    | none => s
  else s

/-- The meaning of MIGRATION_ACCEPT. -/
def execMigrationAccept (ctx : Nat) (s : State) : Host.Outcome State Fault Refusal := .next (migrationAccept ctx s)

end Sys2Proof.Machine
end

