-- ==== Sys2Proof/Machine/Resets.lean ====
section
/-! DEFINITION. What Sorric does (R20): resets (R406 to R409), modes (R410), telemetry (R411), partitions, slot masks and
watchdog limits (R27, R28, R265, R297), power, frequency and ageing (R23 to R26, R412), the chip number (R29) and firmware
(R413). -/

namespace Sys2Proof.Machine

open Sys2Proof

/-! ### Records whose layout the manual does not give -/

/-- An event record of which the manual gives no byte: 64 free values (log entry 11). -/
def postFree (job : Option Nat) (s : State) : State :=
  postFor { s with free := s.free + 64 } job ((List.range 64).map (fun i => Config.freeByte (s.free + i)))

/-! ### Cold and warm resets (R407) -/

/-- The wave counts of an engine that is about to be cleared stay in the package's telemetry (R407, R411). -/
def keepWaves (g : Nat) (s : State) : State :=
  (List.range 8).foldl (fun s b =>
    let i := g / Config.coresPerCluster * 8 + b
    { s with sorric := { s.sorric with
        waves := Sparse.set 0 s.sorric.waves i (Sparse.get 0 s.sorric.waves i + Sparse.get 0 (s.core g).hist b) } }) s

/-- A cold reset: everything but the firmware banks and the active-bank selection. The bytes of HBM read as they do after
power-on (log entry 1). The model's own counters and agenda go on. -/
def resetCold (s : State) : State :=
  { State.reset with
    sorric := { Sorric.cold with active := s.sorric.active, image := s.sorric.image },
    agenda := s.agenda, free := s.free, num := s.num }

/-- The meaning of PERST. -/
def execPerst (s : State) : Host.Outcome State Fault Refusal := .next (resetCold s)

/-- A warm reset: every unit below Sorric. `CYC`, HBM and Sorric's state stay, but for the modes, which take their defaults
(R410), and so do the telemetry counts: waves, errors and the ports' CRC failures (R351). It ends with status OK (R406). -/
def resetWarm (s : State) : State :=
  let s := (s.cores.foldl (fun s p => keepWaves p.1 s) s).goodWords (fun w => decide (Config.hbmBytes / 8 ≤ w))
  sorStatus 0 { State.reset with
    cyc := s.cyc, mem := s.mem.filter (fun c => decide (c.1 < Config.hbmBytes)),
    sorric := { s.sorric with modes := Sorric.cold.modes, asked := [], lagging := [], gated := Sorric.cold.gated, relock := [], inReset := [] },
    ports := Sparse.mapV Port.cold (fun _ x => { Port.cold with crcTot := x.crcTot }) s.ports,
    eccWords := s.eccWords, soft := s.soft.filter (fun x => match x with
      | .word _ => true
      | _ => false), agenda := s.agenda, free := s.free,
    num := s.num, wireOut := s.wireOut }

/-- The meaning of HOT_RESET. -/
def execHotReset (s : State) : Host.Outcome State Fault Refusal := .next (resetWarm s)

/-! ### The units below (R407) -/

/-- A copy engine's buffer and calendar are cleared. -/
def clearCopy (g : Nat) (s : State) : State :=
  ((s.core g).jobs.foldl (fun s x => endJob s g x) s).updCore g (fun k => { k with jobs := [], cal := [] })

/-- A matrix engine's queue, codebook RAM and counts are cleared; the tiles stay. -/
def clearMatrix (g : Nat) (s : State) : State :=
  let s := keepWaves g s
  (s.updCore g (fun k => { k with mq := [], savedOps := [], codebook := [], waveTot := 0, errTot := 0, corrTot := 0,
                                  hist := [] })).goodCodebook g

/-- The lock slots that name a core's scratchpad are freed in every context (R136). -/
def freeLockSlots (g : Nat) (s : State) : State :=
  s.liveCtxs.foldl (fun s c => s.updCtx c (fun x => { x with locks := x.locks.filter (fun l => l.core != g) })) s

/-- A core is cleared: contexts EMPTY, and registers, tiles, scratchpad, codebook RAM, lock bits and counts zero. -/
def clearCore (g : Nat) (s : State) : State :=
  let s := (List.range 4).foldl (fun s k => if (s.ctx (g * 4 + k)).launch.isSome then killCtx s (g * 4 + k) else s) s
  let s := clearCopy g (clearMatrix g (freeLockSlots g s))
  let s := (s.setCore g Core.cold).clearRange (spAddr g 0) Config.spBytes
  (s.goodWords (fun w => decide (spAddr g 0 ≤ 8 * w) && decide (8 * w < spAddr g 0 + Config.spBytes))).goodLanes g
    (fun _ _ => true)

/-- A collective engine's group queues are cleared. -/
def clearColl (n : Nat) (s : State) : State :=
  let e := s.engine n
  ((e.queue ++ e.flying).foldl (fun s r => if r.bound then freeBusy s r.job r.segs else s) s).updEngine n (fun e =>
    { e with queue := [], flying := [], cur := none, sentB := 0, caught := none })

/-- A cluster: its cores and its collective engine. -/
def clearCluster (n : Nat) (s : State) : State :=
  clearColl n ((List.range Config.coresPerCluster).foldl (fun s i => clearCore (n * Config.coresPerCluster + i) s) s)

/-- Every plane's bit is set for the tile of an HBM byte of this chip whose page lies in stack `q`. -/
def markByte (q j : Nat) (s : State) (a : Word64) : State :=
  match locate s j a with
  | .ok pa id =>
    if tierOf a = false ∧ isShort a = false ∧ stackOf pa = q then
      markTile s (s.seg j id) (ofsOf a - (s.seg j id).vbase)
    else s
  | _ => s

/-- The tiles with a write in progress through a quay are marked (R408): the bytes that copies, fills and storer rings have
begun and not yet performed. -/
def markWrites (q : Nat) (s : State) : State :=
  let copies := s.cores.flatMap (fun p => (p.2.jobs.filter (fun x => x.began && (x.kind == .copy || x.kind == .fill))).flatMap
    (fun x => ((List.range x.box.count).filter (fun e => !x.done.contains e)).map (fun e => (x.job, x.box.dstAt e))))
  let pulls := s.quays.flatMap (fun p => p.2.subs.flatMap (fun y => match y.2 with
    | some x => match x.prog with
      | some (t, e) => if x.ring.storer then
            ((List.range (x.ring.tile t).count).filter (fun i => decide (e ≤ i))).map (fun i => (x.job, (x.ring.tile t).srcAt i))
          else []
      | none => []
    | none => []))
  (copies ++ pulls).foldl (fun s w => markByte q w.1 s w.2) s

/-- Whether a migration reads or writes a page of stack `q`. -/
def migUses (s : State) (q : Nat) (m : Migration) : Bool :=
  let e := s.seg m.job m.seg
  (List.range (e.len / 2 ^ 21)).any (fun i => stackOf (e.pbase + i * 2 ^ 21) == q || stackOf (m.dst + i * 2 ^ 21) == q)

/-- A quay: its subscriptions, and the migrations that use its stack, each abandoned with an event record (R228). -/
def clearQuay (q : Nat) (s : State) : State :=
  let s := markWrites q s
  let s := (Sparse.get Quay.cold s.quays q).subs.foldl (fun s p => match p.2 with
    | some x => if x.bound then freeBusy s x.job x.segs else s
    | none => s) s
  let s := { s with quays := Sparse.set Quay.cold s.quays q Quay.cold }
  (s.migs.filter (migUses s q)).foldl (fun s m => postFree (some m.job) (abandonMig s m.job m.seg)) s

/-- A port that a reset takes out of use: it goes to DRAIN, towards TRAIN (R353, R408). -/
def drainPort (p : Nat) (s : State) : State :=
  if (s.port p).st.isUp then drainTo p .train s
  else if (s.port p).st = .drain then s.updPort p (fun x => { x with want := .train })
  else s

/-- A link port that has drained is cleared (R407, R408): its unacknowledged flits go to other paths, and the replay buffer is
emptied of those that have none, whose operations are counted lost (log entry 89). -/
def clearPort (p : Nat) (s : State) : State :=
  let s := (distinct ((s.port p).buf.map (·.key))).foldl repinTriple s
  let s := (s.port p).buf.foldl loseOp s
  setPort (s.updPort p (fun x => { x with buf := [] })) p .train

/-! ### The order of a reset (R408, R409) -/

/-- The cores of a reset level's target. -/
def resetCores (level n : Nat) : List Nat :=
  if level = 2 then (List.range (2 * Config.coresPerCluster)).map (fun i => n * 2 * Config.coresPerCluster + i)
  else if level = 3 then (List.range Config.coresPerCluster).map (fun i => n * Config.coresPerCluster + i)
  else if level = 4 then [n] else []

/-- The collective engines of a reset level's target. -/
def resetEngines (level n : Nat) : List Nat := if level = 2 then [2 * n, 2 * n + 1] else if level = 3 ∨ level = 9 then [n] else []

/-- The launches that have state in a unit. -/
def launchesIn (s : State) (level n : Nat) : List Nat :=
  let cs := resetCores level n
  let onCores : List Nat := s.cores.flatMap (fun p =>
    if cs.contains p.1 then
      p.2.ctxs.filterMap (fun c => c.2.launch) ++ (p.2.mq ++ p.2.savedOps).map (·.launch) ++ p.2.jobs.map (·.launch)
        ++ (s.saved.filter (fun x => x.core == p.1 && (!x.spilled || x.ctx.st == .mewsIn))).filterMap (fun x => x.ctx.launch)
    else [])
  let own : List Nat :=
    if level = 5 then ((s.core n).mq ++ (s.core n).savedOps).map (·.launch)
    else if level = 6 then (s.core n).jobs.map (·.launch)
    else if level = 7 then (Sparse.get Quay.cold s.quays n).subs.filterMap (fun q => q.2.map (·.launch))
    else (resetEngines level n).flatMap (fun k => ((s.engine k).queue ++ (s.engine k).flying).map (·.launch))
  distinct ((onCores ++ own).filter (fun l => (s.launchOf l).isSome))

/-- Step 3: the unit is reset. -/
def clearUnit (level n : Nat) (s : State) : State :=
  match level with
  | 2 => clearCluster (2 * n + 1) (clearCluster (2 * n) s)
  | 3 => clearCluster n s
  | 4 => clearCore n s
  | 5 => clearMatrix n s
  | 6 => clearCopy n s
  | 7 => clearQuay n s
  | 8 => clearPort n s
  | 9 => clearColl n s
  | _ => s

/-- Whether the records of a launch's halt are written. -/
def recordsDone (s : State) (lid : Nat) : Bool :=
  match (s.launchOf lid).bind (·.halt) with
  | some h => h.waiting.isEmpty
  | none => false

/-- The cores that a reset level's target holds, the matrix and copy engines among them: the first and how many. -/
def coresUnder (level n : Nat) : Nat × Nat :=
  match level with
  | 2 => (n * 192, 192)
  | 3 => (n * 96, 96)
  | 4 => (n, 1)
  | 5 => (n, 1)
  | 6 => (n, 1)
  | _ => (0, 0)

/-- Whether unit `u` lies inside unit `w`, another one (R407). -/
def unitWithin (u w : UnitId) : Bool :=
  decide (w.kind < u.kind) && decide (w.kind ≤ 4) &&
    (if u.kind = 9 then (resetEngines w.kind w.inst).contains u.inst
      else
        let a := coresUnder u.kind u.inst
        let b := coresUnder w.kind w.inst
        decide (0 < a.2) && decide (b.1 ≤ a.1) && decide (a.1 + a.2 ≤ b.1 + b.2))

/-- A reset below warm level: the halt lines first, then, once their records are written, and a port has drained, the unit, and with
it every unit inside it whose reset was asked for meanwhile; that of a unit inside one already in reset waits for the outer one (R409).
The tiles that a quay was writing when the reset was asked for are marked at once. -/
def resetUnit (level n : Nat) (s : State) : State :=
  let u : UnitId := { kind := level, inst := n }
  let ls := launchesIn s level n
  let s := if level = 8 then drainPort n s else s
  let outer := s.sorric.inReset.any (fun w => unitWithin u w)
  if ls.all (recordsDone s) && !outer && !(level == 8 && (s.port n).st == .drain) then
    sorStatus 0 (clearUnit level n
      { s with sorric := { s.sorric with inReset := s.sorric.inReset.filter (fun w => w != u && !unitWithin w u) } })
  else
    let s := if s.sorric.inReset.contains u then s
      else
        let s := if level = 7 then markWrites n s else s
        { s with sorric := { s.sorric with inReset := s.sorric.inReset ++ [u] } }
    ls.foldl (fun s l => raiseHalt s l { kind := 15, inst := 0 } 0x87 0 0) s

/-- The targets of a reset level (R406). Levels 0 and 1 have TARGET zero; for level 0 the manual does not say so (log entry 79). -/
def resetTargets (level : Nat) : Nat :=
  match level with
  | 0 => 1
  | 1 => 1
  | 2 => 4
  | 3 => 8
  | 4 => Config.nCores
  | 5 => Config.nCores
  | 6 => Config.nCores
  | 7 => 8
  | 8 => 16
  | 9 => 8
  | _ => 0

/-- The word of a RESET command (R406); a TARGET that its field cannot hold is put in as one out of range. -/
def resetWord (level target : Nat) : Word32 := BitVec.ofNat 32 (level * 2 ^ 28 + min target 4095)

/-- A RESET command (R406): MALFORMED for a Zero field, an undefined LEVEL or a TARGET out of range. -/
def resetCommand (w : Word32) (s : State) : State :=
  let level := bits w.toNat 31 28
  let n := bits w.toNat 11 0
  if bits w.toNat 27 12 ≠ 0 ∨ resetTargets level ≤ n then sorStatus 1 s
  else match level with
    | 0 => resetCold s
    | 1 => resetWarm s
    | _ => resetUnit level n s

/-- The meaning of RESET_COLD. -/
def execResetCold (s : State) : Host.Outcome State Fault Refusal := .next (resetCommand (resetWord 0 0) s)
/-- The meaning of RESET_WARM. -/
def execResetWarm (s : State) : Host.Outcome State Fault Refusal := .next (resetCommand (resetWord 1 0) s)
/-- The meaning of RESET_DIE. -/
def execResetDie (die : Nat) (s : State) : Host.Outcome State Fault Refusal := .next (resetCommand (resetWord 2 die) s)
/-- The meaning of RESET_CLUSTER. -/
def execResetCluster (cluster : Nat) (s : State) : Host.Outcome State Fault Refusal := .next (resetCommand (resetWord 3 cluster) s)
/-- The meaning of RESET_CORE. -/
def execResetCore (core : Nat) (s : State) : Host.Outcome State Fault Refusal := .next (resetCommand (resetWord 4 core) s)
/-- The meaning of RESET_MATRIX. -/
def execResetMatrix (core : Nat) (s : State) : Host.Outcome State Fault Refusal := .next (resetCommand (resetWord 5 core) s)
/-- The meaning of RESET_COPY. -/
def execResetCopy (core : Nat) (s : State) : Host.Outcome State Fault Refusal := .next (resetCommand (resetWord 6 core) s)
/-- The meaning of RESET_QUAY. -/
def execResetQuay (quay : Nat) (s : State) : Host.Outcome State Fault Refusal := .next (resetCommand (resetWord 7 quay) s)
/-- The meaning of RESET_PORT. -/
def execResetPort (port : Nat) (s : State) : Host.Outcome State Fault Refusal := .next (resetCommand (resetWord 8 port) s)
/-- The meaning of RESET_COLLECTIVE. -/
def execResetCollective (engine : Nat) (s : State) : Host.Outcome State Fault Refusal := .next (resetCommand (resetWord 9 engine) s)

/-- The resets that wait go on where they can. -/
def settleResets (s : State) : State :=
  s.sorric.inReset.foldl (fun s u => if s.sorric.inReset.contains u then resetUnit u.kind u.inst s else s) s

/-! ### Modes (R410) -/

/-- Whether a function has no request in progress: no demand fill, no request of a `PGALLOC`, no restripe and no triple that waits for
a path, no group whose tree is awaited, no proposal. The others are idle between any two events. -/
def fnIdle (s : State) (fn : Nat) : Bool :=
  match fn with
  | 0 => !s.fills.any (fun r => r.ctx == 0xFFFF)
  | 1 => !s.fills.any (fun r => r.ctx != 0xFFFF)
  | 2 => !s.ports.any (fun p => p.2.dark) &&
      !s.triples.any (fun p => p.2.path != 0 && !portUp s (p.2.path - 1) && !(outstanding s p.1).isEmpty)
  | 3 => !s.groups.any (fun p => p.2.st == .creating)
  | 5 => s.sorric.proposals.isEmpty
  | _ => true

/-- A function takes a mode. In host-assisted allocation the pool is empty (R234). -/
def takeMode (fn : Nat) (host : Bool) (s : State) : State :=
  let m := s.sorric.modes.filter (· != fn)
  { s with
    sorric := { s.sorric with modes := if host then m ++ [fn] else m, asked := s.sorric.asked.filter (fun a => a.1 != fn) }
    dzPool := if host ∧ fn = 0 then [] else s.dzPool }

/-- SETMODE: functions 0 demand-zero allocation, 1 probe-miss resolution, 2 restripe and reroute, 3 tree creation, 4 telemetry
aggregation, 5 ageing re-plan, 6 ECC scrub (numbers of the model's, log entry 49). The mode is taken at the function's next idle
point. -/
def setmode (fn : Nat) (host : Bool) (s : State) : State :=
  if 6 < fn then sorStatus 1 s
  else if fnIdle s fn then sorStatus 0 (takeMode fn host s)
  else sorStatus 0 { s with sorric := { s.sorric with asked := s.sorric.asked.filter (fun a => a.1 != fn) ++ [(fn, host)] } }

/-- The mode changes that wait are taken where their function is idle. -/
def settleModes (s : State) : State :=
  s.sorric.asked.foldl (fun s a => if fnIdle s a.1 then takeMode a.1 a.2 s else s) s

/-- The meaning of SETMODE. -/
def execSetmode (fn : Nat) (host : Bool) (s : State) : Host.Outcome State Fault Refusal := .next (setmode fn host s)

/-! ### Telemetry (R411) -/

/-- The sensor identifiers of R411. -/
def sensorListed (i : Nat) : Bool :=
  [(0x100, 0x11F), (0x200, 0x20D), (0x300, 0x33F), (0x400, 0x41F), (0x500, 0x51F), (0x600, 0x60F), (0x700, 0x71F),
    (0x800, 0x808)].any (fun r => decide (r.1 ≤ i) && decide (i ≤ r.2))

/-- A sensor's value where none has been taken: 0, or for the predicted ends of life no trend yet (R411). -/
def sensorNone (i : Nat) : Nat := if 0x800 ≤ i then 2 ^ 32 - 1 else 0

/-- What a sensor shows: none for an identifier that is not listed. -/
def sensorValue (s : State) (i : Nat) : Option Nat :=
  if sensorListed i then some (Sparse.get (sensorNone i) s.sorric.sensors i) else none

/-- The meaning of SENSOR_READ: it gives `sensorValue` and changes nothing. -/
def execSensorRead (sensor : Nat) (s : State) : Host.Outcome State Fault Refusal :=
  .next (match sensorValue s sensor with
    | some _ => s
    | none => s)

/-- The waves of a cluster in a histogram bin since cold reset (R199, R411). -/
def clusterBin (s : State) (n b : Nat) : Nat :=
  Sparse.get 0 s.sorric.waves (8 * n + b) + ((List.range Config.coresPerCluster).map (fun i =>
    Sparse.get 0 (s.core (n * Config.coresPerCluster + i)).hist b)).foldl (· + ·) 0

/-- The value that a sensor takes at an update: the state's where the package counts it, the least of the islands' for sensor 0x808,
else the measurement. -/
def sensorSample (s : State) (i v : Nat) : Nat :=
  if 0x300 ≤ i ∧ i ≤ 0x33F then clusterBin s ((i - 0x300) / 8) ((i - 0x300) % 8) % 2 ^ 32
  else if 0x500 ≤ i ∧ i ≤ 0x51F then ((s.part (i - 0x500)).map (fun p => p.slip.toNat)).getD 0
  else if 0x600 ≤ i ∧ i ≤ 0x60F then (s.port (i - 0x600)).st.code * 2 ^ 16 + (s.port (i - 0x600)).mask.toNat
  else if 0x700 ≤ i ∧ i ≤ 0x71F then min (Sparse.get 0 s.sorric.eccs i) (2 ^ 32 - 1)
  else if i = 0x808 then
    ((List.range 8).map (fun n => Sparse.get (sensorNone i) s.sorric.sensors (0x800 + n))).foldl min (sensorNone i)
  else v

/-- TELEMETRY_UPDATE; with aggregation host-assisted the raw sample goes to the host's event ring as well (R410). -/
def telemetryUpdate (i v : Nat) (s : State) : State :=
  if !sensorListed i then s
  else
    let t := { s with sorric := { s.sorric with sensors := Sparse.set (sensorNone i) s.sorric.sensors i (sensorSample s i v) } }
    if s.sorric.modes.contains 4 then postFree none t else t

/-- The meaning of TELEMETRY_UPDATE. -/
def execTelemetryUpdate (sensor val : Nat) (s : State) : Host.Outcome State Fault Refusal := .next (telemetryUpdate sensor val s)

/-- SCRUB (R410, R411) of the word at a physical address: an uncorrectable error that it finds is counted, a correctable one is
corrected and counted, at its stack's quay or its core's cluster. -/
def scrub (pa : Nat) (s : State) : State :=
  let i := if pa < Config.hbmBytes then 0x700 + 2 * stackOf pa
    else 0x710 + 2 * ((pa - Config.hbmBytes) / Config.spBytes / Config.coresPerCluster)
  if s.eccWords.contains (pa / 8) then countEcc (i + 1) 1 s
  else if s.soft.contains (.word (pa / 8)) then
    { countEcc i 1 s with soft := s.soft.filter (fun x => x != .word (pa / 8)) }
  else s

/-- The meaning of SCRUB. -/
def execScrub (addr : Nat) (s : State) : Host.Outcome State Fault Refusal := .next (scrub addr s)

/-! ### Partitions (R27, R28, R297) -/

/-- The cluster of a core. -/
def clusterOf (g : Nat) : Nat := g / Config.coresPerCluster

/-- A slot mask. -/
def State.slotMask (s : State) (i : Nat) : Word64 := Sparse.get 0 s.slotMasks i

/-- Whether a partition has a launch dispatched. -/
def partBusy (s : State) (p : Nat) : Bool := s.launches.any (fun l => l.part == p)

/-- Whether a mask overlaps that of an id bound to a partition other than `p`. -/
def maskClash (s : State) (p : Option Nat) (m : Word64) : Bool :=
  s.parts.any (fun q => some q.1 != p && (q.2.map (fun x => s.slotMask x.slotid &&& m != 0)).getD false)

/-- Whether every island of a set of cores is powered. -/
def powered (s : State) (cs : List Nat) : Bool := cs.all (fun g => !s.sorric.gated.contains (clusterOf g))

/-- Clusters none of whose cores is in a partition are gated. -/
def gateIdle (s : State) : State :=
  let used (n : Nat) : Bool := s.parts.any (fun q => (q.2.map (fun x => x.cores.any (fun g => clusterOf g == n))).getD false)
  { s with sorric := { s.sorric with
      gated := (List.range 8).filter (fun n => s.sorric.gated.contains n || !used n) } }

/-- The cores of a list in rising number. -/
def coreSet (l : List Nat) : List Nat := (List.range Config.nCores).filter (fun g => l.contains g)

/-- PARTITION. A request that both takes a core of another partition and changes a partition under a dispatched launch is
CONFLICT: the manual gives no order (log entry 80). MALFORMED for a number out of range or a core named twice, CONFLICT for a core in another partition or an id that
R297 refuses, BUSY for a change under a dispatched launch; an empty set ends the partition. Its slip counter starts at 0 (R244). -/
def partition (p : Nat) (cores : List Nat) (sid : Nat) (s : State) : State :=
  let old := s.part p
  let cs := coreSet cores
  let same := (old.map (fun x => x.cores == cs && x.slotid == sid)).getD false
  if 31 < p ∨ 63 < sid ∨ cores.length ≠ cs.length then sorStatus 1 s
  else if cs.any (fun g => s.parts.any (fun q => q.1 != p && (q.2.map (fun x => x.cores.contains g)).getD false)) then sorStatus 2 s
  else if partBusy s p && !same then sorStatus 3 s
  else if cs = [] then sorStatus 0 (gateIdle { s with parts := Sparse.set none s.parts p none })
  else if s.slotMask sid = 0#64 ∨ maskClash s (some p) (s.slotMask sid) = true then sorStatus 2 s
  else
    let x : Partition :=
      { cores := cs, slotid := sid, watchdog := (old.map (·.watchdog)).getD 0, slip := 0,
        ready := powered s cs }
    sorStatus 0 (gateIdle { s with parts := Sparse.set none s.parts p (some x) })

/-- The meaning of PARTITION. -/
def execPartition (part : Nat) (cores : List Nat) (slotid : Nat) (s : State) : Host.Outcome State Fault Refusal :=
  .next (partition part cores slotid s)

/-- POWER_UP: the islands of a partition are powered, and every partition whose islands are is ready. -/
def powerUp (p : Nat) (s : State) : State :=
  match s.part p with
  | none => s
  | some x =>
    let s := { s with sorric := { s.sorric with
      gated := s.sorric.gated.filter (fun n => !x.cores.any (fun g => clusterOf g == n)) } }
    { s with parts := Sparse.mapV none (fun _ q => q.map (fun y => { y with ready := powered s y.cores })) s.parts }

/-- The meaning of POWER_UP. -/
def execPowerUp (part : Nat) (s : State) : Host.Outcome State Fault Refusal := .next (powerUp part s)

/-- SLOT_MASK: a mask is set, or an id is bound to a partition, with the refusals of R297. -/
def slotMask (p : Option Nat) (id : Nat) (m : Word64) (s : State) : State :=
  if 63 < id then sorStatus 1 s
  else match p with
    | none =>
      let owner := (s.parts.find? (fun q => (q.2.map (fun x => x.slotid == id)).getD false)).map (·.1)
      if m = 0#64 then sorStatus 1 s
      else if maskClash s owner m then sorStatus 2 s
      else if (owner.map (partBusy s)).getD false then sorStatus 3 s
      else sorStatus 0 { s with slotMasks := Sparse.set 0 s.slotMasks id m }
    | some p =>
      match s.part p with
      | none => sorStatus 2 s
      | some x =>
        if s.slotMask id = 0#64 ∨ maskClash s (some p) (s.slotMask id) = true then sorStatus 2 s
        else if partBusy s p && x.slotid != id then sorStatus 3 s
        else sorStatus 0 { s with parts := Sparse.set none s.parts p (some { x with slotid := id }) }

/-- The meaning of SLOT_MASK. -/
def execSlotMask (part : Option Nat) (id : Nat) (mask : Word64) (s : State) : Host.Outcome State Fault Refusal :=
  .next (slotMask part id mask s)

/-- The meaning of WATCHDOG_LIMIT (R265). -/
def execWatchdogLimit (part : Nat) (limit : Word32) (s : State) : Host.Outcome State Fault Refusal :=
  .next (match s.part part with
    | none => sorStatus 2 s
    | some x => sorStatus 0 { s with parts := Sparse.set none s.parts part (some { x with watchdog := limit }) })

/-! ### Power, frequency and ageing (R23 to R26, R412) -/

/-- The meaning of POWER_CAP: 1,400 to 2,800 W. -/
def execPowerCap (watts : Nat) (s : State) : Host.Outcome State Fault Refusal :=
  .next (if 1400 ≤ watts ∧ watts ≤ 2800 then sorStatus 0 { s with sorric := { s.sorric with cap := watts } } else sorStatus 1 s)

/-- What the holders of a cluster's cores have used of their quanta is counted at the frequency that ends now (R5, R251). -/
def settleQuanta (n : Nat) (s : State) : State :=
  { s with cores := Sparse.mapV Core.cold (fun g k => if g / Config.coresPerCluster = n then
      { k with qused := quantumUsed s g, quantum := s.cyc.toNat } else k) s.cores }

/-- A cluster-core island takes a frequency, and its cores pause (R26). A step asked for during the pause is dropped (log entry
77). -/
def setFreq (n mhz : Nat) (s : State) : State :=
  if relocking s (n * Config.coresPerCluster) then s
  else
    let s := settleQuanta n s
    { s with sorric := { s.sorric with freq := Sparse.set 2000 s.sorric.freq n mhz,
                                          relock := Sparse.set 0 s.sorric.relock n (s.cyc.toNat + 1) } }

/-- FREQUENCY_STEP: one of the 13 steps of R25. -/
def execFrequencyStep (cluster mhz : Nat) (s : State) : Host.Outcome State Fault Refusal :=
  withUnit cluster 8 (if 1200 ≤ mhz ∧ mhz ≤ 2400 ∧ mhz % 100 = 0 then setFreq cluster mhz s else s)

/-- The pending writebacks of a context all complete. -/
def Context.drain (c : Context) : Context := (List.range c.pend.length).foldl (fun c _ => c.writeback 0) c

/-- A halt that arrived during a relock pause is taken before issue resumes (R26): the cluster's resident contexts that have yet
to stop complete their writebacks and stop. -/
def takeHalts (n : Nat) (s : State) : State :=
  s.liveCtxs.foldl (fun s c =>
    match s.ctxLaunch c with
    | some l =>
      if c < residents ∧ coreOf c / Config.coresPerCluster = n ∧ (l.halt.map (fun h => h.waiting.contains ⟨0, c⟩)).getD false = true then
        haltArrival l.id { kind := 0, inst := c } (s.updCtx c Context.drain)
      else s
    | none => s) s

/-- RELOCK: issue resumes; the pause counts towards no quantum and no watchdog limit (R26, R251, R265). -/
def relock (n : Nat) (s : State) : State :=
  let t := Sparse.get 0 s.sorric.relock n
  if t = 0 then s
  else
    let s := takeHalts n s
    let d := s.cyc.toNat + 1 - t
    let late (c : Context) : Context := if c.blockedAt = 0 then c else { c with blockedAt := c.blockedAt + d }
    { s with
      sorric := { s.sorric with relock := Sparse.set 0 s.sorric.relock n 0 },
      cores := Sparse.mapV Core.cold (fun g k => if g / Config.coresPerCluster = n then
          { k with quantum := if k.holder.isSome then k.quantum + d else k.quantum,
                   ctxs := Sparse.mapV Context.empty (fun _ c => late c) k.ctxs }
        else k) s.cores }

/-- The meaning of RELOCK. -/
def execRelock (cluster : Nat) (s : State) : Host.Outcome State Fault Refusal := withUnit cluster 8 (relock cluster s)

/-- A cluster-matrix island's voltage moves by one step of 5 mV, upwards only below its rated limit (R412). -/
def stepVolt (n : Nat) (up : Bool) (s : State) : State :=
  let v := Sparse.get 0 s.sorric.volt n
  let w := if up then (if v < Config.voltLimit n then v + 1 else v) else v - 1
  { s with sorric := { s.sorric with volt := Sparse.set 0 s.sorric.volt n w } }

/-- The power of an island over the last 1 ms window, as its sensor holds it (R23, R411). -/
def islandPower (s : State) (i : Nat) : Nat := Sparse.get 0 s.sorric.sensors (0x100 + i)

/-- The power of the module. -/
def modulePower (s : State) : Nat := ((List.range 32).map (islandPower s)).foldl (· + ·) 0

/-- The power of a cluster: its cores' island and its matrix engines' (R24). -/
def clusterPower (s : State) (n : Nat) : Nat := islandPower s n + islandPower s (8 + n)

/-- Whether Sorric acts on a cluster at the end of a window: the module draws more than its cap, and no cluster draws more than
this one (R23). -/
def capActs (s : State) (n : Nat) : Bool :=
  decide (s.sorric.cap < modulePower s) && (List.range 8).all (fun m => decide (clusterPower s m ≤ clusterPower s n))

/-- CAP_WINDOW: over the cap, Sorric lowers the frequency of the cluster that draws the most by a step, and its matrix island's
voltage by one (R23). -/
def capWindow (n : Nat) (s : State) : State :=
  let f := s.mhz n
  if capActs s n then stepVolt n false (if f ≤ 1200 then s else setFreq n (f - 100) s) else s

/-- The meaning of CAP_WINDOW. -/
def execCapWindow (cluster : Nat) (s : State) : Host.Outcome State Fault Refusal := withUnit cluster 8 (capWindow cluster s)

/-- A proposed voltage step of a cluster waits for the host's approval (R412). -/
def propose (cluster : Nat) (s : State) : State :=
  let p := s.sorric.proposals
  { s with sorric := { s.sorric with proposals := if p.contains cluster then p else p ++ [cluster] } }

/-- An hour in cycles of 0.5 ns (R5). -/
def hour : Nat := 7200000000000

/-- Whether an ageing step may be made: the island below its rated limit, none of its steps in the last hour, and the module's last window
within its cap, which takes precedence (R412; log entry 92). -/
def mayAge (s : State) (n : Nat) : Bool :=
  let t := Sparse.get 0 s.sorric.aged n
  decide (modulePower s ≤ s.sorric.cap) && (t == 0 || decide (t + hour ≤ s.cyc.toNat + 1))
    && decide (Sparse.get 0 s.sorric.volt n < Config.voltLimit n)

/-- An ageing step: the island's voltage rises where it may, and the hour begins. -/
def age (n : Nat) (s : State) : State :=
  if mayAge s n then
    let t := stepVolt n true s
    { t with sorric := { t.sorric with aged := Sparse.set 0 t.sorric.aged n (s.cyc.toNat + 1) } }
  else s

/-- AGEING_STEP: the step is applied, or proposed to the host (R410, R412). -/
def ageingStep (cluster : Nat) (s : State) : State :=
  if s.sorric.modes.contains 5 then propose cluster s else age cluster s

/-- The meaning of AGEING_STEP. -/
def execAgeingStep (cluster : Nat) (s : State) : Host.Outcome State Fault Refusal :=
  withUnit cluster 8 (ageingStep cluster s)

/-- AGEING_APPROVAL: the proposal is settled, and the step is applied if the host approves. -/
def ageingApproval (cluster : Nat) (approve : Bool) (s : State) : State :=
  if s.sorric.proposals.contains cluster then
    let p := s.sorric.proposals.filter (· != cluster)
    let t := { s with sorric := { s.sorric with proposals := p } }
    if approve then age cluster t else t
  else s

/-- The meaning of AGEING_APPROVAL. -/
def execAgeingApproval (cluster : Nat) (approve : Bool) (s : State) : Host.Outcome State Fault Refusal :=
  withUnit cluster 8 (ageingApproval cluster approve s)

/-! ### Bring-up and firmware (R29, R413) -/

/-- The meaning of CHIP_NUMBER. -/
def execChipNumber (phys : Nat) (s : State) : Host.Outcome State Fault Refusal :=
  .next (if phys ≤ 2047 then sorStatus 0 { s with sorric := { s.sorric with phys := phys } } else sorStatus 1 s)

/-- The meaning of SPDM_SESSION. -/
def execSpdmSession (ok : Bool) (s : State) : Host.Outcome State Fault Refusal :=
  .next { s with sorric := { s.sorric with session := ok } }

/-- FIRMWARE_WRITE: inside a secured session the inactive bank of a component (0 Sorric, 1 quays, 2 collective engines) takes an
image; one whose signature fails stays inactive, status BADIMAGE (4). -/
def firmwareWrite (comp : Nat) (good : Bool) (s : State) : State :=
  if 2 < comp then sorStatus 1 s
  else if !s.sorric.session then sorStatus 2 s
  else sorStatus (if good then 0 else 4) { s with sorric := { s.sorric with image := Sparse.set false s.sorric.image comp good } }

/-- The meaning of FIRMWARE_WRITE. -/
def execFirmwareWrite (comp : Nat) (good : Bool) (s : State) : Host.Outcome State Fault Refusal := .next (firmwareWrite comp good s)

/-- The other bank of a component is recorded as the active one, and the component goes over to it: Sorric and the quays at once, since no
command and no transfer unit is in progress between two events, and a collective engine at its next chunk boundary (R413). -/
def swapBank (comp : Nat) (s : State) : State :=
  let mid := (List.range 8).filter (fun k => (s.engine k).cur.isSome && !s.sorric.lagging.contains k)
  { s with sorric := { s.sorric with
      active := Sparse.set 0 s.sorric.active comp (1 - Sparse.get 0 s.sorric.active comp)
      lagging := if comp = 2 then mid else s.sorric.lagging } }

/-- The bank under which collective engine `k` runs. -/
def engineBank (s : State) (k : Nat) : Nat :=
  let b := Sparse.get 0 s.sorric.active 2
  if s.sorric.lagging.contains k then 1 - b else b

/-- The engines that have reached a chunk boundary run under the recorded bank. -/
def settleBanks (s : State) : State :=
  { s with sorric := { s.sorric with lagging := s.sorric.lagging.filter (fun k => (s.engine k).cur.isSome) } }

/-- ACTIVATE: the bank with a verified image takes over. -/
def activate (comp : Nat) (s : State) : State :=
  if 2 < comp then sorStatus 1 s
  else if !Sparse.get false s.sorric.image comp then sorStatus 4 s
  else
    let t := swapBank comp s
    sorStatus 0 { t with sorric := { t.sorric with swapped := t.sorric.swapped.filter (· != comp) ++ [comp] } }

/-- The meaning of ACTIVATE. -/
def execActivate (comp : Nat) (s : State) : Host.Outcome State Fault Refusal := .next (activate comp s)

/-- SELF_CHECK: a component that has just switched and fails returns to its old bank, and an event is posted. -/
def selfCheck (comp : Nat) (ok : Bool) (s : State) : State :=
  if s.sorric.swapped.contains comp then
    let t := { s with sorric := { s.sorric with swapped := s.sorric.swapped.filter (· != comp) } }
    if ok then t else postFree none (swapBank comp t)
  else s

/-- The meaning of SELF_CHECK. -/
def execSelfCheck (comp : Nat) (ok : Bool) (s : State) : Host.Outcome State Fault Refusal := .next (selfCheck comp ok s)

end Sys2Proof.Machine
end

