-- ==== Sys2Proof/Machine/Dispatch.lean ====
section
/-! DEFINITION. One arm per instruction. -/

namespace Sys2Proof.Machine

open Sys2Proof

/-- The meaning of every instruction. -/
def exec (i : Instr) (s : State) : Host.Outcome State Fault Refusal :=
  match i with
  | .nop => Sys2Proof.Machine.execNop s
  | .br x => Sys2Proof.Machine.execBr x s
  | .brp x => Sys2Proof.Machine.execBrp x s
  | .bri x => Sys2Proof.Machine.execBri x s
  | .call x => Sys2Proof.Machine.execCall x s
  | .calli x => Sys2Proof.Machine.execCalli x s
  | .ret => Sys2Proof.Machine.execRet s
  | .loopn x => Sys2Proof.Machine.execLoopn x s
  | .lexit => Sys2Proof.Machine.execLexit s
  | .haltb => Sys2Proof.Machine.execHaltb s
  | .yield => Sys2Proof.Machine.execYield s
  | .sleepu x => Sys2Proof.Machine.execSleepu x s
  | .waitfe x => Sys2Proof.Machine.execWaitfe x s
  | .trap x => Sys2Proof.Machine.execTrap x s
  | .eret => Sys2Proof.Machine.execEret s
  | .snapst x => Sys2Proof.Machine.execSnapst x s
  | .snapld x => Sys2Proof.Machine.execSnapld x s
  | .snaprel => Sys2Proof.Machine.execSnaprel s
  | .rprobe x => Sys2Proof.Machine.execRprobe x s
  | .wprobe x => Sys2Proof.Machine.execWprobe x s
  | .pgalloc x => Sys2Proof.Machine.execPgalloc x s
  | .fmtset x => Sys2Proof.Machine.execFmtset x s
  | .csrr x => Sys2Proof.Machine.execCsrr x s
  | .csrw x => Sys2Proof.Machine.execCsrw x s
  | .fence x => Sys2Proof.Machine.execFence x s
  | .bkpt x => Sys2Proof.Machine.execBkpt x s
  | .abort x => Sys2Proof.Machine.execAbort x s
  | .launch x => Sys2Proof.Machine.execLaunch x s
  | .launcht x => Sys2Proof.Machine.execLauncht x s
  | .kjoin x => Sys2Proof.Machine.execKjoin x s
  | .relaunch x => Sys2Proof.Machine.execRelaunch x s
  | .add x => Sys2Proof.Machine.execAdd x s
  | .addi x => Sys2Proof.Machine.execAddi x s
  | .sub x => Sys2Proof.Machine.execSub x s
  | .mul x => Sys2Proof.Machine.execMul x s
  | .mulhi x => Sys2Proof.Machine.execMulhi x s
  | .mulhn x => Sys2Proof.Machine.execMulhn x s
  | .div x => Sys2Proof.Machine.execDiv x s
  | .divn x => Sys2Proof.Machine.execDivn x s
  | .rem x => Sys2Proof.Machine.execRem x s
  | .remn x => Sys2Proof.Machine.execRemn x s
  | .min x => Sys2Proof.Machine.execMin x s
  | .minn x => Sys2Proof.Machine.execMinn x s
  | .max x => Sys2Proof.Machine.execMax x s
  | .maxn x => Sys2Proof.Machine.execMaxn x s
  | .and x => Sys2Proof.Machine.execAnd x s
  | .andi x => Sys2Proof.Machine.execAndi x s
  | .or x => Sys2Proof.Machine.execOr x s
  | .ori x => Sys2Proof.Machine.execOri x s
  | .xor x => Sys2Proof.Machine.execXor x s
  | .xori x => Sys2Proof.Machine.execXori x s
  | .andn x => Sys2Proof.Machine.execAndn x s
  | .shl x => Sys2Proof.Machine.execShl x s
  | .shli x => Sys2Proof.Machine.execShli x s
  | .shr x => Sys2Proof.Machine.execShr x s
  | .shri x => Sys2Proof.Machine.execShri x s
  | .sra x => Sys2Proof.Machine.execSra x s
  | .srai x => Sys2Proof.Machine.execSrai x s
  | .rotl x => Sys2Proof.Machine.execRotl x s
  | .clz x => Sys2Proof.Machine.execClz x s
  | .ctz x => Sys2Proof.Machine.execCtz x s
  | .popc x => Sys2Proof.Machine.execPopc x s
  | .bfx x => Sys2Proof.Machine.execBfx x s
  | .bfxs x => Sys2Proof.Machine.execBfxs x s
  | .bfi x => Sys2Proof.Machine.execBfi x s
  | .sext x => Sys2Proof.Machine.execSext x s
  | .zext x => Sys2Proof.Machine.execZext x s
  | .mov x => Sys2Proof.Machine.execMov x s
  | .movi x => Sys2Proof.Machine.execMovi x s
  | .movhi x => Sys2Proof.Machine.execMovhi x s
  | .cmp x => Sys2Proof.Machine.execCmp x s
  | .cmpi x => Sys2Proof.Machine.execCmpi x s
  | .sel x => Sys2Proof.Machine.execSel x s
  | .abs x => Sys2Proof.Machine.execAbs x s
  | .neg x => Sys2Proof.Machine.execNeg x s
  | .pand x => Sys2Proof.Machine.execPand x s
  | .por x => Sys2Proof.Machine.execPor x s
  | .pxor x => Sys2Proof.Machine.execPxor x s
  | .pnot x => Sys2Proof.Machine.execPnot x s
  | .pmov x => Sys2Proof.Machine.execPmov x s
  | .fadds x => Sys2Proof.Machine.execFadds x s
  | .fsubs x => Sys2Proof.Machine.execFsubs x s
  | .fmuls x => Sys2Proof.Machine.execFmuls x s
  | .ffmas x => Sys2Proof.Machine.execFfmas x s
  | .fmins x => Sys2Proof.Machine.execFmins x s
  | .fmaxs x => Sys2Proof.Machine.execFmaxs x s
  | .fcmps x => Sys2Proof.Machine.execFcmps x s
  | .fcvts x => Sys2Proof.Machine.execFcvts x s
  | .ld x => Sys2Proof.Machine.execLd x s
  | .st x => Sys2Proof.Machine.execSt x s
  | .ldv x => Sys2Proof.Machine.execLdv x s
  | .stv x => Sys2Proof.Machine.execStv x s
  | .ldvs x => Sys2Proof.Machine.execLdvs x s
  | .stvs x => Sys2Proof.Machine.execStvs x s
  | .gath x => Sys2Proof.Machine.execGath x s
  | .scat x => Sys2Proof.Machine.execScat x s
  | .ldl x => Sys2Proof.Machine.execLdl x s
  | .stul x => Sys2Proof.Machine.execStul x s
  | .atom x => Sys2Proof.Machine.execAtom x s
  | .cas x => Sys2Proof.Machine.execCas x s
  | .aadd x => Sys2Proof.Machine.execAadd x s
  | .amov x => Sys2Proof.Machine.execAmov x s
  | .ldc x => Sys2Proof.Machine.execLdc x s
  | .binit x => Sys2Proof.Machine.execBinit x s
  | .bexpect x => Sys2Proof.Machine.execBexpect x s
  | .barrive x => Sys2Proof.Machine.execBarrive x s
  | .bwait x => Sys2Proof.Machine.execBwait x s
  | .bwaitp x => Sys2Proof.Machine.execBwaitp x s
  | .btest x => Sys2Proof.Machine.execBtest x s
  | .cadd x => Sys2Proof.Machine.execCadd x s
  | .cwaitge x => Sys2Proof.Machine.execCwaitge x s
  | .nopL => Sys2Proof.Machine.execNopL s
  | .vadd x => Sys2Proof.Machine.execVadd x s
  | .vsub x => Sys2Proof.Machine.execVsub x s
  | .vmul x => Sys2Proof.Machine.execVmul x s
  | .vfma x => Sys2Proof.Machine.execVfma x s
  | .vfms x => Sys2Proof.Machine.execVfms x s
  | .vmin x => Sys2Proof.Machine.execVmin x s
  | .vmax x => Sys2Proof.Machine.execVmax x s
  | .vabs x => Sys2Proof.Machine.execVabs x s
  | .vneg x => Sys2Proof.Machine.execVneg x s
  | .vand x => Sys2Proof.Machine.execVand x s
  | .vor x => Sys2Proof.Machine.execVor x s
  | .vxor x => Sys2Proof.Machine.execVxor x s
  | .vnot x => Sys2Proof.Machine.execVnot x s
  | .vshl x => Sys2Proof.Machine.execVshl x s
  | .vshr x => Sys2Proof.Machine.execVshr x s
  | .vsra x => Sys2Proof.Machine.execVsra x s
  | .vcmp x => Sys2Proof.Machine.execVcmp x s
  | .vsel x => Sys2Proof.Machine.execVsel x s
  | .vmov x => Sys2Proof.Machine.execVmov x s
  | .vmovs x => Sys2Proof.Machine.execVmovs x s
  | .vextr x => Sys2Proof.Machine.execVextr x s
  | .vins x => Sys2Proof.Machine.execVins x s
  | .vperm x => Sys2Proof.Machine.execVperm x s
  | .vslide x => Sys2Proof.Machine.execVslide x s
  | .viota x => Sys2Proof.Machine.execViota x s
  | .vcompr x => Sys2Proof.Machine.execVcompr x s
  | .vcvt x => Sys2Proof.Machine.execVcvt x s
  | .vquant x => Sys2Proof.Machine.execVquant x s
  | .vdeq x => Sys2Proof.Machine.execVdeq x s
  | .vdot x => Sys2Proof.Machine.execVdot x s
  | .vrsum x => Sys2Proof.Machine.execVrsum x s
  | .vrmax x => Sys2Proof.Machine.execVrmax x s
  | .vrmin x => Sys2Proof.Machine.execVrmin x s
  | .vrmaxi x => Sys2Proof.Machine.execVrmaxi x s
  | .vrmini x => Sys2Proof.Machine.execVrmini x s
  | .vscan x => Sys2Proof.Machine.execVscan x s
  | .vpopc x => Sys2Proof.Machine.execVpopc x s
  | .vclz x => Sys2Proof.Machine.execVclz x s
  | .vrcp x => Sys2Proof.Machine.execVrcp x s
  | .vrsq x => Sys2Proof.Machine.execVrsq x s
  | .vexp2 x => Sys2Proof.Machine.execVexp2 x s
  | .vlog2 x => Sys2Proof.Machine.execVlog2 x s
  | .vtanh x => Sys2Proof.Machine.execVtanh x s
  | .vmset x => Sys2Proof.Machine.execVmset x s
  | .vmops x => Sys2Proof.Machine.execVmops x s
  | .nopV => Sys2Proof.Machine.execNopV s
  | .mma x => Sys2Proof.Machine.execMma x s
  | .mmaz x => Sys2Proof.Machine.execMmaz x s
  | .mmas x => Sys2Proof.Machine.execMmas x s
  | .mcbld x => Sys2Proof.Machine.execMcbld x s
  | .accrd x => Sys2Proof.Machine.execAccrd x s
  | .accwr x => Sys2Proof.Machine.execAccwr x s
  | .accz x => Sys2Proof.Machine.execAccz x s
  | .mwait x => Sys2Proof.Machine.execMwait x s
  | .mstat x => Sys2Proof.Machine.execMstat x s
  | .mdrain x => Sys2Proof.Machine.execMdrain x s
  | .nopM => Sys2Proof.Machine.execNopM s
  | .xcopy x => Sys2Proof.Machine.execXcopy x s
  | .xfill x => Sys2Proof.Machine.execXfill x s
  | .xsub x => Sys2Proof.Machine.execXsub x s
  | .xunsub x => Sys2Proof.Machine.execXunsub x s
  | .xslot x => Sys2Proof.Machine.execXslot x s
  | .xremw x => Sys2Proof.Machine.execXremw x s
  | .xrcopy x => Sys2Proof.Machine.execXrcopy x s
  | .xcadd x => Sys2Proof.Machine.execXcadd x s
  | .xmcast x => Sys2Proof.Machine.execXmcast x s
  | .xmcastSet x => Sys2Proof.Machine.execXmcastSet x s
  | .xmigr x => Sys2Proof.Machine.execXmigr x s
  | .xcoll x => Sys2Proof.Machine.execXcoll x s
  | .xgjoin x => Sys2Proof.Machine.execXgjoin x s
  | .xgleave x => Sys2Proof.Machine.execXgleave x s
  | .xgagree x => Sys2Proof.Machine.execXgagree x s
  | .xcancel x => Sys2Proof.Machine.execXcancel x s
  | .nopX => Sys2Proof.Machine.execNopX s
  | .bundleIssue core => Sys2Proof.Machine.execBundleIssue core s
  | .writeback ctx idx => Sys2Proof.Machine.execWriteback ctx idx s
  | .reasonCleared ctx => Sys2Proof.Machine.execReasonCleared ctx s
  | .quantum core => Sys2Proof.Machine.execQuantum core s
  | .sleepWake ctx => Sys2Proof.Machine.execSleepWake ctx s
  | .promiseWake ctx => Sys2Proof.Machine.execPromiseWake ctx s
  | .watchdog ctx => Sys2Proof.Machine.execWatchdog ctx s
  | .trapEntry ctx => Sys2Proof.Machine.execTrapEntry ctx s
  | .haltLine launch unit cause => Sys2Proof.Machine.execHaltLine launch unit cause s
  | .haltArrival launch unit => Sys2Proof.Machine.execHaltArrival launch unit s
  | .faultCompletion launch => Sys2Proof.Machine.execFaultCompletion launch s
  | .preemptionRequest idx => Sys2Proof.Machine.execPreemptionRequest idx s
  | .preload core => Sys2Proof.Machine.execPreload core s
  | .swap core => Sys2Proof.Machine.execSwap core s
  | .spill core => Sys2Proof.Machine.execSpill core s
  | .tileFill core slot => Sys2Proof.Machine.execTileFill core slot s
  | .restore saved => Sys2Proof.Machine.execRestore saved s
  | .entryStart core => Sys2Proof.Machine.execEntryStart core s
  | .wave core => Sys2Proof.Machine.execWave core s
  | .entryComplete core => Sys2Proof.Machine.execEntryComplete core s
  | .copyStart core job => Sys2Proof.Machine.execCopyStart core job s
  | .byteArrival core job elem => Sys2Proof.Machine.execByteArrival core job elem s
  | .copyComplete core job => Sys2Proof.Machine.execCopyComplete core job s
  | .ringFill quay idx n => Sys2Proof.Machine.execRingFill quay idx n s
  | .ringPull quay idx n => Sys2Proof.Machine.execRingPull quay idx n s
  | .subscriptionClose quay idx => Sys2Proof.Machine.execSubscriptionClose quay idx s
  | .multicastDelivery core job mem => Sys2Proof.Machine.execMulticastDelivery core job mem s
  | .zeroingComplete job seg => Sys2Proof.Machine.execZeroingComplete job seg s
  | .drained job seg => Sys2Proof.Machine.execDrained job seg s
  | .demandFill job seg page => Sys2Proof.Machine.execDemandFill job seg page s
  | .fillTimeout job seg page => Sys2Proof.Machine.execFillTimeout job seg page s
  | .migrationAccept ctx => Sys2Proof.Machine.execMigrationAccept ctx s
  | .migrationCopy job seg => Sys2Proof.Machine.execMigrationCopy job seg s
  | .rebind job seg => Sys2Proof.Machine.execRebind job seg s
  | .qtail q t => Sys2Proof.Machine.execQtail q t s
  | .enable q => Sys2Proof.Machine.execEnable q s
  | .disable q => Sys2Proof.Machine.execDisable q s
  | .resume q => Sys2Proof.Machine.execResume q s
  | .kill q => Sys2Proof.Machine.execKill q s
  | .packetWaits q => Sys2Proof.Machine.execPacketWaits q s
  | .dispatch part => Sys2Proof.Machine.execDispatch part s
  | .blockLoad launch => Sys2Proof.Machine.execBlockLoad launch s
  | .predelay part => Sys2Proof.Machine.execPredelay part s
  | .retirement ctx => Sys2Proof.Machine.execRetirement ctx s
  | .launchCompletion launch => Sys2Proof.Machine.execLaunchCompletion launch s
  | .eventRecord q => Sys2Proof.Machine.execEventRecord q s
  | .bind block => Sys2Proof.Machine.execBind block s
  | .unbind block => Sys2Proof.Machine.execUnbind block s
  | .release block => Sys2Proof.Machine.execRelease block s
  | .pool block => Sys2Proof.Machine.execPool block s
  | .pageresp tag refused => Sys2Proof.Machine.execPageresp tag refused s
  | .steprel ctx => Sys2Proof.Machine.execSteprel ctx s
  | .preempt core slot => Sys2Proof.Machine.execPreempt core slot s
  | .registerWrite off val => Sys2Proof.Machine.execRegisterWrite off val s
  | .hostWrite job addr data => Sys2Proof.Machine.execHostWrite job addr data s
  | .flitSend port => Sys2Proof.Machine.execFlitSend port s
  | .dataFlit port flit => Sys2Proof.Machine.execDataFlit port flit s
  | .addFlit port flit => Sys2Proof.Machine.execAddFlit port flit s
  | .ack port chip vc seq => Sys2Proof.Machine.execAck port chip vc seq s
  | .nak port chip vc seq reason => Sys2Proof.Machine.execNak port chip vc seq reason s
  | .ackTimer chip vc => Sys2Proof.Machine.execAckTimer chip vc s
  | .replay chip vc => Sys2Proof.Machine.execReplay chip vc s
  | .routeDead job lchip cond => Sys2Proof.Machine.execRouteDead job lchip cond s
  | .noPath job lchip => Sys2Proof.Machine.execNoPath job lchip s
  | .lossOfLight port wavelength => Sys2Proof.Machine.execLossOfLight port wavelength s
  | .restripe port => Sys2Proof.Machine.execRestripe port s
  | .training port groups => Sys2Proof.Machine.execTraining port groups s
  | .trainTimeout port => Sys2Proof.Machine.execTrainTimeout port s
  | .crcThreshold port => Sys2Proof.Machine.execCrcThreshold port s
  | .drain port => Sys2Proof.Machine.execDrain port s
  | .drainTimeout port => Sys2Proof.Machine.execDrainTimeout port s
  | .retrain port => Sys2Proof.Machine.execRetrain port s
  | .fencePort port => Sys2Proof.Machine.execFencePort port s
  | .disablePort port => Sys2Proof.Machine.execDisablePort port s
  | .repin chip vc => Sys2Proof.Machine.execRepin chip vc s
  | .qpError job lchip vc => Sys2Proof.Machine.execQpError job lchip vc s
  | .routeWrite job lchip word => Sys2Proof.Machine.execRouteWrite job lchip word s
  | .keyInstall job key => Sys2Proof.Machine.execKeyInstall job key s
  | .gcreate job group image => Sys2Proof.Machine.execGcreate job group image s
  | .gbind job group => Sys2Proof.Machine.execGbind job group s
  | .gquiesce job group => Sys2Proof.Machine.execGquiesce job group s
  | .gresume job group => Sys2Proof.Machine.execGresume job group s
  | .gevict job group rank => Sys2Proof.Machine.execGevict job group rank s
  | .gabort job group => Sys2Proof.Machine.execGabort job group s
  | .gdestroy job group => Sys2Proof.Machine.execGdestroy job group s
  | .treeProgrammed job group tree status nmem => Sys2Proof.Machine.execTreeProgrammed job group tree status nmem s
  | .recordStart engine => Sys2Proof.Machine.execRecordStart engine s
  | .commit job group msg => Sys2Proof.Machine.execCommit job group msg s
  | .instanceComplete engine job group pid inst => Sys2Proof.Machine.execInstanceComplete engine job group pid inst s
  | .instanceAbort job group pid inst code => Sys2Proof.Machine.execInstanceAbort job group pid inst code s
  | .resetCold => Sys2Proof.Machine.execResetCold s
  | .resetWarm => Sys2Proof.Machine.execResetWarm s
  | .resetDie die => Sys2Proof.Machine.execResetDie die s
  | .resetCluster cluster => Sys2Proof.Machine.execResetCluster cluster s
  | .resetCore core => Sys2Proof.Machine.execResetCore core s
  | .resetMatrix core => Sys2Proof.Machine.execResetMatrix core s
  | .resetCopy core => Sys2Proof.Machine.execResetCopy core s
  | .resetQuay quay => Sys2Proof.Machine.execResetQuay quay s
  | .resetPort port => Sys2Proof.Machine.execResetPort port s
  | .resetCollective engine => Sys2Proof.Machine.execResetCollective engine s
  | .perst => Sys2Proof.Machine.execPerst s
  | .hotReset => Sys2Proof.Machine.execHotReset s
  | .setmode fn host => Sys2Proof.Machine.execSetmode fn host s
  | .sensorRead sensor => Sys2Proof.Machine.execSensorRead sensor s
  | .telemetryUpdate sensor val => Sys2Proof.Machine.execTelemetryUpdate sensor val s
  | .scrub addr => Sys2Proof.Machine.execScrub addr s
  | .partition part cores slotid => Sys2Proof.Machine.execPartition part cores slotid s
  | .powerUp part => Sys2Proof.Machine.execPowerUp part s
  | .slotMask part id mask => Sys2Proof.Machine.execSlotMask part id mask s
  | .watchdogLimit part limit => Sys2Proof.Machine.execWatchdogLimit part limit s
  | .powerCap watts => Sys2Proof.Machine.execPowerCap watts s
  | .capWindow cluster => Sys2Proof.Machine.execCapWindow cluster s
  | .frequencyStep cluster mhz => Sys2Proof.Machine.execFrequencyStep cluster mhz s
  | .relock cluster => Sys2Proof.Machine.execRelock cluster s
  | .ageingStep cluster => Sys2Proof.Machine.execAgeingStep cluster s
  | .chipNumber phys => Sys2Proof.Machine.execChipNumber phys s
  | .spdmSession ok => Sys2Proof.Machine.execSpdmSession ok s
  | .firmwareWrite comp good => Sys2Proof.Machine.execFirmwareWrite comp good s
  | .activate comp => Sys2Proof.Machine.execActivate comp s
  | .selfCheck comp ok => Sys2Proof.Machine.execSelfCheck comp ok s
  | .creditReturn port dport vc n => Sys2Proof.Machine.execCreditReturn port dport vc n s
  | .priorityFlowControl port prio pause => Sys2Proof.Machine.execPriorityFlowControl port prio pause s
  | .createJob job image => Sys2Proof.Machine.execCreateJob job image s
  | .ageingApproval cluster approve => Sys2Proof.Machine.execAgeingApproval cluster approve s

end Sys2Proof.Machine
end

