-- ==== Sys2Proof/Machine/Held.lean ====
section
/-! DEFINITION. What waits at a translation site and goes on, in the order in which each site held it, before anything else takes
place: engine transfers (R228, R231, R232, R243), counter adds, host writes, arrivals and commits (R220, R233, R361, R385),
resets (R408), and mode and bank changes (R410, R413). -/

namespace Sys2Proof.Machine

open Sys2Proof

/-! ### Transfers that are not yet counted in BUSY -/

/-- The first miss of a list of addresses as their translation goes on; short ones are not translated. -/
def missOf (s : State) (j : Nat) (need : Need) (l : List Word64) : Option Exc :=
  firstSome (l.map (fun a => if isShort a then none else match xlate s j need a with
    | .miss k id => some (missExc k id a)
    | _ => none))

/-- The first miss of a range. -/
def rangeMiss (s : State) (j : Nat) (need : Need) (a : Word64) (n : Nat) : Option Exc :=
  if isShort a then none else match rangeOf s j need false a n with
    | .miss k id b => some (missExc k id b)
    | _ => none

/-- What a counter that an engine adds to needs: W and A (R225). -/
def ctrNeed : Need := { Need.write with a := true }

/-- The miss of a job whose translation goes on. -/
def CopyJob.again (s : State) (x : CopyJob) : Option Exc :=
  let b := x.box
  let src := missOf s x.job (srcNeed x.inv) (srcAddrs b)
  let dst := missOf s x.job .write (dstAddrs b)
  let bar := missOf s x.job .any [b.bar]
  let ctr := missOf s x.job ctrNeed [b.ctr]
  match x.kind with
  | .copy => firstSome [src, dst, bar, ctr]
  | .fill => firstSome [dst, bar, ctr]
  | .mcast => src
  | .rcopy => firstSome [src, bar]
  | .remw => if (remoteJob s x).isSome then none else missOf s x.job .write [b.dst]
  | .cadd => if (remoteJob s x).isSome then none else missOf s x.job .add [b.dst]

/-- The miss of a subscription whose translation goes on. -/
def Sub.again (s : State) (x : Sub) : Option Exc :=
  if x.ring.whole.anyInside then rangeMiss s x.job (ringNeed x.ring x.inv) x.ring.range.1 x.ring.range.2 else none

/-- The miss of a group queue's record of engine `k` whose translation goes on. -/
def GRec.again (s : State) (k : Nat) (x : GRec) : Option Exc :=
  let e := s.group x.job x.group
  match x.kind with
  | .coll c _ =>
    firstSome ((if c.hasData then (collSrcs c (e.rank k)).map (fun a => rangeMiss s x.job .read a (c.size e)) else [])
      ++ [if c.hasData then missOf s x.job .write [c.dst] else none, missOf s x.job .add [c.ctr, c.sctr]])
  | .join a => rangeMiss s x.job ctrNeed a 24
  | .agree a _ => rangeMiss s x.job ctrNeed a 24

/-- The segments that hold a record: those of its buffers and counters, or of its result. -/
def GRec.holders (s : State) (x : GRec) : List Nat :=
  match x.kind with
  | .coll _ _ => x.segs
  | .join a => segsOf s x.job [a]
  | .agree a _ => segsOf s x.job [a]

/-- A transfer that is held goes on: a miss halts its launch, and where no segment holds it any longer it is counted in BUSY. -/
def goOn (s : State) (lid j : Nat) (u : UnitId) (miss : Option Exc) (holders segs : List Nat) (f : State → State) : State :=
  match miss with
  | some e => raiseHalt s lid u e.code e.einfo e.eva
  | none => if canBind s j holders then f (bindBusy s j segs) else s

/-- A job of core `g` that is held goes on where it can. -/
def jobGoesOn (g : Nat) (s : State) (x : CopyJob) : State :=
  if x.bound || x.dead then s
  else goOn s x.launch x.job { kind := 2, inst := g } (x.again s) x.segs x.segs (fun s => putJob s g { x with bound := true })

/-- A subscription of quay `q` that is held goes on where it can. -/
def subGoesOn (q : Nat) (s : State) (p : Nat × Option Sub) : State :=
  match p.2 with
  | none => s
  | some x =>
    if x.bound then s
    else goOn s x.launch x.job { kind := 3, inst := q } (x.again s) x.segs x.segs (fun s => s.setSub q p.1 (some { x with bound := true }))

/-- A record of engine `k` that is held goes on where it can. -/
def recGoesOn (k : Nat) (s : State) (x : GRec) : State :=
  if x.bound then s
  else goOn s x.launch x.job { kind := 4, inst := k } (x.again s k) (x.holders s) x.segs (updRec k x.num (fun r => { r with bound := true }))

/-- Every transfer that is held goes on where it can, those of one engine in the order of their issue. -/
def settleTransfers (s : State) : State :=
  let s := s.cores.foldl (fun s p => p.2.jobs.foldl (jobGoesOn p.1) s) s
  let s := s.quays.foldl (fun s p => p.2.subs.foldl (subGoesOn p.1) s) s
  s.coll.foldl (fun s p => p.2.queue.foldl (recGoesOn p.1) s) s

/-! ### Everything that waits -/

/-- What waits goes on before anything else takes place. -/
def State.settle (s : State) : State :=
  let s := settleTransfers (settleBanks (settleModes (settleResets s)))
  let s := settleHost s.hostHeld.length s
  settleCommits (settleArrivals (settleAdds s))

end Sys2Proof.Machine
end

