-- ==== Sys2Proof/Machine/Step.lean ====
section
/-! DEFINITION. One step of the package (log entry 2): the event at the head of the agenda, which stands for what the host,
the fabric and the sensors do and for any order of the units; with nothing on the agenda, the first enabled event of the
package's own, tried in an order that rotates with `CYC` so that every unit has its turn. -/

namespace Sys2Proof.Machine

open Sys2Proof

/-- The events of one context that come without the host. -/
def ctxEvents (c : Nat) : List Instr :=
  [.writeback c 0, .trapEntry c, .reasonCleared c, .promiseWake c, .sleepWake c, .watchdog c, .migrationAccept c, .retirement c]

/-- The next element, flit or member of a job that is not done. -/
def CopyJob.nextElem (x : CopyJob) : Nat :=
  match x.kind with
  | .mcast => ((List.range x.members.length).find? (fun i => !x.done.contains i)).getD 0
  | .rcopy => x.done.length
  | _ => ((List.range x.box.count).find? (fun e => !x.done.contains e)).getD 0

/-- The events of one engine job. -/
def jobEvents (g : Nat) (x : CopyJob) : List Instr :=
  [.copyStart g x.num, .byteArrival g x.num x.nextElem, .multicastDelivery g x.num x.nextElem, .copyComplete g x.num]

/-- The events of one core. -/
def coreEvents (g : Nat) (k : Core) : List Instr :=
  [.entryStart g, .wave g, .entryComplete g, .preload g, .swap g, .spill g, .tileFill g 0, .tileFill g 1, .tileFill g 2,
    .tileFill g 3, .quantum g, .bundleIssue g] ++ k.jobs.flatMap (jobEvents g)

/-- The events of one launch. -/
def launchEvents (l : Launch) : List Instr :=
  [.blockLoad l.id, .launchCompletion l.id, .faultCompletion l.id]
    ++ (match l.halt with
      | some h => h.waiting.map (.haltArrival l.id)
      | none => [])

/-- The events of one quay. -/
def quayEvents (q : Nat) (x : Quay) : List Instr :=
  x.subs.flatMap (fun p => [.ringFill q p.1 1, .ringPull q p.1 1, .subscriptionClose q p.1])

/-- The events of one segment. -/
def segEvents (k : Nat) : List Instr :=
  [.zeroingComplete (k / 4096) (k % 4096), .drained (k / 4096) (k % 4096), .migrationCopy (k / 4096) (k % 4096),
    .rebind (k / 4096) (k % 4096)]

/-- The events of one port; an Ethernet port only sends. -/
def portEvents (p : Nat) : List Instr :=
  if 16 ≤ p then [.flitSend p]
  else [.flitSend p, .restripe p, .crcThreshold p, .drain p, .trainTimeout p, .drainTimeout p]

/-- The events of one triple or window. -/
def tripleEvents (k : Nat) : List Instr :=
  [.replay (k / 2048) (k / 256 % 8), .repin (k / 2048) (k / 256 % 8), .ackTimer (k / 2048) (k / 256 % 8)]

/-- The events of one route entry. -/
def routeEvents (k : Nat) : List Instr := [.routeDead (k / 2048) (k % 2048) 1, .noPath (k / 2048) (k % 2048)]

/-- The package's own events, unit by unit. -/
def candidates (s : State) : List Instr :=
  s.liveCtxs.flatMap ctxEvents
  ++ s.cores.flatMap (fun p => coreEvents p.1 p.2)
  ++ s.saved.map (fun x => .restore x.id)
  ++ (List.range s.preReqs.length).map .preemptionRequest
  ++ s.segs.flatMap (fun p => segEvents p.1)
  ++ s.fills.flatMap (fun r => [.demandFill r.job r.seg r.page, .fillTimeout r.job r.seg r.page])
  ++ s.queues.flatMap (fun p => [.packetWaits p.1, .eventRecord p.1])
  ++ s.parts.flatMap (fun p => [.predelay p.1, .dispatch p.1])
  ++ s.launches.flatMap launchEvents
  ++ s.quays.flatMap (fun p => quayEvents p.1 p.2)
  ++ s.ports.flatMap (fun p => portEvents p.1)
  ++ s.triples.flatMap (fun p => tripleEvents p.1)
  ++ s.windows.flatMap (fun p => tripleEvents p.1)
  ++ s.routes.flatMap (fun p => routeEvents p.1)
  ++ s.coll.map (fun p => .recordStart p.1)
  ++ s.sorric.relock.map (fun p => .relock p.1)

/-- Whether an event changes the state. -/
def changes (s : State) (i : Instr) : Bool :=
  match exec i s with
  | .next t => decide (t ≠ s)
  | .fault _ => true
  | .refused _ => true

/-- A list begun at place `n` of its length. -/
def rotate (n : Nat) (l : List Instr) : List Instr := l.drop (n % l.length) ++ l.take (n % l.length)

/-- The package's own event that comes next. -/
def nextEvent (s : State) : Option Instr := (rotate s.cyc.toNat (candidates s)).find? (changes s)

/-! ### The passing of time -/

/-- A context that is RETIRED, or KILLED with its launch gone, becomes EMPTY (R249). A context that a fault KILLED keeps its slot
until its launch is killed (R266). -/
def Context.vacate (c : Context) : Context :=
  if c.st = .retired ∨ (c.st = .killed ∧ c.launch = none) then Context.empty else c

/-- `n` cycles pass: contexts that have ended leave their slots. -/
def State.pass (s : State) (n : Nat) : State :=
  if n = 0 then s
  else
    { s with
      cyc := s.cyc + n64 n,
      cores := Sparse.mapV Core.cold (fun _ k =>
        { k with ctxs := Sparse.mapV Context.empty (fun _ c => c.vacate) k.ctxs }) s.cores }

/-- The jobs of a core that give a promise. -/
def promised (k : Core) : List CopyJob := k.jobs.filter (fun x => x.promise != 0)

/-- The cycles at which something falls due: the end of a relock pause, 2,000 cycles after its start (R26), and of a job that gives a
promise, the cycle in which it starts and the last before its promise (R303, R304). -/
def milestones (s : State) : List Nat :=
  s.sorric.relock.flatMap (fun p => if p.2 = 0 then [] else [p.2 + 1999])
  ++ s.cores.flatMap (fun p => (promised p.2).flatMap (fun x => [x.first, x.promise - 1]))

/-- The events that are due now, before time goes on: a pause ends, a job starts, and a job whose promise is the next cycle ends. -/
def dueEvents (s : State) : List Instr :=
  (s.sorric.relock.filter (fun p => p.2 != 0 && decide (p.2 + 1999 ≤ s.cyc.toNat))).map (fun p => .relock p.1)
  ++ s.cores.flatMap (fun p => (promised p.2).flatMap (fun x =>
      if x.promise ≤ s.cyc.toNat + 1 then jobEvents p.1 x
      else if x.first ≤ s.cyc.toNat && !x.began then [.copyStart p.1 x.num] else []))

/-- The cycles, of `n`, that pass until something falls due. -/
def stretch (s : State) (n : Nat) : Nat :=
  ((milestones s).filter (fun t => decide (s.cyc.toNat < t))).foldl (fun m t => min m (t - s.cyc.toNat)) n

/-- Whether `n` cycles can pass at once: none are to, or nothing is due before the last of them. -/
def clear (s : State) (n : Nat) : Bool := n == 0 || (((dueEvents s).find? (changes s)).isNone && stretch s n == n)

/-- One step: what waits goes on; then the cycles that the head of the agenda names pass and its event takes place, or, with nothing on
the agenda, a cycle passes and one event of the package's own takes place. What falls due on the way comes first, and the
cycles that are left stay on the agenda. -/
def step (s : State) : Host.Outcome State Fault Refusal :=
  let s := s.settle
  match s.agenda with
  | t :: rest =>
    if clear s t.dt then exec t.ev { s.pass t.dt with agenda := rest }
    else match (dueEvents s).find? (changes s) with
      | some i => exec i s
      | none => .next { s.pass (stretch s t.dt) with agenda := { t with dt := t.dt - stretch s t.dt } :: rest }
  | [] =>
    if clear s 1 then match nextEvent (s.pass 1) with
      | some i => exec i (s.pass 1)
      | none => .next (s.pass 1)
    else match (dueEvents s).find? (changes s) with
      | some i => exec i s
      | none => .next (s.pass 1)

/-! ### A program placed for the first step (log entry 7) -/

/-- The code segment of the program that `withFetchWord` places: 2 MiB of HBM at physical address 0, with every right. -/
def placedSeg : Seg :=
  { Seg.free with len := 2 ^ 21, st := .bound, r := true, w := true, a := true, x := true }

/-- A kernel descriptor of zeros. -/
def KDesc.zero : KDesc :=
  { codebase := 0, entry := 0, tvofs := 0, parambase := 0, plen := 0, mode := 0, cpc := 0, tpc := 0, prio := 0, part := 0,
    slotid := 0, spb := 0, quota := 0, step := false, relaunchable := false, traced := false, tracebase := 0,
    tracesize := 0, plane := 0, ltbase := 0, levels := [], mctab := 0, zeros := true }

/-- A launch packet of zeros. -/
def Packet.zero : Packet :=
  { type := 0, flags := 0, nwait := 0, kdesc := 0, param := 0, cctr := 0, caddv := 0, wctr0 := 0, wval0 := 0,
    wctr1 := 0, wval1 := 0, zeros := true }

/-- The launch of the placed program: one block, loaded. -/
def placedLaunch : Launch :=
  { id := 0, queue := 0, index := 0, job := 0, part := 0, prio := 0, kd := .zero, pkt := .zero, paramAddr := 0, nblk := 1,
    todo := none, next := [(0, 1)], extra := [], loaded := 1, retired := 0, left := [], entry := none, parent := none,
    mc := [], halt := none, lost := false, relaunch := false }

/-- The header of a bundle that names one slot (R47). -/
def headerFor (slot : Nat) : Nat := 0xB * 2 ^ 28 + 2 ^ slot * 2 ^ 21

/-- The state with the instruction of the table word `w` as the next bundle of context 0: its bundle at physical address 0,
its code segment, job, partition and launch, and a bundle issue on core 0 at the head of the agenda. -/
def State.withFetchWord (s : State) (nbits w : Nat) : State :=
  let word := w % 2 ^ nbits % 2 ^ 32
  let slot := ((decodeIn (BitVec.ofNat 32 word) tableSlots).map Prod.fst).getD 0
  let s := wr (wr (wr s 0 4 (headerFor slot)) 4 4 word) 8 4 0
  let s :=
    { s with
      jobs := Sparse.set Job.none s.jobs 0 { Job.none with present := true }
      segs := Sparse.set Seg.free s.segs 0 placedSeg
      parts := Sparse.set none s.parts 0 (some { cores := [0], slotid := 0, watchdog := 0, slip := 0, ready := true })
      launches := placedLaunch :: s.launches.filter (fun l => l.id != 0)
      agenda := { dt := 0, ev := .bundleIssue 0 } :: s.agenda }
  (s.setCtx 0 { Context.empty with st := .running, pc := epcPc 0, launch := some 0 }).updCore 0
    (fun k => { k with holder := some 0, quantum := s.cyc.toNat })

end Sys2Proof.Machine
end

