-- ==== Sys2Proof/Safety.lean ====
section
/-! DEFINITION. The terms in which claims are made: what an issue leaves alone, a quiet issue, the state after one, and the
invariant of a run. -/

namespace Sys2Proof.Machine

open Sys2Proof

/-- A step that goes on. -/
def goesOn (s : State) : Prop := ∃ t, step s = .next t

/-- The invariant of a run: the memory is in its canonical form. -/
def Inv (s : State) : Prop := s.memWf = true

/-- `t` is `s` but for the latch, the issuing context, and who holds the width of the cores: every other context, every other
field of every core, and every other part of the package is unchanged. -/
def Elsewhere (s t : State) : Prop :=
  t = { s with cores := t.cores, latch := t.latch }
  ∧ (∀ g, t.core g = { s.core g with ctxs := (t.core g).ctxs, holder := (t.core g).holder,
                                     lastHolder := (t.core g).lastHolder })
  ∧ ∀ n, n ≠ s.cur → t.ctx n = s.ctx n

/-- A resident context issues outside a loop nest, not in single-step, and no earlier op of it waits to take effect. -/
def Quiet (s : State) : Prop :=
  s.cur < residents ∧ s.me.nest.active = false ∧ (s.me.tlevel = 0 → bitOf s.me.stepctl.toNat 0 = false)
  ∧ s.me.after = .none ∧ s.me.st ≠ .sleeping

/-- Every register of a list of sources is full. -/
def Ready (s : State) (l : List Src) : Prop := l.all (srcFull s s.cur) = true

/-- The issuing context after a quiet issue, from the context `c` that the op's effect leaves: hold state, one issue cycle
less for the pending `FMT` writes, and the next issue point, which is the same bundle until its repetitions are done (R52). -/
def closing (s : State) (h : Held) (c : Context) : Context :=
  { c with
    held := h, fmtPend := c.fmtPend.map (fun p => (p.1 - 1, p.2)), owed := none, brSrc := 0, grant := .none,
    pc := if s.me.rep < s.latch.repn then s.me.pc else s.latch.next,
    rep := if s.me.rep < s.latch.repn then s.me.rep + 1 else 0 }

/-- The instruction issues, and its effect is the change `F` of the issuing context; nothing else in the package changes. -/
def Writes (s : State) (i : Instr) (h : Held) (F : Context → Context) : Prop :=
  ∃ t, exec i s = .next t ∧ Elsewhere s t ∧ t.me = closing s h (F s.me.begin)

/-- The instruction issues: the machine goes to the state `e` that its effect leaves, and the issue is closed there. -/
def Issues (s : State) (i : Instr) (h : Held) (e : State) : Prop :=
  ∃ t, exec i s = .next t ∧ Elsewhere e t ∧ t.me = closing s h e.me

/-- The instruction transfers control to `a` (R50), its effect on the issuing context being `F`: the next issue is the bundle
at `a`, its first repetition. -/
def Jumps (s : State) (i : Instr) (a : Word64) (F : Context → Context) : Prop :=
  ∃ t, exec i s = .next t ∧ Elsewhere s t
    ∧ t.me = { closing s s.me.held (F s.me.begin) with pc := a, rep := 0, brSrc := s.me.pc, nest := .none }

/-- A scalar result and its flags. -/
def ScalarResult (s : State) (i : Instr) (d : Fin 64) (r : Word64 × FlagSet) : Prop :=
  Writes s i s.me.held (fun c => (c.wS d r.1).raiseFl r.2)

/-- A predicate result and its flags. -/
def PredicateResult (s : State) (i : Instr) (d : Fin 8) (r : Bool × FlagSet) : Prop :=
  Writes s i s.me.held (fun c => (c.wP d r.1).raiseFl r.2)

/-- A rounded scalar result: `draws` says that it draws from `SEED` under SR (R87), `f` gives the value and the flags from the
draw. -/
def RoundedResult (s : State) (i : Instr) (d : Fin 64) (draws : Bool) (f : Nat → Nat × FlagSet) : Prop :=
  Writes s i s.me.held (fun c =>
    let r := Draw.run c.draw draws (FEnv.ofFmt s.me.fmtNow).rnd f
    (c.wS d (n64 r.1)).drawn r.2)

/-- The instruction raises a trap or fault and has none of its own effect. -/
def Raises (s : State) (i : Instr) (e : Exc) : Prop := exec i s = .next (raise s e)

/-- The context blocks for a reason of R248 and the instruction has none of its effect yet; `f` is what the wait takes note
of. -/
def Waits (s : State) (i : Instr) (reason : Nat) (f : State → State) : Prop := exec i s = .next (block (f s) s.cur reason)


/-- The address step of an M-format op with an access of `n` bytes (R125). -/
def stepped (x : ArgM) (n : Nat) (c : Context) : Context := if x.step = 0 then c else c.stepA x.abase (stepOf x n)

/-- Hold state after an op of the L slot, the V slot and the X slot (R60). -/
def heldL (s : State) (h : Bool) (i : Instr) : Held := { s.me.held with l := heldBy h i }
def heldV (s : State) (h : Bool) (i : Instr) : Held := { s.me.held with v := heldBy h i }
def heldM (s : State) (h : Bool) (i : Instr) : Held := { s.me.held with m := heldBy h i }
def heldX (s : State) (h : Bool) (i : Instr) : Held := { s.me.held with x := heldBy h i }

/-- The instruction issues and changes memory alone beside the issuing context: to that of `b`, a state that differs from `s`
in its memory. -/
def Rewrites (s : State) (i : Instr) (h : Held) (b : State) (F : Context → Context) : Prop :=
  ∃ t, exec i s = .next t ∧ Elsewhere b t ∧ t.me = closing s h (F s.me.begin)

/-- The instruction issues and stores the low `n` bytes of `v` at physical address `pa`; every other byte of memory reads as
before. -/
def Stores (s : State) (i : Instr) (h : Held) (pa n v : Nat) (F : Context → Context) : Prop :=
  ∃ t, exec i s = .next t ∧ Elsewhere (wr s pa n v) t ∧ t.me = closing s h (F s.me.begin)
    ∧ rd t pa n = v % 2 ^ (8 * n) ∧ ∀ a, a < pa ∨ pa + n ≤ a → t.byte a = s.byte a

/-- Two contexts with the same register files, loop counters, flags, seed and pending writebacks. -/
def SameRegs (c d : Context) : Prop :=
  d.s = c.s ∧ d.a = c.a ∧ d.p = c.p ∧ d.v = c.v ∧ d.vm = c.vm ∧ d.lc = c.lc ∧ d.flags = c.flags ∧ d.seed = c.seed
  ∧ d.merr = c.merr ∧ d.pend = c.pend

/-- A context `d` that has taken a trap at level 1 from the context `c` (R257): the cause registers say why and where to
return, hold state and nest are in the snapshot copy, and the handler at `TVEC` is next. -/
def Trapped (c d : Context) (code : Nat) (ret eva einfo : Word64) : Prop :=
  d.tlevel = 1 ∧ d.mask = true ∧ d.st = .trap1 ∧ d.cause1 = BitVec.ofNat 8 code ∧ d.epc1 = ret ∧ d.eva1 = eva
  ∧ d.einfo1 = einfo ∧ d.pc = c.tvec ∧ d.rep = 0 ∧ d.held = .none ∧ d.nest = .none ∧ d.snapv = true ∧ d.l2snap = false
  ∧ d.snap.level = 0 ∧ d.snap.held = c.held ∧ d.snap.fmtCur = c.fmt ∧ d.snap.fmtPend = c.fmtPend ∧ SameRegs c d

/-- The sources of an element-wise op (R147): its operands, its mask, and its destination where the op or a write mask that
keeps lanes reads it. -/
def laneSrcs (x : ArgV) (srcs : List Src) (old : Bool) : List Src :=
  srcs ++ [srcVM (vMaskReg x) x.b1] ++ if old || keeps x then [srcV x.dst false] else []

/-- The sources of an op with two operands, the second a vector or a scalar (R144). -/
def twoSrcs (x : ArgV) : List Src :=
  [srcV x.src1 x.b1, if vScal x then srcS x.src2 x.b2 else srcV x.src2 x.b2]

/-- The instruction writes v[dst] lane by lane (R142): a lane that the mask selects is `f` of its number, another is zero with
Z and keeps its value without; nothing else changes. -/
def LaneResult (s : State) (i : Instr) (x : ArgV) (f : Nat → Nat) : Prop :=
  ∃ r : VReg, Writes s i (heldV s x.hold i) (fun c => c.wV x.dst r)
    ∧ ∀ k < vN x, lane (vW x) k r = if (vMask x s.me).getLsbD k then f k
        else if vZ x then 0 else lane (vW x) k (s.me.rV x.dst)

/-- The instruction writes v[dst] and moves `FLAGS` and `SEED` on, by a function of the context and of the draws so far. -/
def VectorResult (s : State) (i : Instr) (x : ArgV) (f : Context → Draw → Nat × Draw) : Prop :=
  Writes s i (heldV s x.hold i) (fun c =>
    let r := f s.me.begin c.draw
    (c.wV x.dst (BitVec.ofNat 2048 r.1)).drawn r.2)

/-- The same with a mask register. -/
def MaskResult (s : State) (i : Instr) (x : ArgV) (f : Context → Draw → Nat × Draw) : Prop :=
  Writes s i (heldV s x.hold i) (fun c =>
    let r := f s.me.begin c.draw
    (c.wVM x.dst (BitVec.ofNat 256 r.1)).drawn r.2)

/-- The same with a scalar register. -/
def LaneScalar (s : State) (i : Instr) (x : ArgV) (f : Context → Draw → Word64 × Draw) : Prop :=
  Writes s i (heldV s x.hold i) (fun c =>
    let r := f s.me.begin c.draw
    (c.wS x.dst r.1).drawn r.2)

/-- The instruction queues an operation `e` of the issuing context (R179, R180): its token is in s[sreg] at once, and counts
as outstanding; `P` says what else `e` holds, and what the state after is. -/
def Enqueues (s : State) (i : Instr) (h : Held) (sreg : Fin 64) (F : Context → Context) (P : State → MEntry → Prop) : Prop :=
  ∃ t e, exec i s = .next t ∧ P t e
    ∧ (t.core (s.cur / 4)).mq = (s.core (s.cur / 4)).mq ++ [e]
    ∧ e.ctx = s.cur ∧ e.token = s.me.iseq.toNat ∧ e.fmt = s.me.fmtNow ∧ e.bundle = s.me.point ∧ e.wave = 0 ∧ e.begun = false
    ∧ t.mem = s.mem ∧ (∀ n, n ≠ s.cur → t.ctx n = s.ctx n)
    ∧ t.me = closing s h { (F s.me.begin).wSnow sreg (n64 s.me.iseq.toNat) with iseq := s.me.iseq + 1, out := s.me.out + 1 }

/-- The instruction issues: the memory after it is `m`, the issuing context is what `F` leaves, but for its trace record, and
`P` says what else the state after holds. -/
def Results (s : State) (i : Instr) (h : Held) (m : List Host.Cell) (F : Context → Context) (P : State → Prop) : Prop :=
  ∃ t, exec i s = .next t ∧ P t ∧ t.mem = m ∧ t.me = closing s h { F s.me.begin with trec := t.me.trec }

/-- The instruction's job joins the copy engine of the core (R303): `P` says what the job is, `F` what it gives the context. -/
def Accepts (s : State) (i : Instr) (h : Held) (m : List Host.Cell) (F : CopyJob → Context → Context) (P : CopyJob → Prop) :
    Prop :=
  ∃ j, P j ∧ j.ctx = s.cur ∧ j.bundle = s.me.point ∧ j.began = false ∧ j.done = []
    ∧ Results s i h m (F j) (fun t => (t.core (s.cur / 4)).jobs = (s.core (s.cur / 4)).jobs ++ [j])

/-- The memory after the expectation of a job on core `g` is posted (R289); a job without a barrier posts none. -/
def expected (s : State) (g : Nat) (b : Box) : List Host.Cell :=
  if b.bar = 0 then s.mem else (barUpdate s (barAddr g b.bar) b.bytes 0).mem

/-- The event takes place, and `P` holds of the state after it. -/
def Happens (s : State) (i : Instr) (P : State → Prop) : Prop := ∃ t, exec i s = .next t ∧ P t

/-- `t` is `s` but for the resident context `n` and for who holds the width of the cores. -/
def Beside (n : Nat) (s t : State) : Prop :=
  t = { s with cores := t.cores }
  ∧ (∀ g, t.core g = { s.core g with ctxs := (t.core g).ctxs, holder := (t.core g).holder,
                                     lastHolder := (t.core g).lastHolder })
  ∧ ∀ m, m ≠ n → t.ctx m = s.ctx m

/-- `t` is `s` but for core `g`. -/
def InCore (g : Nat) (s t : State) : Prop := t = { s with cores := t.cores } ∧ ∀ h, h ≠ g → t.core h = s.core h

/-- No word of the package is marked as an error, uncorrectable or correctable. -/
def Clean (s : State) : Prop := s.eccWords = [] ∧ s.eccLanes = [] ∧ s.eccCb = [] ∧ s.soft = []

/-- The halt line of launch `lid` stands as `h`. -/
def HaltIs (t : State) (lid : Nat) (h : Halt) : Prop := (t.launchOf lid).bind (·.halt) = some h

/-- The event changes the resident context `n` to `d`, and nothing else but who holds the width. -/
def Becomes (s : State) (i : Instr) (n : Nat) (d : Context) : Prop := Happens s i (fun t => Beside n s t ∧ t.ctx n = d)

/-- The halt line of a launch, raised by a unit with a cause (R261). -/
def Raised (t : State) (lid : Nat) (u : UnitId) (cause : Nat) : Prop :=
  ∃ h, (t.launchOf lid).bind (·.halt) = some h ∧ h.unit = u ∧ h.cause = cause

/-- The next bundle of the context `s.cur`, outside a loop nest and with no held op, is `ws`, free of errors, its header valid
and its repetition one that it names. -/
def Standing (s : State) (h : Word32) (ws : List Word32) : Prop :=
  s.me.pc.toNat % 4 = 0 ∧ s.me.nest.active = false ∧ s.me.held = .none
  ∧ fetchBundle s (s.jobOf s.cur) s.me.pc = .ok (h :: ws)
  ∧ codeEcc s (s.jobOf s.cur) s.me.pc (ws.length + 1) = false
  ∧ headerOk h = true ∧ s.me.rep ≤ bits h.toNat 20 17

/-- Core `g` may issue, and context `k` of it holds the width, its quantum not used up. -/
def MayIssue (s : State) (g k : Nat) : Prop :=
  g < Config.nCores ∧ k < 4 ∧ relocking s g = false ∧ holderOf s g = some k ∧ quantumOver s g = false

/-- `t` is `u` but for the entry of segment `i` of job `j`, which is `e`. -/
def SegBecomes (u t : State) (j i : Nat) (e : Seg) : Prop :=
  t = { u with segs := t.segs } ∧ t.seg j i = e ∧ ∀ k m, k * 4096 + m ≠ j * 4096 + i → t.seg k m = u.seg k m

/-- `t` is `u` but for queue `q`, which is `d`. -/
def QueueBecomes (u t : State) (q : Nat) (d : Queue) : Prop :=
  t = { u with queues := t.queues } ∧ t.queue q = d ∧ ∀ p, p ≠ q → t.queue p = u.queue p

/-- `t` is `u` but for the entry of group `g` of job `j`, which is `e`. -/
def GroupBecomes (u t : State) (j g : Nat) (e : Group) : Prop :=
  t = { u with groups := t.groups } ∧ t.group j g = e ∧ ∀ k m, k * 256 + m ≠ j * 256 + g → t.group k m = u.group k m

/-- The entry of group `g` of job `j` is `e`, and every other group's entry is as it was. -/
def GroupTakes (s t : State) (j g : Nat) (e : Group) : Prop :=
  t.group j g = e ∧ ∀ k m, k * 256 + m ≠ j * 256 + g → t.group k m = s.group k m

/-- Port `p` is `d`, and every other port is as it was. -/
def PortTakes (s t : State) (p : Nat) (d : Port) : Prop := t.port p = d ∧ ∀ i, i ≠ p → t.port i = s.port i

/-- A port that has taken state `st` in this cycle. -/
def Port.moved (x : Port) (st : PortState) (now : Nat) : Port :=
  { x with st := st, since := now, upEnd := if x.st.isUp && !st.isUp then now else x.upEnd }

end Sys2Proof.Machine
end

