-- ==== Sys2Proof/Certificates/Slice0/Obligations.lean ====
section
/-! DEFINITION. The statements for the provers. -/

open Sys2Proof Sys2Proof.Machine

/-! ### Scalar ops (R113 to R124) -/

/-- R113, R114: the two-source integer ops, their sources full, write s[dst] with the result narrowed to the type and extended,
and set OF where `ADD`, `SUB` and `MUL` leave the type; nothing else changes. R114, R119: the divisions truncate toward zero; a divisor of 0 raises trap 0x10, which names the divisor, and writes
nothing. -/
def Obligations.IntegerOps : Prop :=
  (∀ (s : State) (x : ArgA), Quiet s → Ready s [srcS x.src1 x.b1, srcS x.src2 x.b2] →
    let t := intTy x.mod
    let a := (s.me.rS x.src1).toNat
    let b := (s.me.rS x.src2).toNat
    ScalarResult s (.add x) x.dst (intRes t true (t.read a + t.read b))
    ∧ ScalarResult s (.sub x) x.dst (intRes t true (t.read a - t.read b))
    ∧ ScalarResult s (.mul x) x.dst (intRes t true (t.read a * t.read b))
    ∧ ScalarResult s (.mulhi x) x.dst (intRes t false (t.read a * t.read b / ((2 ^ t.w : Nat) : Int)))
    ∧ ScalarResult s (.mulhn x) x.dst (intRes t false (t.read a * t.read b / ((2 ^ t.w : Nat) : Int)))
    ∧ ScalarResult s (.min x) x.dst (intRes t false (if t.read b < t.read a then t.read b else t.read a))
    ∧ ScalarResult s (.minn x) x.dst (intRes t false (if t.read b < t.read a then t.read b else t.read a))
    ∧ ScalarResult s (.max x) x.dst (intRes t false (if t.read a < t.read b then t.read b else t.read a))
    ∧ ScalarResult s (.maxn x) x.dst (intRes t false (if t.read a < t.read b then t.read b else t.read a))
    ∧ ScalarResult s (.and x) x.dst (intRes t false (t.low a &&& t.low b : Nat))
    ∧ ScalarResult s (.or x) x.dst (intRes t false (t.low a ||| t.low b : Nat))
    ∧ ScalarResult s (.xor x) x.dst (intRes t false (t.low a ^^^ t.low b : Nat))
    ∧ ScalarResult s (.andn x) x.dst (intRes t false (t.low a &&& (2 ^ t.w - 1 - t.low b) : Nat))
    ∧ ScalarResult s (.shl x) x.dst (intRes t false (t.low a * 2 ^ t.sh b : Nat))
    ∧ ScalarResult s (.shr x) x.dst (intRes t false (t.low a / 2 ^ t.sh b : Nat))
    ∧ ScalarResult s (.sra x) x.dst (intRes t false (t.read a / ((2 ^ t.sh b : Nat) : Int)))
    ∧ ScalarResult s (.rotl x) x.dst
        (intRes t false (t.low a * 2 ^ t.sh b % 2 ^ t.w + t.low a * 2 ^ t.sh b / 2 ^ t.w : Nat)))
  ∧ (∀ (s : State) (x : ArgA), Quiet s → Ready s [srcS x.src1 x.b1, srcS x.src2 x.b2] →
    let t := intTy x.mod
    let a := (s.me.rS x.src1).toNat
    let b := (s.me.rS x.src2).toNat
    (t.read b ≠ 0 →
      ScalarResult s (.div x) x.dst (intRes t true ((t.read a).tdiv (t.read b)))
      ∧ ScalarResult s (.divn x) x.dst (intRes t false ((t.read a).tdiv (t.read b)))
      ∧ ScalarResult s (.rem x) x.dst (intRes t false ((t.read a).tmod (t.read b)))
      ∧ ScalarResult s (.remn x) x.dst (intRes t false ((t.read a).tmod (t.read b))))
    ∧ (t.read b = 0 →
      let e := Exc.mk' 0x10 0 (emptyInfo 1 1 false (srcS x.src2 x.b2))
      Raises s (.div x) e ∧ Raises s (.divn x) e ∧ Raises s (.rem x) e ∧ Raises s (.remn x) e))

/-- R116: the immediate ops work on 64 bits; the extension word, where there is one, is the immediate. R115: the one-source integer ops and `MOV`. -/
def Obligations.ImmediateOps : Prop :=
  (∀ (s : State) (x : ArgI), Quiet s → Ready s [srcS x.src1 x.b1] →
    let a := s.me.rS x.src1
    let m : Int := match x.ext with
      | none => x.imm.toInt
      | some e => e.toInt
    ScalarResult s (.addi x) x.dst (intRes (intTy 0) true (a.toInt + m))
    ∧ ScalarResult s (.andi x) x.dst (a &&& w64 m, 0)
    ∧ ScalarResult s (.ori x) x.dst (a ||| w64 m, 0)
    ∧ ScalarResult s (.xori x) x.dst (a ^^^ w64 m, 0)
    ∧ ScalarResult s (.shli x) x.dst (a <<< m.toNat, 0)
    ∧ ScalarResult s (.shri x) x.dst (a >>> m.toNat, 0)
    ∧ ScalarResult s (.srai x) x.dst (a.sshiftRight m.toNat, 0))
  ∧ (∀ (s : State) (x : ArgA), Quiet s → Ready s [srcS x.src1 x.b1] →
    let t := intTy x.mod
    let a := (s.me.rS x.src1).toNat
    ScalarResult s (.clz x) x.dst (intRes t false (clz t.w (t.low a) : Nat))
    ∧ ScalarResult s (.ctz x) x.dst (intRes t false (ctz t.w (t.low a) : Nat))
    ∧ ScalarResult s (.popc x) x.dst (intRes t false (popcount t.w (t.low a) : Nat))
    ∧ ScalarResult s (.sext x) x.dst (intRes t false (t.read a))
    ∧ ScalarResult s (.zext x) x.dst (intRes t false (t.read a))
    ∧ ScalarResult s (.abs x) x.dst (intRes t true ((t.read a).natAbs : Nat))
    ∧ ScalarResult s (.neg x) x.dst (intRes t true (-t.read a))
    ∧ ScalarResult s (.mov x) x.dst (s.me.rS x.src1, 0))

/-- R117, R118: bit fields, the wide moves, and the select; `BFI` and `MOVHI` also read their destination, and `SEL` the
predicate that mod names. R120, R121, R123: compares write p[pd]. -/
def Obligations.FieldsAndMoves : Prop :=
  ((∀ (s : State) (x : ArgA), Quiet s → Ready s [srcS x.src1 x.b1, srcS x.src2 x.b2] →
    let a := (s.me.rS x.src1).toNat
    let b := (s.me.rS x.src2).toNat
    ScalarResult s (.bfx x) x.dst (n64 (fieldVal a b), 0)
    ∧ ScalarResult s (.bfxs x) x.dst (w64 (sx (fieldOf b).2 (fieldVal a b)), 0)
    ∧ (Ready s [srcS x.dst false] →
        let p := fieldOf b
        let d := (s.me.rS x.dst).toNat
        ScalarResult s (.bfi x) x.dst
          (n64 (d % 2 ^ p.1 + a % 2 ^ p.2 * 2 ^ p.1 + d / 2 ^ (p.1 + p.2) * 2 ^ (p.1 + p.2)), 0))
    ∧ (Ready s [srcP x.mod] →
        ScalarResult s (.sel x) x.dst (if s.me.rP x.mod then s.me.rS x.src1 else s.me.rS x.src2, 0)))
  ∧ (∀ (s : State) (x : ArgW), Quiet s →
    ScalarResult s (.movi x) x.dst (match x.ext with
      | none => x.imm.signExtend 64
      | some e => e.signExtend 64, 0)
    ∧ (Ready s [srcS x.dst false] →
        let hi := match x.ext with
          | none => x.imm.toNat
          | some e => e.toNat
        ScalarResult s (.movhi x) x.dst (n64 (hi * 2 ^ 32 + bits (s.me.rS x.dst).toNat 31 0), 0))))
  ∧ ((∀ (s : State) (x : ArgP), Quiet s → Ready s [srcS x.src1 x.b1, srcS x.src2 x.b2] →
    PredicateResult s (.cmp x) x.pd (intCond x.cond (s.me.rS x.src1) (s.me.rS x.src2), 0)
    ∧ PredicateResult s (.fcmps x) x.pd
        (fcmp x.cond (f32.decode (bits (s.me.rS x.src1).toNat 31 0)) (f32.decode (bits (s.me.rS x.src2).toNat 31 0))))
  ∧ (∀ (s : State) (x : ArgQ), Quiet s → Ready s [srcS x.src1 x.b1] →
    PredicateResult s (.cmpi x) x.pd (intCond x.cond (s.me.rS x.src1) (match x.ext with
      | none => x.imm.signExtend 64
      | some e => e.signExtend 64), 0)))

/-- R121: the predicate logic ops. `PAND`, `POR` and `PXOR` write p[pa] AND, OR or XOR p[pb] to p[pd], `PNOT` writes NOT p[pa] and
`PMOV` p[pa], and the last two require pb = 0: with another pb their words do not decode. A source predicate that is empty blocks, as
it has no block/trap bit (R38). -/
def Obligations.PredicateLogic : Prop :=
  ∀ x : ArgPL,
    (∀ s : State, Quiet s →
      (Ready s [srcP x.pa] → PredicateResult s (.pnot x) x.pd (!s.me.rP x.pa, 0) ∧ PredicateResult s (.pmov x) x.pd (s.me.rP x.pa, 0))
      ∧ (Ready s [srcP x.pa, srcP x.pb] →
          PredicateResult s (.pand x) x.pd (s.me.rP x.pa && s.me.rP x.pb, 0)
          ∧ PredicateResult s (.por x) x.pd (s.me.rP x.pa || s.me.rP x.pb, 0)
          ∧ PredicateResult s (.pxor x) x.pd (s.me.rP x.pa ^^ s.me.rP x.pb, 0))
      ∧ (srcFull s s.cur (srcP x.pa) = false → ∀ i ∈ [Instr.pnot x, .pmov x, .pand x, .por x, .pxor x],
          Waits s i 1 (fun s => s.updMe (fun c => { c with waitSrc := some (2, x.pa) })))
      ∧ (srcFull s s.cur (srcP x.pa) = true → srcFull s s.cur (srcP x.pb) = false →
          ∀ i ∈ [Instr.pand x, .por x, .pxor x], Waits s i 1 (fun s => s.updMe (fun c => { c with waitSrc := some (2, x.pb) }))))
    ∧ let n := x.pd.val * 2 ^ 20 + x.pa.val * 2 ^ 17 + x.pb.val * 2 ^ 14
      ∀ e : Word32, decode 1 (BitVec.ofNat 32 (0x2C * 2 ^ 23 + n)) e = some (.pand x) ∧ decode 1 (BitVec.ofNat 32 (0x2D * 2 ^ 23 + n)) e = some (.por x)
        ∧ decode 1 (BitVec.ofNat 32 (0x2E * 2 ^ 23 + n)) e = some (.pxor x)
        ∧ decode 1 (BitVec.ofNat 32 (0x2F * 2 ^ 23 + n)) e = (if x.pb = 0 then some (.pnot x) else none)
        ∧ decode 1 (BitVec.ofNat 32 (0x30 * 2 ^ 23 + n)) e = if x.pb = 0 then some (.pmov x) else none

/-- R122, R124: the scalar floating ops round under the `FMT` in effect, draw once under SR, and set `FLAGS`; `FFMAS` adds its
destination, and `FMINS` and `FMAXS` never draw. -/
def Obligations.ScalarFloatOps : Prop :=
  (∀ (s : State) (x : ArgA), Quiet s → Ready s [srcS x.src1 x.b1, srcS x.src2 x.b2] →
    let t := sFty x.mod
    let v := FEnv.ofFmt s.me.fmtNow
    let a := (s.me.rS x.src1).toNat % 2 ^ t.w
    let b := (s.me.rS x.src2).toNat % 2 ^ t.w
    RoundedResult s (.fadds x) x.dst true (t.fadd v a b)
    ∧ RoundedResult s (.fsubs x) x.dst true (t.fsub v a b)
    ∧ RoundedResult s (.fmuls x) x.dst true (t.fmul v a b)
    ∧ RoundedResult s (.fmins x) x.dst false (fun _ => t.fminmax v false a b)
    ∧ RoundedResult s (.fmaxs x) x.dst false (fun _ => t.fminmax v true a b)
    ∧ (Ready s [srcS x.dst false] →
        RoundedResult s (.ffmas x) x.dst true (t.ffma v false a b ((s.me.rS x.dst).toNat % 2 ^ t.w))))
  ∧ (∀ (s : State) (x : ArgCV), Quiet s → Ready s [srcS x.src1 x.b1] →
    RoundedResult s (.fcvts x) x.dst (convDraws (tyOf x.sty) (tyOf x.dty)) (fun d =>
      let r := convert (FEnv.ofFmt s.me.fmtNow) false (tyOf x.sty) (tyOf x.dty)
        ((s.me.rS x.src1).toNat % 2 ^ (tyOf x.sty).w) d
      (match tyOf x.dty with
        | .fl _ => r.1
        | .it t => (t.ext (t.read r.1)).toNat, r.2)))

/-! ### L-slot ops (R125 to R139) -/

/-- R125, R129, R130: the loads, their registers full and their bytes within reach, give the register the value read,
extended as the type says, and step their address register by `step` accesses; no byte of memory changes. R126: a short local address names the issuing core's own scratchpad, and an access that passes its end is fault 0x80 at the
first byte beyond it. -/
def Obligations.Loads : Prop :=
  ((∀ (s : State) (x : ArgM), Quiet s → Ready s [srcA x.abase x.b] →
    (∀ pa, reach s s.cur (eaOf s.me x) (bytesOf x) = .ok pa →
      Writes s (.ld x) (heldL s x.hold (.ld x))
        (fun c => stepped x (bytesOf x) (c.wS x.reg (loaded x (rd s pa (bytesOf x))))))
    ∧ (∀ pa, reach s s.cur (eaOf s.me x) 256 = .ok pa →
      Writes s (.ldv x) (heldL s x.hold (.ldv x))
        (fun c => stepped x 256 (c.wV x.reg (BitVec.ofNat 2048 (rd s pa 256)))))
    ∧ (Ready s [srcA (x.abase + 1) x.b] →
      ∀ f : Nat → Nat, (∀ i ∈ strideIdx x, reach s s.cur (strideEa x s.me i) (bytesOf x) = .ok (f i)) →
      Writes s (.ldvs x) (heldL s x.hold (.ldvs x)) (fun c => stepped x 256
        (c.wV x.reg (ofLanes (intTy x.ty).w ((strideIdx x).map (fun i => rd s (f i) (bytesOf x))))))))
  ∧ (∀ (s : State) (x : ArgG), Quiet s → Ready s [srcA x.abase x.b, srcV x.vidx x.b, srcVM x.vm x.b] →
      ∀ f : Nat → Nat, (∀ i ∈ gathIdx x s.me, reach s s.cur (gathEa x s.me i) (gathW x.ty / 8) = .ok (f i)) →
      Writes s (.gath x) (heldL s x.hold (.gath x)) (fun c => c.wV x.vreg (ofLanes (gathW x.ty)
        ((List.range 64).map (fun i => if (s.me.rVM x.vm).getLsbD i then rd s (f i) (gathW x.ty / 8) else 0))))))
  ∧ (∀ (s : State) (a : Word64) (n : Nat), s.cur < residents → a.toNat < 2 ^ 20 →
    (a.toNat + n ≤ 2 ^ 20 → reach s s.cur a n = .ok (2 ^ 39 + s.cur / 4 * 2 ^ 20 + a.toNat))
    ∧ (2 ^ 20 < a.toNat + n → reach s s.cur a n = .error (Exc.mk' 0x80 0x100000 (n64 (0xFFF * 2 ^ 36)))))

/-- R125, R129: the stores, their registers full and their bytes within reach, write the low bytes of their register
little-endian; every other byte of memory and every register but the stepped one keep their values. R129, R130: strided and scattered stores write their elements in increasing order; a byte outside every element reads as
before. -/
def Obligations.PlainStores : Prop :=
  (∀ (s : State) (x : ArgM), Quiet s → Ready s [srcA x.abase x.b] →
    (Ready s [srcS x.reg x.b] → ∀ pa, reach s s.cur (eaOf s.me x) (bytesOf x) = .ok pa →
      Stores s (.st x) (heldL s x.hold (.st x)) pa (bytesOf x) (s.me.rS x.reg).toNat (stepped x (bytesOf x)))
    ∧ (Ready s [srcV x.reg x.b] → ∀ pa, reach s s.cur (eaOf s.me x) 256 = .ok pa →
      Stores s (.stv x) (heldL s x.hold (.stv x)) pa 256 (s.me.rV x.reg).toNat (stepped x 256)))
  ∧ ((∀ (s : State) (x : ArgM), Quiet s → Ready s [srcA x.abase x.b, srcA (x.abase + 1) x.b, srcV x.reg x.b] →
    ∀ f : Nat → Nat, (∀ i ∈ strideIdx x, reach s s.cur (strideEa x s.me i) (bytesOf x) = .ok (f i)) →
    let b := (strideIdx x).foldl (fun m i => wr m (f i) (bytesOf x) (lane (intTy x.ty).w i (s.me.rV x.reg))) s
    Rewrites s (.stvs x) (heldL s x.hold (.stvs x)) b (stepped x 256)
    ∧ ∀ a, (∀ i ∈ strideIdx x, a < f i ∨ f i + bytesOf x ≤ a) → b.byte a = s.byte a)
  ∧ (∀ (s : State) (x : ArgG), Quiet s →
    Ready s [srcA x.abase x.b, srcV x.vreg x.b, srcV x.vidx x.b, srcVM x.vm x.b] →
    ∀ f : Nat → Nat, (∀ i ∈ gathIdx x s.me, reach s s.cur (gathEa x s.me i) (gathW x.ty / 8) = .ok (f i)) →
    let b := (gathIdx x s.me).foldl (fun m i => wr m (f i) (gathW x.ty / 8) (lane (gathW x.ty) i (s.me.rV x.vreg))) s
    Rewrites s (.scat x) (heldL s x.hold (.scat x)) b (fun c => c)
    ∧ ∀ a, (∀ i ∈ gathIdx x s.me, a < f i ∨ f i + gathW x.ty / 8 ≤ a) → b.byte a = s.byte a))

/-- R127, R137: an atomic whose address is aligned and within reach gives its register the old value, and stores the new one
in the same step; a misaligned one is trap 0x02, REASON 0x01, and does nothing. R133 to R135: an `LDL` of a free lock takes it and reads its word; one of a lock the context holds counts once more; one
of a lock that another context has waits, reason 9. An `STUL` stores, and with the last count the lock leaves the context and
is no longer held by it: it is clear, or granted to a waiter. -/
def Obligations.Atomics : Prop :=
  (∀ (s : State) (x : ArgM), Quiet s → Ready s [srcA x.abase x.b, srcS x.reg x.b] →
    let n := bytesOf x
    let t := intTy x.ty
    let v := (s.me.rS x.reg).toNat
    ((eaOf s.me x).toNat % n = 0 → ∀ pa, reach s s.cur (eaOf s.me x) n = .ok pa →
      let old := rd s pa n
      Stores s (.atom x) (heldL s x.hold (.atom x)) pa n (atomNew t x.opt.toNat old v)
        (fun c => (stepped x n c).wS x.reg (loaded x old))
      ∧ (Ready s [srcS (x.reg + 1) x.b] →
        Stores s (.cas x) (heldL s x.hold (.cas x)) pa n
          (if old = t.low v then (s.me.rS (x.reg + 1)).toNat else old)
          (fun c => (stepped x n c).wS x.reg (loaded x old))))
    ∧ ((eaOf s.me x).toNat % n ≠ 0 →
      Raises s (.atom x) (illegal 3 1 (eaOf s.me x))
      ∧ (Ready s [srcS (x.reg + 1) x.b] → Raises s (.cas x) (illegal 3 1 (eaOf s.me x)))))
  ∧ (∀ (s : State) (x : ArgM), Quiet s → Ready s [srcA x.abase x.b] → (eaOf s.me x).toNat % bytesOf x = 0 →
    ∀ pa, reach s s.cur (eaOf s.me x) (bytesOf x) = .ok pa →
    let k := lockKey pa
    let v := loaded x (rd s pa (bytesOf x))
    let own := fun l : LockSlot => l.core == k.1 && l.idx == k.2
    (lockSlotOf s.me k = none → lockBusy s s.cur k = false → s.me.locks.length < 2 →
      Rewrites s (.ldl x) (heldL s x.hold (.ldl x)) (s.setLock k (.held s.cur)) (fun c => stepped x (bytesOf x)
        (Context.wS { c with locks := c.locks ++ [{ core := k.1, idx := k.2, count := 1 }] } x.reg v)))
    ∧ (∀ l, lockSlotOf s.me k = some l → l.count ≠ 255 →
      Writes s (.ldl x) (heldL s x.hold (.ldl x)) (fun c => stepped x (bytesOf x)
        (Context.wS { c with locks := c.locks.map (fun l => if own l then { l with count := l.count + 1 } else l) } x.reg v)))
    ∧ (lockSlotOf s.me k = none → lockBusy s s.cur k = true →
      Waits s (.ldl x) 9 (fun s => s.updMe (fun c => { c with lockWait := some k })))
    ∧ (Ready s [srcS x.reg x.b] → ∀ l, lockSlotOf s.me k = some l →
      (1 < l.count → Stores s (.stul x) (heldL s x.hold (.stul x)) pa (bytesOf x) (s.me.rS x.reg).toNat (fun c =>
        let c := stepped x (bytesOf x) c
        { c with locks := c.locks.map (fun l => if own l then { l with count := l.count - 1 } else l) }))
      ∧ (l.count ≤ 1 → ∃ t, exec (.stul x) s = .next t
        ∧ t.me = closing s (heldL s x.hold (.stul x))
            (let c := stepped x (bytesOf x) s.me.begin
             { c with locks := c.locks.filter (fun l => !own l) })
        ∧ rd t pa (bytesOf x) = (s.me.rS x.reg).toNat % 2 ^ (8 * bytesOf x)
        ∧ (∀ a, a < pa ∨ pa + bytesOf x ≤ a → t.byte a = s.byte a)
        ∧ (t.lockBit k = .clear ∨ ∃ w, t.lockBit k = .granted w))))

/-- R138, R139: the address-register ops. R129: `LDC` reads the parameter block of its launch, and past the block's end is fault 0x80 at the first byte beyond. -/
def Obligations.AddressOps : Prop :=
  (∀ (s : State) (x : ArgA), Quiet s →
    let h : Held := { s.me.held with l := none }
    (Ready s [srcA x.src1 x.b1, srcS x.src2 x.b2] →
      Writes s (.aadd x) h (fun c => c.wA x.dst (s.me.rA x.src1 + s.me.rS x.src2 <<< x.mod.val)))
    ∧ (x.mod = 0 → Ready s [srcS x.src1 x.b1] → Writes s (.amov x) h (fun c => c.wA x.dst (s.me.rS x.src1)))
    ∧ (x.mod = 1 → Ready s [srcA x.src1 x.b1] → Writes s (.amov x) h (fun c => c.wS x.dst (s.me.rA x.src1)))
    ∧ (x.mod = 2 → Ready s [srcS x.src1 x.b1] →
        Writes s (.amov x) h (fun c => c.wLC x.dst ((s.me.rS x.src1).setWidth 32)))
    ∧ (x.mod = 3 → Writes s (.amov x) h (fun c => c.wS x.dst ((s.me.rLC x.src1).setWidth 64)))
    ∧ (x.mod = 4 → Ready s [srcA x.src1 x.b1] → Writes s (.amov x) h (fun c => c.wA x.dst (s.me.rA x.src1))))
  ∧ (∀ (s : State) (x : ArgM), Quiet s → Ready s [srcA x.abase x.b] →
    let a := (eaOf s.me x).toNat
    let n := s.me.constBuf.length
    (a + bytesOf x ≤ n →
      Writes s (.ldc x) (heldL s x.hold (.ldc x))
        (fun c => stepped x (bytesOf x) (c.wS x.reg (loaded x (leAt s.me.constBuf a (bytesOf x))))))
    ∧ (n < a + bytesOf x →
      Raises s (.ldc x) (reachExc 0x80 0 (if a < n then n64 n else eaOf s.me x))))

/-! ### Barriers and counters (R287 to R295) -/

/-- R288: the update of a barrier, for a sum that does not pass 2^47 - 1 (the source settles one that does, R289): PEND
takes the delta, and OVF is set where the sum falls below -2^47. It completes when PEND and REM are both zero and OVF is not set: PHASE flips, GEN counts,
REM is INIT again. -/
def Obligations.BarrierUpdate : Prop :=
  ∀ (s : State) (pa : Nat) (dp : Int) (da : Nat), da ≤ 1 → barPend s pa + dp ≤ 2 ^ 47 - 1 →
    let p := barPend s pa + dp
    let q := if p < -(2 ^ 47 : Int) then -(2 ^ 47 : Int) else p
    let ov := barOvf s pa || decide (p < -(2 ^ 47 : Int))
    let r := (barRem s pa + 65536 - da) % 65536
    let t := barUpdate s pa dp da
    (∀ a, a < pa ∨ pa + 16 ≤ a → t.byte a = s.byte a)
    ∧ barInit t pa = barInit s pa
    ∧ (q = 0 → r = 0 → ov = false →
        barPend t pa = 0 ∧ barOvf t pa = false ∧ barPhase t pa = !barPhase s pa ∧ barRem t pa = barInit s pa
        ∧ barGen t pa = (barGen s pa + 1) % 2 ^ 32)
    ∧ (¬(q = 0 ∧ r = 0 ∧ ov = false) →
        barPend t pa = q ∧ barOvf t pa = ov ∧ barPhase t pa = barPhase s pa ∧ barRem t pa = r ∧ barGen t pa = barGen s pa)

/-- R291, R292: `BINIT` writes a fresh word whatever the barrier's state; `BEXPECT` and `BARRIVE` update the barrier of R288
at its place, and `BARRIVE` gives the phase before the arrival. R287: the fields of a barrier read back as they were written, and its 16 bytes are all that the write changes. -/
def Obligations.BarrierOps : Prop :=
  (∀ (s : State) (x : ArgM) (pa : Nat), Quiet s → Ready s [srcA x.abase x.b] → (eaOf s.me x).toNat % 16 = 0 →
    reach s s.cur (eaOf s.me x) 16 = .ok pa →
    let d := (beginIssue s).updMe (stepped x 0)
    (Ready s [srcS x.reg x.b] → (s.me.rS x.reg).toNat ≤ 65535 →
      let n := (s.me.rS x.reg).toNat
      ∃ t, exec (.binit x) s = .next t
        ∧ t.me = closing s (heldL s x.hold (.binit x)) (stepped x 0 s.me.begin)
        ∧ barPhase t pa = false ∧ barOvf t pa = false ∧ barPend t pa = 0 ∧ barInit t pa = n ∧ barRem t pa = n ∧ barGen t pa = 0
        ∧ ∀ a, a < pa ∨ pa + 16 ≤ a → t.byte a = s.byte a)
    ∧ (Ready s [srcS x.reg x.b] → 0 ≤ (s.me.rS x.reg).toInt → barOver s pa (s.me.rS x.reg).toInt = false →
      Issues s (.bexpect x) (heldL s x.hold (.bexpect x)) (barUpdate d pa (s.me.rS x.reg).toInt (x.opt.toNat % 2)))
    ∧ (Ready s [srcS x.reg x.b] → (s.me.rS x.reg).toInt < 0 →
      Raises s (.bexpect x) (barTrap 4 (s.me.rS x.reg).toNat (eaOf s.me x)))
    ∧ (barRem s pa ≠ 0 → (x.opt.toNat % 2 = 1 → barInit s pa ≠ 0) →
      let e := if x.opt.toNat % 2 = 1 then
          putBarrier d pa (barPhase s pa) (barOvf s pa) (barPend s pa) (barInit s pa - 1) (barRem s pa) (barGen s pa)
        else d
      Issues s (.barrive x) (heldL s x.hold (.barrive x))
        ((barUpdate e pa 0 1).updMe (fun c => c.wS x.reg (n64 (b2n (barPhase s pa))))))
    ∧ (barRem s pa = 0 → Raises s (.barrive x) (barTrap 2 0 (eaOf s.me x)))
    ∧ Writes s (.btest x) (heldL s x.hold (.btest x)) (fun c =>
        stepped x 0 (c.wS x.reg (n64 (rd s (pa + (if x.opt.toNat % 2 = 1 then 8 else 0)) 8)))))
  ∧ (∀ (s : State) (pa : Nat) (phase ovf : Bool) (pend : Int) (ini rem gen : Nat),
    -(2 ^ 47 : Int) ≤ pend → pend < 2 ^ 47 →
    let t := putBarrier s pa phase ovf pend ini rem gen
    barPhase t pa = phase ∧ barOvf t pa = ovf ∧ barPend t pa = pend ∧ barInit t pa = ini % 65536 ∧ barRem t pa = rem % 65536
    ∧ barGen t pa = gen % 2 ^ 32 ∧ ∀ a, a < pa ∨ pa + 16 ≤ a → t.byte a = s.byte a)

/-- R293: a wait whose phase has passed completes; one whose phase has not blocks, reason 3, with a claim on the first
completion from then on; OVF is trap 0x31, KIND 3; a `BWAITP` past its promise is trap 0x30. -/
def Obligations.BarrierWaits : Prop :=
  ∀ (s : State) (x : ArgM) (pa : Nat), Quiet s → Ready s [srcA x.abase x.b, srcS x.reg x.b] →
    (eaOf s.me x).toNat % 16 = 0 → reach s s.cur (eaOf s.me x) 16 = .ok pa →
    let passed := barPhase s pa ≠ (s.me.rS x.reg).getLsbD 0 ∨ claimWoken s.me pa = true
    let claim := fun p : Option Nat => fun s : State =>
      s.updMe (fun c => { c with claim := some { addr := pa, promise := p, woken := false, retry := false } })
    let prom := (promiseOf x s).toNat
    (barOvf s pa = false → passed → Writes s (.bwait x) (heldL s x.hold (.bwait x)) (stepped x 0))
    ∧ (barOvf s pa = true → Raises s (.bwait x) (barTrap 3 0 (eaOf s.me x)))
    ∧ (barOvf s pa = false → ¬passed → Waits s (.bwait x) 3 (claim none))
    ∧ (Ready s [srcS (x.reg + 1) x.b] → x.reg.val % 2 = 0 → x.reg ≠ 0 →
      (barOvf s pa = false → passed → Writes s (.bwaitp x) (heldL s x.hold (.bwaitp x)) (stepped x 0))
      ∧ (barOvf s pa = false → ¬passed → prom ≤ s.cyc.toNat →
        Raises s (.bwaitp x) (Exc.mk' 0x30 (eaOf s.me x) (barInfo 0 3 prom)))
      ∧ (barOvf s pa = false → ¬passed → s.cyc.toNat < prom → Waits s (.bwaitp x) 3 (claim (some prom))))

/-- R294: `CADD` adds to its counter in one step, and a negative addend is trap 0x32 with nothing changed; `CWAITGE` completes
when the counter has reached the target, and else waits, reason 4. -/
def Obligations.Counters : Prop :=
  ∀ (s : State) (x : ArgM) (pa : Nat), Quiet s → Ready s [srcA x.abase x.b, srcS x.reg x.b] →
    (eaOf s.me x).toNat % 8 = 0 → reach s s.cur (eaOf s.me x) 8 = .ok pa →
    let v := s.me.rS x.reg
    (0 ≤ v.toInt → rd s pa 8 + v.toNat < 2 ^ 64 →
      Stores s (.cadd x) (heldL s x.hold (.cadd x)) pa 8 (rd s pa 8 + v.toNat) (stepped x 0))
    ∧ (v.toInt < 0 → Raises s (.cadd x) (Exc.mk' 0x32 (eaOf s.me x) (barInfo 0 3 v.toNat)))
    ∧ (0 ≤ v.toInt → 2 ^ 64 ≤ rd s pa 8 + v.toNat → ∃ e, exec (.cadd x) s = .next (raise s e)
        ∧ e.code = 0x32 ∧ e.eva = eaOf s.me x ∧ e.einfo = barInfo 1 3 v.toNat ∧ e.pre s = wr s pa 8 (2 ^ 64 - 1))
    ∧ (v.toNat ≤ rd s pa 8 → Writes s (.cwaitge x) (heldL s x.hold (.cwaitge x)) (stepped x 0))
    ∧ (rd s pa 8 < v.toNat → Waits s (.cwaitge x) 4 id)

/-! ### C-slot ops (R63, R102 to R112, R257 to R276, R214 to R216) -/

/-- R50, R103: branches, calls and returns go to their targets once the bundle has issued; an offset counts words from the
bundle's header; a call leaves the address after its bundle in `s63`, full at once. R63, R102: a no-op of each slot issues and does nothing but end the hold of its own slot. -/
def Obligations.Transfers : Prop :=
  (∀ s : State, Quiet s →
    (∀ x : ArgB, Jumps s (.br x) (relTarget s x) (fun c => c)
      ∧ (Ready s [srcP x.pred] →
          ((s.me.rP x.pred ^^ x.neg) = true → Jumps s (.brp x) (relTarget s x) (fun c => c))
          ∧ ((s.me.rP x.pred ^^ x.neg) = false → Writes s (.brp x) s.me.held (fun c => c)))
      ∧ Jumps s (.call x) (relTarget s x) (fun c => c.wSnow 63 s.latch.next))
    ∧ (∀ x : ArgA, Ready s [srcS x.src1 x.b1] →
        Jumps s (.bri x) (s.me.rS x.src1) (fun c => c)
        ∧ Jumps s (.calli x) (s.me.rS x.src1) (fun c => c.wSnow 63 s.latch.next))
    ∧ (Ready s [srcS 63 false] → Jumps s .ret (s.me.rS 63) (fun c => c)))
  ∧ (∀ s : State, Quiet s →
    let h := s.me.held
    Writes s .nop h (fun c => c)
    ∧ Writes s .nopL { h with l := none } (fun c => c)
    ∧ Writes s .nopV { h with v := none } (fun c => c)
    ∧ Writes s .nopM { h with m := none } (fun c => c)
    ∧ Writes s .nopX { h with x := none } (fun c => c))

/-- R105 to R107: `LOOPN` copies its table and trip counts into the nest, clears the counters and goes on at the first body
bundle; with a trip count of zero the body is skipped to the exit point and the counters keep their counts. A base that is
misaligned, or a record that is malformed, is trap 0x02, REASON 0x04. -/
def Obligations.LoopEntry : Prop :=
  ∀ (s : State) (x : ArgLP), Quiet s → Ready s [srcA x.abase x.b] → x.levels.val ≤ 5 → s.latch.repn ≤ s.me.rep →
    let a := (s.me.rA x.abase).toNat
    let n := loopNest x s
    (a % 8 = 0 → a + 64 * (x.levels.val + 1) ≤ 2 ^ 20 →
      firstBad s (s.cur / 4) a (List.range (x.levels.val + 1)) = none →
      (n.trip.contains 0 = false → ∃ t, exec (.loopn x) s = .next t ∧ Elsewhere s t
        ∧ t.me = { closing s s.me.held ((List.range (x.levels.val + 1)).foldl (fun c l => c.wLC l 0) s.me.begin) with nest := n })
      ∧ (n.trip.contains 0 = true → ∀ q, exitPoint s (s.jobOf s.cur) n = .ok q → ∃ t, exec (.loopn x) s = .next t
        ∧ Elsewhere s t ∧ t.me = { closing s s.me.held s.me.begin with pc := q, nest := .none }))
    ∧ (a % 8 ≠ 0 → Raises s (.loopn x) (illegal 0 4 (s.me.rA x.abase)))

/-- R66, R108: the last repetition of the body's last bundle makes the level transition of R108, which adds 1 to the innermost
counter; while it stays below the trip count the nest goes on at its first bundle, and when the transition ends the nest every
counter again holds its trip count. -/
def Obligations.LoopBody : Prop :=
  (∀ s : State, s.cur < residents → s.me.nest.active = true → (s.me.tlevel = 0 → bitOf s.me.stepctl.toNat 0 = false) →
    s.me.after = .none → s.me.st ≠ .sleeping → s.latch.repn ≤ s.me.rep →
    let c := (s.me.begin.fillBuffer s.latch.words).tickFmt
    let r := levelStep 6 0 c
    (s.me.nest.pos = s.me.nest.body → s.latch.lbe = true → ∃ t, exec .nop s = .next t ∧ Elsewhere s t
      ∧ t.me = if r.2 then { r.1 with nest := { r.1.nest with pos := 0 }, pc := s.me.nest.first, rep := 0, brSrc := 0, owed := none }
        else { r.1 with nest := .none, pc := s.latch.next, rep := 0, brSrc := 0, owed := none }))
  ∧ (∀ c : Context, c.nest.levels ≤ 5 →
    (((c.rLC 0) + 1).toNat < (c.nest.trip.getD 0 0).toNat →
      (levelStep 6 0 c).2 = true ∧ (levelStep 6 0 c).1.rLC 0 = c.rLC 0 + 1)
    ∧ ((levelStep 6 0 c).2 = false → ∀ m ≤ c.nest.levels, (levelStep 6 0 c).1.rLC m = c.nest.trip.getD m 0))

/-- R109: `LEXIT` ends the active nest, and execution goes on at the exit point, with the loop counters as they are; with no
nest active it has no effect. A taken branch to a body bundle keeps the nest at its position (R66), and one out of the body ends it
with the counters as they are. -/
def Obligations.LoopExit : Prop :=
  (∀ s : State, Quiet s → s.latch.repn ≤ s.me.rep → ∃ t, exec .lexit s = .next t ∧ Elsewhere s t
    ∧ t.me = closing s s.me.held s.me.begin)
  ∧ ∀ s : State, s.cur < residents → s.me.nest.active = true → (s.me.tlevel = 0 → bitOf s.me.stepctl.toNat 0 = false) →
    s.me.after = .none → s.me.st ≠ .sleeping → s.latch.repn ≤ s.me.rep →
    let c := (s.me.begin.fillBuffer s.latch.words).tickFmt
    c.lc = s.me.lc
    ∧ (∀ q, exitPoint s (s.jobOf s.cur) c.nest = .ok q → ∃ t, exec .lexit s = .next t ∧ Elsewhere s t
      ∧ t.me = { c with nest := .none, pc := q, rep := 0, brSrc := 0, owed := none })
    ∧ (∀ x : ArgB, ∃ t, exec (.br x) s = .next t ∧ Elsewhere s t
      ∧ t.me = { c with
          nest := match bodyPos s (s.jobOf s.cur) c.nest (relTarget s x) 33 0 c.nest.first with
            | some p => { c.nest with pos := p }
            | none => Nest.none,
          pc := relTarget s x, rep := 0, brSrc := s.me.pc, owed := none })

/-- R41 to R44, R68, R111, R112: `FMTSET` replaces the masked bits from the fourth issue cycle on, and a value that R44 does
not accept is trap 0x02; `CSRR` reads a control register of R41 and `CSRW` writes one; an index that R41 does not list, and a
`CSRW` of `FMT`, are trap 0x02. -/
def Obligations.ControlRegisters : Prop :=
  (∀ (s : State) (x : ArgA), Quiet s → Ready s [srcS x.src1 x.b1, srcS x.src2 x.b2] →
    let v := (s.me.fmtNow &&& ~~~ s.me.rS x.src2) ||| (s.me.rS x.src1 &&& s.me.rS x.src2)
    (fmtOk v = true → Writes s (.fmtset x) s.me.held (fun c => { c with fmtPend := c.fmtPend ++ [(4, v)] }))
    ∧ (fmtOk v = false → Raises s (.fmtset x) (illegal 0 0 0)))
  ∧ (∀ (s : State) (x : ArgCS), Quiet s →
    (∀ v, csrValue s s.cur x.index.toNat = some v →
      Writes s (.csrr x) s.me.held (fun c => c.wS x.dst v))
    ∧ (csrValue s s.cur x.index.toNat = none → Raises s (.csrr x) (illegal 0 0 0))
    ∧ (Ready s [srcS x.src1 x.b1] →
      ((csrValue s s.cur x.index.toNat).isSome = true → x.index.toNat ≠ 1 →
        Writes s (.csrw x) s.me.held (fun c => c.wCsr x.index.toNat (s.me.rS x.src1)))
      ∧ (x.index.toNat = 1 → Raises s (.csrw x) (illegal 0 0 0))))

/-- R257, R259: taking a trap. With a writeback pending the context waits for it first, reason 11; at level 0 it is taken at
level 1; at level 1 with the mask off it is taken at level 2; at level 1 with the mask on it is fault 0x83, but for 0x40 of a
`SNAPST`, which goes to level 2 and keeps the copy; at level 2 it is fault 0x84. -/
def Obligations.TrapEntry : Prop :=
  ∀ (s : State) (cid : Nat) (i : TrapInfo), cid < residents →
    let c := s.ctx cid
    (c.pend ≠ [] → takeTrap s cid i = block (s.updCtx cid (fun c => { c with after := .trapEntry i })) cid 11)
    ∧ (c.pend = [] →
      (c.tlevel = 0 → ∀ n, n ≠ cid → (takeTrap s cid i).ctx n = s.ctx n
        ∧ (takeTrap s cid i).mem = s.mem ∧ Trapped c ((takeTrap s cid i).ctx cid) i.code i.ret i.eva i.einfo)
      ∧ (c.tlevel = 1 → c.mask = false →
        let d := (takeTrap s cid i).ctx cid
        d.tlevel = 2 ∧ d.mask = true ∧ d.st = .trap2 ∧ d.cause2 = BitVec.ofNat 8 i.code ∧ d.epc2 = i.ret ∧ d.eva2 = i.eva
        ∧ d.einfo2 = i.einfo ∧ d.epc1 = c.epc1 ∧ d.cause1 = c.cause1 ∧ d.pc = c.tvec ∧ d.snapv = true ∧ d.l2snap = false
        ∧ d.snap.level = 1 ∧ d.snap.held = c.held ∧ SameRegs c d)
      ∧ (c.tlevel = 1 → c.mask = true → i.code = 0x40 → i.snapst = true →
        let d := (takeTrap s cid i).ctx cid
        d.tlevel = 2 ∧ d.l2snap = true ∧ d.snapv = c.snapv ∧ d.snap = c.snap ∧ d.cause2 = 0x40 ∧ d.epc2 = i.ret
        ∧ d.pc = c.tvec ∧ SameRegs c d)
      ∧ (c.tlevel = 1 → c.mask = true → ¬(i.code = 0x40 ∧ i.snapst = true) →
        takeTrap s cid i = faultCtx s cid 0x83 i.code i.einfo i.eva (if postCause i.code then c.lastPoint else i.ret) ∧ ((takeTrap s cid i).ctx cid).st = .killed)
      ∧ (c.tlevel = 2 →
        takeTrap s cid i = faultCtx s cid 0x84 i.code i.einfo i.eva (if postCause i.code then c.lastPoint else i.ret) ∧ ((takeTrap s cid i).ctx cid).st = .killed))

/-- R271: `TRAP` and `BKPT`, at level 0 with no writeback pending, are taken once their bundle has issued, with the next issue
point to return to; `BKPT` has no effect under `STEPCTL`.BKOFF; `ABORT` is fault 0x88 at any level, and the context stops. R272: `ERET` from a level whose copy is whole restores hold state, `FMT` and nest from it and continues at `EPC`; from a
level 2 that a `SNAPST` entered it keeps the copy and the mask. At level 0 it is trap 0x02, REASON 0x52. -/
def Obligations.SoftwareTraps : Prop :=
  (∀ (s : State) (x : ArgW), Quiet s →
    let n := closing s s.me.held s.me.begin
    (s.me.tlevel = 0 → s.me.pend = [] →
      (∃ t, exec (.trap x) s = .next t ∧ Elsewhere s t ∧ Trapped n t.me 0x7F n.point 0 (immW x))
      ∧ (bitOf s.me.stepctl.toNat 2 = false →
        ∃ t, exec (.bkpt x) s = .next t ∧ Elsewhere s t ∧ Trapped n t.me 0x61 n.point 0 (immW x)))
    ∧ (bitOf s.me.stepctl.toNat 2 = true → Writes s (.bkpt x) s.me.held (fun c => c))
    ∧ (∃ t, exec (.abort x) s = .next t ∧ t.me = { s.me with st := .halted, after := .none, fault := some (faultInfo 0x88 0 (immW x) 0 s.me.point) }
        ∧ t.mem = s.mem
        ∧ ∀ k l, s.me.launch = some k → s.launchOf k = some l → l.halt = none →
          ∃ h, (t.launchOf k).bind (·.halt) = some h ∧ h.cause = 0x88 ∧ h.detail = immW x))
  ∧ (∀ s : State, Quiet s →
    let e := s.me.epcNow
    let regs := fun d : Context => SameRegs s.me d ∧ d.pc = epcPc e ∧ d.rep = bits e.toNat 63 60
    (s.me.tlevel = 1 ∨ s.me.tlevel = 2 → s.me.snapv = true → s.me.l2snap = false →
      (bitOf e.toNat 54 = true → s.me.snap.nest.active = true ∧ bits e.toNat 59 55 ≤ s.me.snap.nest.body) →
      ∃ t, exec .eret s = .next t ∧ Elsewhere s t ∧ regs t.me
        ∧ t.me.tlevel = s.me.tlevel - 1 ∧ t.me.mask = false ∧ t.me.snapv = false ∧ t.me.held = s.me.snap.held
        ∧ t.me.fmt = s.me.snap.fmtCur ∧ t.me.fmtPend = s.me.snap.fmtPend
        ∧ t.me.st = (if s.me.tlevel = 2 then .trap1 else .running)
        ∧ t.me.nest.active = bitOf e.toNat 54 ∧ (bitOf e.toNat 54 = true → t.me.nest.pos = bits e.toNat 59 55))
    ∧ (s.me.tlevel = 2 → s.me.snapv = true → s.me.l2snap = true →
      ∃ t, exec .eret s = .next t ∧ Elsewhere s t ∧ regs t.me
        ∧ t.me.tlevel = 1 ∧ t.me.mask = s.me.mask ∧ t.me.snapv = true ∧ t.me.snap = s.me.snap ∧ t.me.l2snap = false
        ∧ t.me.st = .trap1)
    ∧ (s.me.tlevel = 0 → Raises s .eret (illegal 0 0x52 0))
    ∧ (s.me.tlevel ≠ 0 → s.me.snapv = false → Raises s .eret (illegal 0 0x53 0)))

/-- R275, R276, R328: `YIELD` passes the width on when another context of the core can issue, and else does nothing; `SLEEPU`
sleeps to a time to come and completes at once for one that has passed; `WAITFE` issues when its register is full; `HALTB`
ends its block: the context waits, reason 5, for its engine work. -/
def Obligations.Idling : Prop :=
  ∀ s : State, Quiet s →
    (otherReady s s.cur = false → Writes s .yield s.me.held (fun c => c))
    ∧ (otherReady s s.cur = true → ∃ t, exec .yield s = .next t ∧ Elsewhere s t
        ∧ t.me = closing s s.me.held { s.me.begin with st := if s.me.st = .running then .ready else s.me.st }
        ∧ (t.core (s.cur / 4)).holder ≠ some (s.cur % 4))
    ∧ (∀ x : ArgA, Ready s [srcS x.src1 x.b1] →
        let n := (s.me.rS x.src1).toNat
        (n ≤ s.cyc.toNat → Writes s (.sleepu x) s.me.held (fun c => c))
        ∧ (s.cyc.toNat < n → ∃ t, exec (.sleepu x) s = .next t ∧ Elsewhere s t
          ∧ t.me = closing s s.me.held { s.me.begin with st := .sleeping, sleepTo := n }
          ∧ (t.core (s.cur / 4)).holder ≠ some (s.cur % 4)))
    ∧ (∀ x : ArgA, Ready s [{ file := x.mod, reg := x.src1, trap := x.b1 }] →
        (x.src1.val < fileSize x.mod → Writes s (.waitfe x) s.me.held (fun c => c))
        ∧ (fileSize x.mod ≤ x.src1.val → Raises s (.waitfe x) (illegal 0 0x50 0)))
    ∧ (∃ t, exec .haltb s = .next t ∧ Elsewhere s t ∧ t.me.st = .blocked ∧ t.me.reason = 5 ∧ t.me.after = .haltb
        ∧ SameRegs s.me t.me)

/-- R214 to R217: a fence with every covered write performed completes at once, and otherwise the context waits, reason 6,
with its bundle issued. Losses counted on the context raise trap 0x51 as the fence ends. -/
def Obligations.Fences : Prop :=
  ∀ (s : State) (x : ArgA), Quiet s →
    let n := closing s s.me.held s.me.begin
    (fenceDone (beginIssue s) s.cur x.mod s.num = true → s.me.loss = 0 → Writes s (.fence x) s.me.held (fun c => c))
    ∧ (fenceDone (beginIssue s) s.cur x.mod s.num = true → 0 < s.me.loss → s.me.tlevel = 0 → s.me.pend = [] →
      ∃ t, exec (.fence x) s = .next t ∧ Elsewhere s t ∧ t.me.loss = 0 ∧ Trapped n t.me 0x51 n.point 0 (lossInfo s.me))
    ∧ (fenceDone (beginIssue s) s.cur x.mod s.num = false →
      ∃ t, exec (.fence x) s = .next t ∧ Elsewhere s t ∧ t.me.st = .blocked ∧ t.me.reason = 6
        ∧ t.me.after = .fence x.mod.val s.num ∧ SameRegs s.me t.me ∧ t.me.pc = n.pc ∧ t.me.rep = n.rep)

/-- R273, R274: at level 1, `SNAPST` issues and its context is BLOCKED, reason 12, until the 512 bytes of the snapshot copy are
written to its save area, with no other byte changed; `SNAPLD` makes a valid image the copy, sets the mask and blocks for reason 12 in
the same way, and `SNAPREL` gives the copy up and clears the mask. At another level
each is trap 0x02, REASON 0x52. -/
def Obligations.Snapshots : Prop :=
  (∀ (s : State) (x : ArgA), Quiet s → Ready s [srcS x.src1 x.b1] →
    let a := (s.me.rS x.src1).toNat
    let pa := 2 ^ 39 + s.cur / 4 * 2 ^ 20 + a
    let image := imageWords (rdBytes s pa 512)
    (s.me.tlevel = 1 →
      (a % 64 = 0 → a + 512 ≤ 2 ^ 20 →
        (s.me.snapv = true → s.me.pend = [] →
          ∃ t, exec (.snapst x) s = .next t ∧ Elsewhere s t
            ∧ t.me = { closing s s.me.held s.me.begin with
                st := .blocked, reason := 12, after := .snapst (s.me.rS x.src1), blockedAt := s.cyc.toNat + 1 })
        ∧ (s.me.snapv = false → areaEcc s s.cur (s.me.rS x.src1) = false →
          (imageOk s.cur image = true →
            ∃ t, exec (.snapld x) s = .next t ∧ Elsewhere s t
              ∧ t.me = { closing s s.me.held s.me.begin with
                  snap := imageSnap image, snapv := true, mask := true, st := .blocked, reason := 12, after := .snapld,
                  blockedAt := s.cyc.toNat + 1 })
          ∧ (imageOk s.cur image = false → Raises s (.snapld x) (illegal 0 0x51 0))))
      ∧ (a % 64 ≠ 0 → s.me.snapv = true → Raises s (.snapst x) (illegal 0 0x55 0))
      ∧ (s.me.snapv = true → s.me.mask = true →
          Writes s .snaprel s.me.held (fun c => { c with mask := false, snapv := false }))
      ∧ (s.me.snapv = true → s.me.mask = false → Raises s .snaprel (illegal 0 0x58 0)))
    ∧ (s.me.tlevel ≠ 1 →
      Raises s (.snapst x) (illegal 0 0x52 0) ∧ Raises s (.snapld x) (illegal 0 0x52 0) ∧ Raises s .snaprel (illegal 0 0x52 0)))
  ∧ ∀ (s : State) (n : Nat), n < residents → (s.ctx n).st = .blocked → relocking s (n / 4) = false → (s.ctx n).owed = none →
    let c := s.ctx n
    let awake : Context := { c with st := readyState c.tlevel, reason := 0, after := .none }
    (∀ a : Word64, c.after = .snapst a → a.toNat < 2 ^ 20 →
      let pa := 2 ^ 39 + n / 4 * 2 ^ 20 + a.toNat
      Happens s (.reasonCleared n) (fun t => t.ctx n = awake ∧ rdBytes t pa 512 = c.snap.bytes
        ∧ (∀ b, b < pa ∨ pa + 512 ≤ b → t.byte b = s.byte b) ∧ ∀ m, m ≠ n → t.ctx m = s.ctx m))
    ∧ (c.after = .snapld → Becomes s (.reasonCleared n) n awake)

/-- R235 to R241: a probe with no writeback pending passes, waits (reason 7) for a segment in ZEROING, or raises what it finds;
with one pending it waits. `PGALLOC` of a present page gives 0; of an absent page it takes one from the pool, zeroed, writes
its map entry and gives 1, or is trap 0x42, KIND 0x20, when the pool is empty; an address that is no demand-zero page is trap 0x02. -/
def Obligations.PageOps : Prop :=
  ∀ (s : State) (x : ArgA), Quiet s → Ready s [srcS x.src1 x.b1] →
    (Ready s [srcS x.src2 x.b2] →
      let found := fun need wr opc => probe s s.cur need wr opc (s.me.rS x.src1) (s.me.rS x.src2).toNat
      (s.me.pend = [] →
        (found (rprobeNeed x.mod) false 0x12 = .pass → Writes s (.rprobe x) s.me.held (fun c => c))
        ∧ (found (wprobeNeed x.mod) true 0x13 = .pass → Writes s (.wprobe x) s.me.held (fun c => c))
        ∧ (found (rprobeNeed x.mod) false 0x12 = .wait → Waits s (.rprobe x) 7 id)
        ∧ (found (wprobeNeed x.mod) true 0x13 = .wait → Waits s (.wprobe x) 7 id)
        ∧ (∀ c v e, found (rprobeNeed x.mod) false 0x12 = .trap c v e → Raises s (.rprobe x) (Exc.mk' c v e))
        ∧ (∀ c v e, found (wprobeNeed x.mod) true 0x13 = .trap c v e → Raises s (.wprobe x) (Exc.mk' c v e)))
      ∧ (s.me.pend ≠ [] → Waits s (.rprobe x) 7 id ∧ Waits s (.wprobe x) 7 id))
    ∧ (∀ seg page, pgTarget s s.cur (s.me.rS x.src1) = .page seg page true → s.me.grant = .none →
        Writes s (.pgalloc x) s.me.held (fun c => c.wS x.dst 0))
    ∧ (∀ seg page, pgTarget s s.cur (s.me.rS x.src1) = .page seg page false → s.me.grant = .none → hostPage x s = false →
        filling s (s.jobOf s.cur) seg page = false →
        (∀ pa rest, s.dzPool = pa :: rest →
          let m := mapAddr (s.seg (s.jobOf s.cur) seg) page
          ∃ t, exec (.pgalloc x) s = .next t ∧ t.dzPool = rest ∧ t.me = closing s s.me.held (s.me.begin.wS x.dst 1)
            ∧ rd t m 8 = (pa / 2 ^ 21 * 2 ^ 21 + 1) % 2 ^ 64
            ∧ ∀ a, a < m ∨ m + 8 ≤ a → t.byte a = if pa ≤ a ∧ a < pa + 2 ^ 21 then 0 else s.byte a)
        ∧ (s.dzPool = [] → Raises s (.pgalloc x) (poolExc s (s.jobOf s.cur) seg page 0x20)))
    ∧ (∀ r, pgTarget s s.cur (s.me.rS x.src1) = .bad r → Raises s (.pgalloc x) (illegal 0 r 0))

/-- R330 to R332, R335: a child launch takes an entry of the launch's reservation, which then waits with its packet, and gives
the handle, full at once; with no entry left it is trap 0x50, or for `LAUNCHT` a false predicate and a handle of 0. `KJOIN`
gives the status of a settled child, 0xFF for a handle that names none, and waits, reason 10, for one that runs. -/
def Obligations.ChildLaunches : Prop :=
  ∀ s : State, Quiet s →
    (∀ (i : Instr) (dst : Fin 64) (a : Word64) (p : Packet) (pd : Option (Fin 8)),
      (∃ x : ArgK, Ready s [srcA x.abase x.b] ∧ a = s.me.rA x.abase ∧ dst = x.dst ∧ (p.type = 1 ∨ p.type = 3)
        ∧ (i = .launch x ∧ pd = none ∨ i = .launcht x ∧ pd = some x.pd))
      ∨ (∃ x : ArgA, Ready s [srcS x.src1 x.b1] ∧ a = s.me.rS x.src1 ∧ dst = x.dst ∧ p.type = 2 ∧ i = .relaunch x ∧ pd = none) →
      a.toNat % 64 = 0 → a.toNat + 256 ≤ 2 ^ 20 → p = packetOf (rdBytes s (2 ^ 39 + s.cur / 4 * 2 ^ 20 + a.toNat) 256) →
      p.flags = 0 → p.nwait ≤ 2 → p.zeros = true →
      (∀ k l, s.me.launch = some k → s.launchOf k = some l → l.left ≠ [] →
        ∃ t e, exec i s = .next t ∧ e ∈ l.left ∧ t.mem = s.mem
          ∧ t.me = closing s s.me.held (match pd with
              | some r => (s.me.begin.wSnow dst (n64 (((s.entry e).ser + 1).toNat * 2 ^ 16 + e))).wP r true
              | none => s.me.begin.wSnow dst (n64 (((s.entry e).ser + 1).toNat * 2 ^ 16 + e)))
          ∧ t.entry e = { ser := (s.entry e).ser + 1, st := .waiting p k l.prio s.num l.job l.part l.queue l.index }
          ∧ (∀ f, f ≠ e → t.entry f = s.entry f)
          ∧ (t.launchOf k).map (·.left) = some (l.left.filter (fun f => f != e)))
      ∧ (myEntries s = [] → match pd with
          | some r => Writes s i s.me.held (fun c => (c.wSnow dst 0).wP r false)
          | none => ∃ n, Raises s i (Exc.mk' 0x50 a n)))
    ∧ (∀ x : ArgA, Ready s [srcS x.src1 x.b1] →
      let h := s.me.rS x.src1
      (bits h.toNat 63 32 = 0 → bits h.toNat 15 10 = 0 →
        (∀ v, joinOf s h = .settled v → Writes s (.kjoin x) s.me.held (fun c => c.wS x.dst v))
        ∧ (joinOf s h = .stale → Writes s (.kjoin x) s.me.held (fun c => c.wS x.dst 0xFF))
        ∧ (joinOf s h = .going → Waits s (.kjoin x) 10 id))
      ∧ (bits h.toNat 63 32 ≠ 0 ∨ bits h.toNat 15 10 ≠ 0 → Raises s (.kjoin x) (illegal 0 0x72 0)))

/-! ### V-slot ops (R140 to R168) -/

/-- R142, R144, R151, R165: the element-wise arithmetic, its sources full, combines its lanes in increasing order, each rounded
in the mode in effect; the fused forms add to their destination's lanes, and only floating lanes of the rounding forms draw. -/
def Obligations.VectorArithmetic : Prop :=
  ∀ (s : State) (x : ArgV), Quiet s →
    let each := fun i f => VectorResult s i x (vEach x f)
    (Ready s (laneSrcs x (twoSrcs x) false) →
      each (.vadd x) (vArith x (fun t v p q _ d => t.fadd v p q d) (fun p q _ => p + q))
      ∧ each (.vsub x) (vArith x (fun t v p q _ d => t.fsub v p q d) (fun p q _ => p - q))
      ∧ each (.vmul x) (vArith x (fun t v p q _ d => t.fmul v p q d) (fun p q _ => p * q))
      ∧ each (.vmin x) (vMinMax x false) ∧ each (.vmax x) (vMinMax x true))
    ∧ (Ready s (laneSrcs x (twoSrcs x) true) →
      each (.vfma x) (vArith x (fun t v => t.ffma v false) (fun p q r => r + p * q))
      ∧ each (.vfms x) (vArith x (fun t v => t.ffma v true) (fun p q r => r - p * q)))
    ∧ (Ready s (laneSrcs x [srcV x.src1 x.b1] false) →
      each (.vabs x) (vSign x false) ∧ each (.vneg x) (vSign x true)
      ∧ each (.vrcp x) (vFn x true rcpFn) ∧ each (.vrsq x) (vFn x true rsqFn)
      ∧ each (.vexp2 x) (vFn x false (fun t v p _ => exp2Fn t v p))
      ∧ each (.vlog2 x) (vFn x false (fun t v p _ => log2Fn t v p))
      ∧ each (.vtanh x) (vFn x false (fun t v p _ => tanhFn t v p)))

/-- R152, R154, R155: the lane ops without flags. A permutation or a slide from outside the register gives zero. R87, R142: of an element-wise op, a lane that the mask selects is its function of the lane's number and of a seed that has
stepped once for each selected lane up to it when the op draws under SR, and not at all else; another lane is zero with Z and
keeps its value without; the flags of the selected lanes gather. -/
def Obligations.LaneOps : Prop :=
  (∀ (s : State) (x : ArgV), Quiet s →
    let w := vW x
    let p := vX x s.me
    let q := vY x s.me
    let n := fun k => q k % 64 % w
    (Ready s (laneSrcs x (twoSrcs x) false) →
      LaneResult s (.vand x) x (fun k => p k &&& q k) ∧ LaneResult s (.vor x) x (fun k => p k ||| q k)
      ∧ LaneResult s (.vxor x) x (fun k => p k ^^^ q k)
      ∧ LaneResult s (.vshl x) x (fun k => p k * 2 ^ n k % 2 ^ w) ∧ LaneResult s (.vshr x) x (fun k => p k / 2 ^ n k)
      ∧ LaneResult s (.vsra x) x (fun k => bitsInt (sx w (p k) / ((2 ^ n k : Nat) : Int)) w))
    ∧ (Ready s (laneSrcs x [srcV x.src1 x.b1] false) →
      LaneResult s (.vnot x) x (fun k => 2 ^ w - 1 - p k) ∧ LaneResult s (.vmov x) x p
      ∧ LaneResult s (.vpopc x) x (fun k => popcount w (p k)) ∧ LaneResult s (.vclz x) x (fun k => clz w (p k)))
    ∧ (Ready s (laneSrcs x [srcS x.src1 x.b1] false) →
      LaneResult s (.vmovs x) x (fun _ => (s.me.rS x.src1).toNat % 2 ^ w))
    ∧ (Ready s (laneSrcs x [srcV x.src1 x.b1, srcV x.src2 x.b2] false) →
      LaneResult s (.vperm x) x (fun k => if q k < vN x then p (q k) else 0))
    ∧ (Ready s (laneSrcs x [srcV x.src1 x.b1, srcS x.src2 x.b2] false) →
      LaneResult s (.vslide x) x (fun k => let j := (k : Int) - (s.me.rS x.src2).toInt
        if 0 ≤ j ∧ j < vN x then p j.toNat else 0))
    ∧ (Ready s (laneSrcs x [srcS x.src1 x.b1, srcS x.src2 x.b2] false) →
      LaneResult s (.viota x) x (fun k => ((s.me.rS x.src1).toNat + k * (s.me.rS x.src2).toNat) % 2 ^ w)))
  ∧ (∀ (x : ArgV) (c : Context) (a : Draw) (draws : Bool) (rnd : Nat) (g : Nat → Nat → Nat × FlagSet),
    let on := fun k => (vMask x c).getLsbD k
    let seed := fun k => Nat.repeat lfsr (if draws && rnd == 4 then ((List.range (k + 1)).filter on).length else 0) a.seed
    let r := vEach x (fun _ i a => a.run draws rnd (g i)) c a
    (∀ k < vN x, lane (vW x) k (BitVec.ofNat 2048 r.1) =
      if on k then (g k (seed k).toNat).1 % 2 ^ vW x else if vZ x then 0 else vD x c k)
    ∧ r.2.fl = ((List.range (vN x)).filter on).foldl (fun f k => f ||| (g k (seed k).toNat).2) a.fl
    ∧ r.2.seed = seed (vN x - 1))

/-- R153 to R155, R167, R168: compares and the ops on masks, selects, moves between lanes and scalars, and compression. -/
def Obligations.MasksAndLanes : Prop :=
  ∀ (s : State) (x : ArgV), Quiet s →
    let b := s.me
    (Ready s (twoSrcs x ++ [srcVM (vMaskReg x) x.b1] ++ if keeps x then [srcVM x.dst false] else []) →
      ∃ m : VMask, Writes s (.vcmp x) (heldV s x.hold (.vcmp x)) (fun c => (c.wVM x.dst m).raiseFl
          (((List.range (vN x)).filter (fun k => (vMask x b).getLsbD k)).foldl (fun f k => f ||| (vCond x b k).2) 0))
        ∧ ∀ k < 256, m.getLsbD k = (decide (k < vN x) && if (vMask x b).getLsbD k then (vCond x b k).1
            else (!vZ x && (b.rVM x.dst).getLsbD k)))
    ∧ (Ready s (laneSrcs x [srcV x.src1 x.b1, srcV x.src2 x.b2] false) →
      ∃ r : VReg, Writes s (.vsel x) (heldV s x.hold (.vsel x)) (fun c => c.wV x.dst r)
        ∧ ∀ k < vN x, lane (vW x) k r = if (vMask x b).getLsbD k then vX x b k else vY x b k)
    ∧ (Ready s [srcV x.src1 x.b1, srcS x.src2 x.b2] →
      Writes s (.vextr x) (heldV s x.hold (.vextr x)) (fun c => c.wS x.dst
        (if (b.rS x.src2).toNat < vN x then extLane (tyOf (vTyc x)) (vX x b (b.rS x.src2).toNat) else 0)))
    ∧ (Ready s [srcS x.src1 x.b1, srcS x.src2 x.b2, srcV x.dst false] →
      ∃ r : VReg, Writes s (.vins x) (heldV s x.hold (.vins x)) (fun c => c.wV x.dst r)
        ∧ ∀ k < vN x, lane (vW x) k r = if k = (b.rS x.src2).toNat then (b.rS x.src1).toNat % 2 ^ vW x
            else lane (vW x) k (b.rV x.dst))
    ∧ (Ready s (laneSrcs x [srcV x.src1 x.b1] false) →
      ∃ r : VReg, Writes s (.vcompr x) (heldV s x.hold (.vcompr x)) (fun c => c.wV x.dst r)
        ∧ ∀ k < vN x, lane (vW x) k r = (((vLive x b).map (vX x b)).getD k 0))
    ∧ ((x.mod = 0 → Ready s [srcS x.src1 x.b1] →
        ∃ m : VMask, Writes s (.vmset x) (heldV s x.hold (.vmset x)) (fun c => c.wVM x.dst m)
          ∧ ∀ k < 256, m.getLsbD k = decide (k < (b.rS x.src1).toNat))
      ∧ (x.mod = 1 → Ready s [srcS x.src1 x.b1, srcS x.src2 x.b2] →
        ∃ m : VMask, Writes s (.vmset x) (heldV s x.hold (.vmset x)) (fun c => c.wVM x.dst m)
          ∧ ∀ k < 256, m.getLsbD k = (decide ((b.rS x.src1).toNat ≤ k) && decide (k < (b.rS x.src2).toNat)))
      ∧ (x.mod = 2 → Ready s [srcS x.src1 x.b1, srcS x.src2 x.b2, srcVM x.dst false] →
        ∃ m : VMask, Writes s (.vmset x) (heldV s x.hold (.vmset x)) (fun c => c.wVM x.dst m)
          ∧ ∀ k < 256, m.getLsbD k = if k / 64 = (b.rS x.src2).toNat % 4 then (b.rS x.src1).getLsbD (k % 64)
              else (b.rVM x.dst).getLsbD k))
    ∧ ((x.mod.val < 4 → Ready s [srcVM x.src1 x.b1, srcVM x.src2 x.b2] →
        Writes s (.vmops x) (heldV s x.hold (.vmops x)) (fun c => c.wVM x.dst (vmopsMask x b)))
      ∧ (x.mod = 4 → Ready s [srcVM x.src1 x.b1] →
        Writes s (.vmops x) (heldV s x.hold (.vmops x)) (fun c => c.wVM x.dst (~~~ b.rVM x.src1)))
      ∧ (5 ≤ x.mod.val → Ready s [srcVM x.src1 x.b1] →
        Writes s (.vmops x) (heldV s x.hold (.vmops x)) (fun c => c.wS x.dst (vmopsRead x b))))

/-- R149, R156 to R160: conversions and block quantisation. A PART beyond the width ratio, a misaligned register group and a
scale mode outside 1 and 2 are trap 0x02. -/
def Obligations.Conversions : Prop :=
  ∀ (s : State) (x : ArgV), Quiet s →
    let ratio := max (laneBits (vOty x)) (vW x) / min (laneBits (vOty x)) (vW x)
    (vPart x < ratio → Ready s (laneSrcs x [srcV x.src1 x.b1] (cvtNarrows x || (vPk x && subByte (vTyc x)))) →
      VectorResult s (.vcvt x) x (cvtVal x))
    ∧ (ratio ≤ vPart x → Raises s (.vcvt x) (illegal 4 0x21 0))
    ∧ (let g := groupRegs (vOty x)
      let ssm := bits s.me.fmtNow.toNat 23 22
      (x.src1.val % g = 0 → x.src1.val + g ≤ 32 → x.dst.val % 2 = 0 → x.dst.val + 2 ≤ 32 →
        Ready s ((List.range g).map (fun i => srcV (x.src1 + i) x.b1)) →
        (ssm = 1 ∨ ssm = 2 →
          Writes s (.vquant x) (heldV s x.hold (.vquant x)) (fun c =>
            let r := quantVal x s.me.begin c.draw
            ((c.wV x.dst (BitVec.ofNat 2048 r.1)).wV (x.dst + 1) (BitVec.ofNat 2048 r.2.1)).drawn r.2.2))
        ∧ (ssm = 0 ∨ ssm = 3 → Raises s (.vquant x) (illegal 4 0x22 0)))
      ∧ (x.src1.val % g ≠ 0 ∨ x.dst.val % 2 ≠ 0 → Raises s (.vquant x) (illegal 4 0x20 0)))
    ∧ (x.src1.val % 2 ≠ 0 ∨ x.dst.val % groupRegs (vTyc x) ≠ 0 → Raises s (.vdeq x) (illegal 4 0x20 0))
    ∧ (Ready s [srcV x.src1 x.b1, srcV (x.src1 + 1) x.b1] →
      let g := groupRegs (vTyc x)
      (x.src1.val % 2 = 0 → x.src1.val + 2 ≤ 32 → x.dst.val % g = 0 → x.dst.val + g ≤ 32 →
        (bitOf (vExt x) 14 = true → ownMcbld s = false) →
        Writes s (.vdeq x) (heldV s x.hold (.vdeq x)) (fun c =>
          let bad := (s.eccCb.filter (fun q => q.1 == s.cur / 4)).map (·.2)
          let r := deqVals x (s.core (s.cur / 4)).codebook bad s.me.begin c.draw
          let v := packLanes (vW x) r.1
          ((List.range g).foldl (fun c k => c.wV (x.dst + k) (BitVec.ofNat 2048 (v / 2 ^ (2048 * k)))) c).drawn r.2))
      ∧ (x.src1.val % 2 = 0 → x.src1.val + 2 ≤ 32 → x.dst.val % g = 0 → x.dst.val + g ≤ 32 →
        bitOf (vExt x) 14 = true → ownMcbld s = true → Waits s (.vdeq x) 5 id))

/-- R97 to R99, R161 to R164: dot products, reductions and scans. -/
def Obligations.Reductions : Prop :=
  ∀ (s : State) (x : ArgV), Quiet s →
    let old := fun b n => if b then (List.range n).map (fun i => srcS (x.dst + i) false) else []
    (Ready s ([srcV x.src1 x.b1, srcV x.src2 x.b2, srcVM (vMaskReg x) x.b1] ++ old (dotAcc x || keeps x) 1) →
      LaneScalar s (.vdot x) x (fun c a => match tyOf (vTyc x) with
        | .fl t => let r := a.run true (vRnd x c.fmt) (dotFloat t x c)
          (n64 r.1, r.2)
        | .it t => ((dotInt t x c).1, { a with fl := a.fl ||| (dotInt t x c).2 })))
    ∧ (Ready s ([srcV x.src1 x.b1, srcVM (vMaskReg x) x.b1] ++ old (keeps x) 1) →
      LaneScalar s (.vrsum x) x (rsumVal x) ∧ LaneScalar s (.vrmax x) x (rmmVal x true)
      ∧ LaneScalar s (.vrmin x) x (rmmVal x false))
    ∧ (Ready s ([srcV x.src1 x.b1, srcVM (vMaskReg x) x.b1] ++ old (keeps x) 2) →
      (x.dst.val % 2 = 0 →
        let pair := fun i mx => Writes s i (heldV s x.hold i) (fun c =>
          let r := idxVal x mx s.me.begin c.draw
          ((c.wS x.dst r.1.1).wS (x.dst + 1) r.1.2).drawn r.2)
        pair (.vrmaxi x) true ∧ pair (.vrmini x) false)
      ∧ (x.dst.val % 2 = 1 → Raises s (.vrmaxi x) (illegal 4 0x20 0) ∧ Raises s (.vrmini x) (illegal 4 0x20 0)))
    ∧ (Ready s (laneSrcs x [srcV x.src1 x.b1] false) →
      VectorResult s (.vscan x) x (fun c a =>
        let r := scanVals x c (List.range (vN x)) (scanId x) a
        (packLanes (vW x) r.1, r.2)))

/-! ### M-slot ops (R169 to R199) -/

/-- R179, R180, R191 to R197: an M op whose checks pass, with room in the queue, queues its operation and gives its token. An
`MMA` fixes the mode of the tile its launch owns; `ACCRD` and `ACCWR` take their draws of `SEED` at issue. R172, R179, R193, R196, R198, R199: where an M op traps or waits, and the ops on tokens. A format pair that R172 does not
accept, a base that is not a multiple of 64 bytes and a rectangle beyond its tile are trap 0x02; a full queue is a wait of
reason 2. `MWAIT` waits, reason 5, for its token, and `MDRAIN` for all of them; `MSTAT` reads a counter. -/
def Obligations.MatrixIssue : Prop :=
  (∀ (s : State) (x : ArgMX), Quiet s → (s.core (s.cur / 4)).mq.length < 16 → (s.core (s.cur / 4)).savedOps = [] →
    let c := s.me
    let same := fun c : Context => c
    let queues := fun i F P => Enqueues s i (heldM s false i) x.sreg F P
    let repeats := fun i P => Enqueues s i (heldM s x.hold i) x.sreg same P
    let product := fun k (t : State) (e : MEntry) =>
      e.opc = k ∧ e.tile = x.acc ∧ e.pa = (c.rA x.aa).toNat ∧ e.pb = c.rA x.ab ∧ e.waves = wavesOf x ∧ e.int = int8Mode c.fmtNow
      ∧ (e.owned = true → (t.tile (s.cur / 4) x.acc).imode = e.int)
    let draws := fun n (c : Context) =>
      { c with seed := stepSeed (if (FEnv.ofFmt s.me.fmtNow).rnd == 4 then n else 0) c.seed }
    let q := rectOf x
    let rect := fun k (e : MEntry) => e.opc = k ∧ e.tile = x.acc ∧ e.pa = (c.rA x.aa).toNat ∧ e.pb = c.rA x.ab
      ∧ e.row0 = q.1 ∧ e.nr = q.2.1 ∧ e.col0 = q.2.2.1 ∧ e.nc = q.2.2.2
    (Ready s [srcA x.aa x.b, srcA x.ab x.b] →
      (mmaChk x 0 s = none → repeats (.mma x) (product 0))
      ∧ (mmaChk x 1 s = none → repeats (.mmaz x) (product 1))
      ∧ (rectChk x true s = none →
          queues (.accwr x) (draws (if x.opt = 1 then 0 else (q.2.1 + 1) * (q.2.2.2 + 1)))
            (fun _ e => rect 5 e ∧ e.int = decide (x.opt = 1)))
      ∧ (Ready s [srcAcc x.acc x.b] → rectChk x false s = none →
          ∃ n, queues (.accrd x) (draws n) (fun _ e => rect 4 e
            ∧ e.int = (e.owned && (s.tile (s.cur / 4) x.acc).imode)
            ∧ n = if e.int = true ∧ 8 ≤ ofmtOf c.fmtNow then 0 else (q.2.1 + 1) * (q.2.2.2 + 1)))
      ∧ (Ready s [srcA (x.aa + 1) x.b, srcA (x.ab + 1) x.b] → mmaChk x 2 s = none →
          repeats (.mmas x) (fun t e => product 2 t e
            ∧ e.sa = (c.rA (x.aa + 1)).toNat ∧ e.sb = (c.rA (x.ab + 1)).toNat)))
    ∧ (Ready s [srcA x.aa x.b] → (c.rA x.aa).toNat % 64 = 0 → (c.rA x.aa).toNat + 1024 ≤ 2 ^ 20 →
        queues (.mcbld x) same (fun _ e => e.opc = 3 ∧ e.pa = (c.rA x.aa).toNat))
    ∧ queues (.accz x) same (fun _ e => e.opc = 6 ∧ e.tile = x.acc ∧ e.int = decide (x.opt = 1)))
  ∧ (∀ (s : State) (x : ArgMX), Quiet s →
    let c := s.me
    let q := rectOf x
    (Ready s [srcA x.aa x.b, srcA x.ab x.b] →
      (pairLen c.fmtNow = 0 →
        Raises s (.mma x) (illegal 5 0x30 0) ∧ Raises s (.mmaz x) (illegal 5 0x30 0)
        ∧ (Ready s [srcA (x.aa + 1) x.b, srcA (x.ab + 1) x.b] → Raises s (.mmas x) (illegal 5 0x30 0)))
      ∧ (63 < q.1 + q.2.1 ∨ 63 < q.2.2.1 + q.2.2.2 →
        Raises s (.accwr x) (illegal 5 0x34 0)
        ∧ (Ready s [srcAcc x.acc x.b] → Raises s (.accrd x) (illegal 5 0x34 0))))
    ∧ (Ready s [srcA x.aa x.b] → (c.rA x.aa).toNat % 64 ≠ 0 → Raises s (.mcbld x) (illegal 5 0x33 0))
    ∧ (16 ≤ (s.core (s.cur / 4)).mq.length →
        Waits s (.accz x) 2 id
        ∧ (Ready s [srcA x.aa x.b, srcA x.ab x.b] → mmaChk x 0 s = none → Waits s (.mma x) 2 id))
    ∧ (Ready s [srcS x.sreg x.b] →
      (tokenDone c ((c.rS x.sreg).toNat % 256) = true → Writes s (.mwait x) (heldM s false (.mwait x)) (fun c => c))
      ∧ (tokenDone c ((c.rS x.sreg).toNat % 256) = false → Waits s (.mwait x) 5 id))
    ∧ (c.out = 0 → Writes s (.mdrain x) (heldM s false (.mdrain x)) (fun c => c))
    ∧ (c.out ≠ 0 → Waits s (.mdrain x) 5 id)
    ∧ Writes s (.mstat x) (heldM s false (.mstat x)) (fun c => c.wS x.sreg (mstatVal s x.opt.toNat)))

/-! ### X-slot ops (R297 to R317, R372 to R377, R386 to R403) -/

/-- R303, R317: a copy or fill whose checks pass posts its expectation, joins the core's engine as a job, and its promise is
in its register at once; with the time buffer full it waits, reason 2. A descriptor that is not a multiple of 64 bytes is
trap 0x02. -/
def Obligations.Copies : Prop :=
  ∀ (s : State) (x : ArgX), Quiet s → Ready s (descSrcs x [srcS x.sarg x.b]) → oddDesc x = none →
    let g := s.cur / 4
    let b := boxAt x s
    let accepts := fun i k => Accepts s i (heldX s x.hold i) (expected s g b) (fun j c => c.wSnow x.sreg (n64 j.promise))
      (fun j => j.kind = k ∧ j.box = b ∧ j.inv = optInv x)
    let room := (s.core g).jobs.length < 128
    (copyChk x false s = none → room → accepts (.xcopy x) .copy)
    ∧ (copyChk x true s = none → room → accepts (.xfill x) .fill)
    ∧ (copyChk x false s = none → ¬room → Waits s (.xcopy x) 2 id)
    ∧ (copyChk x true s = none → ¬room → Waits s (.xfill x) 2 id)
    ∧ ((s.me.rA x.adesc).toNat % 64 ≠ 0 →
      Raises s (.xcopy x) (illegal 6 0x68 0) ∧ Raises s (.xfill x) (illegal 6 0x68 0))

/-- R364, R372 to R377: a remote write, a counter add and a copy to another chip join the engine as jobs; to a dead route
each is counted lost instead, and the copy's promise is the next cycle. -/
def Obligations.RemoteSends : Prop :=
  ∀ (s : State) (x : ArgX), Quiet s → s.me.st = .running →
    let g := s.cur / 4
    let a := s.me.rA x.adesc
    let b := boxAt (rcX x) s
    let room := (s.core g).jobs.length < 128
    let lose := fun k (c : Context) => { c with loss := min (c.loss + 1) (2 ^ 32 - 1), firstLost := if c.loss = 0 then k else c.firstLost }
    (Ready s [srcA x.adesc x.b, srcS x.sarg x.b, srcV x.sreg x.b] → xremwChk x s = none →
      (deadDest s a = false → room → Accepts s (.xremw x) (heldX s x.hold (.xremw x)) s.mem (fun _ c => c)
        (fun j => j.kind = .remw ∧ j.data = remData x s.me ∧ j.vc = optVc x ∧ j.conf = x.opt.getLsbD 3
          ∧ j.box.dst = if s.place (s.jobOf s.cur) a = .here then localPod a else a))
      ∧ (deadDest s a = true → s.me.launch.isSome = true → ∀ k, remoteOf s a = some k →
        Writes s (.xremw x) (heldX s x.hold (.xremw x)) (lose k)))
    ∧ (Ready s [srcA x.adesc x.b, srcS x.sarg x.b] →
      (xcaddChk x s = none →
        (deadDest s a = false → room → Accepts s (.xcadd x) (heldX s false (.xcadd x)) s.mem (fun _ c => c)
          (fun j => j.kind = .cadd ∧ j.data = leBytes 8 (s.me.rS x.sarg).toNat ∧ j.vc = optVc x
            ∧ j.box.dst = if s.place (s.jobOf s.cur) a = .here then localPod a else a))
        ∧ (deadDest s a = true → s.me.launch.isSome = true → ∀ k, remoteOf s a = some k →
          Writes s (.xcadd x) (heldX s false (.xcadd x)) (lose k)))
      ∧ (a.toNat % 8 = 0 → (s.me.rS x.sarg).toInt < 0 →
        Raises s (.xcadd x) (Exc.mk' 0x32 a (barInfo 0 6 (s.me.rS x.sarg).toNat))))
    ∧ (Ready s (descSrcs (rcX x) [srcS x.sarg x.b]) → oddDesc (rcX x) = none → xrcopyChk x s = none →
      let promise := fun (j : CopyJob) (c : Context) => c.wSnow x.sreg (n64 j.promise)
      (remoteOf s b.dst = none → room → Accepts s (.xrcopy x) (heldX s false (.xrcopy x)) (expected s g b) promise
        (fun j => j.kind = .copy ∧ j.box = localBox b))
      ∧ (∀ k, remoteOf s b.dst = some k → deadDest s b.dst = false → room →
        Accepts s (.xrcopy x) (heldX s false (.xrcopy x)) (expected s g b) promise
          (fun j => j.kind = .rcopy ∧ j.box = b ∧ j.vc = optVc x ∧ j.conf = sendsConf s x b))
      ∧ (∀ k, remoteOf s b.dst = some k → deadDest s b.dst = true → s.me.launch.isSome = true →
        Writes s (.xrcopy x) (heldX s false (.xrcopy x)) (fun c => (lose k c).wSnow x.sreg (n64 (s.cyc.toNat + 1)))))

/-- R313 to R315: a multicast to a group with members joins the engine, one to an empty group completes at once; `XMCAST.set`
gives the launch's group its members; `XCANCEL` withdraws the jobs that have not begun, takes back their expectations, and
counts them. -/
def Obligations.Multicasts : Prop :=
  ∀ (s : State) (x : ArgX), Quiet s →
    let g := s.cur / 4
    let grp := mcGroup x s.me
    let members := memberList (descBytes s { x with opt := 0 } 64)
    let out := (s.core g).jobs.filter (withdraws x s)
    let unpost := fun (e : State) (j : CopyJob) =>
      if j.kind ≠ .mcast ∧ j.box.bar ≠ 0 then barUpdate e (barAddr g j.box.bar) (-(j.box.bytes : Int)) 0 else e
    (Ready s (descSrcs x [srcS x.sarg x.b]) → oddDesc x = none → mcastChk x s = none → (s.core g).jobs.length < 128 →
      (mcMembers s grp ≠ [] → Accepts s (.xmcast x) (heldX s false (.xmcast x)) s.mem (fun j c => c.wSnow x.sreg (n64 j.promise))
        (fun j => j.kind = .mcast ∧ j.box = boxAt x s ∧ j.group = grp ∧ j.members = mcMembers s grp ∧ j.noexp = optNoexp x))
      ∧ (mcMembers s grp = [] →
        Writes s (.xmcast x) (heldX s false (.xmcast x)) (fun c => c.wSnow x.sreg (n64 (s.cyc.toNat + 1)))))
    ∧ (Ready s [srcA x.adesc x.b, srcS x.sarg x.b] → mcsetChk x s = none →
      ∀ k l, s.me.launch = some k → s.launchOf k = some l →
        Results s (.xmcastSet x) (heldX s false (.xmcastSet x)) s.mem (fun c => c) (fun t =>
          ∃ l', t.launchOf k = some l' ∧ Sparse.get [] l'.mc grp = members
            ∧ ∀ n, n ≠ grp → Sparse.get [] l'.mc n = Sparse.get [] l.mc n))
    ∧ (Ready s [srcS x.sarg x.b] →
      (x.opt = 1 → Results s (.xcancel x) (heldX s false (.xcancel x)) (out.foldl unpost s).mem
        (fun c => c.wS x.sreg (n64 out.length))
        (fun t => (t.core g).jobs = (s.core g).jobs.filter (fun j => !withdraws x s j)
          ∧ ∀ k, k ≠ g → (t.core k).jobs = (s.core k).jobs))
      ∧ (x.opt = 2 → Sparse.wf Core.cold s.cores = true → Results s (.xcancel x) (heldX s false (.xcancel x)) s.mem
        (fun c => c.wS x.sreg (n64 (s.cores.flatMap (fun k => k.2.jobs.filter (withdraws x s))).length))
        (fun t => ∀ k, (t.core k).jobs = (s.core k).jobs.filter (fun j => !withdraws x s j))))

/-- R307, R308, R311, R312, R317: `XSUB` opens a subscription in a free entry of its quay, writes the barriers of its slots and
gives the handle; `XSLOT` passes a slot on and counts the tile, and past the last tile is trap 0x02, as a stale handle is;
`XUNSUB` closes. -/
def Obligations.Rings : Prop :=
  ∀ (s : State) (x : ArgX), Quiet s →
    let h := s.me.rS x.sarg
    let others := fun (t : State) q i => ∀ p k, (p, k) ≠ (q, i) → t.sub p k = s.sub p k
    (Ready s (descSrcs x []) → oddDesc x = none → xsubChk x s = none → xsubWait x s = none →
      ∃ i y, let q := ringQuay s (s.jobOf s.cur) (ringAt x s)
        s.sub q i = none ∧ i < 64 ∧ y.ring = ringAt x s ∧ y.core = s.cur / 4 ∧ y.ctx = s.cur ∧ y.cursor = 0 ∧ y.next = 0
        ∧ y.closing = false
        ∧ Results s (.xsub x) (heldX s false (.xsub x)) ((ringBars (s.cur / 4) (ringAt x s)).foldl runBar s).mem
          (fun c => c.wS x.sreg (handleOf y.serial q i)) (fun t => t.sub q i = some y ∧ others t q i))
    ∧ (Ready s [srcS x.sarg x.b] →
      (∀ q i y, handleSub s h = some (q, i, y) →
        (y.cursor ≠ y.ring.tiles → Results s (.xslot x) (heldX s x.hold (.xslot x)) ((slotBars y).foldl runBar s).mem
          (fun c => c.wS x.sreg (n64 y.cursor)) (fun t => others t q i
            ∧ (t.sub q i).map (·.cursor) = some (y.cursor + 1) ∧ (t.sub q i).map (·.ring) = some y.ring))
        ∧ (y.cursor = y.ring.tiles → Raises s (.xslot x) (illegal 6 0x65 0))
        ∧ (Ready s [srcA x.adesc x.b] → ctrErr (s.me.rA x.adesc) = none → ctrReach s (s.me.rA x.adesc) = none →
          Results s (.xunsub x) (heldX s false (.xunsub x)) s.mem (fun c => c) (fun t => others t q i
            ∧ (t.sub q i).map (·.closing) = some true ∧ (t.sub q i).map (·.ctr) = some (s.me.rA x.adesc))))
      ∧ (handleSub s h = none → Raises s (.xslot x) (illegal 6 0x66 0)))

/-- R243, R245, R387, R402, R403: a migration request waits, reason 13, for the answer, and completes or traps by it; a
membership op and a collective append their record to the group queue of the core's engine, and give the version, or the
instance's number; with no room a collective waits, or with `.try` gives all ones. -/
def Obligations.GroupRecords : Prop :=
  ∀ (s : State) (x : ArgX), Quiet s →
    let k := myEngine s
    let j := s.jobOf s.cur
    let e := myGroup x s
    let a := s.me.rA x.adesc
    let version := fun c : Context => c.wS x.sreg (e.version.setWidth 64)
    let appends := fun (t : State) kind => ∃ r : GRec, (t.engine k).queue = (s.engine k).queue ++ [r]
      ∧ r.kind = kind ∧ r.job = j ∧ r.group = grpOf x s ∧ r.ctx = s.cur ∧ r.started = false
    (Ready s [srcA x.adesc x.b, srcA (x.adesc + 1) x.b, srcS x.sreg x.b, srcS x.sarg x.b] →
      (x.adesc.val % 2 = 1 → Raises s (.xmigr x) (illegal 6 0x43 0))
      ∧ (x.adesc.val % 2 = 0 →
        (s.me.mgrant = .done 0 → Writes s (.xmigr x) (heldX s false (.xmigr x)) (fun c => c))
        ∧ (∀ n, n ≠ 0 → s.me.mgrant = .done n → Raises s (.xmigr x) (illegal 6 n 0))
        ∧ (s.me.mgrant = .none → Waits s (.xmigr x) 13 (fun s => s.updMe (fun c => { c with mgrant := .asked 0 })))))
    ∧ (Ready s [srcA x.adesc x.b, srcS x.sarg x.b] → groupFull x s = false →
      ((xgjoinOp x).chk s = none → Results s (.xgjoin x) (heldX s false (.xgjoin x)) s.mem version (fun t =>
        appends t (.join a) ∧ (t.group j (grpOf x s)).joinp = e.joinp ++ [k]))
      ∧ ((xgagreeOp x).chk s = none → Results s (.xgagree x) (heldX s false (.xgagree x)) s.mem version (fun t =>
        appends t (.agree a (BitVec.ofNat 32 (bits (s.me.rS x.sarg).toNat 63 32))))))
    ∧ (Ready s [srcS x.sarg x.b] → (xgleaveOp x).chk s = none →
      Results s (.xgleave x) (heldX s false (.xgleave x)) s.mem version (fun t =>
        (t.group j (grpOf x s)).leavep = e.leavep ++ [k] ∧ ∀ n, t.engine n = s.engine n))
    ∧ (Ready s [srcA x.adesc x.b, srcS x.sarg x.b] → xcollChk x s = none →
      (collHeld x s = false →
        Results s (.xcoll x) (heldX s false (.xcoll x)) s.mem (fun c => c.wS x.sreg (n64 (instOf x s))) (fun t =>
          appends t (.coll (myColl x s) (instOf x s))
          ∧ Sparse.get 0 (t.engine k).count (pidKey j (grpOf x s) (myColl x s).pid) = instOf x s + 1))
      ∧ (collHeld x s = true → x.opt.getLsbD 0 = true →
        Writes s (.xcoll x) (heldX s false (.xcoll x))
          (fun c : Context => ({ c with trec := c.trec.map (fun t => { t with untrk := true }) } : Context).wS x.sreg (BitVec.allOnes 64)))
      ∧ (collHeld x s = true → x.opt.getLsbD 0 = false → Waits s (.xcoll x) 2 id))

/-! ### Contexts and bundles -/

/-- R36, R33: a writeback stores its value and makes its register full, unless a younger one of the same register is pending,
and then it is discarded; the hard-wired registers read as they do whatever is written. R33, R36, R37: `s0` reads 0, `p0` true and `vm0` all ones in every context, and a write to one of them does nothing; a
write of another register empties it and leaves what the registers hold as it is until the writeback. An op with an empty
source raises trap 0x20 where the source's bit says so, with `EINFO` as R37 lays it out, and waits, reason 1, where it does not:
either way it has none of its effect. -/
def Obligations.Writebacks : Prop :=
  (∀ (s : State) (n i : Nat) (p : Pending), n < residents → (s.ctx n).pend[i]? = some p →
    let c := s.ctx n
    let younger := (c.pend.drop (i + 1)).any (fun q => q.file == p.file && q.reg == p.reg)
    (younger = true → Becomes s (.writeback n i) n { c with pend := c.pend.take i ++ c.pend.drop (i + 1) })
    ∧ (younger = false → Happens s (.writeback n i) (fun t => Beside n s t ∧
        let d := t.ctx n
        d = { c with s := d.s, a := d.a, p := d.p, v := d.v, vm := d.vm, pend := d.pend }
        ∧ d.full p.file p.reg = true
        ∧ (∀ f r, ¬(f = p.file ∧ r = p.reg) → d.full f r = c.full f r)
        ∧ (∀ r, d.rS r = if p.file = .s ∧ r = p.reg ∧ r ≠ 0 then p.val.setWidth 64 else c.rS r)
        ∧ (∀ r, d.rA r = if p.file = .a ∧ r = p.reg then p.val.setWidth 64 else c.rA r)
        ∧ (∀ r, d.rP r = if p.file = .p ∧ r = p.reg ∧ r ≠ 0 then p.val.getLsbD 0 else c.rP r)
        ∧ (∀ r, d.rV r = if p.file = .v ∧ r = p.reg then p.val else c.rV r)
        ∧ (∀ r, d.rVM r = if p.file = .vm ∧ r = p.reg ∧ r ≠ 0 then p.val.setWidth 256 else c.rVM r))))
  ∧ ((∀ c : Context, c.rS 0 = 0 ∧ c.rP 0 = true ∧ c.rVM 0 = BitVec.allOnes 256
    ∧ c.full .s 0 = true ∧ c.full .p 0 = true ∧ c.full .vm 0 = true
    ∧ (∀ v, c.wS 0 v = c) ∧ (∀ v, c.wP 0 v = c) ∧ (∀ v, c.wVM 0 v = c)
    ∧ ∀ f r v, hardwired f r = false → (c.post f r v).full f r = false
      ∧ (c.post f r v).rS = c.rS ∧ (c.post f r v).rA = c.rA ∧ (c.post f r v).rP = c.rP ∧ (c.post f r v).rV = c.rV
      ∧ (c.post f r v).rVM = c.rVM)
  ∧ ∀ (s : State) (i : Instr) (o : Op) (l m : List Src) (e : Src), opOf 1 i = some o → o.early s = none →
      o.srcs = l ++ e :: m → Ready s l → srcFull s s.cur e = false →
      (e.trap = true → e.file ≠ 5 → Raises s i (Exc.mk' 0x20 0
        (n64 (min l.length 7 * 2 ^ 16 + o.slot * 2 ^ 12 + b2n o.held * 2 ^ 11 + e.file * 2 ^ 8 + e.reg))))
      ∧ (e.trap = false → Waits s i 1 (noteBlock [o] e.file e.reg)))

/-- R132, R248 to R251, R257, R265, R268, R275, R293, R328: a context that waits goes on when what it waits for has come; the
quantum passes the width on; the watchdog is fault 0x86; a pending trap is taken once the writebacks are done; a block
retires with its registers kept. -/
def Obligations.ContextEvents : Prop :=
  (∀ (s : State) (n : Nat), n < residents →
    let c := s.ctx n
    let awake : Context := { c with st := readyState c.tlevel, reason := 0 }
    (c.st = .blocked → c.after = .none → relocking s (n / 4) = false → reasonGone s n = true → Becomes s (.reasonCleared n) n awake)
    ∧ (c.st = .sleeping → c.sleepTo ≤ s.cyc.toNat → relocking s (n / 4) = false → c.owed = none →
      Becomes s (.sleepWake n) n awake)
    ∧ (c.st = .blocked → c.reason = 3 → relocking s (n / 4) = false → promisePassed s c = true → Becomes s (.promiseWake n) n awake)
    ∧ (c.st = .blocked → c.reason = 14 → c.after = .step → relocking s (n / 4) = false →
      Becomes s (.steprel n) n { awake with
        after := .none, spared := c.spared || (decide (c.blockedAt ≠ 0) && pastLimit (s.watchLimit n) (s.cyc.toNat + 1 - c.blockedAt)) })
    ∧ (∀ i, c.after = .trapEntry i → c.st = .blocked → c.pend = [] → c.tlevel = 0 → relocking s (n / 4) = false →
      Happens s (.trapEntry n) (fun t => Beside n s t ∧ Trapped c (t.ctx n) i.code i.ret i.eva i.einfo))
    ∧ (∀ p k l, s.part (s.partOf n) = some p → c.launch = some k → s.launchOf k = some l → l.halt = none →
      c.st = .blocked → c.reason ≠ 11 → c.reason ≠ 14 → c.spared = false → p.watchdog ≠ 0 → c.blockedAt ≠ 0 → relocking s (n / 4) = false →
      c.blockedAt + p.watchdog.toNat * 1024 ≤ s.cyc.toNat →
      Happens s (.watchdog n) (fun t => t.ctx n = { c with st := .halted, after := .none, fault := some (faultInfo 0x86 0 0 0 c.point) } ∧ t.mem = s.mem
        ∧ Raised t k { kind := 0, inst := n } 0x86))
    ∧ (∀ l, s.ctxLaunch n = some l → l.halt = none → c.st = .blocked → c.after = .haltb → c.out = 0 → c.pend = [] →
      c.trec = none → c.locks = [] → grantsOf s n = [] → relocking s (n / 4) = false → Sparse.wf Core.cold s.cores = true →
      Happens s (.retirement n) (fun t => (t.ctx n).st = .retired ∧ SameRegs c (t.ctx n) ∧ (t.ctx n).launch = none
        ∧ t.mem = s.mem)))
  ∧ ∀ (s : State) (g k : Nat), g < Config.nCores → k < 4 → holderOf s g = some k → quantumOver s g = true →
      relocking s g = false →
      (otherReady s (g * 4 + k) = true → Happens s (.quantum g) (fun t => Beside (g * 4 + k) s t
        ∧ (t.core g).holder = none ∧ (t.core g).lastHolder = k
        ∧ t.ctx (g * 4 + k) = { s.ctx (g * 4 + k) with
            st := if (s.ctx (g * 4 + k)).st = .running then .ready else (s.ctx (g * 4 + k)).st }))
      ∧ (otherReady s (g * 4 + k) = false → Happens s (.quantum g) (fun t =>
        t.core g = { s.core g with quantum := s.cyc.toNat, qused := 0 } ∧ (∀ h, h ≠ g → t.core h = s.core h)
        ∧ t = { s with cores := t.cores }))

/-- A STEP RUNS THE DECODED INSTRUCTION: where the agenda's next event, once what waits has gone on, is an issue of core `g` with
nothing due before it, and the bundle that stands at the program counter of the context that holds the width names one slot, whose word
decodes to `i`, with its guard true, a step runs `i` there: the agenda's entry is done, its cycles have passed, and the latch holds the
bundle. In slot S1 the op runs under its own slot number. -/
def Obligations.StepRunsDecoded : Prop :=
  ∀ (s : State) (rest : List Tick) (dt g k : Nat) (h : Word32) (ws : List Word32) (w : SlotWords) (i : Instr),
    s.settle.agenda = { dt := dt, ev := .bundleIssue g } :: rest → clear s.settle dt = true →
    let s' := { s.settle.pass dt with agenda := rest }
    let u := { s' with cur := g * 4 + k }
    MayIssue s' g k → Standing u h ws → slotPairs (maskSlots (bits h.toNat 27 21)) ws = [w] →
    u.me.full .p (bits h.toNat 14 12) = true → guardHolds h.toNat u.me = true → bits h.toNat 20 17 = 0 →
    decode w.slot w.word w.ext = some i → repeats (wordDsts w) = false →
    (w.slot ≠ 2 → step s = exec i (latchBundle (h :: ws) u))
    ∧ (w.slot = 2 → ∃ o, opOf 2 i = some o ∧ step s = .next (issue [o] (latchBundle (h :: ws) u)))

/-- R48 to R51, R58, R104, R250, R251: what an issue of a core does. A bundle whose words decode and whose guard is true issues its
ops. A misaligned address or a word that is no header is trap 0x01; a slot word that does not decode is
trap 0x02 of its slot; an empty guard register is a wait, reason 1; with a false guard no op issues, and the issue point moves
on all the same. R39, R58: the ops of a bundle issue as one. Each computes from the state before the bundle, whichever of the others writes
its sources, and their effects follow in slot order: for ops that change the issuing context alone, the context after the
bundle is what their changes make of it one after the other. -/
def Obligations.BundleIssues : Prop :=
  (∀ (s : State) (g k : Nat), MayIssue s g k →
    let u := { s with cur := g * 4 + k }
    let c := u.me
    let does := fun t => exec (.bundleIssue g) s = .next t
    (c.pc.toNat % 4 ≠ 0 → does (raise u (badBundle c.brSrc)))
    ∧ (∀ h, c.pc.toNat % 4 = 0 → c.nest.active = false → fetchBundle u (u.jobOf u.cur) c.pc = .ok [h] →
      codeEcc u (u.jobOf u.cur) c.pc 1 = false → headerOk h = false → does (raise u (badBundle c.brSrc)))
    ∧ ∀ h ws, Standing u h ws → bits h.toNat 20 17 = 0 →
      let l := slotPairs (maskSlots (bits h.toNat 27 21)) ws
      repeats (l.flatMap wordDsts) = false →
      (∀ n, badSlot l = some n → (guardHolds h.toNat c = false ∨ c.full .p (bits h.toNat 14 12) = false) →
        does (raise u (illegal n 0 0)))
      ∧ (badSlot l = none → c.full .p (bits h.toNat 14 12) = false → does (block (noteBlock (issueOps l .none) 2 (bits h.toNat 14 12) u) u.cur 1))
      ∧ (badSlot l = none → c.full .p (bits h.toNat 14 12) = true → guardHolds h.toNat c = false → Quiet u →
        Happens s (.bundleIssue g) (fun t => Elsewhere u t
          ∧ t.me = closing (latchBundle (h :: ws) u) .none c.begin))
      ∧ (badSlot l = none → c.full .p (bits h.toNat 14 12) = true → guardHolds h.toNat c = true →
        repeats ((issueOps l .none).flatMap opDsts) = false → does (issue (issueOps l .none) (latchBundle (h :: ws) u))))
  ∧ (∀ (s : State) (ops : List Op) (F : Op → Context → Context), Quiet s → verdict ops s = .go →
    (∀ o ∈ ops, o.mem = none ∧ o.bars (beginIssue s) = [] ∧ o.slot ≠ 0
      ∧ (∀ c : Context, let d := F o c
          d.nest = c.nest ∧ d.rep = c.rep ∧ d.pc = c.pc ∧ d.after = c.after ∧ d.st = c.st ∧ d.held = c.held)
      ∧ ∀ e, Elsewhere (beginIssue s) e → e.latch = (beginIssue s).latch → o.eff (beginIssue s) e = e.updMe (F o)) →
    Elsewhere s (issue ops s)
    ∧ (issue ops s).me = closing s (ops.foldl Held.after s.me.held) (ops.foldl (fun c o => F o c) s.me.begin))

/-! ### Events (R71) -/

/-- R186, R261 to R263, R266, R282, R284, R400, R414: a raised halt line stands, with its unit and cause; a second raise
changes nothing; a context that raises it stops. As it arrives, a unit that waits stops, and counts one record: a context keeps its registers
and is HALTED, or stays KILLED; an engine gives up the launch's work. With no unit left the queue is FAULTED, or DISABLED
where it was draining, and its head moves on. -/
def Obligations.HaltEvents : Prop :=
  ∀ (s : State) (k : Nat) (l : Launch), s.launchOf k = some l →
    (l.halt = none → ∀ cause, 0x80 ≤ cause → cause ≤ 0x88 →
      (∀ u : UnitId, u.kind ≠ 0 → Happens s (.haltLine k u cause) (fun t =>
        Raised t k u cause ∧ t.mem = s.mem ∧ t.cores = s.cores))
      ∧ (∀ n, n < residents → (s.ctx n).launch = some k → Happens s (.haltLine k { kind := 0, inst := n } cause) (fun t =>
        Raised t k { kind := 0, inst := n } cause ∧ t.mem = s.mem
        ∧ t.ctx n = { s.ctx n with
            st := if cause = 0x83 ∨ cause = 0x84 then .killed else .halted, after := .none,
            fault := some (faultInfo cause 0 0 0 (s.ctx n).point) })))
    ∧ ∀ h, l.halt = some h →
      (∀ u cause, exec (.haltLine k u cause) s = .next s)
      ∧ (∀ u ∈ h.waiting,
        let after := { h with waiting := h.waiting.filter (· != u), done := u :: h.done, nstop := h.nstop + 1,
                              fstop := if h.nstop = 0 then (s.queue l.queue).stopWr else h.fstop }
        let counts := fun t : State => (t.queue l.queue).stopWr = (s.queue l.queue).stopWr + 1
        let stops := fun t : State => HaltIs t k after ∧ counts t
        (u.kind = 0 → u.inst < residents → (s.ctx u.inst).pend = [] → (s.ctx u.inst).st ≠ .mewsIn →
          s.savedOf u.inst = none → s.deferred = [] → (∀ v ∈ h.done, v.kind = 0) →
          Happens s (.haltArrival k u) (fun t => counts t ∧ (∃ w, HaltIs t k { after with waiting := after.waiting ++ w })
            ∧ t.ctx u.inst = { s.ctx u.inst with
            st := if (s.ctx u.inst).st = .killed then .killed else .halted, after := .none, owed := none }))
        ∧ (u.kind = 1 → Happens s (.haltArrival k u) (fun t => stops t
            ∧ ∀ e ∈ (t.core u.inst).mq ++ (t.core u.inst).savedOps, e.launch ≠ k))
        ∧ (u.kind = 2 → Happens s (.haltArrival k u) (fun t => stops t ∧ ∀ j ∈ (t.core u.inst).jobs, abandons s k j = false))
        ∧ (u.kind = 3 → Happens s (.haltArrival k u) stops)
        ∧ (u.kind = 4 → midChunk (s.engine u.inst) k = false → Happens s (.haltArrival k u) (fun t => stops t
            ∧ ∀ r ∈ (t.engine u.inst).queue ++ (t.engine u.inst).flying, r.launch ≠ k))
        ∧ (u.kind = 5 ∨ 7 ≤ u.kind → Happens s (.haltArrival k u) stops))
      ∧ (h.waiting = [] → h.posted = false → h.killed = false → l.entry = none → l.kd.traced = false →
        Happens s (.faultCompletion k) (fun t => HaltIs t k { h with posted := true }
          ∧ (t.queue l.queue).st = (if (s.queue l.queue).st = .draining then .disabled else .faulted)
          ∧ (t.queue l.queue).head = (s.queue l.queue).head + 1))

/-- R187, R189, R252 to R254, R285, R404: a pre-emption request that can proceed starts the preload of its incoming context;
the swap gives that context the slot as it was saved, and the outgoing one leaves with its registers; a spill saves the tiles,
a fill gives them back. A host's request names the context that was pre-empted last, or waits. -/
def Obligations.MewEvents : Prop :=
  ∀ s : State,
    let starts := fun (g k id : Nat) (t : State) =>
      (t.core g).mews = { (s.core g).mews with phase := .preloading, slot := k, inc := some (.saved id) }
      ∧ (t.savedOf id).map (·.ctx.st) = some .mewsIn ∧ t.mem = s.mem ∧ ∀ n, n < residents → t.ctx n = s.ctx n
    (∀ i (r : PreReq) id x, s.preReqs[i]? = some r → canPreempt s r.core r.slot = true → r.inc = some (.saved id) →
      s.savedOf id = some x → x.ctx.st = .mewsOut →
      Happens s (.preemptionRequest i) (fun t => starts r.core r.slot id t ∧ t.preReqs = s.preReqs.eraseIdx i))
    ∧ (∀ x, s.savedOf x.id = some x → canRestore s x = true →
      s.saved.find? (fun y => y.core == x.core && canRestore s y) = some x →
      Happens s (.restore x.id) (starts x.core x.slot x.id))
    ∧ (∀ g k p x, g < Config.nCores → k < 4 → partOfCore s g = some p → savedAt s g k = some x → candidate s p = none →
      Happens s (.preempt g k) (fun t => t = { s with preReqs := t.preReqs, preStat := t.preStat }
        ∧ (canPreempt s g k = true → t.preStat = 0
            ∧ t.preReqs = s.preReqs ++ [{ core := g, slot := k, inc := some (.saved x.id), host := true }])
        ∧ (canPreempt s g k = false → t.preStat = 1
            ∧ t.preReqs = s.preReqs ++ [{ core := g, slot := k, inc := none, host := true }])))
    ∧ ∀ g, g < Config.nCores →
      let m := (s.core g).mews
      let n := g * 4 + m.slot
      (∀ x, m.phase = .preloading → incomingOf s g = some x → x.fresh = true ∨ mewsSlot s (savedPart s x) = true →
        Happens s (.preload g) (fun t => InCore g s t ∧ t.core g = { s.core g with mews := { m with phase := .loaded } }))
      ∧ (∀ x, m.phase = .loaded → m.slot < 4 → incomingOf s g = some x → x.fresh = false → Sparse.wf Core.cold s.cores = true →
        let arrives := fun (t : State) => t.mem = s.mem
          ∧ t.ctx n = { x.ctx with st := x.prevSt, blockedAt := awayTime s.cyc.toNat x.ctx.blockedAt }
        (mayLeave s n = true → Happens s (.swap g) (fun t => arrives t ∧ (t.core g).mews.phase = .spilling
          ∧ (x.id ≠ newSavedId s → ∃ y ∈ t.saved, y.id = newSavedId s ∧ y.core = g ∧ y.slot = m.slot ∧ y.spilled = false
              ∧ y.ctx.st = .mewsOut ∧ SameRegs (s.ctx n) y.ctx ∧ y.ctx.pc = (s.ctx n).pc)))
        ∧ (mayLeave s n = false → slotFree (s.ctx n) = true → Happens s (.swap g) (fun t => arrives t
          ∧ (t.core g).mews.phase = .idle)))
      ∧ (∀ x, m.phase = .spilling → outgoingOf s g = some x → quiescent s g x.id = true → mewsSlot s (savedPart s x) = true →
        s.savedOf x.id = some x → Clean s →
        Happens s (.spill g) (fun t => (t.core g).mews.phase = .idle ∧ t.mem = s.mem
          ∧ ∃ y, t.savedOf x.id = some y ∧ y.spilled = true ∧ y.ctx = x.ctx
            ∧ ∀ i ∈ savedTiles s x, Sparse.get Tile.zero y.tiles i
                = { s.tile g i with unfilled := false, imode := (Sparse.get Tile.zero x.tiles i).imode }))
      ∧ (∀ k l, k < 4 → s.ctxLaunch (g * 4 + k) = some l →
        let own := (slotTiles l.kd k).filter (fun i => (s.tile g i).unfilled)
        own ≠ [] → (∀ y ∈ s.saved, y.core = g → y.spilled = true) → mewsSlot s l.part = true →
        Happens s (.tileFill g k) (fun t => t.mem = s.mem
          ∧ ∀ i, t.tile g i = if i ∈ own then { Sparse.get Tile.zero m.fill i with unfilled := false, imode := (s.tile g i).imode }
            else s.tile g i))

/-- R35, R95, R169, R179, R181, R194 to R197, without errors in memory: the head entry of a core's queue begins, and an `MMAZ`
clears its tile; a wave takes every lane of the tile to its cell's value, or none of a tile that the launch does not own; a completed
entry leaves the queue and its context counts one operation less, after an `ACCZ` its tile is zero, after an `MCBLD` the
codebook is loaded; an `ACCWR` keeps the lanes outside its rectangle and an `ACCRD` the bytes outside its elements. -/
def Obligations.MatrixEvents : Prop :=
  ∀ (s : State) (g : Nat) (e : MEntry) (rest : List MEntry), g < Config.nCores → Clean s → (s.core g).mq = e :: rest →
    let live := ((s.launchOf e.launch).map (·.halt.isNone)).getD true
    let others := fun (t : State) => ∀ i, i ≠ e.tile ∨ e.owned = false → t.tile g i = s.tile g i
    let len := pairLen e.fmt
    let row := fun b i => (List.range len).map (fun k => (waveElem s g e b len i k).1)
    let ty := ofmtOf e.fmt
    let place := fun p => spAddr g (rectEa (n64 e.pa) e.pb (elemBytes ty) p).toNat
    (entryReady s g e = true → Happens s (.entryStart g) (fun t => t.mem = s.mem
      ∧ (t.core g).mq = { e with begun := true } :: rest
      ∧ ∀ i, t.tile g i = if e.opc = 1 ∧ e.wave = 0 ∧ e.owned = true ∧ i = e.tile then { s.tile g i with lanes := [] }
          else s.tile g i))
    ∧ (e.begun = true → live = true → e.opc ≤ 2 → e.wave < e.waves → Happens s (.wave g) (fun t => t.mem = s.mem
      ∧ (t.core g).mq = { e with wave := e.wave + 1 } :: rest ∧ (t.core g).waveTot = (s.core g).waveTot + 1 ∧ others t
      ∧ (e.owned = true → (t.tile g e.tile).imode = (s.tile g e.tile).imode
          ∧ ∀ n < 4096, (t.tile g e.tile).lane (n / 64) (n % 64)
            = (cell e.int ((s.tile g e.tile).lane (n / 64) (n % 64)) (row false (n / 64)) (row true (n % 64))).1)))
    ∧ (e.begun = true → 2 < e.opc ∨ (e.wave = e.waves ∧ live = true) → (s.core g).savedOps = [] → e.ctx < residents →
      Happens s (.entryComplete g) (fun t => (t.core g).mq = rest ∧ (t.ctx e.ctx).out = (s.ctx e.ctx).out - 1 ∧ others t
        ∧ (e.opc ≠ 4 → t.mem = s.mem)
        ∧ (e.opc ≠ 5 → e.opc ≠ 6 → ∀ i, t.tile g i = s.tile g i)
        ∧ (e.opc ≠ 3 → (t.core g).codebook = (s.core g).codebook)
        ∧ (e.opc = 3 → ∀ m < 256, Sparse.get 0 (t.core g).codebook m = BitVec.ofNat 32 (rd s (spAddr g (e.pa + 4 * m)) 4))
        ∧ (e.opc = 4 → ∀ a, (∀ p ∈ rectIdx e.nr e.nc, a < place p ∨ place p + elemBytes ty ≤ a) → t.byte a = s.byte a)
        ∧ (e.opc = 5 → e.owned = true → (t.tile g e.tile).imode = e.int
          ∧ ∀ n, (∀ p ∈ rectIdx e.nr e.nc, n ≠ 64 * (e.row0 + p.1) + e.col0 + p.2) →
              Sparse.get 0 (t.tile g e.tile).lanes n = Sparse.get 0 (s.tile g e.tile).lanes n)
        ∧ (e.opc = 6 → e.owned = true → t.tile g e.tile = { s.tile g e.tile with lanes := [], imode := e.int })))

/-- R202, R286, R290, R303, R305 to R314: a copy that can start begins; once their unit has been sent, the elements of a copy or
fill in one aligned word are written to their places and counted at the barrier; with all of them done the job ends, with its counter's
add; a multicast's box is delivered member by member. The ring whose turn it is at a quay starts a tile, moves it word by word, and
frees a closed subscription. -/
def Obligations.CopyEvents : Prop :=
  (∀ (s : State) (g : Nat) (x : CopyJob), g < Config.nCores → findJob s g x.num = some x →
    (startable s g x = true → x.kind = .copy ∨ x.kind = .fill → Happens s (.copyStart g x.num) (fun t => t.mem = s.mem
      ∧ ∃ y, findJob t g x.num = some y ∧ y.began = true ∧ y.bound = true ∧ y.box = x.box ∧ y.done = x.done))
    ∧ (x.began = true → x.dead = false → s.haltedL x.launch = false →
      (∀ e, x.kind = .copy ∨ x.kind = .fill → unitSent s x (e * x.box.esize) = true →
        let word := wordMates x e
        let bytes := fun (u : State) k => match x.snap with
          | some l => (l.drop (k * x.box.esize)).take x.box.esize
          | none => elemBytesAt u x.job g x.box (x.kind == .fill) k
        let one := fun (u : State) k => doneElem (countBar (engWrite u x.job g (x.box.dstAt k) (bytes u k)) g x.box.bar x.box.esize)
          g x.num k
        (∀ n k, word[n]? = some k → let u := (word.take n).foldl one s
          absentAt u x.job (x.box.dstAt k) = none ∧ resetHolds u x.job (x.box.dstAt k) = false) →
        Happens s (.byteArrival g x.num e) (fun t => t = word.foldl one s
          ∧ findJob t g x.num = some { x with done := x.done ++ word }))
      ∧ (∀ i m, x.kind = .mcast → x.members[i]? = some m → i ∉ x.done → unitSent s x ((i + 1) * x.box.bytes - 1) = true →
        Happens s (.multicastDelivery g x.num i) (fun t =>
          findJob t g x.num = some { x with done := x.done ++ [i] }
          ∧ t.mem = ((List.range x.box.count).foldl (fun u e => countBar (wrBytes u (spAddr m (x.box.dstAt e).toNat)
              (((x.snap.getD []).drop (e * x.box.esize)).take x.box.esize)) m x.box.bar x.box.esize) s).mem))
      ∧ (x.kind = .copy ∨ x.kind = .fill → x.done.length = x.box.count →
        let ends := fun (t : State) => (t.core g).jobs = (s.core g).jobs.filter (fun y => y.num != x.num)
        (x.box.ctr = 0 → Happens s (.copyComplete g x.num) (fun t => ends t ∧ t.mem = s.mem))
        ∧ (x.box.ctr ≠ 0 → absentAt s x.job x.box.ctr = none → resetHolds s x.job x.box.ctr = false → Happens s (.copyComplete g x.num) (fun t => ends t
          ∧ t.mem = (addCtr s x.job g x.box.ctr x.box.cval.toNat).mem)))))
  ∧ ∀ (s : State) (q i : Nat) (x : Sub), q < 8 → s.sub q i = some x → s.haltedL x.launch = false →
    let b := fun t => x.ring.tile t
    let moves := fun (t e : Nat) (u : State) => (u.sub q i).map (·.prog) = some (if e + 1 = (b t).count then none else some (t, e + 1))
    (ringTurn s q = some i →
      (tileStarts s x = true →
        let begins := fun (t : State) => (t.sub q i).map (·.prog) = some (some (x.next, 0)) ∧ (t.sub q i).map (·.bound) = some true
        (x.ring.storer = false → Happens s (.ringFill q i 0) begins) ∧ (x.ring.storer = true → Happens s (.ringPull q i 0) begins))
      ∧ (∀ t e, x.prog = some (t, e) →
        let word := ringMates x (b t) e
        let after := if word.head? = some e then word.foldl (fun u k => ringMove x (b t) t k u) s else s
        (x.ring.storer = false → Happens s (.ringFill q i 1) (fun u => moves t e u ∧ u.mem = after.mem
          ∧ (word = [e] → (b t).inside e = true →
            u.mem = (barUpdate (engWrite s x.job x.core ((b t).dstAt e) (peek s x.job ((b t).srcAt e) (b t).esize))
              (spAddr x.core (x.ring.fullBar (t % x.ring.nslot))) (-((b t).esize : Int)) 0).mem)))
        ∧ (x.ring.storer = true →
          (b t).inside e = false ∨ (absentAt s x.job ((b t).srcAt e) = none ∧ resetHolds s x.job ((b t).srcAt e) = false) →
          Happens s (.ringPull q i 1) (fun u => moves t e u ∧ u.mem = after.mem
          ∧ (word = [e] → (b t).inside e = true →
            u.mem = (barUpdate (poke s x.job ((b t).srcAt e) (engRead s x.job x.core ((b t).dstAt e) (b t).esize))
              (spAddr x.core (x.ring.emptyBar (t % x.ring.nslot))) (-((b t).esize : Int)) 0).mem)))))
    ∧ (closable x = true → x.ctr = 0 → Happens s (.subscriptionClose q i) (fun t => t.sub q i = none ∧ t.mem = s.mem
        ∧ ∀ p k, (p, k) ≠ (q, i) → t.sub p k = s.sub p k))

/-- R227, R228, R234: `BIND` of a well-formed image to a free entry that meets no other makes it ZEROING, or BOUND in the scratchpad
tier; `UNBIND` makes a BOUND segment DRAINING, `RELEASE` a REVOKED one free, `POOL` adds or removes a range of pages, each with
status 0; else they give MALFORMED, CONFLICT or BUSY and change nothing. A zeroed segment is BOUND, its bytes zero; a drained
one is REVOKED. -/
def Obligations.SegmentCommands : Prop :=
  (∀ (s : State) (b : Nat), s.segStat ≠ 15 →
    let j := cmdJob s b
    let i := cmdSeg s b
    let e := segImage s (hbmAddr b + 8)
    let cur := (s.seg j i).st
    let gives := fun (ev : Instr) (n : Nat) => exec ev s = .next { s with segStat := n }
    let sets := fun (ev : Instr) (d : Seg) => Happens s ev (fun t => SegBecomes { s with segStat := 0 } t j i d)
    (badImage s (hbmAddr b + 8) = false → j < 32 → i < 4096 →
      (cur = .free → overlaps s j e = false → sets (.bind b) { e with st := if e.tier then .bound else .zeroing, busy := 0 })
      ∧ (cur ≠ .free ∨ overlaps s j e = true → gives (.bind b) 2))
    ∧ (badImage s (hbmAddr b + 8) = true ∨ 32 ≤ j ∨ 4096 ≤ i → gives (.bind b) 1)
    ∧ (i < 4096 → cur = .bound → sets (.unbind b) { s.seg j i with st := .draining })
    ∧ (i < 4096 → cur = .zeroing ∨ cur = .migrating → gives (.unbind b) 3)
    ∧ (4096 ≤ i ∨ cur = .free ∨ cur = .draining ∨ cur = .revoked → gives (.unbind b) 2)
    ∧ (i < 4096 → cur = .revoked → sets (.release b) Seg.free)
    ∧ (4096 ≤ i ∨ cur ≠ .revoked → gives (.release b) 2)
    ∧ ∀ first count, first = rd s (hbmAddr b + 8) 8 → count = rd s (hbmAddr b + 16) 8 →
      first % 2 ^ 21 = 0 → count ≠ 0 → first + count * 2 ^ 21 ≤ 2 ^ 39 → rd s (hbmAddr b + 2) 6 = 0 → rd s (hbmAddr b + 25) 39 = 0 →
      (rd s (hbmAddr b + 24) 1 = 0 → 0 ∉ s.sorric.modes →
        ((∀ p ∈ poolPages first count, pageBound s p = false ∧ p ∉ s.dzPool) →
          exec (.pool b) s = .next { s with segStat := 0, dzPool := s.dzPool ++ poolPages first count })
        ∧ ((∃ p ∈ poolPages first count, pageBound s p = true ∨ p ∈ s.dzPool) → gives (.pool b) 2))
      ∧ (rd s (hbmAddr b + 24) 1 = 1 →
        ((∀ p ∈ poolPages first count, pageBound s p = false ∧ p ∈ s.dzPool) → exec (.pool b) s
          = .next { s with segStat := 0, dzPool := s.dzPool.filter (fun p => !(poolPages first count).contains p) })
        ∧ ((∃ p ∈ poolPages first count, pageBound s p = true ∨ p ∉ s.dzPool) → gives (.pool b) 2)))
  ∧ ∀ (s : State) (j i : Nat),
    let e := s.seg j i
    (e.st = .zeroing → Happens s (.zeroingComplete j i) (fun t => SegBecomes { s with mem := t.mem } t j i { e with st := .bound }
      ∧ (e.dz = false → ∀ a, t.byte a = if e.pbase ≤ a ∧ a < e.pbase + e.len then 0 else s.byte a)))
    ∧ (e.st = .draining → e.busy = 0 → Happens s (.drained j i) (fun t => SegBecomes s t j i { e with st := .revoked }))

/-- R242 to R245: the migration control refuses a waiting `XMIGR` with its REASON, or makes the segment MIGRATING; with BUSY at
0, in a slot of the partition, the bytes of the segment are copied; then the segment is BOUND at its new pages, and a migration past
its deadline counts a slip of its partition. -/
def Obligations.Migrations : Prop :=
  (∀ (s : State) (n : Nat) (x : ArgX), n < residents → (s.ctx n).mgrant = .asked 0 → (s.ctx n).reason = 13 →
    standingXmigr s n = some x →
    let j := s.jobOf n
    let i := migSeg x (s.ctx n)
    let r := migReasonOf x s (s.ctx n) n
    (r ≠ 0 → exec (.migrationAccept n) s = .next (s.updCtx n (fun c => { c with mgrant := .done r })))
    ∧ (r = 0 → Happens s (.migrationAccept n) (fun t => t.mem = s.mem ∧ t.ctx n = { s.ctx n with mgrant := .done 0 }
        ∧ t.seg j i = { s.seg j i with st := .migrating }
        ∧ ∃ m, t.migs = s.migs ++ [m] ∧ m.job = j ∧ m.seg = i ∧ m.copied = false
          ∧ m.dst = (s.job j).rsvBase + ((s.ctx n).rA x.adesc).toNat ∧ m.ctr = (s.ctx n).rA (x.adesc + 1)
          ∧ m.deadline = (s.ctx n).rS x.sreg)))
  ∧ ∀ (s : State) (j i : Nat) (m : Migration), migOf s j i = some m →
    let e := s.seg j i
    let ends := { s with migs := s.migs.filter (fun n => !(n.job == j && n.seg == i)) }
    let moved := { e with pbase := m.dst, st := .bound }
    (e.st = .migrating → e.busy = 0 → m.copied = false → s.ownSlot m.part s.cyc.toNat = true →
      Happens s (.migrationCopy j i) (fun t => migOf t j i = some { m with copied := true } ∧ t.segs = s.segs
        ∧ (Memory.wf s.mem = true → ∀ a, t.byte a = if m.dst ≤ a ∧ a < m.dst + e.len then s.byte (a - m.dst + e.pbase) else s.byte a)))
    ∧ (m.copied = true → m.ctr = 0 →
      (m.deadline = 0 ∨ s.cyc.toNat / 1024 ≤ m.deadline.toNat →
        Happens s (.rebind j i) (fun t => SegBecomes ends t j i moved))
      ∧ ∀ p, m.deadline ≠ 0 → m.deadline.toNat < s.cyc.toNat / 1024 → s.part m.part = some p →
        Happens s (.rebind j i) (fun t => SegBecomes { ends with parts := t.parts } t j i moved
          ∧ t.part m.part = some { p with slip := if p.slip.toNat = 2 ^ 32 - 1 then p.slip else p.slip + 1 }))

/-- R230, R233, R239, R240: a page that a unit waits for is taken from the pool, zeroed and mapped; with the pool empty its request
is posted with a tag, and the unit then waits for the host's answer. The host's grant zeroes the page and answers the context that asked, its refusal refuses it, but for a context that
has abandoned its request; a tag that no request carries is ignored. A fill that fails or times out ends, and halts the launches of the engines that wait for it; without
one the failure is kept. -/
def Obligations.PageRequests : Prop :=
  (∀ (s : State) (r : FillReq), r ∈ s.fills → r.ctx = 0xFFFF →
    let i := Instr.demandFill r.job r.seg r.page
    let m := mapAddr (s.seg r.job r.seg) r.page
    let same := fun (q : FillReq) => q.job = r.job ∧ q.seg = r.seg ∧ q.page = r.page ∧ q.ctx = 0xFFFF
    ((∃ q ∈ s.fills, same q ∧ q.tag.isSome = true) → exec i s = .next s)
    ∧ (∀ pa rest, s.dzPool = pa :: rest → (∀ q ∈ s.fills, same q → q.tag = none) → Happens s i (fun t => t.dzPool = rest ∧ (∀ q ∈ t.fills, ¬ same q)
      ∧ rd t m 8 = (pa / 2 ^ 21 * 2 ^ 21 + 1) % 2 ^ 64
      ∧ ∀ a, a < m ∨ m + 8 ≤ a → t.byte a = if pa ≤ a ∧ a < pa + 2 ^ 21 then 0 else s.byte a))
    ∧ (s.dzPool = [] → (∀ q ∈ s.fills, same q → q.tag = none) → Happens s i (fun t => t.dzPool = []
      ∧ ∃ tag, ∀ q ∈ t.fills, same q → q.tag = some tag ∧ q.since = s.cyc.toNat)))
  ∧ (∀ (s : State) (tag : BitVec 16),
    (s.fills.find? (fun q => q.tag == some tag.toNat) = none → ∀ b, exec (.pageresp tag b) s = .next s)
    ∧ ∀ r, s.fills.find? (fun q => q.tag == some tag.toNat) = some r →
      (r.ctx < residents → exec (.pageresp tag true) s
        = .next (({ s with fills := s.fills.filter (fun q => q.tag != r.tag) }).updCtx r.ctx
            (fun c : Context => if c.grant = Grant.asked tag.toNat then { c with grant := .refused } else c)))
      ∧ ∀ pa, s.dzPage (s.seg r.job r.seg) r.page = some pa → (∀ q ∈ s.fills, q.ctx = r.ctx → q.tag = r.tag) →
        Happens s (.pageresp tag false) (fun t => (∀ q ∈ t.fills, q.tag ≠ r.tag)
          ∧ (r.ctx < residents → t.ctx r.ctx
              = if (s.ctx r.ctx).grant = .asked tag.toNat then { s.ctx r.ctx with grant := .done 2 } else s.ctx r.ctx)
          ∧ ∀ a, t.byte a = if pa ≤ a ∧ a < pa + 2 ^ 21 then 0 else s.byte a))
  ∧ ∀ (s : State) (j i p : Nat) (r : FillReq),
    s.fills.find? (fun q => q.job == j && q.seg == i && q.page == p && q.ctx == 0xFFFF && q.tag.isSome) = some r →
    r.since + 20000000 ≤ s.cyc.toNat →
    let rest := s.fills.filter (fun q => !(q.job == j && q.seg == i && q.page == p && q.ctx == 0xFFFF))
    (pageUsers s j i p = [] → exec (.fillTimeout j i p) s = .next { s with fills := rest, fillFail := s.fillFail ++ [(j, i, p)] })
    ∧ (pageUsers s j i p ≠ [] → Happens s (.fillTimeout j i p) (fun t => t.fills = rest
      ∧ ∀ u ∈ pageUsers s j i p, (s.launchOf u.1).isSome = true → ((t.launchOf u.1).bind (·.halt)).isSome = true))

/-- R220, R223, R225, R277, R278, R280, R357: a host write into the segments of a job is performed where every byte translates, and
leaves memory as it is where one misses; one that waits for a page, for ZEROING or for a unit in reset is held back, and every
later write and tail write behind it; a job is created once, within its bounds. A BAR0 write of a tail, of a queue's or a device's
command does what that command does; the set-up of a queue is written while it is DISABLED only. The write at a physical address
is the model's choice of log entry 51. -/
def Obligations.HostAccess : Prop :=
  ∀ s : State,
    (∀ (j : Nat) (a : Word64) (d : List Byte), s.hostHeld = [] → d ≠ [] →
      let held : State := { s with hostHeld := [.write j a d] }
      (j < 32 → s.place j a = .here →
        ((∀ b ∈ addrs a d.length, (∃ pa id, hostXlat s j b = .ok pa id) ∧ hostHolds s j b = false) →
          exec (.hostWrite j a d) s = .next (poke s j a d))
        ∧ ((∃ b ∈ addrs a d.length, hostMiss s j b = true) → Happens s (.hostWrite j a d) (fun t => t = { s with fillFail := t.fillFail }))
        ∧ ((∀ b ∈ addrs a d.length, hostMiss s j b = false) → (∃ b ∈ addrs a d.length, (hostAbsent s j b).isSome = true) →
            Happens s (.hostWrite j a d) (fun t => t = { held with fills := t.fills }))
        ∧ ((∀ b ∈ addrs a d.length, hostMiss s j b = false ∧ hostAbsent s j b = none) →
            (∃ b ∈ addrs a d.length, hostHolds s j b = true) → exec (.hostWrite j a d) s = .next held))
      ∧ (32 ≤ j → a.toNat + d.length ≤ 2 ^ 39 → exec (.hostWrite j a d) s = .next (quayBytes s a.toNat d)))
    ∧ (s.hostHeld ≠ [] →
      (∀ j a d, exec (.hostWrite j a d) s = .next { s with hostHeld := s.hostHeld ++ [.write j a d] })
      ∧ ∀ q v, q < 8192 → exec (.qtail q v) s = .next { s with hostHeld := s.hostHeld ++ [.tail q v] })
    ∧ (∀ (j : Nat) (i : JobImage), i.own ≤ 2046 → i.rglog2 ≤ 11 → i.rsvBase % 2 ^ 21 = 0 → i.rsvSize % 2 ^ 21 = 0 →
      i.rsvBase + i.rsvSize ≤ 2 ^ 39 → j < 32 →
      ((s.job j).present = true → exec (.createJob j i) s = .next (sorStatus 2 s))
      ∧ ((s.job j).present = false → Happens s (.createJob j i) (fun t => t = { s with jobs := t.jobs, sorric := t.sorric }
        ∧ t.sorric = { s.sorric with status := 0 } ∧ (∀ k, k ≠ j → t.job k = s.job k)
        ∧ t.job j = { present := true, own := i.own, rglog2 := i.rglog2, keyid := i.keyid, segBase := i.segBase, rsvBase := i.rsvBase,
                      rsvSize := i.rsvSize })))
    ∧ (∀ q < 8192, ∀ v : Word64,
      let reg := fun o => Instr.registerWrite (0x10000 + 64 * q + o) v
      let x := s.queue q
      exec (.registerWrite (8 * q) v) s = exec (.qtail q (v.setWidth 32)) s
      ∧ (v = 1 → exec (reg 0x30) s = exec (.enable q) s) ∧ (v = 2 → exec (reg 0x30) s = exec (.disable q) s)
      ∧ (v = 3 → exec (reg 0x30) s = exec (.resume q) s) ∧ (v = 4 → exec (reg 0x30) s = exec (.kill q) s)
      ∧ Happens s (reg 0x20) (fun t => QueueBecomes s t q { x with evtHd := v })
      ∧ (x.st = .disabled → Happens s (reg 0x00) (fun t => QueueBecomes s t q { x with base := v })
        ∧ Happens s (reg 0x08) (fun t => QueueBecomes s t q { x with ctl := v &&& 0x1F1FFF }))
      ∧ (x.st ≠ .disabled → exec (reg 0x00) s = .next s ∧ exec (reg 0x08) s = .next s))
    ∧ ∀ v : Word64,
      let b := bits v.toNat 38 6 * 64
      (bits v.toNat 2 0 = 0 → exec (.registerWrite 0x100000 v) s = exec (.bind b) s)
      ∧ (bits v.toNat 2 0 = 1 → exec (.registerWrite 0x100000 v) s = exec (.unbind b) s)
      ∧ (bits v.toNat 2 0 = 2 → exec (.registerWrite 0x100000 v) s = exec (.release b) s)
      ∧ (bits v.toNat 2 0 = 3 → exec (.registerWrite 0x100000 v) s = exec (.pool b) s)
      ∧ exec (.registerWrite 0x100010 v) s = exec (.pageresp (BitVec.ofNat 16 v.toNat) (bitOf v.toNat 16)) s
      ∧ exec (.registerWrite 0x100018 v) s = exec (.steprel (bits v.toNat 11 0)) s
      ∧ exec (.registerWrite 0x100020 v) s = exec (.preempt (bits v.toNat 11 2) (bits v.toNat 1 0)) s

/-- R266, R278, R280, R282, R284: a tail write within the ring sets the tail, and a queue that was IDLE takes its head packet, READY or
BLOCKED; one beyond the ring leaves it. `ENABLE` makes a well-formed DISABLED queue IDLE and empty; `DISABLE` drains a running one and
stops the others; at a FAULTED queue the kill, the resume and the disable end its halted launches, and a kill of a running one raises
its halt line with cause 0x87, but where its completion is due. A waiting record is written once the ring has room. -/
def Obligations.QueueEvents : Prop :=
  ∀ (s : State) (q : Nat), q < 8192 →
    let x := s.queue q
    let size := 2 ^ bits x.ctl.toNat 4 0
    let sets := fun (i : Instr) (d : Queue) => Happens s i (fun t => QueueBecomes s t q d)
    (∀ v : Word32, s.hostHeld = [] →
      (x.st = .disabled → exec (.qtail q v) s = .next s)
      ∧ (x.st ≠ .disabled →
        ((v - x.head).toNat ≤ size →
          (x.st ≠ .idle → sets (.qtail q v) { x with tail := v })
          ∧ (x.st = .idle → v = x.head → sets (.qtail q v) { x with tail := v, pkt := none, readyAt := 0 })
          ∧ (x.st = .idle → v ≠ x.head → sets (.qtail q v) { x with
              tail := v, st := if waitsDone s x.job (headPacket s x) then .ready else .blocked, pkt := some (headPacket s x), readyAt := 0 }))
        ∧ (size < (v - x.head).toNat → Happens s (.qtail q v) (fun t => (t.queue q).tail = x.tail ∧ (t.queue q).st = x.st
            ∧ t.cores = s.cores ∧ t.launches = s.launches))))
    ∧ (x.st = .disabled → 4 ≤ bits x.ctl.toNat 4 0 → bits x.ctl.toNat 4 0 ≤ 16 → x.base.toNat % 4096 = 0 → 4 ≤ bits x.evt.toNat 3 0 →
        bits x.evt.toNat 3 0 ≤ 12 →
        sets (.enable q) { x with st := .idle, head := x.tail, pkt := none, launch := none, readyAt := 0 })
    ∧ (x.st = .running → sets (.disable q) { x with st := .draining })
    ∧ (x.st = .idle ∨ x.st = .blocked ∨ x.st = .ready → sets (.disable q) { x with st := .disabled, pkt := none })
    ∧ (x.st = .faulted →
        let ends := fun (t : State) => ∀ l ∈ s.launches, l.queue = q → (l.halt.map (·.posted)).getD false = true → t.launchOf l.id = none
        Happens s (.disable q) (fun t => (t.queue q).st = .disabled ∧ ends t) ∧ Happens s (.kill q) (fun t => t.queue q = x ∧ ends t)
        ∧ Happens s (.resume q) (fun t => (t.queue q).launch = none ∧ ends t ∧ (x.tail = x.head → (t.queue q).st = .idle)
            ∧ (x.tail ≠ x.head → (t.queue q).st = .ready ∨ (t.queue q).st = .blocked)))
    ∧ (x.st = .running ∨ x.st = .draining → ∀ k l, x.launch = some k → s.launchOf k = some l → l.halt = none →
        (workDone s l = true → exec (.kill q) s = .next s)
        ∧ (workDone s l = false → Happens s (.kill q) (fun t => t.cores = s.cores ∧ t.mem = s.mem
          ∧ ∃ h, (t.launchOf k).bind (·.halt) = some h ∧ h.cause = 0x87 ∧ h.killed = true)))
    ∧ (∀ p, x.st = .blocked → x.pkt = some p → waitsDone s x.job p = true → sets (.packetWaits q) { x with st := .ready })
    ∧ ∀ rec intr rest, x.waiting = (rec, intr) :: rest →
      (x.evtFull = true → exec (.eventRecord q) s = .next s)
      ∧ (x.evtFull = false → Happens s (.eventRecord q) (fun t => t.queue q = { x with waiting := rest, evtWr := x.evtWr + 1 }
        ∧ t.mem = (quayBytes s (hbmAddr (bits x.evt.toNat 38 6 * 64 + 64 * (x.evtWr % x.evtCount))) rec).mem
        ∧ t.msix = if intr then s.msix ++ [q % 2048] else s.msix))

/-- R34, R279, R282, R285, R323 to R329: the candidate of a partition is rejected by a check that fails and its queue is FAULTED, or
becomes a launch once it has room (a CONC launch with its blocks loaded), at once or after `PREDELAY` with requests for the contexts
that make way; a WAIT packet completes. A block that can be placed is loaded: its context as a new one, its loop frame and zero tiles; a launch whose blocks have
retired and whose work is done leaves, and its queue goes on. -/
def Obligations.LaunchEvents : Prop :=
  (∀ (s : State) (p : Nat) (c : Cand), p < 32 → candidate s p = some c → c.entry = none →
    let d := candDesc s c
    let x := s.queue c.queue
    let starts := fun (t : State) => (∃ l, t.launchOf s.num = some l ∧ l.kd = d ∧ l.queue = c.queue ∧ l.job = c.job ∧ l.part = c.part
        ∧ l.loaded = 0 ∧ l.retired = 0 ∧ l.halt = none)
      ∧ (t.queue c.queue).st = .running ∧ (t.queue c.queue).launch = some s.num ∧ t.mem = s.mem
    (∀ n, checkCand s c = .code n → Happens s (.dispatch p) (fun t => (t.queue c.queue).st = .faulted
      ∧ (t.queue c.queue).head = x.head + 1 ∧ t.launches = s.launches))
    ∧ (checkCand s c = .wait → exec (.dispatch p) s = .next s)
    ∧ (checkCand s c = .pass →
      (c.pkt.type = 3 → c.pkt.cctr = 0 → Happens s (.dispatch p) (fun t => (t.queue c.queue).head = x.head + 1 ∧ t.launches = s.launches))
      ∧ (c.pkt.type ≠ 3 → d.traced = false → (∀ l ∈ s.launches, l.id < s.num) →
        (hasRoom s c d = true → (d.mode ≠ 2 → Happens s (.dispatch p) starts)
          ∧ (d.mode = 2 → Happens s (.dispatch p) (fun t => ∃ u, starts u ∧ t = loadAll s.num d.nblk u)))
        ∧ (hasRoom s c d = false → Happens s (.dispatch p) (fun t => t.launches = s.launches ∧ (t.queue c.queue).st = x.st)
          ∧ (bitOf c.pkt.flags 1 = true → s.preDelay ≠ 0 → x.readyAt ≠ 0 → x.readyAt + s.preDelay.toNat ≤ s.cyc.toNat + 1 →
            quotaFree s c d = true → roundFree s c d = true →
            Happens s (.predelay p) (fun t => starts t ∧ ∃ rs, t.preReqs = s.preReqs ++ rs
              ∧ ∀ r ∈ rs, r.host = false ∧ ∃ b, r.inc = some (.block s.num b)))))))
  ∧ ∀ (s : State) (k : Nat) (l : Launch), s.launchOf k = some l → l.halt = none →
    (∀ b g j, l.kd.mode ≠ 2 → placeable s l = some (b, g, j) → g < Config.nCores → j < 4 →
      Happens s (.blockLoad k) (fun t => t.ctx (g * 4 + j) = newCtx s l b
        ∧ t.mem = (wrBytes s (spAddr g (j * l.kd.spba)) (frameOf s l)).mem
        ∧ (∀ i ∈ slotTiles l.kd j, t.tile g i = Tile.zero)
        ∧ (t.launchOf k).map (·.loaded) = some (l.loaded + 1)))
    ∧ (l.full = true → l.retired = l.loaded → workLeft s k = false → l.entry = none → l.pkt.cctr = 0 → l.kd.traced = false →
      Happens s (.launchCompletion k) (fun t => t.launchOf k = none ∧ (t.queue l.queue).launch = none
        ∧ (t.queue l.queue).head = (s.queue l.queue).head + 1
        ∧ ((s.queue l.queue).st = .draining → (t.queue l.queue).st = .disabled)))

/-! ### Links (R349 to R371) -/

/-- R349, R353, R354, R360, R371: what each event does to a port: training gives the UP state of the working groups and its mask, or
ends DOWN after 20,000,000 cycles; loss of light takes the laser group out of the mask and an UP port to the next lower state at once,
with no data sent until restriping resumes on the groups left, every flit to be sent again; losing the last group ends DOWN; a host
request, or more than 1,024 CRC failures, drains an UP port towards the state asked for, which it takes once its flits are acknowledged
or 400,000 cycles have passed; credit comes back, and a priority pauses. A control flit of 16 units tells the far end of a transition.
Only that port changes. -/
def Obligations.PortEvents : Prop :=
  (∀ (s : State) (p : Nat), p < 16 →
    let x := s.port p
    let now := s.cyc.toNat
    let to1 := fun (i : Instr) (d : Port) => Happens s i (fun t => PortTakes s t p d)
    (∀ g, x.st = .train → g ≠ 0#4 →
      to1 (.training p g) { x.moved (upState (groupCount g)) now with mask := groupMask g, lit := g, dark := false, units := 0 })
    ∧ (x.st = .train → x.since + 20000000 ≤ now → to1 (.trainTimeout p) (x.moved .down now))
    ∧ (∀ w, x.mask.getLsbD w = true →
        let g := maskGroups x.mask &&& ~~~ (1#4 <<< (w / 4))
        let y := { x with lit := g, mask := groupMask g, dark := true, units := 0, detect := now }
        (x.st.isUp = true → g ≠ 0#4 → to1 (.lossOfLight p w) { y.moved (upState (groupCount g)) now with units := 16 })
        ∧ (x.st.isUp = true → g = 0#4 → to1 (.lossOfLight p w) { y.moved .down now with dark := false })
        ∧ (x.st = .drain → to1 (.lossOfLight p w) y))
    ∧ (x.st.isUp = true ∨ x.st = .drain → x.dark = true →
        to1 (.restripe p) { x with dark := false, buf := x.buf.map (fun f => { f with sent := false }) })
    ∧ (x.st.isUp = true → 1024 < (recentCrc s p).length →
        to1 (.crcThreshold p) { x.moved .drain now with want := .fenced, units := x.units + 16 })
    ∧ (x.st.isUp = true → to1 (.retrain p) { x.moved .drain now with want := .train, units := x.units + 16 }
        ∧ to1 (.fencePort p) { x.moved .drain now with want := .fenced, units := x.units + 16 }
        ∧ to1 (.disablePort p) { x.moved .drain now with want := .off, units := x.units + 16 })
    ∧ (x.st = .off ∨ x.st = .fenced ∨ x.st = .down → to1 (.retrain p) (x.moved .train now))
    ∧ (x.st = .fenced ∨ x.st = .down → to1 (.disablePort p) (x.moved .off now))
    ∧ (x.st = .drain → x.buf = [] → to1 (.drain p) { x.moved x.want now with mask := 0, lit := 0, dark := false })
    ∧ (x.st = .drain → x.since + 400000 ≤ now → to1 (.drainTimeout p) { x.moved x.want now with mask := 0, lit := 0, dark := false })
    ∧ ∀ q v n, to1 (.creditReturn p q v n) { x with used := Sparse.set 0 x.used (q * 8 + v) (Sparse.get 0 x.used (q * 8 + v) - n) })
  ∧ ∀ (s : State) (p v : Nat), p < 8 →
    let x := s.port (16 + p)
    Happens s (.priorityFlowControl p v true) (fun t => ∃ d, PortTakes s t (16 + p) d ∧ ∀ i, i ∈ d.paused ↔ i = v ∨ i ∈ x.paused)
    ∧ Happens s (.priorityFlowControl p v false) (fun t => ∃ d, PortTakes s t (16 + p) d ∧ ∀ i, i ∈ d.paused ↔ i ≠ v ∧ i ∈ x.paused)

/-- R351, R355, R356, R358, R359, R361 to R366: sending a flit puts it on the wire, striped over a Wilaro port's
wavelengths or as a message over Ethernet, and marks it sent; an arriving flit in order that
passes its checks is performed and moves its window on, and one with a bad CRC only counts; an acknowledgement frees what it
covers, a gap replays from its SEQ, a rejection counts a loss, and the other refusals mark the route dead, as do 400,000 cycles
without progress or a path, a queue-pair error and the host; the timers acknowledge and replay; a triple whose port is no longer
UP moves to its new path; a route entry and a key are written. -/
def Obligations.FlitEvents : Prop :=
  (∀ (s : State) (p v : Nat) (f : Sent), p < 24 → portSends s p = true → nextSend s p = some (v, f) →
    let x := s.port p
    Happens s (.flitSend p) (fun t => t.wireOut = s.wireOut ++
        [{ port := p, flit := f.flit, lanes := if p < 16 then stripe x.mask x.units (flitBytes f.flit) else [], rdma := rdmaOf p f }]
      ∧ PortTakes s t p { x with buf := markSent f x.buf, rr := v, units := if p < 16 then x.units + 16 else x.units, used := if 16 ≤ p then x.used else Sparse.set 0 x.used (creditKey p f) (Sparse.get 0 x.used (creditKey p f) + 1) }))
  ∧ (∀ (s : State) (p : Nat) (f : Flit) (i : Instr), p < 24 → portReceives s p = true → i = .dataFlit p f ∨ i = .addFlit p f →
    (flitGood f = false → Happens s i (fun t => PortTakes s t p { s.port p with crc := recentCrc s p ++ [s.cyc.toNat], crcTot := (s.port p).crcTot + 1 } ∧ t.mem = s.mem))
    ∧ (flitGood f = true → f.ackV = false → f.crV = false → arrivalGate s f = 0 → (s.port p).held.any (fun h => h.vc == f.vc) = false →
      let k := winKey s p f
      let w := s.window k
      f.seq = recvSeq s k w.ext → w.rejected = false → ∀ h d, landing s p f = some h → checkArrival s h (w.ext - keyBase s k f.djob true) = .perform d →
      (f.type = 1 → Happens s (.dataFlit p f) (fun t => t.mem = (poke s f.djob (arrivalAddr h) d).mem
        ∧ (t.window k).ext = w.ext + 1 ∧ t.wireOut.length = s.wireOut.length + 1))
      ∧ (f.type = 2 → Happens s (.addFlit p f) (fun t => t.mem = (addCtr s f.djob 0 (arrivalAddr h) (leNat d)).mem
        ∧ (t.window k).ext = w.ext + 1 ∧ t.wireOut.length = s.wireOut.length + 1))))
  ∧ (∀ (s : State) (p c v q : Nat), Sparse.wf Port.cold s.ports = true →
    let k := ackKey s p c v q
    let m := seqMod k
    ((outstanding s k).any (fun f => ackedBy m q f.flit.seq) = true →
      Happens s (.ack p c v q) (fun t => (t.triple k).progress = s.cyc.toNat
        ∧ ∀ i, (t.port i).buf = (s.port i).buf.filter (fun f => !(f.key == k && ackedBy m q f.flit.seq))))
    ∧ ((outstanding s k).any (fun f => ackedBy m q f.flit.seq) = false → exec (.ack p c v q) s = .next s)
    ∧ Happens s (.nak p c v q 0) (fun t => ∀ i, (t.port i).buf = (s.port i).buf.map (fun f =>
        if f.key == k && decide ((f.flit.seq + m - q % m) % m < m / 2) then { f with sent := false } else f))
    ∧ ∀ f, (outstanding s k).find? (fun f => f.flit.seq == q) = some f →
      (∀ r, 1 ≤ r → r ≤ 4 → f.ctx < residents → Sparse.wf Core.cold s.cores = true → f.lost = false → (s.ctx f.ctx).launch = some f.launch →
        (s.ctx f.ctx).st ≠ .retired → (s.ctx f.ctx).st ≠ .killed →
        Happens s (.nak p c v q r) (fun t => (t.ctx f.ctx).loss = min ((s.ctx f.ctx).loss + 1) (2 ^ 32 - 1)))
      ∧ (∀ r, r = 5 ∨ r = 6 → f.tree = false → rtState (s.route f.job f.lchip) = 1 →
          Happens s (.nak p c v q r) (fun t => rtState (t.route f.job f.lchip) = 2)))
  ∧ (∀ (s : State) (j c : Nat), rtState (s.route j c) = 1 →
    let dies := fun (i : Instr) => Happens s i (fun t => rtState (t.route j c) = 2)
    (stuck s (rtChip (s.route j c) j c) 400000 = true → dies (.routeDead j c 1)) ∧ dies (.routeDead j c 5)
    ∧ (hasPath s (s.route j c) = false → (∀ i, i < rtPaths (s.route j c) → (s.port (rtPort (s.route j c) i)).upEnd + 400000 ≤ s.cyc.toNat) →
        dies (.noPath j c))
    ∧ ∀ v, v < 8 → rtNet (s.route j c) = true → dies (.qpError j c v))
  ∧ (∀ (s : State) (c v k : Nat),
    (windowsOf s c v = [k] → (s.window k).unacked ≠ 0 → Happens s (.ackTimer c v) (fun t => (t.window k).unacked = 0
      ∧ ∃ m, t.wireOut = s.wireOut ++ [m] ∧ m.port = (s.window k).port ∧ m.flit.type = 3 ∧ m.flit.ackV = true
        ∧ m.flit.ackSeq = recvSeq s k ((s.window k).ext + seqMod k - 1)))
    ∧ (triplesOf s c v = [k] → Sparse.wf Port.cold s.ports = true →
      (outstanding s k ≠ [] → (s.triple k).replayAt + 20000 ≤ s.cyc.toNat → Happens s (.replay c v) (fun t =>
        (t.triple k).replayAt = s.cyc.toNat
        ∧ ∀ i, (t.port i).buf = (s.port i).buf.map (fun f => if f.key == k then { f with sent := false } else f)))
      ∧ ∀ f, (outstanding s k).head? = some f →
        let e := s.route f.job f.lchip
        let p := choosePort s e f.flit.vc
        let old := (s.triple k).path - 1
        (s.triple k).path ≠ 0 → portUp s old = false → portUp s p = true → f.tree = false → (s.port old).st ≠ .drain →
        (s.port p).buf.length + (outstanding s k).length ≤ 4096 → s.sorric.modes.contains 2 = false ∨ (s.triple k).stale = true →
        Happens s (.repin c v) (fun t => (t.triple k).path = p + 1
          ∧ ∀ i, (t.port i).buf = (s.port i).buf.filter (fun g => g.key != k)
              ++ if i = p then (outstanding s k).map (fun g => { g with sent := false }) else [])))
  ∧ ∀ (s : State) (j : Nat), (s.job j).present = true →
    (∀ c w, c < 2047 → Happens s (.routeWrite j c w) (fun t => t.route j c = w &&& rtMask))
    ∧ ∀ key, (s.job j).keyid ≠ 0xFFFF →
      (s.ports.any (fun p => p.2.buf.any (fun f => f.job == j && f.flit.conf)) = false →
        Happens s (.keyInstall j key) (fun t => Sparse.get none t.keys (s.job j).keyid = some key ∧ t.sorric.status = 0))
      ∧ (s.ports.any (fun p => p.2.buf.any (fun f => f.job == j && f.flit.conf)) = true →
        exec (.keyInstall j key) s = .next { s with sorric := { s.sorric with status := 3 } })

/-! ### Groups and collective engines (R378 to R400) -/

/-- R381 to R383, R385, R394, R396, R400: the group commands and what a switch does to an entry: GCREATE writes it, with its members;
GBIND, a programmed tree, GQUIESCE and GRESUME move it as R383 says; GEVICT, GABORT and an aborted instance leave it STALE where
an instance was open, and every record of that instance discarded or marked aborted; a commit writes its membership fields and ends
a round, or waits while a result's page does; GDESTROY frees it, or is BUSY. A notice of an engine is kept, and a head record that an engine takes sends its flit through the group's port. -/
def Obligations.GroupEvents : Prop :=
  (∀ (s : State) (j g : Nat), g < 256 →
    let e := s.group j g
    let takes := fun (i : Instr) (d : Group) => Happens s i (fun t => GroupTakes s t j g d ∧ t.sorric.status = 0)
    (∀ i, badGroupImage i = true → exec (.gcreate j g i) s = .next { s with sorric := { s.sorric with status := 1 } })
    ∧ (∀ i, badGroupImage i = false → e.used = false → (s.job j).present = true →
        takes (.gcreate j g i) { Group.unused with used := true, vc := i.vc, prio := i.prio, port := i.port, chunk := i.chunk, ranks := i.ranks, memb := (List.range 8).filter (fun k => i.ranks.getD k 0xFFFF != 0xFFFF) })
    ∧ (e.used = true →
        (∀ i, badGroupImage i = false → exec (.gcreate j g i) s = .next { s with sorric := { s.sorric with status := 2 } })
        ∧ (e.st = .unbound → takes (.gbind j g) { e with st := .creating })
        ∧ (e.st = .creating → ∀ tree st n,
            (st = 0 → Happens s (.treeProgrammed j g tree st n) (fun t => GroupTakes s t j g { e with tree := tree % 4096, nmem := n, st := .active }))
            ∧ (st ≠ 0 → Happens s (.treeProgrammed j g tree st n) (fun t => GroupTakes s t j g { e with st := .unbound })))
        ∧ (e.st = .active → takes (.gquiesce j g) { e with st := .quiesced })
        ∧ (e.st = .quiesced → takes (.gresume j g) { e with st := .active })
        ∧ (e.st ≠ .active → exec (.gquiesce j g) s = .next { s with sorric := { s.sorric with status := 2 } })
        ∧ (e.running = true →
            (∀ rank, takes (.gevict j g rank) { e with
              stale := e.stale || !((openInsts s j g).filter (fun i => !notStarted s j g i)).isEmpty, evicted := e.evicted ++ [rank] })
            ∧ takes (.gabort j g) { e with stale := e.stale || !(openInsts s j g).isEmpty })
        ∧ (∀ pid n code, Happens s (.instanceAbort j g pid n code) (fun t => GroupTakes s t j g { e with stale := true }
            ∧ ∀ k, k < 8 → ∀ r ∈ (t.engine k).queue ++ (t.engine k).flying, r.isInst j g pid n = true → r.aborted = true))
        ∧ (∀ m, e.running = true → e.tree = m.tree → s.commits.any (fun y => y.1 == j && y.2.1 == g) = false →
          (commitHeld m j g s = true → exec (.commit j g m) s = .next { s with commits := s.commits ++ [(j, g, m)] })
          ∧ (commitHeld m j g s = false → commitPage m j g s = none →
            Happens s (.commit j g m) (fun t => GroupTakes s t j g { e with
              memb := m.memb, joinp := e.joinp.filter (fun k => !m.memb.contains k), leavep := e.leavep.filter (fun k => m.memb.contains k),
              nmem := m.nmem, version := m.version, agreed := m.agreed, stale := false,
              evicted := e.evicted.filter (fun r => m.memb.any (fun k => e.rank k == r)),
              st := if e.st = .agreeing then .active else e.st })))
        ∧ (e.st = .quiesced → s.coll.any (fun p => p.2.queue.any (fun r => r.job == j && r.group == g)) = true →
            exec (.gdestroy j g) s = .next { s with sorric := { s.sorric with status := 3 } })
        ∧ (e.st = .unbound ∨ e.st = .quiesced ∧ s.coll.any (fun p => p.2.queue.any (fun r => r.job == j && r.group == g)) = false →
            takes (.gdestroy j g) Group.unused)))
  ∧ (∀ (s : State) (k j g pid n : Nat), k < 8 → Happens s (.instanceComplete k j g pid n) (fun t =>
      t.engine k = { s.engine k with complete := Sparse.set 0 (s.engine k).complete (pidKey j g pid) (addNotice (Sparse.get 0 (s.engine k).complete (pidKey j g pid)) n) }
      ∧ t = { s with coll := t.coll } ∧ ∀ i, i ≠ k → t.engine i = s.engine i))
  ∧ ∀ (s : State) (k : Nat) (r : GRec), k < 8 → (s.engine k).cur = none → pickHead (settleFlying k s) k = some r →
    let e := s.group r.job r.group
    Happens s (.recordStart k) (fun t => (∃ x, (t.port e.port).buf = (s.port e.port).buf ++ [x] ∧ x.chip = 2048 + e.port ∧ x.op = r.num
        ∧ x.job = r.job ∧ x.launch = r.launch ∧ x.flit.vc = e.vc ∧ x.flit.type = 1)
      ∧ (∀ p, p ≠ e.port → t.port p = s.port p)
      ∧ GroupTakes s t r.job r.group { e with st := match r.kind with
        | .agree _ _ => if e.st = .active then .agreeing else e.st
        | .join _ => e.st
        | .coll _ _ => e.st })

/-! ### Resets and management (R20 to R29, R265, R297, R406 to R413) -/

/-- R406 to R409: a cold reset keeps the firmware banks and their selection, a warm one `CYC`, HBM and the sensors as well; both leave
every context EMPTY, every queue DISABLED and no launch, segment, route or group. Below warm level a reset with a launch in the
unit raises its halt line with CAUSE 0x87 and OUNIT kind 15 and waits; once the records of those launches are written the unit is
cleared with status OK: a core's contexts, registers, tiles and scratchpad, a matrix engine but for its tiles, a copy engine, a
quay, a port that is out of use, which goes to TRAIN with its replay buffer empty, the queues of a collective engine; a cluster is its
96 cores and its engine, a die its two clusters. A port in use drains first, and waits, and so does a unit inside one that is in reset (R409). A target out of range is MALFORMED. -/
def Obligations.ResetEvents : Prop :=
  let bare := fun (t : State) => (∀ n, t.ctx n = Context.empty) ∧ (∀ q, (t.queue q).st = .disabled) ∧ t.launches = [] ∧ t.segs = []
    ∧ t.routes = [] ∧ t.groups = [] ∧ t.parts = [] ∧ t.keys = [] ∧ (∀ p, (t.port p).buf = []) ∧ (∀ g i, t.tile g i = Tile.zero)
  bare State.reset ∧ State.reset.cyc = 0
  ∧ (∀ s : State, (∀ i, i = Instr.resetCold ∨ i = Instr.perst → Happens s i (fun t => bare t ∧ t.cyc = 0
        ∧ t.sorric.active = s.sorric.active ∧ t.sorric.image = s.sorric.image))
    ∧ ∀ i, i = Instr.resetWarm ∨ i = Instr.hotReset → Happens s i (fun t => bare t ∧ t.cyc = s.cyc ∧ t.sorric.active = s.sorric.active
        ∧ t.sorric.image = s.sorric.image ∧ t.sorric.sensors = s.sorric.sensors ∧ t.sorric.phys = s.sorric.phys
        ∧ (Sparse.wf Port.cold s.ports = true → ∀ p, (t.port p).crcTot = (s.port p).crcTot)
        ∧ (∀ a, a < Config.hbmBytes → t.byte a = s.byte a) ∧ ∀ a, Config.hbmBytes ≤ a → t.byte a = 0))
  ∧ ∀ (s : State) (level n bound : Nat) (i : Instr),
    (level, bound, i) ∈ [(2, 4, .resetDie n), (3, 8, .resetCluster n), (4, Config.nCores, .resetCore n), (5, Config.nCores, .resetMatrix n),
      (6, Config.nCores, .resetCopy n), (7, 8, .resetQuay n), (8, 16, .resetPort n), (9, 8, .resetCollective n)] →
    (bound ≤ n → exec i s = .next { s with sorric := { s.sorric with status := 1 } })
    ∧ (n < bound → ∀ k l, launchesIn s level n = [k] → s.launchOf k = some l → l.halt = none → s.sorric.inReset.contains { kind := level, inst := n } = false →
        Happens s i (fun t => Raised t k { kind := 15, inst := 0 } 0x87 ∧ t.cyc = s.cyc))
    ∧ (n < bound → level = 8 → (s.port n).st.isUp = true ∨ (s.port n).st = .drain →
        Happens s i (fun t => (t.port n).st = .drain ∧ (t.port n).want = .train ∧ t.sorric.inReset.contains { kind := 8, inst := n } = true))
    ∧ (n < bound → ∀ w ∈ s.sorric.inReset, unitWithin (UnitId.mk level n) w = true → launchesIn s level n = [] →
        s.sorric.inReset.contains { kind := level, inst := n } = false →
        exec i s = .next { s with sorric := { s.sorric with inReset := s.sorric.inReset ++ [{ kind := level, inst := n }] } })
    ∧ (n < bound → (∀ k ∈ launchesIn s level n, recordsDone s k = true) → s.sorric.inReset = [] →
        (level = 8 → (s.port n).st.isUp = false ∧ (s.port n).st ≠ .drain) →
        Happens s i (fun t => t.sorric.status = 0
          ∧ (level = 2 → t = sorStatus 0 (clearCluster (2 * n + 1) (clearCluster (2 * n) s)))
          ∧ (level = 3 → t = sorStatus 0 (clearColl n ((List.range 96).foldl (fun s i => clearCore (n * 96 + i) s) s)))
          ∧ (level = 4 → t = sorStatus 0 (clearCore n s) ∧ t.core n = Core.cold ∧ (∀ k, k < 4 → t.ctx (n * 4 + k) = Context.empty)
              ∧ ∀ a, t.byte a = if spAddr n 0 ≤ a ∧ a < spAddr n 0 + Config.spBytes then 0 else s.byte a)
          ∧ (level = 5 → (t.core n).mq = [] ∧ (t.core n).codebook = [] ∧ (t.core n).waveTot = 0 ∧ (t.core n).errTot = 0
              ∧ (∀ i, t.tile n i = s.tile n i) ∧ t.mem = s.mem)
          ∧ (level = 6 → (t.core n).jobs = [] ∧ (t.core n).cal = [] ∧ t.mem = s.mem)
          ∧ (level = 7 → Sparse.get Quay.cold t.quays n = Quay.cold)
          ∧ (level = 8 → (t.port n).st = .train ∧ (t.port n).buf = [])
          ∧ (level = 9 → (t.engine n).queue = [] ∧ (t.engine n).flying = [] ∧ t.groups = s.groups)))

/-- R20, R23 to R29, R265, R297, R410 to R413: what Sorric's other functions do: a mode is set where its function is idle, and otherwise waits
for that; a sensor is read without effect and takes its sample; a scrub counts an uncorrectable error, and corrects and counts a correctable one; a partition, a slot mask and a watchdog limit are set where R28 and R297
allow; islands are powered; the cap, a frequency step with its pause and the end of that (one asked for in the pause is dropped, the model's
choice, log entry 77), a window over the cap, and an ageing step or its approval, below the rated limit (log entry 78),
within the cap (log entry 92) and once an hour; the chip number; and firmware: a session, an image, its activation, and the return to the old bank. -/
def Obligations.ManagementEvents : Prop :=
  ∀ s : State,
    let so := s.sorric
    let set := fun (i : Instr) (x : Sorric) => exec i s = .next { s with sorric := x }
    (∀ n h, n ≤ 6 → fnIdle s n = true → Happens s (.setmode n h) (fun t => (t.sorric.modes.contains n = h) ∧ (∀ k, k ≠ n → t.sorric.modes.contains k = so.modes.contains k)
      ∧ t.sorric.status = 0 ∧ t.dzPool = if h = true ∧ n = 0 then [] else s.dzPool))
    ∧ (∀ n h, n ≤ 6 → fnIdle s n = false →
        set (.setmode n h) { so with asked := so.asked.filter (fun a => a.1 != n) ++ [(n, h)], status := 0 })
    ∧ (∀ n h, 6 < n → set (.setmode n h) { so with status := 1 })
    ∧ (∀ n, exec (.sensorRead n) s = .next s)
    ∧ (∀ n v, sensorListed n = true → Happens s (.telemetryUpdate n v) (fun t => t.cores = s.cores
        ∧ t.sorric.sensors = Sparse.set (sensorNone n) so.sensors n (sensorSample s n v)))
    ∧ (∀ pa, pa < Config.hbmBytes → s.eccWords.contains (pa / 8) = true →
        let i := 0x701 + 2 * stackOf pa
        set (.scrub pa) { so with eccs := Sparse.set 0 so.eccs i (Sparse.get 0 so.eccs i + 1) })
    ∧ (∀ pa, pa < Config.hbmBytes → s.eccWords.contains (pa / 8) = false → s.soft.contains (.word (pa / 8)) = true →
        let i := 0x700 + 2 * stackOf pa
        Happens s (.scrub pa) (fun t => t.sorric = { so with eccs := Sparse.set 0 so.eccs i (Sparse.get 0 so.eccs i + 1) }
          ∧ t.soft.contains (.word (pa / 8)) = false ∧ t.mem = s.mem))
    ∧ (∀ p cores sid, p ≤ 31 → sid ≤ 63 → cores.length = (coreSet cores).length → coreSet cores ≠ [] →
        (∀ g ∈ coreSet cores, ∀ q ∈ s.parts, q.1 ≠ p → ∀ x, q.2 = some x → g ∉ x.cores) →
        partBusy s p = false → s.slotMask sid ≠ 0#64 → maskClash s (some p) (s.slotMask sid) = false →
        Happens s (.partition p cores sid) (fun t => t.sorric.status = 0
          ∧ (∀ q, q ≠ p → t.part q = s.part q)
          ∧ t.part p = some { cores := coreSet cores, slotid := sid, watchdog := ((s.part p).map (·.watchdog)).getD 0, slip := 0, ready := powered s (coreSet cores) }))
    ∧ (∀ p x, s.part p = some x → Sparse.wf none s.parts = true → Happens s (.powerUp p) (fun t =>
        (∀ g ∈ x.cores, t.sorric.gated.contains (clusterOf g) = false)
        ∧ ∀ q, t.part q = (s.part q).map (fun y => { y with ready := powered t y.cores })))
    ∧ (∀ n m, n ≤ 63 → m ≠ 0#64 → let owner := (s.parts.find? (fun q => (q.2.map (fun x => x.slotid == n)).getD false)).map (·.1)
        (maskClash s owner m = true → set (.slotMask none n m) { so with status := 2 })
        ∧ (maskClash s owner m = false → (owner.map (partBusy s)).getD false = false →
          Happens s (.slotMask none n m) (fun t => t.slotMask n = m ∧ (∀ k, k ≠ n → t.slotMask k = s.slotMask k) ∧ t.sorric.status = 0)))
    ∧ (∀ p x n m, s.part p = some x → n ≤ 63 → s.slotMask n ≠ 0#64 → maskClash s (some p) (s.slotMask n) = false → partBusy s p = false →
        Happens s (.slotMask (some p) n m) (fun t => t.part p = some { x with slotid := n } ∧ (∀ q, q ≠ p → t.part q = s.part q) ∧ t.sorric.status = 0))
    ∧ (∀ p x w, s.part p = some x → Happens s (.watchdogLimit p w) (fun t => t.part p = some { x with watchdog := w }
        ∧ (∀ q, q ≠ p → t.part q = s.part q) ∧ t.sorric.status = 0))
    ∧ (∀ w, 1400 ≤ w → w ≤ 2800 → set (.powerCap w) { so with cap := w, status := 0 })
    ∧ (∀ w, w < 1400 ∨ 2800 < w → set (.powerCap w) { so with status := 1 })
    ∧ (∀ n, n < 8 →
        (relocking s (n * Config.coresPerCluster) = false →
          (∀ f, 1200 ≤ f → f ≤ 2400 → f % 100 = 0 → Happens s (.frequencyStep n f) (fun t => t.mhz n = f ∧ Sparse.get 0 t.sorric.relock n = s.cyc.toNat + 1))
          ∧ (1200 < s.mhz n → capActs s n = true →
              Happens s (.capWindow n) (fun t => t.mhz n = s.mhz n - 100 ∧ Sparse.get 0 t.sorric.volt n = Sparse.get 0 so.volt n - 1)))
        ∧ (relocking s (n * Config.coresPerCluster) = true → ∀ f, exec (.frequencyStep n f) s = .next s)
        ∧ (capActs s n = false → exec (.capWindow n) s = .next s)
        ∧ Happens s (.relock n) (fun t => Sparse.get 0 t.sorric.relock n = 0)
        ∧ (so.modes.contains 5 = true → Happens s (.ageingStep n) (fun t => t.sorric.proposals.contains n = true ∧ t.sorric.volt = so.volt))
        ∧ (so.modes.contains 5 = false → Happens s (.ageingStep n) (fun t =>
            Sparse.get 0 t.sorric.volt n = (if mayAge s n then Sparse.get 0 so.volt n + 1 else Sparse.get 0 so.volt n)
            ∧ Sparse.get 0 t.sorric.aged n = if mayAge s n then s.cyc.toNat + 1 else Sparse.get 0 so.aged n))
        ∧ (so.modes.contains 5 = false → mayAge s n = false → exec (.ageingStep n) s = .next s)
        ∧ ∀ b, so.proposals.contains n = true → Happens s (.ageingApproval n b) (fun t => t.sorric.proposals.contains n = false
            ∧ Sparse.get 0 t.sorric.volt n = if b && mayAge s n then Sparse.get 0 so.volt n + 1 else Sparse.get 0 so.volt n))
    ∧ (∀ c, c ≤ 2047 → set (.chipNumber c) { so with phys := c, status := 0 })
    ∧ (∀ b, set (.spdmSession b) { so with session := b })
    ∧ ∀ c, c ≤ 2 →
      (so.session = false → ∀ b, set (.firmwareWrite c b) { so with status := 2 })
      ∧ (so.session = true → ∀ b, set (.firmwareWrite c b) { so with image := Sparse.set false so.image c b, status := if b then 0 else 4 })
      ∧ (Sparse.get false so.image c = false → set (.activate c) { so with status := 4 })
      ∧ (Sparse.get false so.image c = true → Happens s (.activate c) (fun t => Sparse.get 0 t.sorric.active c = 1 - Sparse.get 0 so.active c
          ∧ t.sorric.swapped.contains c = true ∧ t.sorric.status = 0
          ∧ ∀ k, k < 8 → c = 2 → Sparse.get 0 so.active 2 ≤ 1 → (s.engine k).cur.isSome = true → engineBank t k = engineBank s k))
      ∧ (so.swapped.contains c = true →
          set (.selfCheck c true) { so with swapped := so.swapped.filter (· != c) }
          ∧ Happens s (.selfCheck c false) (fun t => Sparse.get 0 t.sorric.active c = 1 - Sparse.get 0 so.active c ∧ t.sorric.swapped.contains c = false))

/-! ### Encodings and the whole machine -/

/-- R53, R54, R56: the words written out from the encoding tables decode to their instructions: one word of each slot class, a word
with an extension word, a held one, and a reserved opcode, which is refused. -/
def Obligations.DecodeWords : Prop :=
  decode 0 (BitVec.ofNat 32 (0x03 * 2 ^ 23 + 9 * 2 ^ 11)) 0 = some (.bri { dst := 0, src1 := 9, src2 := 0, b1 := false, b2 := false, mod := 0 })
  ∧ decode 0 (BitVec.ofNat 32 (2 ^ 31 + 0x02 * 2 ^ 23 + 3 * 2 ^ 20 + 2 ^ 19)) 0xFFFFFFF8 = some (.brp { pred := 3, neg := true, ofs := 0, ext := some 0xFFFFFFF8 })
  ∧ decode 1 (BitVec.ofNat 32 (0x00 * 2 ^ 23 + 5 * 2 ^ 17 + 6 * 2 ^ 11 + 7 * 2 ^ 5 + 2 ^ 4 + 3)) 0 = some (.add { dst := 5, src1 := 6, src2 := 7, b1 := true, b2 := false, mod := 3 })
  ∧ decode 2 (BitVec.ofNat 32 (0x01 * 2 ^ 23 + 4 * 2 ^ 17 + 4 * 2 ^ 11 + 1023)) 0 = some (.addi { dst := 4, src1 := 4, b1 := false, imm := 1023, ext := none })
  ∧ decode 3 (BitVec.ofNat 32 (2 ^ 30 + 0x00 * 2 ^ 23 + 8 * 2 ^ 17 + 2 * 2 ^ 13 + 5 * 2 ^ 9 + 1 * 2 ^ 4)) 0
      = some (.ld { hold := true, reg := 8, abase := 2, b := false, ty := 5, step := 1, opt := 0, ext := none })
  ∧ decode 4 (BitVec.ofNat 32 (0x00 * 2 ^ 23 + 1 * 2 ^ 17 + 2 * 2 ^ 11 + 3 * 2 ^ 5)) 0
      = some (.vadd { hold := false, dst := 1, src1 := 2, src2 := 3, b1 := false, b2 := false, mod := 0, ext := none })
  ∧ decode 5 (BitVec.ofNat 32 (0x01 * 2 ^ 23 + 2 * 2 ^ 19 + 10 * 2 ^ 13 + 4 * 2 ^ 9 + 6 * 2 ^ 5)) 0
      = some (.mmaz { hold := false, acc := 2, sreg := 10, aa := 4, ab := 6, b := false, opt := 0, ext := none })
  ∧ decode 6 (BitVec.ofNat 32 (0x00 * 2 ^ 23 + 12 * 2 ^ 17 + 3 * 2 ^ 13 + 5 * 2 ^ 7 + 1)) 0
      = some (.xcopy { hold := false, sreg := 12, adesc := 3, sarg := 5, b := false, opt := 1 })
  ∧ decode 0 (BitVec.ofNat 32 (0x7E * 2 ^ 23)) 0 = none

/-- R53 to R56: decoding the words of a well-formed instruction gives it back, with every operand at every value that its format
admits. -/
def Obligations.EncodeDecode : Prop :=
  ∀ (i : Instr) (w : SlotWords), i.wf = true → encode i = some w → decode w.slot w.word w.ext = some i

/-- No step leaves memory in another form than the canonical one: addresses strictly rising, and no byte listed that is zero. -/
def Obligations.StepKeepsMemory : Prop :=
  ∀ s t : State, s.memWf = true → step s = .next t → t.memWf = true

/-- Memory after reset is in canonical form, and every byte of it reads as an unlisted one does (log entry 1: zero, the model's
choice). -/
def Obligations.ResetMemory : Prop :=
  State.reset.memWf = true ∧ ∀ a, State.reset.byte a = 0
end

