-- ==== Sys2Proof/Laws/Sparse.lean ====
section
/-! SUPPORT. The laws of the sparse tables and of memory: a read after a write, other keys unchanged, and the canonical form
kept by every operation. -/

namespace Sys2Proof

variable {α : Type}

@[simp] theorem Sparse.get_nil (d : α) (k : Nat) : Sparse.get d [] k = d := rfl

theorem Sparse.get_del_self (d : α) (t : Sparse α) (k : Nat) : Sparse.get d (Sparse.del k t) k = d := by
  induction t with
  | nil => rfl
  | cons p t ih =>
    obtain ⟨j, v⟩ := p
    by_cases h : k = j <;> simp [Sparse.del, Sparse.get, h] <;> simpa [h] using ih

theorem Sparse.get_del_ne (d : α) (t : Sparse α) {k j : Nat} (h : j ≠ k) :
    Sparse.get d (Sparse.del k t) j = Sparse.get d t j := by
  induction t with
  | nil => rfl
  | cons p t ih =>
    obtain ⟨m, v⟩ := p
    by_cases hk : k = m
    · have : j ≠ m := fun e => h (e.trans hk.symm)
      simp [Sparse.del, Sparse.get, hk, this]
      simpa [hk] using ih
    · simp [Sparse.del, Sparse.get, hk, ih]

theorem Sparse.get_ins_self (d : α) (t : Sparse α) (k : Nat) (v : α) : Sparse.get d (Sparse.ins k v t) k = v := by
  induction t with
  | nil => simp [Sparse.ins, Sparse.get]
  | cons p t ih =>
    obtain ⟨m, w⟩ := p
    by_cases h1 : k < m
    · simp [Sparse.ins, Sparse.get, h1]
    · by_cases h2 : k = m <;> simp [Sparse.ins, Sparse.get, h1, h2]
      simpa [h2] using ih

theorem Sparse.get_ins_ne (d : α) (t : Sparse α) {k j : Nat} (v : α) (h : j ≠ k) :
    Sparse.get d (Sparse.ins k v t) j = Sparse.get d t j := by
  induction t with
  | nil => simp [Sparse.ins, Sparse.get, h]
  | cons p t ih =>
    obtain ⟨m, w⟩ := p
    by_cases h1 : k < m
    · simp [Sparse.ins, Sparse.get, h1, h]
    · by_cases h2 : k = m
      · have : j ≠ m := fun e => h (e.trans h2.symm)
        simp [Sparse.ins, Sparse.get, h2, this]
      · simp [Sparse.ins, Sparse.get, h1, h2, ih]

section
variable [DecidableEq α]

/-- A read of the key written gives the value written. -/
@[simp] theorem Sparse.get_set_self (d : α) (t : Sparse α) (k : Nat) (v : α) :
    Sparse.get d (Sparse.set d t k v) k = v := by
  by_cases h : v = d
  · simp [Sparse.set, h, Sparse.get_del_self]
  · simp [Sparse.set, h, Sparse.get_ins_self]

/-- A write leaves every other key alone. -/
theorem Sparse.get_set_ne (d : α) (t : Sparse α) {k j : Nat} (v : α) (h : j ≠ k) :
    Sparse.get d (Sparse.set d t k v) j = Sparse.get d t j := by
  by_cases hv : v = d
  · simp [Sparse.set, hv, Sparse.get_del_ne d t h]
  · simp [Sparse.set, hv, Sparse.get_ins_ne d t v h]

theorem Sparse.get_set (d : α) (t : Sparse α) (k j : Nat) (v : α) :
    Sparse.get d (Sparse.set d t k v) j = if j = k then v else Sparse.get d t j := by
  by_cases h : j = k
  · simp [h]
  · simp [h, Sparse.get_set_ne d t v h]

theorem Sparse.wfFrom_mono (d : α) {lo lo' : Nat} (t : Sparse α) (h : Sparse.wfFrom d lo t = true) (hl : lo' ≤ lo) :
    Sparse.wfFrom d lo' t = true := by
  cases t with
  | nil => rfl
  | cons p t =>
    obtain ⟨j, v⟩ := p
    simp only [Sparse.wfFrom, Bool.and_eq_true, decide_eq_true_eq, Bool.not_eq_true'] at h ⊢
    exact ⟨⟨by omega, h.1.2⟩, h.2⟩

theorem Sparse.wfFrom_del (d : α) (k : Nat) (t : Sparse α) : ∀ lo, Sparse.wfFrom d lo t = true →
    Sparse.wfFrom d lo (Sparse.del k t) = true := by
  induction t with
  | nil => intro lo _; rfl
  | cons p t ih =>
    obtain ⟨j, v⟩ := p
    intro lo h
    simp only [Sparse.wfFrom, Bool.and_eq_true, decide_eq_true_eq, Bool.not_eq_true'] at h
    by_cases hk : k = j
    · simp only [Sparse.del, hk, if_true]
      have := ih (j + 1) h.2
      rw [hk] at this
      exact Sparse.wfFrom_mono d _ this (by omega)
    · simp only [Sparse.del, hk, if_false, Sparse.wfFrom, Bool.and_eq_true, decide_eq_true_eq, Bool.not_eq_true']
      exact ⟨h.1, ih (j + 1) h.2⟩

theorem Sparse.wfFrom_ins (d : α) (k : Nat) (v : α) (hv : v ≠ d) (t : Sparse α) : ∀ lo, lo ≤ k →
    Sparse.wfFrom d lo t = true → Sparse.wfFrom d lo (Sparse.ins k v t) = true := by
  induction t with
  | nil => intro lo hl _; simp [Sparse.ins, Sparse.wfFrom, hl, hv]
  | cons p t ih =>
    obtain ⟨j, w⟩ := p
    intro lo hl h
    simp only [Sparse.wfFrom, Bool.and_eq_true, decide_eq_true_eq, Bool.not_eq_true'] at h
    by_cases h1 : k < j
    · simp only [Sparse.ins, h1, if_true, Sparse.wfFrom, Bool.and_eq_true, decide_eq_true_eq, Bool.not_eq_true']
      exact ⟨⟨hl, by simp [hv]⟩, ⟨by omega, h.1.2⟩, h.2⟩
    · by_cases h2 : k = j
      · simp only [Sparse.ins, h2, lt_irrefl, if_false, if_true, Sparse.wfFrom, Bool.and_eq_true, decide_eq_true_eq,
          Bool.not_eq_true']
        exact ⟨⟨by omega, by simp [hv]⟩, h.2⟩
      · simp only [Sparse.ins, h1, h2, if_false, Sparse.wfFrom, Bool.and_eq_true, decide_eq_true_eq, Bool.not_eq_true']
        exact ⟨h.1, ih (j + 1) (by omega) h.2⟩

/-- A write keeps the canonical form. -/
theorem Sparse.wf_set (d : α) (t : Sparse α) (k : Nat) (v : α) (h : Sparse.wf d t = true) :
    Sparse.wf d (Sparse.set d t k v) = true := by
  by_cases hv : v = d
  · simpa [Sparse.set, hv, Sparse.wf] using Sparse.wfFrom_del d k t 0 h
  · simpa [Sparse.set, hv, Sparse.wf] using Sparse.wfFrom_ins d k v hv t 0 (Nat.zero_le _) h

/-- A table whose listed keys are thinned out keeps the canonical form. -/
theorem Sparse.wfFrom_filter (d : α) (f : Nat × α → Bool) (t : Sparse α) : ∀ lo, Sparse.wfFrom d lo t = true →
    Sparse.wfFrom d lo (t.filter f) = true := by
  induction t with
  | nil => intro lo _; rfl
  | cons p t ih =>
    obtain ⟨j, v⟩ := p
    intro lo h
    simp only [Sparse.wfFrom, Bool.and_eq_true, decide_eq_true_eq, Bool.not_eq_true'] at h
    by_cases hf : f (j, v) = true
    · simp only [List.filter_cons, hf, if_true, Sparse.wfFrom, Bool.and_eq_true, decide_eq_true_eq, Bool.not_eq_true']
      exact ⟨h.1, ih (j + 1) h.2⟩
    · simp only [List.filter_cons, hf]
      exact Sparse.wfFrom_mono d _ (ih (j + 1) h.2) (by omega)

theorem Sparse.wf_filter (d : α) (f : Nat × α → Bool) (t : Sparse α) (h : Sparse.wf d t = true) :
    Sparse.wf d (t.filter f) = true := Sparse.wfFrom_filter d f t 0 h

/-- Mapping the listed values keeps the canonical form. -/
theorem Sparse.wf_mapV (d : α) (f : Nat → α → α) (t : Sparse α) (h : Sparse.wf d t = true) :
    Sparse.wf d (Sparse.mapV d f t) = true := by
  have key : ∀ (t : Sparse α) lo, Sparse.wfFrom d lo t = true → Sparse.wfFrom d lo (Sparse.mapV d f t) = true := by
    intro t
    induction t with
    | nil => intro lo _; rfl
    | cons p t ih =>
      obtain ⟨j, v⟩ := p
      intro lo h
      simp only [Sparse.wfFrom, Bool.and_eq_true, decide_eq_true_eq, Bool.not_eq_true'] at h
      by_cases hf : f j v = d
      · simp only [Sparse.mapV, hf, if_true]
        exact Sparse.wfFrom_mono d _ (ih (j + 1) h.2) (by omega)
      · simp only [Sparse.mapV, hf, if_false, Sparse.wfFrom, Bool.and_eq_true, decide_eq_true_eq, Bool.not_eq_true']
        exact ⟨⟨h.1.1, by simp⟩, ih (j + 1) h.2⟩
  exact key t 0 h

end

namespace Machine

/-! ### Memory -/

@[simp] theorem byte_setByte_self (s : State) (pa : Nat) (b : Byte) : (s.setByte pa b).byte pa = b := by
  simp [State.byte, State.setByte]

theorem byte_setByte_ne (s : State) {pa a : Nat} (b : Byte) (h : a ≠ pa) : (s.setByte pa b).byte a = s.byte a :=
  Sparse.get_set_ne 0 s.mem b h

/-- A write of bytes leaves every byte outside its range alone. -/
theorem byte_wrBytes_out (l : List Byte) : ∀ (s : State) (pa a : Nat), (a < pa ∨ pa + l.length ≤ a) →
    (wrBytes s pa l).byte a = s.byte a := by
  induction l with
  | nil => intro s pa a _; rfl
  | cons b t ih =>
    intro s pa a h
    simp only [List.length_cons] at h
    rw [wrBytes, ih _ _ _ (by omega), byte_setByte_ne _ _ (by omega)]

/-- A write of bytes stores each at its place. -/
theorem byte_wrBytes_in (l : List Byte) : ∀ (s : State) (pa k : Nat) (h : k < l.length),
    (wrBytes s pa l).byte (pa + k) = l[k] := by
  induction l with
  | nil => intro s pa k h; exact absurd h (Nat.not_lt_zero _)
  | cons b t ih =>
    intro s pa k h
    cases k with
    | zero => rw [wrBytes, byte_wrBytes_out _ _ _ _ (by omega)]; simp
    | succ k =>
      have := ih (s.setByte pa b) (pa + 1) k (by simpa using h)
      rw [wrBytes, show pa + (k + 1) = pa + 1 + k by omega, this]; simp

@[simp] theorem length_leBytes (n : Nat) : ∀ v, (leBytes n v).length = n := by
  induction n with
  | zero => intro v; rfl
  | succ n ih => intro v; simp [leBytes, ih]

/-- A little-endian write leaves every byte outside its range alone. -/
theorem byte_wr_out (s : State) (pa n v a : Nat) (h : a < pa ∨ pa + n ≤ a) : (wr s pa n v).byte a = s.byte a :=
  byte_wrBytes_out _ _ _ _ (by simpa using h)

theorem rdBytes_congr (s t : State) (n : Nat) : ∀ pa, (∀ k, k < n → s.byte (pa + k) = t.byte (pa + k)) →
    rdBytes s pa n = rdBytes t pa n := by
  induction n with
  | zero => intro pa _; rfl
  | succ n ih =>
    intro pa h
    rw [rdBytes, rdBytes, ih (pa + 1) (fun k hk => by
      have := h (k + 1) (by omega)
      rwa [show pa + (k + 1) = pa + 1 + k by omega] at this)]
    simpa using h 0 (by omega)

theorem rdBytes_wrBytes (l : List Byte) : ∀ (s : State) (pa : Nat), rdBytes (wrBytes s pa l) pa l.length = l := by
  induction l with
  | nil => intro s pa; rfl
  | cons b t ih =>
    intro s pa
    have h0 := byte_wrBytes_in (b :: t) s pa 0 (by simp)
    simp only [Nat.add_zero, List.getElem_cons_zero] at h0
    rw [List.length_cons, rdBytes, h0]
    exact congrArg _ (ih (s.setByte pa b) (pa + 1))

theorem leNat_leBytes (n : Nat) : ∀ v, leNat (leBytes n v) = v % 2 ^ (8 * n) := by
  induction n with
  | zero => intro v; simp [leBytes, leNat, Nat.mod_one]
  | succ n ih =>
    intro v
    rw [leBytes, leNat, ih]
    have h1 : (BitVec.ofNat 8 v).toNat = v % 256 := by simp
    rw [h1, show 8 * (n + 1) = 8 + 8 * n by ring, pow_add, Nat.mod_mul]
    norm_num

/-- A little-endian read of what was written. -/
theorem rd_wr (s : State) (pa n v : Nat) : rd (wr s pa n v) pa n = v % 2 ^ (8 * n) := by
  have h := rdBytes_wrBytes (leBytes n v) s pa
  rw [length_leBytes] at h
  rw [rd, wr, h, leNat_leBytes]

/-- A little-endian read away from a write is as before. -/
theorem rd_wr_out (s : State) (pa n v a m : Nat) (h : a + m ≤ pa ∨ pa + n ≤ a) : rd (wr s pa n v) a m = rd s a m := by
  rw [rd, rd, rdBytes_congr _ s m a (fun k hk => byte_wr_out s pa n v (a + k) (by omega))]

/-- A byte write keeps the memory's canonical form. -/
theorem memWf_setByte (s : State) (pa : Nat) (b : Byte) (h : s.memWf = true) : (s.setByte pa b).memWf = true :=
  Sparse.wf_set 0 s.mem pa b h

theorem memWf_wrBytes (l : List Byte) : ∀ (s : State) (pa : Nat), s.memWf = true → (wrBytes s pa l).memWf = true := by
  induction l with
  | nil => intro s pa h; exact h
  | cons b t ih => intro s pa h; exact ih _ _ (memWf_setByte s pa b h)

theorem memWf_wr (s : State) (pa n v : Nat) (h : s.memWf = true) : (wr s pa n v).memWf = true := memWf_wrBytes _ s pa h

end Machine

end Sys2Proof
end

