-- ==== Sys2Proof/Laws/State.lean ====
section
/-! SUPPORT. The fields that each update of the state leaves alone, one lemma per field and update, and what the accessors
read after an update. -/

namespace Sys2Proof.Machine

/-! ### `setByte` -/

@[simp] theorem setByte_cyc (s : State) (pa : Nat) (b : Byte) : (s.setByte pa b).cyc = s.cyc := rfl

@[simp] theorem setByte_cores (s : State) (pa : Nat) (b : Byte) : (s.setByte pa b).cores = s.cores := rfl

@[simp] theorem setByte_saved (s : State) (pa : Nat) (b : Byte) : (s.setByte pa b).saved = s.saved := rfl

@[simp] theorem setByte_segs (s : State) (pa : Nat) (b : Byte) : (s.setByte pa b).segs = s.segs := rfl

@[simp] theorem setByte_jobs (s : State) (pa : Nat) (b : Byte) : (s.setByte pa b).jobs = s.jobs := rfl

@[simp] theorem setByte_routes (s : State) (pa : Nat) (b : Byte) : (s.setByte pa b).routes = s.routes := rfl

@[simp] theorem setByte_keys (s : State) (pa : Nat) (b : Byte) : (s.setByte pa b).keys = s.keys := rfl

@[simp] theorem setByte_dzPool (s : State) (pa : Nat) (b : Byte) : (s.setByte pa b).dzPool = s.dzPool := rfl

@[simp] theorem setByte_fills (s : State) (pa : Nat) (b : Byte) : (s.setByte pa b).fills = s.fills := rfl

@[simp] theorem setByte_fillFail (s : State) (pa : Nat) (b : Byte) : (s.setByte pa b).fillFail = s.fillFail := rfl

@[simp] theorem setByte_migs (s : State) (pa : Nat) (b : Byte) : (s.setByte pa b).migs = s.migs := rfl

@[simp] theorem setByte_slotMasks (s : State) (pa : Nat) (b : Byte) : (s.setByte pa b).slotMasks = s.slotMasks := rfl

@[simp] theorem setByte_parts (s : State) (pa : Nat) (b : Byte) : (s.setByte pa b).parts = s.parts := rfl

@[simp] theorem setByte_queues (s : State) (pa : Nat) (b : Byte) : (s.setByte pa b).queues = s.queues := rfl

@[simp] theorem setByte_segStat (s : State) (pa : Nat) (b : Byte) : (s.setByte pa b).segStat = s.segStat := rfl

@[simp] theorem setByte_preStat (s : State) (pa : Nat) (b : Byte) : (s.setByte pa b).preStat = s.preStat := rfl

@[simp] theorem setByte_rsvBase (s : State) (pa : Nat) (b : Byte) : (s.setByte pa b).rsvBase = s.rsvBase := rfl

@[simp] theorem setByte_rsvSize (s : State) (pa : Nat) (b : Byte) : (s.setByte pa b).rsvSize = s.rsvSize := rfl

@[simp] theorem setByte_preDelay (s : State) (pa : Nat) (b : Byte) : (s.setByte pa b).preDelay = s.preDelay := rfl

@[simp] theorem setByte_launches (s : State) (pa : Nat) (b : Byte) : (s.setByte pa b).launches = s.launches := rfl

@[simp] theorem setByte_pool (s : State) (pa : Nat) (b : Byte) : (s.setByte pa b).pool = s.pool := rfl

@[simp] theorem setByte_planeOwner (s : State) (pa : Nat) (b : Byte) : (s.setByte pa b).planeOwner = s.planeOwner := rfl

@[simp] theorem setByte_msix (s : State) (pa : Nat) (b : Byte) : (s.setByte pa b).msix = s.msix := rfl

@[simp] theorem setByte_preReqs (s : State) (pa : Nat) (b : Byte) : (s.setByte pa b).preReqs = s.preReqs := rfl

@[simp] theorem setByte_lastDisp (s : State) (pa : Nat) (b : Byte) : (s.setByte pa b).lastDisp = s.lastDisp := rfl

@[simp] theorem setByte_quays (s : State) (pa : Nat) (b : Byte) : (s.setByte pa b).quays = s.quays := rfl

@[simp] theorem setByte_ports (s : State) (pa : Nat) (b : Byte) : (s.setByte pa b).ports = s.ports := rfl

@[simp] theorem setByte_triples (s : State) (pa : Nat) (b : Byte) : (s.setByte pa b).triples = s.triples := rfl

@[simp] theorem setByte_windows (s : State) (pa : Nat) (b : Byte) : (s.setByte pa b).windows = s.windows := rfl

@[simp] theorem setByte_qpErr (s : State) (pa : Nat) (b : Byte) : (s.setByte pa b).qpErr = s.qpErr := rfl

@[simp] theorem setByte_groups (s : State) (pa : Nat) (b : Byte) : (s.setByte pa b).groups = s.groups := rfl

@[simp] theorem setByte_coll (s : State) (pa : Nat) (b : Byte) : (s.setByte pa b).coll = s.coll := rfl

@[simp] theorem setByte_sorric (s : State) (pa : Nat) (b : Byte) : (s.setByte pa b).sorric = s.sorric := rfl

@[simp] theorem setByte_eccWords (s : State) (pa : Nat) (b : Byte) : (s.setByte pa b).eccWords = s.eccWords := rfl

@[simp] theorem setByte_eccLanes (s : State) (pa : Nat) (b : Byte) : (s.setByte pa b).eccLanes = s.eccLanes := rfl

@[simp] theorem setByte_eccCb (s : State) (pa : Nat) (b : Byte) : (s.setByte pa b).eccCb = s.eccCb := rfl

@[simp] theorem setByte_agenda (s : State) (pa : Nat) (b : Byte) : (s.setByte pa b).agenda = s.agenda := rfl

@[simp] theorem setByte_free (s : State) (pa : Nat) (b : Byte) : (s.setByte pa b).free = s.free := rfl

@[simp] theorem setByte_num (s : State) (pa : Nat) (b : Byte) : (s.setByte pa b).num = s.num := rfl

@[simp] theorem setByte_cur (s : State) (pa : Nat) (b : Byte) : (s.setByte pa b).cur = s.cur := rfl

@[simp] theorem setByte_latch (s : State) (pa : Nat) (b : Byte) : (s.setByte pa b).latch = s.latch := rfl

@[simp] theorem setByte_deferred (s : State) (pa : Nat) (b : Byte) : (s.setByte pa b).deferred = s.deferred := rfl

@[simp] theorem setByte_wireOut (s : State) (pa : Nat) (b : Byte) : (s.setByte pa b).wireOut = s.wireOut := rfl

@[simp] theorem setByte_owedAdds (s : State) (pa : Nat) (b : Byte) : (s.setByte pa b).owedAdds = s.owedAdds := rfl

@[simp] theorem setByte_hostHeld (s : State) (pa : Nat) (b : Byte) : (s.setByte pa b).hostHeld = s.hostHeld := rfl

@[simp] theorem setByte_qps (s : State) (pa : Nat) (b : Byte) : (s.setByte pa b).qps = s.qps := rfl

@[simp] theorem setByte_ctrSlots (s : State) (pa : Nat) (b : Byte) : (s.setByte pa b).ctrSlots = s.ctrSlots := rfl

@[simp] theorem setByte_peerSlots (s : State) (pa : Nat) (b : Byte) : (s.setByte pa b).peerSlots = s.peerSlots := rfl

@[simp] theorem setByte_extBase (s : State) (pa : Nat) (b : Byte) : (s.setByte pa b).extBase = s.extBase := rfl

@[simp] theorem setByte_noCredit (s : State) (pa : Nat) (b : Byte) : (s.setByte pa b).noCredit = s.noCredit := rfl

@[simp] theorem setByte_commits (s : State) (pa : Nat) (b : Byte) : (s.setByte pa b).commits = s.commits := rfl

@[simp] theorem setByte_soft (s : State) (pa : Nat) (b : Byte) : (s.setByte pa b).soft = s.soft := rfl

/-! ### `setCore` -/

@[simp] theorem setCore_cyc (s : State) (g : Nat) (c : Core) : (s.setCore g c).cyc = s.cyc := rfl

@[simp] theorem setCore_mem (s : State) (g : Nat) (c : Core) : (s.setCore g c).mem = s.mem := rfl

@[simp] theorem setCore_saved (s : State) (g : Nat) (c : Core) : (s.setCore g c).saved = s.saved := rfl

@[simp] theorem setCore_segs (s : State) (g : Nat) (c : Core) : (s.setCore g c).segs = s.segs := rfl

@[simp] theorem setCore_jobs (s : State) (g : Nat) (c : Core) : (s.setCore g c).jobs = s.jobs := rfl

@[simp] theorem setCore_routes (s : State) (g : Nat) (c : Core) : (s.setCore g c).routes = s.routes := rfl

@[simp] theorem setCore_keys (s : State) (g : Nat) (c : Core) : (s.setCore g c).keys = s.keys := rfl

@[simp] theorem setCore_dzPool (s : State) (g : Nat) (c : Core) : (s.setCore g c).dzPool = s.dzPool := rfl

@[simp] theorem setCore_fills (s : State) (g : Nat) (c : Core) : (s.setCore g c).fills = s.fills := rfl

@[simp] theorem setCore_fillFail (s : State) (g : Nat) (c : Core) : (s.setCore g c).fillFail = s.fillFail := rfl

@[simp] theorem setCore_migs (s : State) (g : Nat) (c : Core) : (s.setCore g c).migs = s.migs := rfl

@[simp] theorem setCore_slotMasks (s : State) (g : Nat) (c : Core) : (s.setCore g c).slotMasks = s.slotMasks := rfl

@[simp] theorem setCore_parts (s : State) (g : Nat) (c : Core) : (s.setCore g c).parts = s.parts := rfl

@[simp] theorem setCore_queues (s : State) (g : Nat) (c : Core) : (s.setCore g c).queues = s.queues := rfl

@[simp] theorem setCore_segStat (s : State) (g : Nat) (c : Core) : (s.setCore g c).segStat = s.segStat := rfl

@[simp] theorem setCore_preStat (s : State) (g : Nat) (c : Core) : (s.setCore g c).preStat = s.preStat := rfl

@[simp] theorem setCore_rsvBase (s : State) (g : Nat) (c : Core) : (s.setCore g c).rsvBase = s.rsvBase := rfl

@[simp] theorem setCore_rsvSize (s : State) (g : Nat) (c : Core) : (s.setCore g c).rsvSize = s.rsvSize := rfl

@[simp] theorem setCore_preDelay (s : State) (g : Nat) (c : Core) : (s.setCore g c).preDelay = s.preDelay := rfl

@[simp] theorem setCore_launches (s : State) (g : Nat) (c : Core) : (s.setCore g c).launches = s.launches := rfl

@[simp] theorem setCore_pool (s : State) (g : Nat) (c : Core) : (s.setCore g c).pool = s.pool := rfl

@[simp] theorem setCore_planeOwner (s : State) (g : Nat) (c : Core) : (s.setCore g c).planeOwner = s.planeOwner := rfl

@[simp] theorem setCore_msix (s : State) (g : Nat) (c : Core) : (s.setCore g c).msix = s.msix := rfl

@[simp] theorem setCore_preReqs (s : State) (g : Nat) (c : Core) : (s.setCore g c).preReqs = s.preReqs := rfl

@[simp] theorem setCore_lastDisp (s : State) (g : Nat) (c : Core) : (s.setCore g c).lastDisp = s.lastDisp := rfl

@[simp] theorem setCore_quays (s : State) (g : Nat) (c : Core) : (s.setCore g c).quays = s.quays := rfl

@[simp] theorem setCore_ports (s : State) (g : Nat) (c : Core) : (s.setCore g c).ports = s.ports := rfl

@[simp] theorem setCore_triples (s : State) (g : Nat) (c : Core) : (s.setCore g c).triples = s.triples := rfl

@[simp] theorem setCore_windows (s : State) (g : Nat) (c : Core) : (s.setCore g c).windows = s.windows := rfl

@[simp] theorem setCore_qpErr (s : State) (g : Nat) (c : Core) : (s.setCore g c).qpErr = s.qpErr := rfl

@[simp] theorem setCore_groups (s : State) (g : Nat) (c : Core) : (s.setCore g c).groups = s.groups := rfl

@[simp] theorem setCore_coll (s : State) (g : Nat) (c : Core) : (s.setCore g c).coll = s.coll := rfl

@[simp] theorem setCore_sorric (s : State) (g : Nat) (c : Core) : (s.setCore g c).sorric = s.sorric := rfl

@[simp] theorem setCore_eccWords (s : State) (g : Nat) (c : Core) : (s.setCore g c).eccWords = s.eccWords := rfl

@[simp] theorem setCore_eccLanes (s : State) (g : Nat) (c : Core) : (s.setCore g c).eccLanes = s.eccLanes := rfl

@[simp] theorem setCore_eccCb (s : State) (g : Nat) (c : Core) : (s.setCore g c).eccCb = s.eccCb := rfl

@[simp] theorem setCore_agenda (s : State) (g : Nat) (c : Core) : (s.setCore g c).agenda = s.agenda := rfl

@[simp] theorem setCore_free (s : State) (g : Nat) (c : Core) : (s.setCore g c).free = s.free := rfl

@[simp] theorem setCore_num (s : State) (g : Nat) (c : Core) : (s.setCore g c).num = s.num := rfl

@[simp] theorem setCore_cur (s : State) (g : Nat) (c : Core) : (s.setCore g c).cur = s.cur := rfl

@[simp] theorem setCore_latch (s : State) (g : Nat) (c : Core) : (s.setCore g c).latch = s.latch := rfl

@[simp] theorem setCore_deferred (s : State) (g : Nat) (c : Core) : (s.setCore g c).deferred = s.deferred := rfl

@[simp] theorem setCore_wireOut (s : State) (g : Nat) (c : Core) : (s.setCore g c).wireOut = s.wireOut := rfl

@[simp] theorem setCore_owedAdds (s : State) (g : Nat) (c : Core) : (s.setCore g c).owedAdds = s.owedAdds := rfl

@[simp] theorem setCore_hostHeld (s : State) (g : Nat) (c : Core) : (s.setCore g c).hostHeld = s.hostHeld := rfl

@[simp] theorem setCore_qps (s : State) (g : Nat) (c : Core) : (s.setCore g c).qps = s.qps := rfl

@[simp] theorem setCore_ctrSlots (s : State) (g : Nat) (c : Core) : (s.setCore g c).ctrSlots = s.ctrSlots := rfl

@[simp] theorem setCore_peerSlots (s : State) (g : Nat) (c : Core) : (s.setCore g c).peerSlots = s.peerSlots := rfl

@[simp] theorem setCore_extBase (s : State) (g : Nat) (c : Core) : (s.setCore g c).extBase = s.extBase := rfl

@[simp] theorem setCore_noCredit (s : State) (g : Nat) (c : Core) : (s.setCore g c).noCredit = s.noCredit := rfl

@[simp] theorem setCore_commits (s : State) (g : Nat) (c : Core) : (s.setCore g c).commits = s.commits := rfl

@[simp] theorem setCore_soft (s : State) (g : Nat) (c : Core) : (s.setCore g c).soft = s.soft := rfl

/-! ### `updCore` -/

@[simp] theorem updCore_cyc (s : State) (g : Nat) (f : Core → Core) : (s.updCore g f).cyc = s.cyc := rfl

@[simp] theorem updCore_mem (s : State) (g : Nat) (f : Core → Core) : (s.updCore g f).mem = s.mem := rfl

@[simp] theorem updCore_saved (s : State) (g : Nat) (f : Core → Core) : (s.updCore g f).saved = s.saved := rfl

@[simp] theorem updCore_segs (s : State) (g : Nat) (f : Core → Core) : (s.updCore g f).segs = s.segs := rfl

@[simp] theorem updCore_jobs (s : State) (g : Nat) (f : Core → Core) : (s.updCore g f).jobs = s.jobs := rfl

@[simp] theorem updCore_routes (s : State) (g : Nat) (f : Core → Core) : (s.updCore g f).routes = s.routes := rfl

@[simp] theorem updCore_keys (s : State) (g : Nat) (f : Core → Core) : (s.updCore g f).keys = s.keys := rfl

@[simp] theorem updCore_dzPool (s : State) (g : Nat) (f : Core → Core) : (s.updCore g f).dzPool = s.dzPool := rfl

@[simp] theorem updCore_fills (s : State) (g : Nat) (f : Core → Core) : (s.updCore g f).fills = s.fills := rfl

@[simp] theorem updCore_fillFail (s : State) (g : Nat) (f : Core → Core) : (s.updCore g f).fillFail = s.fillFail := rfl

@[simp] theorem updCore_migs (s : State) (g : Nat) (f : Core → Core) : (s.updCore g f).migs = s.migs := rfl

@[simp] theorem updCore_slotMasks (s : State) (g : Nat) (f : Core → Core) : (s.updCore g f).slotMasks = s.slotMasks := rfl

@[simp] theorem updCore_parts (s : State) (g : Nat) (f : Core → Core) : (s.updCore g f).parts = s.parts := rfl

@[simp] theorem updCore_queues (s : State) (g : Nat) (f : Core → Core) : (s.updCore g f).queues = s.queues := rfl

@[simp] theorem updCore_segStat (s : State) (g : Nat) (f : Core → Core) : (s.updCore g f).segStat = s.segStat := rfl

@[simp] theorem updCore_preStat (s : State) (g : Nat) (f : Core → Core) : (s.updCore g f).preStat = s.preStat := rfl

@[simp] theorem updCore_rsvBase (s : State) (g : Nat) (f : Core → Core) : (s.updCore g f).rsvBase = s.rsvBase := rfl

@[simp] theorem updCore_rsvSize (s : State) (g : Nat) (f : Core → Core) : (s.updCore g f).rsvSize = s.rsvSize := rfl

@[simp] theorem updCore_preDelay (s : State) (g : Nat) (f : Core → Core) : (s.updCore g f).preDelay = s.preDelay := rfl

@[simp] theorem updCore_launches (s : State) (g : Nat) (f : Core → Core) : (s.updCore g f).launches = s.launches := rfl

@[simp] theorem updCore_pool (s : State) (g : Nat) (f : Core → Core) : (s.updCore g f).pool = s.pool := rfl

@[simp] theorem updCore_planeOwner (s : State) (g : Nat) (f : Core → Core) : (s.updCore g f).planeOwner = s.planeOwner := rfl

@[simp] theorem updCore_msix (s : State) (g : Nat) (f : Core → Core) : (s.updCore g f).msix = s.msix := rfl

@[simp] theorem updCore_preReqs (s : State) (g : Nat) (f : Core → Core) : (s.updCore g f).preReqs = s.preReqs := rfl

@[simp] theorem updCore_lastDisp (s : State) (g : Nat) (f : Core → Core) : (s.updCore g f).lastDisp = s.lastDisp := rfl

@[simp] theorem updCore_quays (s : State) (g : Nat) (f : Core → Core) : (s.updCore g f).quays = s.quays := rfl

@[simp] theorem updCore_ports (s : State) (g : Nat) (f : Core → Core) : (s.updCore g f).ports = s.ports := rfl

@[simp] theorem updCore_triples (s : State) (g : Nat) (f : Core → Core) : (s.updCore g f).triples = s.triples := rfl

@[simp] theorem updCore_windows (s : State) (g : Nat) (f : Core → Core) : (s.updCore g f).windows = s.windows := rfl

@[simp] theorem updCore_qpErr (s : State) (g : Nat) (f : Core → Core) : (s.updCore g f).qpErr = s.qpErr := rfl

@[simp] theorem updCore_groups (s : State) (g : Nat) (f : Core → Core) : (s.updCore g f).groups = s.groups := rfl

@[simp] theorem updCore_coll (s : State) (g : Nat) (f : Core → Core) : (s.updCore g f).coll = s.coll := rfl

@[simp] theorem updCore_sorric (s : State) (g : Nat) (f : Core → Core) : (s.updCore g f).sorric = s.sorric := rfl

@[simp] theorem updCore_eccWords (s : State) (g : Nat) (f : Core → Core) : (s.updCore g f).eccWords = s.eccWords := rfl

@[simp] theorem updCore_eccLanes (s : State) (g : Nat) (f : Core → Core) : (s.updCore g f).eccLanes = s.eccLanes := rfl

@[simp] theorem updCore_eccCb (s : State) (g : Nat) (f : Core → Core) : (s.updCore g f).eccCb = s.eccCb := rfl

@[simp] theorem updCore_agenda (s : State) (g : Nat) (f : Core → Core) : (s.updCore g f).agenda = s.agenda := rfl

@[simp] theorem updCore_free (s : State) (g : Nat) (f : Core → Core) : (s.updCore g f).free = s.free := rfl

@[simp] theorem updCore_num (s : State) (g : Nat) (f : Core → Core) : (s.updCore g f).num = s.num := rfl

@[simp] theorem updCore_cur (s : State) (g : Nat) (f : Core → Core) : (s.updCore g f).cur = s.cur := rfl

@[simp] theorem updCore_latch (s : State) (g : Nat) (f : Core → Core) : (s.updCore g f).latch = s.latch := rfl

@[simp] theorem updCore_deferred (s : State) (g : Nat) (f : Core → Core) : (s.updCore g f).deferred = s.deferred := rfl

@[simp] theorem updCore_wireOut (s : State) (g : Nat) (f : Core → Core) : (s.updCore g f).wireOut = s.wireOut := rfl

@[simp] theorem updCore_owedAdds (s : State) (g : Nat) (f : Core → Core) : (s.updCore g f).owedAdds = s.owedAdds := rfl

@[simp] theorem updCore_hostHeld (s : State) (g : Nat) (f : Core → Core) : (s.updCore g f).hostHeld = s.hostHeld := rfl

@[simp] theorem updCore_qps (s : State) (g : Nat) (f : Core → Core) : (s.updCore g f).qps = s.qps := rfl

@[simp] theorem updCore_ctrSlots (s : State) (g : Nat) (f : Core → Core) : (s.updCore g f).ctrSlots = s.ctrSlots := rfl

@[simp] theorem updCore_peerSlots (s : State) (g : Nat) (f : Core → Core) : (s.updCore g f).peerSlots = s.peerSlots := rfl

@[simp] theorem updCore_extBase (s : State) (g : Nat) (f : Core → Core) : (s.updCore g f).extBase = s.extBase := rfl

@[simp] theorem updCore_noCredit (s : State) (g : Nat) (f : Core → Core) : (s.updCore g f).noCredit = s.noCredit := rfl

@[simp] theorem updCore_commits (s : State) (g : Nat) (f : Core → Core) : (s.updCore g f).commits = s.commits := rfl

@[simp] theorem updCore_soft (s : State) (g : Nat) (f : Core → Core) : (s.updCore g f).soft = s.soft := rfl

/-! ### `updLaunch` -/

@[simp] theorem updLaunch_cyc (s : State) (id : Nat) (f : Launch → Launch) : (s.updLaunch id f).cyc = s.cyc := rfl

@[simp] theorem updLaunch_mem (s : State) (id : Nat) (f : Launch → Launch) : (s.updLaunch id f).mem = s.mem := rfl

@[simp] theorem updLaunch_cores (s : State) (id : Nat) (f : Launch → Launch) : (s.updLaunch id f).cores = s.cores := rfl

@[simp] theorem updLaunch_saved (s : State) (id : Nat) (f : Launch → Launch) : (s.updLaunch id f).saved = s.saved := rfl

@[simp] theorem updLaunch_segs (s : State) (id : Nat) (f : Launch → Launch) : (s.updLaunch id f).segs = s.segs := rfl

@[simp] theorem updLaunch_jobs (s : State) (id : Nat) (f : Launch → Launch) : (s.updLaunch id f).jobs = s.jobs := rfl

@[simp] theorem updLaunch_routes (s : State) (id : Nat) (f : Launch → Launch) : (s.updLaunch id f).routes = s.routes := rfl

@[simp] theorem updLaunch_keys (s : State) (id : Nat) (f : Launch → Launch) : (s.updLaunch id f).keys = s.keys := rfl

@[simp] theorem updLaunch_dzPool (s : State) (id : Nat) (f : Launch → Launch) : (s.updLaunch id f).dzPool = s.dzPool := rfl

@[simp] theorem updLaunch_fills (s : State) (id : Nat) (f : Launch → Launch) : (s.updLaunch id f).fills = s.fills := rfl

@[simp] theorem updLaunch_fillFail (s : State) (id : Nat) (f : Launch → Launch) : (s.updLaunch id f).fillFail = s.fillFail := rfl

@[simp] theorem updLaunch_migs (s : State) (id : Nat) (f : Launch → Launch) : (s.updLaunch id f).migs = s.migs := rfl

@[simp] theorem updLaunch_slotMasks (s : State) (id : Nat) (f : Launch → Launch) : (s.updLaunch id f).slotMasks = s.slotMasks := rfl

@[simp] theorem updLaunch_parts (s : State) (id : Nat) (f : Launch → Launch) : (s.updLaunch id f).parts = s.parts := rfl

@[simp] theorem updLaunch_queues (s : State) (id : Nat) (f : Launch → Launch) : (s.updLaunch id f).queues = s.queues := rfl

@[simp] theorem updLaunch_segStat (s : State) (id : Nat) (f : Launch → Launch) : (s.updLaunch id f).segStat = s.segStat := rfl

@[simp] theorem updLaunch_preStat (s : State) (id : Nat) (f : Launch → Launch) : (s.updLaunch id f).preStat = s.preStat := rfl

@[simp] theorem updLaunch_rsvBase (s : State) (id : Nat) (f : Launch → Launch) : (s.updLaunch id f).rsvBase = s.rsvBase := rfl

@[simp] theorem updLaunch_rsvSize (s : State) (id : Nat) (f : Launch → Launch) : (s.updLaunch id f).rsvSize = s.rsvSize := rfl

@[simp] theorem updLaunch_preDelay (s : State) (id : Nat) (f : Launch → Launch) : (s.updLaunch id f).preDelay = s.preDelay := rfl

@[simp] theorem updLaunch_pool (s : State) (id : Nat) (f : Launch → Launch) : (s.updLaunch id f).pool = s.pool := rfl

@[simp] theorem updLaunch_planeOwner (s : State) (id : Nat) (f : Launch → Launch) : (s.updLaunch id f).planeOwner = s.planeOwner := rfl

@[simp] theorem updLaunch_msix (s : State) (id : Nat) (f : Launch → Launch) : (s.updLaunch id f).msix = s.msix := rfl

@[simp] theorem updLaunch_preReqs (s : State) (id : Nat) (f : Launch → Launch) : (s.updLaunch id f).preReqs = s.preReqs := rfl

@[simp] theorem updLaunch_lastDisp (s : State) (id : Nat) (f : Launch → Launch) : (s.updLaunch id f).lastDisp = s.lastDisp := rfl

@[simp] theorem updLaunch_quays (s : State) (id : Nat) (f : Launch → Launch) : (s.updLaunch id f).quays = s.quays := rfl

@[simp] theorem updLaunch_ports (s : State) (id : Nat) (f : Launch → Launch) : (s.updLaunch id f).ports = s.ports := rfl

@[simp] theorem updLaunch_triples (s : State) (id : Nat) (f : Launch → Launch) : (s.updLaunch id f).triples = s.triples := rfl

@[simp] theorem updLaunch_windows (s : State) (id : Nat) (f : Launch → Launch) : (s.updLaunch id f).windows = s.windows := rfl

@[simp] theorem updLaunch_qpErr (s : State) (id : Nat) (f : Launch → Launch) : (s.updLaunch id f).qpErr = s.qpErr := rfl

@[simp] theorem updLaunch_groups (s : State) (id : Nat) (f : Launch → Launch) : (s.updLaunch id f).groups = s.groups := rfl

@[simp] theorem updLaunch_coll (s : State) (id : Nat) (f : Launch → Launch) : (s.updLaunch id f).coll = s.coll := rfl

@[simp] theorem updLaunch_sorric (s : State) (id : Nat) (f : Launch → Launch) : (s.updLaunch id f).sorric = s.sorric := rfl

@[simp] theorem updLaunch_eccWords (s : State) (id : Nat) (f : Launch → Launch) : (s.updLaunch id f).eccWords = s.eccWords := rfl

@[simp] theorem updLaunch_eccLanes (s : State) (id : Nat) (f : Launch → Launch) : (s.updLaunch id f).eccLanes = s.eccLanes := rfl

@[simp] theorem updLaunch_eccCb (s : State) (id : Nat) (f : Launch → Launch) : (s.updLaunch id f).eccCb = s.eccCb := rfl

@[simp] theorem updLaunch_agenda (s : State) (id : Nat) (f : Launch → Launch) : (s.updLaunch id f).agenda = s.agenda := rfl

@[simp] theorem updLaunch_free (s : State) (id : Nat) (f : Launch → Launch) : (s.updLaunch id f).free = s.free := rfl

@[simp] theorem updLaunch_num (s : State) (id : Nat) (f : Launch → Launch) : (s.updLaunch id f).num = s.num := rfl

@[simp] theorem updLaunch_cur (s : State) (id : Nat) (f : Launch → Launch) : (s.updLaunch id f).cur = s.cur := rfl

@[simp] theorem updLaunch_latch (s : State) (id : Nat) (f : Launch → Launch) : (s.updLaunch id f).latch = s.latch := rfl

@[simp] theorem updLaunch_deferred (s : State) (id : Nat) (f : Launch → Launch) : (s.updLaunch id f).deferred = s.deferred := rfl

@[simp] theorem updLaunch_wireOut (s : State) (id : Nat) (f : Launch → Launch) : (s.updLaunch id f).wireOut = s.wireOut := rfl

@[simp] theorem updLaunch_owedAdds (s : State) (id : Nat) (f : Launch → Launch) : (s.updLaunch id f).owedAdds = s.owedAdds := rfl

@[simp] theorem updLaunch_hostHeld (s : State) (id : Nat) (f : Launch → Launch) : (s.updLaunch id f).hostHeld = s.hostHeld := rfl

@[simp] theorem updLaunch_qps (s : State) (id : Nat) (f : Launch → Launch) : (s.updLaunch id f).qps = s.qps := rfl

@[simp] theorem updLaunch_ctrSlots (s : State) (id : Nat) (f : Launch → Launch) : (s.updLaunch id f).ctrSlots = s.ctrSlots := rfl

@[simp] theorem updLaunch_peerSlots (s : State) (id : Nat) (f : Launch → Launch) : (s.updLaunch id f).peerSlots = s.peerSlots := rfl

@[simp] theorem updLaunch_extBase (s : State) (id : Nat) (f : Launch → Launch) : (s.updLaunch id f).extBase = s.extBase := rfl

@[simp] theorem updLaunch_noCredit (s : State) (id : Nat) (f : Launch → Launch) : (s.updLaunch id f).noCredit = s.noCredit := rfl

@[simp] theorem updLaunch_commits (s : State) (id : Nat) (f : Launch → Launch) : (s.updLaunch id f).commits = s.commits := rfl

@[simp] theorem updLaunch_soft (s : State) (id : Nat) (f : Launch → Launch) : (s.updLaunch id f).soft = s.soft := rfl

/-! ### `updSeg` -/

@[simp] theorem updSeg_cyc (s : State) (j id : Nat) (f : Seg → Seg) : (s.updSeg j id f).cyc = s.cyc := rfl

@[simp] theorem updSeg_mem (s : State) (j id : Nat) (f : Seg → Seg) : (s.updSeg j id f).mem = s.mem := rfl

@[simp] theorem updSeg_cores (s : State) (j id : Nat) (f : Seg → Seg) : (s.updSeg j id f).cores = s.cores := rfl

@[simp] theorem updSeg_saved (s : State) (j id : Nat) (f : Seg → Seg) : (s.updSeg j id f).saved = s.saved := rfl

@[simp] theorem updSeg_jobs (s : State) (j id : Nat) (f : Seg → Seg) : (s.updSeg j id f).jobs = s.jobs := rfl

@[simp] theorem updSeg_routes (s : State) (j id : Nat) (f : Seg → Seg) : (s.updSeg j id f).routes = s.routes := rfl

@[simp] theorem updSeg_keys (s : State) (j id : Nat) (f : Seg → Seg) : (s.updSeg j id f).keys = s.keys := rfl

@[simp] theorem updSeg_dzPool (s : State) (j id : Nat) (f : Seg → Seg) : (s.updSeg j id f).dzPool = s.dzPool := rfl

@[simp] theorem updSeg_fills (s : State) (j id : Nat) (f : Seg → Seg) : (s.updSeg j id f).fills = s.fills := rfl

@[simp] theorem updSeg_fillFail (s : State) (j id : Nat) (f : Seg → Seg) : (s.updSeg j id f).fillFail = s.fillFail := rfl

@[simp] theorem updSeg_migs (s : State) (j id : Nat) (f : Seg → Seg) : (s.updSeg j id f).migs = s.migs := rfl

@[simp] theorem updSeg_slotMasks (s : State) (j id : Nat) (f : Seg → Seg) : (s.updSeg j id f).slotMasks = s.slotMasks := rfl

@[simp] theorem updSeg_parts (s : State) (j id : Nat) (f : Seg → Seg) : (s.updSeg j id f).parts = s.parts := rfl

@[simp] theorem updSeg_queues (s : State) (j id : Nat) (f : Seg → Seg) : (s.updSeg j id f).queues = s.queues := rfl

@[simp] theorem updSeg_segStat (s : State) (j id : Nat) (f : Seg → Seg) : (s.updSeg j id f).segStat = s.segStat := rfl

@[simp] theorem updSeg_preStat (s : State) (j id : Nat) (f : Seg → Seg) : (s.updSeg j id f).preStat = s.preStat := rfl

@[simp] theorem updSeg_rsvBase (s : State) (j id : Nat) (f : Seg → Seg) : (s.updSeg j id f).rsvBase = s.rsvBase := rfl

@[simp] theorem updSeg_rsvSize (s : State) (j id : Nat) (f : Seg → Seg) : (s.updSeg j id f).rsvSize = s.rsvSize := rfl

@[simp] theorem updSeg_preDelay (s : State) (j id : Nat) (f : Seg → Seg) : (s.updSeg j id f).preDelay = s.preDelay := rfl

@[simp] theorem updSeg_launches (s : State) (j id : Nat) (f : Seg → Seg) : (s.updSeg j id f).launches = s.launches := rfl

@[simp] theorem updSeg_pool (s : State) (j id : Nat) (f : Seg → Seg) : (s.updSeg j id f).pool = s.pool := rfl

@[simp] theorem updSeg_planeOwner (s : State) (j id : Nat) (f : Seg → Seg) : (s.updSeg j id f).planeOwner = s.planeOwner := rfl

@[simp] theorem updSeg_msix (s : State) (j id : Nat) (f : Seg → Seg) : (s.updSeg j id f).msix = s.msix := rfl

@[simp] theorem updSeg_preReqs (s : State) (j id : Nat) (f : Seg → Seg) : (s.updSeg j id f).preReqs = s.preReqs := rfl

@[simp] theorem updSeg_lastDisp (s : State) (j id : Nat) (f : Seg → Seg) : (s.updSeg j id f).lastDisp = s.lastDisp := rfl

@[simp] theorem updSeg_quays (s : State) (j id : Nat) (f : Seg → Seg) : (s.updSeg j id f).quays = s.quays := rfl

@[simp] theorem updSeg_ports (s : State) (j id : Nat) (f : Seg → Seg) : (s.updSeg j id f).ports = s.ports := rfl

@[simp] theorem updSeg_triples (s : State) (j id : Nat) (f : Seg → Seg) : (s.updSeg j id f).triples = s.triples := rfl

@[simp] theorem updSeg_windows (s : State) (j id : Nat) (f : Seg → Seg) : (s.updSeg j id f).windows = s.windows := rfl

@[simp] theorem updSeg_qpErr (s : State) (j id : Nat) (f : Seg → Seg) : (s.updSeg j id f).qpErr = s.qpErr := rfl

@[simp] theorem updSeg_groups (s : State) (j id : Nat) (f : Seg → Seg) : (s.updSeg j id f).groups = s.groups := rfl

@[simp] theorem updSeg_coll (s : State) (j id : Nat) (f : Seg → Seg) : (s.updSeg j id f).coll = s.coll := rfl

@[simp] theorem updSeg_sorric (s : State) (j id : Nat) (f : Seg → Seg) : (s.updSeg j id f).sorric = s.sorric := rfl

@[simp] theorem updSeg_eccWords (s : State) (j id : Nat) (f : Seg → Seg) : (s.updSeg j id f).eccWords = s.eccWords := rfl

@[simp] theorem updSeg_eccLanes (s : State) (j id : Nat) (f : Seg → Seg) : (s.updSeg j id f).eccLanes = s.eccLanes := rfl

@[simp] theorem updSeg_eccCb (s : State) (j id : Nat) (f : Seg → Seg) : (s.updSeg j id f).eccCb = s.eccCb := rfl

@[simp] theorem updSeg_agenda (s : State) (j id : Nat) (f : Seg → Seg) : (s.updSeg j id f).agenda = s.agenda := rfl

@[simp] theorem updSeg_free (s : State) (j id : Nat) (f : Seg → Seg) : (s.updSeg j id f).free = s.free := rfl

@[simp] theorem updSeg_num (s : State) (j id : Nat) (f : Seg → Seg) : (s.updSeg j id f).num = s.num := rfl

@[simp] theorem updSeg_cur (s : State) (j id : Nat) (f : Seg → Seg) : (s.updSeg j id f).cur = s.cur := rfl

@[simp] theorem updSeg_latch (s : State) (j id : Nat) (f : Seg → Seg) : (s.updSeg j id f).latch = s.latch := rfl

@[simp] theorem updSeg_deferred (s : State) (j id : Nat) (f : Seg → Seg) : (s.updSeg j id f).deferred = s.deferred := rfl

@[simp] theorem updSeg_wireOut (s : State) (j id : Nat) (f : Seg → Seg) : (s.updSeg j id f).wireOut = s.wireOut := rfl

@[simp] theorem updSeg_owedAdds (s : State) (j id : Nat) (f : Seg → Seg) : (s.updSeg j id f).owedAdds = s.owedAdds := rfl

@[simp] theorem updSeg_hostHeld (s : State) (j id : Nat) (f : Seg → Seg) : (s.updSeg j id f).hostHeld = s.hostHeld := rfl

@[simp] theorem updSeg_qps (s : State) (j id : Nat) (f : Seg → Seg) : (s.updSeg j id f).qps = s.qps := rfl

@[simp] theorem updSeg_ctrSlots (s : State) (j id : Nat) (f : Seg → Seg) : (s.updSeg j id f).ctrSlots = s.ctrSlots := rfl

@[simp] theorem updSeg_peerSlots (s : State) (j id : Nat) (f : Seg → Seg) : (s.updSeg j id f).peerSlots = s.peerSlots := rfl

@[simp] theorem updSeg_extBase (s : State) (j id : Nat) (f : Seg → Seg) : (s.updSeg j id f).extBase = s.extBase := rfl

@[simp] theorem updSeg_noCredit (s : State) (j id : Nat) (f : Seg → Seg) : (s.updSeg j id f).noCredit = s.noCredit := rfl

@[simp] theorem updSeg_commits (s : State) (j id : Nat) (f : Seg → Seg) : (s.updSeg j id f).commits = s.commits := rfl

@[simp] theorem updSeg_soft (s : State) (j id : Nat) (f : Seg → Seg) : (s.updSeg j id f).soft = s.soft := rfl

/-! ### `updQueue` -/

@[simp] theorem updQueue_cyc (s : State) (q : Nat) (f : Queue → Queue) : (s.updQueue q f).cyc = s.cyc := rfl

@[simp] theorem updQueue_mem (s : State) (q : Nat) (f : Queue → Queue) : (s.updQueue q f).mem = s.mem := rfl

@[simp] theorem updQueue_cores (s : State) (q : Nat) (f : Queue → Queue) : (s.updQueue q f).cores = s.cores := rfl

@[simp] theorem updQueue_saved (s : State) (q : Nat) (f : Queue → Queue) : (s.updQueue q f).saved = s.saved := rfl

@[simp] theorem updQueue_segs (s : State) (q : Nat) (f : Queue → Queue) : (s.updQueue q f).segs = s.segs := rfl

@[simp] theorem updQueue_jobs (s : State) (q : Nat) (f : Queue → Queue) : (s.updQueue q f).jobs = s.jobs := rfl

@[simp] theorem updQueue_routes (s : State) (q : Nat) (f : Queue → Queue) : (s.updQueue q f).routes = s.routes := rfl

@[simp] theorem updQueue_keys (s : State) (q : Nat) (f : Queue → Queue) : (s.updQueue q f).keys = s.keys := rfl

@[simp] theorem updQueue_dzPool (s : State) (q : Nat) (f : Queue → Queue) : (s.updQueue q f).dzPool = s.dzPool := rfl

@[simp] theorem updQueue_fills (s : State) (q : Nat) (f : Queue → Queue) : (s.updQueue q f).fills = s.fills := rfl

@[simp] theorem updQueue_fillFail (s : State) (q : Nat) (f : Queue → Queue) : (s.updQueue q f).fillFail = s.fillFail := rfl

@[simp] theorem updQueue_migs (s : State) (q : Nat) (f : Queue → Queue) : (s.updQueue q f).migs = s.migs := rfl

@[simp] theorem updQueue_slotMasks (s : State) (q : Nat) (f : Queue → Queue) : (s.updQueue q f).slotMasks = s.slotMasks := rfl

@[simp] theorem updQueue_parts (s : State) (q : Nat) (f : Queue → Queue) : (s.updQueue q f).parts = s.parts := rfl

@[simp] theorem updQueue_segStat (s : State) (q : Nat) (f : Queue → Queue) : (s.updQueue q f).segStat = s.segStat := rfl

@[simp] theorem updQueue_preStat (s : State) (q : Nat) (f : Queue → Queue) : (s.updQueue q f).preStat = s.preStat := rfl

@[simp] theorem updQueue_rsvBase (s : State) (q : Nat) (f : Queue → Queue) : (s.updQueue q f).rsvBase = s.rsvBase := rfl

@[simp] theorem updQueue_rsvSize (s : State) (q : Nat) (f : Queue → Queue) : (s.updQueue q f).rsvSize = s.rsvSize := rfl

@[simp] theorem updQueue_preDelay (s : State) (q : Nat) (f : Queue → Queue) : (s.updQueue q f).preDelay = s.preDelay := rfl

@[simp] theorem updQueue_launches (s : State) (q : Nat) (f : Queue → Queue) : (s.updQueue q f).launches = s.launches := rfl

@[simp] theorem updQueue_pool (s : State) (q : Nat) (f : Queue → Queue) : (s.updQueue q f).pool = s.pool := rfl

@[simp] theorem updQueue_planeOwner (s : State) (q : Nat) (f : Queue → Queue) : (s.updQueue q f).planeOwner = s.planeOwner := rfl

@[simp] theorem updQueue_msix (s : State) (q : Nat) (f : Queue → Queue) : (s.updQueue q f).msix = s.msix := rfl

@[simp] theorem updQueue_preReqs (s : State) (q : Nat) (f : Queue → Queue) : (s.updQueue q f).preReqs = s.preReqs := rfl

@[simp] theorem updQueue_lastDisp (s : State) (q : Nat) (f : Queue → Queue) : (s.updQueue q f).lastDisp = s.lastDisp := rfl

@[simp] theorem updQueue_quays (s : State) (q : Nat) (f : Queue → Queue) : (s.updQueue q f).quays = s.quays := rfl

@[simp] theorem updQueue_ports (s : State) (q : Nat) (f : Queue → Queue) : (s.updQueue q f).ports = s.ports := rfl

@[simp] theorem updQueue_triples (s : State) (q : Nat) (f : Queue → Queue) : (s.updQueue q f).triples = s.triples := rfl

@[simp] theorem updQueue_windows (s : State) (q : Nat) (f : Queue → Queue) : (s.updQueue q f).windows = s.windows := rfl

@[simp] theorem updQueue_qpErr (s : State) (q : Nat) (f : Queue → Queue) : (s.updQueue q f).qpErr = s.qpErr := rfl

@[simp] theorem updQueue_groups (s : State) (q : Nat) (f : Queue → Queue) : (s.updQueue q f).groups = s.groups := rfl

@[simp] theorem updQueue_coll (s : State) (q : Nat) (f : Queue → Queue) : (s.updQueue q f).coll = s.coll := rfl

@[simp] theorem updQueue_sorric (s : State) (q : Nat) (f : Queue → Queue) : (s.updQueue q f).sorric = s.sorric := rfl

@[simp] theorem updQueue_eccWords (s : State) (q : Nat) (f : Queue → Queue) : (s.updQueue q f).eccWords = s.eccWords := rfl

@[simp] theorem updQueue_eccLanes (s : State) (q : Nat) (f : Queue → Queue) : (s.updQueue q f).eccLanes = s.eccLanes := rfl

@[simp] theorem updQueue_eccCb (s : State) (q : Nat) (f : Queue → Queue) : (s.updQueue q f).eccCb = s.eccCb := rfl

@[simp] theorem updQueue_agenda (s : State) (q : Nat) (f : Queue → Queue) : (s.updQueue q f).agenda = s.agenda := rfl

@[simp] theorem updQueue_free (s : State) (q : Nat) (f : Queue → Queue) : (s.updQueue q f).free = s.free := rfl

@[simp] theorem updQueue_num (s : State) (q : Nat) (f : Queue → Queue) : (s.updQueue q f).num = s.num := rfl

@[simp] theorem updQueue_cur (s : State) (q : Nat) (f : Queue → Queue) : (s.updQueue q f).cur = s.cur := rfl

@[simp] theorem updQueue_latch (s : State) (q : Nat) (f : Queue → Queue) : (s.updQueue q f).latch = s.latch := rfl

@[simp] theorem updQueue_deferred (s : State) (q : Nat) (f : Queue → Queue) : (s.updQueue q f).deferred = s.deferred := rfl

@[simp] theorem updQueue_wireOut (s : State) (q : Nat) (f : Queue → Queue) : (s.updQueue q f).wireOut = s.wireOut := rfl

@[simp] theorem updQueue_owedAdds (s : State) (q : Nat) (f : Queue → Queue) : (s.updQueue q f).owedAdds = s.owedAdds := rfl

@[simp] theorem updQueue_hostHeld (s : State) (q : Nat) (f : Queue → Queue) : (s.updQueue q f).hostHeld = s.hostHeld := rfl

@[simp] theorem updQueue_qps (s : State) (q : Nat) (f : Queue → Queue) : (s.updQueue q f).qps = s.qps := rfl

@[simp] theorem updQueue_ctrSlots (s : State) (q : Nat) (f : Queue → Queue) : (s.updQueue q f).ctrSlots = s.ctrSlots := rfl

@[simp] theorem updQueue_peerSlots (s : State) (q : Nat) (f : Queue → Queue) : (s.updQueue q f).peerSlots = s.peerSlots := rfl

@[simp] theorem updQueue_extBase (s : State) (q : Nat) (f : Queue → Queue) : (s.updQueue q f).extBase = s.extBase := rfl

@[simp] theorem updQueue_noCredit (s : State) (q : Nat) (f : Queue → Queue) : (s.updQueue q f).noCredit = s.noCredit := rfl

@[simp] theorem updQueue_commits (s : State) (q : Nat) (f : Queue → Queue) : (s.updQueue q f).commits = s.commits := rfl

@[simp] theorem updQueue_soft (s : State) (q : Nat) (f : Queue → Queue) : (s.updQueue q f).soft = s.soft := rfl

/-! ### `latched` -/

@[simp] theorem latched_cyc (s : State) (f : Latch → Latch) : (s.latched f).cyc = s.cyc := rfl

@[simp] theorem latched_mem (s : State) (f : Latch → Latch) : (s.latched f).mem = s.mem := rfl

@[simp] theorem latched_cores (s : State) (f : Latch → Latch) : (s.latched f).cores = s.cores := rfl

@[simp] theorem latched_saved (s : State) (f : Latch → Latch) : (s.latched f).saved = s.saved := rfl

@[simp] theorem latched_segs (s : State) (f : Latch → Latch) : (s.latched f).segs = s.segs := rfl

@[simp] theorem latched_jobs (s : State) (f : Latch → Latch) : (s.latched f).jobs = s.jobs := rfl

@[simp] theorem latched_routes (s : State) (f : Latch → Latch) : (s.latched f).routes = s.routes := rfl

@[simp] theorem latched_keys (s : State) (f : Latch → Latch) : (s.latched f).keys = s.keys := rfl

@[simp] theorem latched_dzPool (s : State) (f : Latch → Latch) : (s.latched f).dzPool = s.dzPool := rfl

@[simp] theorem latched_fills (s : State) (f : Latch → Latch) : (s.latched f).fills = s.fills := rfl

@[simp] theorem latched_fillFail (s : State) (f : Latch → Latch) : (s.latched f).fillFail = s.fillFail := rfl

@[simp] theorem latched_migs (s : State) (f : Latch → Latch) : (s.latched f).migs = s.migs := rfl

@[simp] theorem latched_slotMasks (s : State) (f : Latch → Latch) : (s.latched f).slotMasks = s.slotMasks := rfl

@[simp] theorem latched_parts (s : State) (f : Latch → Latch) : (s.latched f).parts = s.parts := rfl

@[simp] theorem latched_queues (s : State) (f : Latch → Latch) : (s.latched f).queues = s.queues := rfl

@[simp] theorem latched_segStat (s : State) (f : Latch → Latch) : (s.latched f).segStat = s.segStat := rfl

@[simp] theorem latched_preStat (s : State) (f : Latch → Latch) : (s.latched f).preStat = s.preStat := rfl

@[simp] theorem latched_rsvBase (s : State) (f : Latch → Latch) : (s.latched f).rsvBase = s.rsvBase := rfl

@[simp] theorem latched_rsvSize (s : State) (f : Latch → Latch) : (s.latched f).rsvSize = s.rsvSize := rfl

@[simp] theorem latched_preDelay (s : State) (f : Latch → Latch) : (s.latched f).preDelay = s.preDelay := rfl

@[simp] theorem latched_launches (s : State) (f : Latch → Latch) : (s.latched f).launches = s.launches := rfl

@[simp] theorem latched_pool (s : State) (f : Latch → Latch) : (s.latched f).pool = s.pool := rfl

@[simp] theorem latched_planeOwner (s : State) (f : Latch → Latch) : (s.latched f).planeOwner = s.planeOwner := rfl

@[simp] theorem latched_msix (s : State) (f : Latch → Latch) : (s.latched f).msix = s.msix := rfl

@[simp] theorem latched_preReqs (s : State) (f : Latch → Latch) : (s.latched f).preReqs = s.preReqs := rfl

@[simp] theorem latched_lastDisp (s : State) (f : Latch → Latch) : (s.latched f).lastDisp = s.lastDisp := rfl

@[simp] theorem latched_quays (s : State) (f : Latch → Latch) : (s.latched f).quays = s.quays := rfl

@[simp] theorem latched_ports (s : State) (f : Latch → Latch) : (s.latched f).ports = s.ports := rfl

@[simp] theorem latched_triples (s : State) (f : Latch → Latch) : (s.latched f).triples = s.triples := rfl

@[simp] theorem latched_windows (s : State) (f : Latch → Latch) : (s.latched f).windows = s.windows := rfl

@[simp] theorem latched_qpErr (s : State) (f : Latch → Latch) : (s.latched f).qpErr = s.qpErr := rfl

@[simp] theorem latched_groups (s : State) (f : Latch → Latch) : (s.latched f).groups = s.groups := rfl

@[simp] theorem latched_coll (s : State) (f : Latch → Latch) : (s.latched f).coll = s.coll := rfl

@[simp] theorem latched_sorric (s : State) (f : Latch → Latch) : (s.latched f).sorric = s.sorric := rfl

@[simp] theorem latched_eccWords (s : State) (f : Latch → Latch) : (s.latched f).eccWords = s.eccWords := rfl

@[simp] theorem latched_eccLanes (s : State) (f : Latch → Latch) : (s.latched f).eccLanes = s.eccLanes := rfl

@[simp] theorem latched_eccCb (s : State) (f : Latch → Latch) : (s.latched f).eccCb = s.eccCb := rfl

@[simp] theorem latched_agenda (s : State) (f : Latch → Latch) : (s.latched f).agenda = s.agenda := rfl

@[simp] theorem latched_free (s : State) (f : Latch → Latch) : (s.latched f).free = s.free := rfl

@[simp] theorem latched_num (s : State) (f : Latch → Latch) : (s.latched f).num = s.num := rfl

@[simp] theorem latched_cur (s : State) (f : Latch → Latch) : (s.latched f).cur = s.cur := rfl

@[simp] theorem latched_deferred (s : State) (f : Latch → Latch) : (s.latched f).deferred = s.deferred := rfl

@[simp] theorem latched_wireOut (s : State) (f : Latch → Latch) : (s.latched f).wireOut = s.wireOut := rfl

@[simp] theorem latched_owedAdds (s : State) (f : Latch → Latch) : (s.latched f).owedAdds = s.owedAdds := rfl

@[simp] theorem latched_hostHeld (s : State) (f : Latch → Latch) : (s.latched f).hostHeld = s.hostHeld := rfl

@[simp] theorem latched_qps (s : State) (f : Latch → Latch) : (s.latched f).qps = s.qps := rfl

@[simp] theorem latched_ctrSlots (s : State) (f : Latch → Latch) : (s.latched f).ctrSlots = s.ctrSlots := rfl

@[simp] theorem latched_peerSlots (s : State) (f : Latch → Latch) : (s.latched f).peerSlots = s.peerSlots := rfl

@[simp] theorem latched_extBase (s : State) (f : Latch → Latch) : (s.latched f).extBase = s.extBase := rfl

@[simp] theorem latched_noCredit (s : State) (f : Latch → Latch) : (s.latched f).noCredit = s.noCredit := rfl

@[simp] theorem latched_commits (s : State) (f : Latch → Latch) : (s.latched f).commits = s.commits := rfl

@[simp] theorem latched_soft (s : State) (f : Latch → Latch) : (s.latched f).soft = s.soft := rfl

/-! ### `setCtx`, `updCtx`, `updMe` -/

@[simp] theorem setCtx_cyc (s : State) (n : Nat) (c : Context) : (s.setCtx n c).cyc = s.cyc := by
  unfold State.setCtx; split <;> rfl

@[simp] theorem updCtx_cyc (s : State) (n : Nat) (f : Context → Context) : (s.updCtx n f).cyc = s.cyc := setCtx_cyc s n _

@[simp] theorem updMe_cyc (s : State) (f : Context → Context) : (s.updMe f).cyc = s.cyc := setCtx_cyc s s.cur _

@[simp] theorem setCtx_mem (s : State) (n : Nat) (c : Context) : (s.setCtx n c).mem = s.mem := by
  unfold State.setCtx; split <;> rfl

@[simp] theorem updCtx_mem (s : State) (n : Nat) (f : Context → Context) : (s.updCtx n f).mem = s.mem := setCtx_mem s n _

@[simp] theorem updMe_mem (s : State) (f : Context → Context) : (s.updMe f).mem = s.mem := setCtx_mem s s.cur _

@[simp] theorem setCtx_segs (s : State) (n : Nat) (c : Context) : (s.setCtx n c).segs = s.segs := by
  unfold State.setCtx; split <;> rfl

@[simp] theorem updCtx_segs (s : State) (n : Nat) (f : Context → Context) : (s.updCtx n f).segs = s.segs := setCtx_segs s n _

@[simp] theorem updMe_segs (s : State) (f : Context → Context) : (s.updMe f).segs = s.segs := setCtx_segs s s.cur _

@[simp] theorem setCtx_jobs (s : State) (n : Nat) (c : Context) : (s.setCtx n c).jobs = s.jobs := by
  unfold State.setCtx; split <;> rfl

@[simp] theorem updCtx_jobs (s : State) (n : Nat) (f : Context → Context) : (s.updCtx n f).jobs = s.jobs := setCtx_jobs s n _

@[simp] theorem updMe_jobs (s : State) (f : Context → Context) : (s.updMe f).jobs = s.jobs := setCtx_jobs s s.cur _

@[simp] theorem setCtx_routes (s : State) (n : Nat) (c : Context) : (s.setCtx n c).routes = s.routes := by
  unfold State.setCtx; split <;> rfl

@[simp] theorem updCtx_routes (s : State) (n : Nat) (f : Context → Context) : (s.updCtx n f).routes = s.routes := setCtx_routes s n _

@[simp] theorem updMe_routes (s : State) (f : Context → Context) : (s.updMe f).routes = s.routes := setCtx_routes s s.cur _

@[simp] theorem setCtx_keys (s : State) (n : Nat) (c : Context) : (s.setCtx n c).keys = s.keys := by
  unfold State.setCtx; split <;> rfl

@[simp] theorem updCtx_keys (s : State) (n : Nat) (f : Context → Context) : (s.updCtx n f).keys = s.keys := setCtx_keys s n _

@[simp] theorem updMe_keys (s : State) (f : Context → Context) : (s.updMe f).keys = s.keys := setCtx_keys s s.cur _

@[simp] theorem setCtx_dzPool (s : State) (n : Nat) (c : Context) : (s.setCtx n c).dzPool = s.dzPool := by
  unfold State.setCtx; split <;> rfl

@[simp] theorem updCtx_dzPool (s : State) (n : Nat) (f : Context → Context) : (s.updCtx n f).dzPool = s.dzPool := setCtx_dzPool s n _

@[simp] theorem updMe_dzPool (s : State) (f : Context → Context) : (s.updMe f).dzPool = s.dzPool := setCtx_dzPool s s.cur _

@[simp] theorem setCtx_fills (s : State) (n : Nat) (c : Context) : (s.setCtx n c).fills = s.fills := by
  unfold State.setCtx; split <;> rfl

@[simp] theorem updCtx_fills (s : State) (n : Nat) (f : Context → Context) : (s.updCtx n f).fills = s.fills := setCtx_fills s n _

@[simp] theorem updMe_fills (s : State) (f : Context → Context) : (s.updMe f).fills = s.fills := setCtx_fills s s.cur _

@[simp] theorem setCtx_fillFail (s : State) (n : Nat) (c : Context) : (s.setCtx n c).fillFail = s.fillFail := by
  unfold State.setCtx; split <;> rfl

@[simp] theorem updCtx_fillFail (s : State) (n : Nat) (f : Context → Context) : (s.updCtx n f).fillFail = s.fillFail := setCtx_fillFail s n _

@[simp] theorem updMe_fillFail (s : State) (f : Context → Context) : (s.updMe f).fillFail = s.fillFail := setCtx_fillFail s s.cur _

@[simp] theorem setCtx_migs (s : State) (n : Nat) (c : Context) : (s.setCtx n c).migs = s.migs := by
  unfold State.setCtx; split <;> rfl

@[simp] theorem updCtx_migs (s : State) (n : Nat) (f : Context → Context) : (s.updCtx n f).migs = s.migs := setCtx_migs s n _

@[simp] theorem updMe_migs (s : State) (f : Context → Context) : (s.updMe f).migs = s.migs := setCtx_migs s s.cur _

@[simp] theorem setCtx_slotMasks (s : State) (n : Nat) (c : Context) : (s.setCtx n c).slotMasks = s.slotMasks := by
  unfold State.setCtx; split <;> rfl

@[simp] theorem updCtx_slotMasks (s : State) (n : Nat) (f : Context → Context) : (s.updCtx n f).slotMasks = s.slotMasks := setCtx_slotMasks s n _

@[simp] theorem updMe_slotMasks (s : State) (f : Context → Context) : (s.updMe f).slotMasks = s.slotMasks := setCtx_slotMasks s s.cur _

@[simp] theorem setCtx_parts (s : State) (n : Nat) (c : Context) : (s.setCtx n c).parts = s.parts := by
  unfold State.setCtx; split <;> rfl

@[simp] theorem updCtx_parts (s : State) (n : Nat) (f : Context → Context) : (s.updCtx n f).parts = s.parts := setCtx_parts s n _

@[simp] theorem updMe_parts (s : State) (f : Context → Context) : (s.updMe f).parts = s.parts := setCtx_parts s s.cur _

@[simp] theorem setCtx_queues (s : State) (n : Nat) (c : Context) : (s.setCtx n c).queues = s.queues := by
  unfold State.setCtx; split <;> rfl

@[simp] theorem updCtx_queues (s : State) (n : Nat) (f : Context → Context) : (s.updCtx n f).queues = s.queues := setCtx_queues s n _

@[simp] theorem updMe_queues (s : State) (f : Context → Context) : (s.updMe f).queues = s.queues := setCtx_queues s s.cur _

@[simp] theorem setCtx_segStat (s : State) (n : Nat) (c : Context) : (s.setCtx n c).segStat = s.segStat := by
  unfold State.setCtx; split <;> rfl

@[simp] theorem updCtx_segStat (s : State) (n : Nat) (f : Context → Context) : (s.updCtx n f).segStat = s.segStat := setCtx_segStat s n _

@[simp] theorem updMe_segStat (s : State) (f : Context → Context) : (s.updMe f).segStat = s.segStat := setCtx_segStat s s.cur _

@[simp] theorem setCtx_preStat (s : State) (n : Nat) (c : Context) : (s.setCtx n c).preStat = s.preStat := by
  unfold State.setCtx; split <;> rfl

@[simp] theorem updCtx_preStat (s : State) (n : Nat) (f : Context → Context) : (s.updCtx n f).preStat = s.preStat := setCtx_preStat s n _

@[simp] theorem updMe_preStat (s : State) (f : Context → Context) : (s.updMe f).preStat = s.preStat := setCtx_preStat s s.cur _

@[simp] theorem setCtx_rsvBase (s : State) (n : Nat) (c : Context) : (s.setCtx n c).rsvBase = s.rsvBase := by
  unfold State.setCtx; split <;> rfl

@[simp] theorem updCtx_rsvBase (s : State) (n : Nat) (f : Context → Context) : (s.updCtx n f).rsvBase = s.rsvBase := setCtx_rsvBase s n _

@[simp] theorem updMe_rsvBase (s : State) (f : Context → Context) : (s.updMe f).rsvBase = s.rsvBase := setCtx_rsvBase s s.cur _

@[simp] theorem setCtx_rsvSize (s : State) (n : Nat) (c : Context) : (s.setCtx n c).rsvSize = s.rsvSize := by
  unfold State.setCtx; split <;> rfl

@[simp] theorem updCtx_rsvSize (s : State) (n : Nat) (f : Context → Context) : (s.updCtx n f).rsvSize = s.rsvSize := setCtx_rsvSize s n _

@[simp] theorem updMe_rsvSize (s : State) (f : Context → Context) : (s.updMe f).rsvSize = s.rsvSize := setCtx_rsvSize s s.cur _

@[simp] theorem setCtx_preDelay (s : State) (n : Nat) (c : Context) : (s.setCtx n c).preDelay = s.preDelay := by
  unfold State.setCtx; split <;> rfl

@[simp] theorem updCtx_preDelay (s : State) (n : Nat) (f : Context → Context) : (s.updCtx n f).preDelay = s.preDelay := setCtx_preDelay s n _

@[simp] theorem updMe_preDelay (s : State) (f : Context → Context) : (s.updMe f).preDelay = s.preDelay := setCtx_preDelay s s.cur _

@[simp] theorem setCtx_launches (s : State) (n : Nat) (c : Context) : (s.setCtx n c).launches = s.launches := by
  unfold State.setCtx; split <;> rfl

@[simp] theorem updCtx_launches (s : State) (n : Nat) (f : Context → Context) : (s.updCtx n f).launches = s.launches := setCtx_launches s n _

@[simp] theorem updMe_launches (s : State) (f : Context → Context) : (s.updMe f).launches = s.launches := setCtx_launches s s.cur _

@[simp] theorem setCtx_pool (s : State) (n : Nat) (c : Context) : (s.setCtx n c).pool = s.pool := by
  unfold State.setCtx; split <;> rfl

@[simp] theorem updCtx_pool (s : State) (n : Nat) (f : Context → Context) : (s.updCtx n f).pool = s.pool := setCtx_pool s n _

@[simp] theorem updMe_pool (s : State) (f : Context → Context) : (s.updMe f).pool = s.pool := setCtx_pool s s.cur _

@[simp] theorem setCtx_planeOwner (s : State) (n : Nat) (c : Context) : (s.setCtx n c).planeOwner = s.planeOwner := by
  unfold State.setCtx; split <;> rfl

@[simp] theorem updCtx_planeOwner (s : State) (n : Nat) (f : Context → Context) : (s.updCtx n f).planeOwner = s.planeOwner := setCtx_planeOwner s n _

@[simp] theorem updMe_planeOwner (s : State) (f : Context → Context) : (s.updMe f).planeOwner = s.planeOwner := setCtx_planeOwner s s.cur _

@[simp] theorem setCtx_msix (s : State) (n : Nat) (c : Context) : (s.setCtx n c).msix = s.msix := by
  unfold State.setCtx; split <;> rfl

@[simp] theorem updCtx_msix (s : State) (n : Nat) (f : Context → Context) : (s.updCtx n f).msix = s.msix := setCtx_msix s n _

@[simp] theorem updMe_msix (s : State) (f : Context → Context) : (s.updMe f).msix = s.msix := setCtx_msix s s.cur _

@[simp] theorem setCtx_preReqs (s : State) (n : Nat) (c : Context) : (s.setCtx n c).preReqs = s.preReqs := by
  unfold State.setCtx; split <;> rfl

@[simp] theorem updCtx_preReqs (s : State) (n : Nat) (f : Context → Context) : (s.updCtx n f).preReqs = s.preReqs := setCtx_preReqs s n _

@[simp] theorem updMe_preReqs (s : State) (f : Context → Context) : (s.updMe f).preReqs = s.preReqs := setCtx_preReqs s s.cur _

@[simp] theorem setCtx_lastDisp (s : State) (n : Nat) (c : Context) : (s.setCtx n c).lastDisp = s.lastDisp := by
  unfold State.setCtx; split <;> rfl

@[simp] theorem updCtx_lastDisp (s : State) (n : Nat) (f : Context → Context) : (s.updCtx n f).lastDisp = s.lastDisp := setCtx_lastDisp s n _

@[simp] theorem updMe_lastDisp (s : State) (f : Context → Context) : (s.updMe f).lastDisp = s.lastDisp := setCtx_lastDisp s s.cur _

@[simp] theorem setCtx_quays (s : State) (n : Nat) (c : Context) : (s.setCtx n c).quays = s.quays := by
  unfold State.setCtx; split <;> rfl

@[simp] theorem updCtx_quays (s : State) (n : Nat) (f : Context → Context) : (s.updCtx n f).quays = s.quays := setCtx_quays s n _

@[simp] theorem updMe_quays (s : State) (f : Context → Context) : (s.updMe f).quays = s.quays := setCtx_quays s s.cur _

@[simp] theorem setCtx_ports (s : State) (n : Nat) (c : Context) : (s.setCtx n c).ports = s.ports := by
  unfold State.setCtx; split <;> rfl

@[simp] theorem updCtx_ports (s : State) (n : Nat) (f : Context → Context) : (s.updCtx n f).ports = s.ports := setCtx_ports s n _

@[simp] theorem updMe_ports (s : State) (f : Context → Context) : (s.updMe f).ports = s.ports := setCtx_ports s s.cur _

@[simp] theorem setCtx_triples (s : State) (n : Nat) (c : Context) : (s.setCtx n c).triples = s.triples := by
  unfold State.setCtx; split <;> rfl

@[simp] theorem updCtx_triples (s : State) (n : Nat) (f : Context → Context) : (s.updCtx n f).triples = s.triples := setCtx_triples s n _

@[simp] theorem updMe_triples (s : State) (f : Context → Context) : (s.updMe f).triples = s.triples := setCtx_triples s s.cur _

@[simp] theorem setCtx_windows (s : State) (n : Nat) (c : Context) : (s.setCtx n c).windows = s.windows := by
  unfold State.setCtx; split <;> rfl

@[simp] theorem updCtx_windows (s : State) (n : Nat) (f : Context → Context) : (s.updCtx n f).windows = s.windows := setCtx_windows s n _

@[simp] theorem updMe_windows (s : State) (f : Context → Context) : (s.updMe f).windows = s.windows := setCtx_windows s s.cur _

@[simp] theorem setCtx_qpErr (s : State) (n : Nat) (c : Context) : (s.setCtx n c).qpErr = s.qpErr := by
  unfold State.setCtx; split <;> rfl

@[simp] theorem updCtx_qpErr (s : State) (n : Nat) (f : Context → Context) : (s.updCtx n f).qpErr = s.qpErr := setCtx_qpErr s n _

@[simp] theorem updMe_qpErr (s : State) (f : Context → Context) : (s.updMe f).qpErr = s.qpErr := setCtx_qpErr s s.cur _

@[simp] theorem setCtx_groups (s : State) (n : Nat) (c : Context) : (s.setCtx n c).groups = s.groups := by
  unfold State.setCtx; split <;> rfl

@[simp] theorem updCtx_groups (s : State) (n : Nat) (f : Context → Context) : (s.updCtx n f).groups = s.groups := setCtx_groups s n _

@[simp] theorem updMe_groups (s : State) (f : Context → Context) : (s.updMe f).groups = s.groups := setCtx_groups s s.cur _

@[simp] theorem setCtx_coll (s : State) (n : Nat) (c : Context) : (s.setCtx n c).coll = s.coll := by
  unfold State.setCtx; split <;> rfl

@[simp] theorem updCtx_coll (s : State) (n : Nat) (f : Context → Context) : (s.updCtx n f).coll = s.coll := setCtx_coll s n _

@[simp] theorem updMe_coll (s : State) (f : Context → Context) : (s.updMe f).coll = s.coll := setCtx_coll s s.cur _

@[simp] theorem setCtx_sorric (s : State) (n : Nat) (c : Context) : (s.setCtx n c).sorric = s.sorric := by
  unfold State.setCtx; split <;> rfl

@[simp] theorem updCtx_sorric (s : State) (n : Nat) (f : Context → Context) : (s.updCtx n f).sorric = s.sorric := setCtx_sorric s n _

@[simp] theorem updMe_sorric (s : State) (f : Context → Context) : (s.updMe f).sorric = s.sorric := setCtx_sorric s s.cur _

@[simp] theorem setCtx_eccWords (s : State) (n : Nat) (c : Context) : (s.setCtx n c).eccWords = s.eccWords := by
  unfold State.setCtx; split <;> rfl

@[simp] theorem updCtx_eccWords (s : State) (n : Nat) (f : Context → Context) : (s.updCtx n f).eccWords = s.eccWords := setCtx_eccWords s n _

@[simp] theorem updMe_eccWords (s : State) (f : Context → Context) : (s.updMe f).eccWords = s.eccWords := setCtx_eccWords s s.cur _

@[simp] theorem setCtx_eccLanes (s : State) (n : Nat) (c : Context) : (s.setCtx n c).eccLanes = s.eccLanes := by
  unfold State.setCtx; split <;> rfl

@[simp] theorem updCtx_eccLanes (s : State) (n : Nat) (f : Context → Context) : (s.updCtx n f).eccLanes = s.eccLanes := setCtx_eccLanes s n _

@[simp] theorem updMe_eccLanes (s : State) (f : Context → Context) : (s.updMe f).eccLanes = s.eccLanes := setCtx_eccLanes s s.cur _

@[simp] theorem setCtx_eccCb (s : State) (n : Nat) (c : Context) : (s.setCtx n c).eccCb = s.eccCb := by
  unfold State.setCtx; split <;> rfl

@[simp] theorem updCtx_eccCb (s : State) (n : Nat) (f : Context → Context) : (s.updCtx n f).eccCb = s.eccCb := setCtx_eccCb s n _

@[simp] theorem updMe_eccCb (s : State) (f : Context → Context) : (s.updMe f).eccCb = s.eccCb := setCtx_eccCb s s.cur _

@[simp] theorem setCtx_agenda (s : State) (n : Nat) (c : Context) : (s.setCtx n c).agenda = s.agenda := by
  unfold State.setCtx; split <;> rfl

@[simp] theorem updCtx_agenda (s : State) (n : Nat) (f : Context → Context) : (s.updCtx n f).agenda = s.agenda := setCtx_agenda s n _

@[simp] theorem updMe_agenda (s : State) (f : Context → Context) : (s.updMe f).agenda = s.agenda := setCtx_agenda s s.cur _

@[simp] theorem setCtx_free (s : State) (n : Nat) (c : Context) : (s.setCtx n c).free = s.free := by
  unfold State.setCtx; split <;> rfl

@[simp] theorem updCtx_free (s : State) (n : Nat) (f : Context → Context) : (s.updCtx n f).free = s.free := setCtx_free s n _

@[simp] theorem updMe_free (s : State) (f : Context → Context) : (s.updMe f).free = s.free := setCtx_free s s.cur _

@[simp] theorem setCtx_num (s : State) (n : Nat) (c : Context) : (s.setCtx n c).num = s.num := by
  unfold State.setCtx; split <;> rfl

@[simp] theorem updCtx_num (s : State) (n : Nat) (f : Context → Context) : (s.updCtx n f).num = s.num := setCtx_num s n _

@[simp] theorem updMe_num (s : State) (f : Context → Context) : (s.updMe f).num = s.num := setCtx_num s s.cur _

@[simp] theorem setCtx_cur (s : State) (n : Nat) (c : Context) : (s.setCtx n c).cur = s.cur := by
  unfold State.setCtx; split <;> rfl

@[simp] theorem updCtx_cur (s : State) (n : Nat) (f : Context → Context) : (s.updCtx n f).cur = s.cur := setCtx_cur s n _

@[simp] theorem updMe_cur (s : State) (f : Context → Context) : (s.updMe f).cur = s.cur := setCtx_cur s s.cur _

@[simp] theorem setCtx_latch (s : State) (n : Nat) (c : Context) : (s.setCtx n c).latch = s.latch := by
  unfold State.setCtx; split <;> rfl

@[simp] theorem updCtx_latch (s : State) (n : Nat) (f : Context → Context) : (s.updCtx n f).latch = s.latch := setCtx_latch s n _

@[simp] theorem updMe_latch (s : State) (f : Context → Context) : (s.updMe f).latch = s.latch := setCtx_latch s s.cur _

@[simp] theorem setCtx_deferred (s : State) (n : Nat) (c : Context) : (s.setCtx n c).deferred = s.deferred := by
  unfold State.setCtx; split <;> rfl

@[simp] theorem updCtx_deferred (s : State) (n : Nat) (f : Context → Context) : (s.updCtx n f).deferred = s.deferred := setCtx_deferred s n _

@[simp] theorem updMe_deferred (s : State) (f : Context → Context) : (s.updMe f).deferred = s.deferred := setCtx_deferred s s.cur _

@[simp] theorem setCtx_wireOut (s : State) (n : Nat) (c : Context) : (s.setCtx n c).wireOut = s.wireOut := by
  unfold State.setCtx; split <;> rfl

@[simp] theorem setCtx_owedAdds (s : State) (n : Nat) (c : Context) : (s.setCtx n c).owedAdds = s.owedAdds := by
  unfold State.setCtx; split <;> rfl

@[simp] theorem setCtx_hostHeld (s : State) (n : Nat) (c : Context) : (s.setCtx n c).hostHeld = s.hostHeld := by
  unfold State.setCtx; split <;> rfl

@[simp] theorem setCtx_qps (s : State) (n : Nat) (c : Context) : (s.setCtx n c).qps = s.qps := by
  unfold State.setCtx; split <;> rfl

@[simp] theorem setCtx_ctrSlots (s : State) (n : Nat) (c : Context) : (s.setCtx n c).ctrSlots = s.ctrSlots := by
  unfold State.setCtx; split <;> rfl

@[simp] theorem setCtx_peerSlots (s : State) (n : Nat) (c : Context) : (s.setCtx n c).peerSlots = s.peerSlots := by
  unfold State.setCtx; split <;> rfl

@[simp] theorem setCtx_extBase (s : State) (n : Nat) (c : Context) : (s.setCtx n c).extBase = s.extBase := by
  unfold State.setCtx; split <;> rfl

@[simp] theorem setCtx_noCredit (s : State) (n : Nat) (c : Context) : (s.setCtx n c).noCredit = s.noCredit := by
  unfold State.setCtx; split <;> rfl

@[simp] theorem setCtx_commits (s : State) (n : Nat) (c : Context) : (s.setCtx n c).commits = s.commits := by
  unfold State.setCtx; split <;> rfl

@[simp] theorem setCtx_soft (s : State) (n : Nat) (c : Context) : (s.setCtx n c).soft = s.soft := by
  unfold State.setCtx; split <;> rfl

@[simp] theorem updCtx_wireOut (s : State) (n : Nat) (f : Context → Context) : (s.updCtx n f).wireOut = s.wireOut := setCtx_wireOut s n _

@[simp] theorem updCtx_owedAdds (s : State) (n : Nat) (f : Context → Context) : (s.updCtx n f).owedAdds = s.owedAdds := setCtx_owedAdds s n _

@[simp] theorem updCtx_hostHeld (s : State) (n : Nat) (f : Context → Context) : (s.updCtx n f).hostHeld = s.hostHeld := setCtx_hostHeld s n _

@[simp] theorem updCtx_qps (s : State) (n : Nat) (f : Context → Context) : (s.updCtx n f).qps = s.qps := setCtx_qps s n _

@[simp] theorem updCtx_ctrSlots (s : State) (n : Nat) (f : Context → Context) : (s.updCtx n f).ctrSlots = s.ctrSlots := setCtx_ctrSlots s n _

@[simp] theorem updCtx_peerSlots (s : State) (n : Nat) (f : Context → Context) : (s.updCtx n f).peerSlots = s.peerSlots := setCtx_peerSlots s n _

@[simp] theorem updCtx_extBase (s : State) (n : Nat) (f : Context → Context) : (s.updCtx n f).extBase = s.extBase := setCtx_extBase s n _

@[simp] theorem updCtx_noCredit (s : State) (n : Nat) (f : Context → Context) : (s.updCtx n f).noCredit = s.noCredit := setCtx_noCredit s n _

@[simp] theorem updCtx_commits (s : State) (n : Nat) (f : Context → Context) : (s.updCtx n f).commits = s.commits := setCtx_commits s n _

@[simp] theorem updCtx_soft (s : State) (n : Nat) (f : Context → Context) : (s.updCtx n f).soft = s.soft := setCtx_soft s n _

@[simp] theorem updMe_wireOut (s : State) (f : Context → Context) : (s.updMe f).wireOut = s.wireOut := setCtx_wireOut s s.cur _

@[simp] theorem updMe_owedAdds (s : State) (f : Context → Context) : (s.updMe f).owedAdds = s.owedAdds := setCtx_owedAdds s s.cur _

@[simp] theorem updMe_hostHeld (s : State) (f : Context → Context) : (s.updMe f).hostHeld = s.hostHeld := setCtx_hostHeld s s.cur _

@[simp] theorem updMe_qps (s : State) (f : Context → Context) : (s.updMe f).qps = s.qps := setCtx_qps s s.cur _

@[simp] theorem updMe_ctrSlots (s : State) (f : Context → Context) : (s.updMe f).ctrSlots = s.ctrSlots := setCtx_ctrSlots s s.cur _

@[simp] theorem updMe_peerSlots (s : State) (f : Context → Context) : (s.updMe f).peerSlots = s.peerSlots := setCtx_peerSlots s s.cur _

@[simp] theorem updMe_extBase (s : State) (f : Context → Context) : (s.updMe f).extBase = s.extBase := setCtx_extBase s s.cur _

@[simp] theorem updMe_noCredit (s : State) (f : Context → Context) : (s.updMe f).noCredit = s.noCredit := setCtx_noCredit s s.cur _

@[simp] theorem updMe_commits (s : State) (f : Context → Context) : (s.updMe f).commits = s.commits := setCtx_commits s s.cur _

@[simp] theorem updMe_soft (s : State) (f : Context → Context) : (s.updMe f).soft = s.soft := setCtx_soft s s.cur _

end Sys2Proof.Machine
end

