-- ==== Sys2Proof/Laws/Access.lean ====
section
/-! SUPPORT. What the accessors of cores and contexts read after an update, and the laws of `Elsewhere`. -/

namespace Sys2Proof.Machine

open Sys2Proof

@[simp] theorem core_setCore_self (s : State) (g : Nat) (c : Core) : (s.setCore g c).core g = c := by
  simp [State.core, State.setCore]

theorem core_setCore_ne (s : State) {g h : Nat} (c : Core) (n : h ≠ g) : (s.setCore g c).core h = s.core h := by
  simp [State.core, State.setCore, Sparse.get_set_ne _ _ _ n]

theorem slotOf_coreOf (n : Nat) : coreOf n * 4 + slotOf n = n := by
  simp only [coreOf, slotOf]; omega

/-- A context written reads back. -/
theorem ctx_setCtx_self (s : State) {n : Nat} (h : n < residents) (c : Context) : (s.setCtx n c).ctx n = c := by
  simp [State.setCtx, State.ctx, h, State.updCore]

/-- A context write leaves every other context alone. -/
theorem ctx_setCtx_ne (s : State) {n m : Nat} (h : n < residents) (c : Context) (hm : m ≠ n) :
    (s.setCtx n c).ctx m = s.ctx m := by
  simp only [State.setCtx, h, if_true, State.ctx]
  split
  · by_cases hc : coreOf m = coreOf n
    · have hs : slotOf m ≠ slotOf n := fun e => hm (by
        have := slotOf_coreOf m; have := slotOf_coreOf n; omega)
      simp [State.updCore, hc, Sparse.get_set_ne _ _ _ hs]
    · simp [State.updCore, core_setCore_ne _ _ hc]
  · rfl

/-- A context write leaves everything else of every core alone. -/
theorem core_setCtx (s : State) (n g : Nat) (c : Context) :
    (s.setCtx n c).core g = { s.core g with ctxs := ((s.setCtx n c).core g).ctxs } := by
  unfold State.setCtx
  split
  · by_cases hg : g = coreOf n
    · subst hg; simp [State.updCore]
    · rw [State.updCore, core_setCore_ne _ _ hg]
  · rfl

theorem ctx_updCtx_self (s : State) {n : Nat} (h : n < residents) (f : Context → Context) :
    (s.updCtx n f).ctx n = f (s.ctx n) := ctx_setCtx_self s h _

theorem ctx_updCtx_ne (s : State) {n m : Nat} (h : n < residents) (f : Context → Context) (hm : m ≠ n) :
    (s.updCtx n f).ctx m = s.ctx m := ctx_setCtx_ne s h _ hm

/-- The issuing context after an update of it. -/
theorem me_updMe (s : State) (h : s.cur < residents) (f : Context → Context) : (s.updMe f).me = f s.me := by
  have : (s.updMe f).cur = s.cur := by simp
  rw [State.me, this]
  exact ctx_updCtx_self s h f

theorem me_latched (s : State) (f : Latch → Latch) : (s.latched f).me = s.me := rfl

/-! ### `Elsewhere` -/

theorem Elsewhere.refl (s : State) : Elsewhere s s := ⟨rfl, fun _ => rfl, fun _ _ => rfl⟩

theorem Elsewhere.cur {s t : State} (h : Elsewhere s t) : t.cur = s.cur := by rw [h.1]

theorem Elsewhere.mem {s t : State} (h : Elsewhere s t) : t.mem = s.mem := by rw [h.1]

theorem Elsewhere.byte {s t : State} (h : Elsewhere s t) (a : Nat) : t.byte a = s.byte a := by
  simp [State.byte, h.mem]

theorem Elsewhere.trans {s t u : State} (h : Elsewhere s t) (k : Elsewhere t u) : Elsewhere s u := by
  refine ⟨?_, fun g => ?_, fun n hn => ?_⟩
  · rw [k.1, h.1]
  · rw [k.2.1 g, h.2.1 g]
  · rw [k.2.2 n (by rw [h.cur]; exact hn), h.2.2 n hn]

theorem Elsewhere.updMe {s t : State} (h : Elsewhere s t) (hc : s.cur < residents) (f : Context → Context) :
    Elsewhere s (t.updMe f) := by
  refine h.trans ⟨?_, fun g => ?_, fun n hn => ?_⟩
  · have hcur : t.cur < residents := by rw [h.cur]; exact hc
    simp [State.updMe, State.updCtx, State.setCtx, hcur, State.updCore, State.setCore]
  · simp only [State.updMe, State.updCtx]
    rw [core_setCtx t t.cur g (f (t.ctx t.cur))]
  · exact ctx_updCtx_ne t (by rw [h.cur]; exact hc) f hn

theorem Elsewhere.latched {s t : State} (h : Elsewhere s t) (f : Latch → Latch) : Elsewhere s (t.latched f) :=
  h.trans ⟨rfl, fun _ => rfl, fun _ _ => rfl⟩

end Sys2Proof.Machine
end

