-- ==== Sys2Proof/Laws/Exec.lean ====
section
/-! SUPPORT. The meaning of each slot op is the issue of its op. -/

namespace Sys2Proof.Machine

open Sys2Proof

theorem exec_nop (s : State) : exec .nop s = issueOne nopOp s := rfl

theorem exec_br (x : ArgB) (s : State) : exec (.br x) s = issueOne (brOp x) s := rfl

theorem exec_brp (x : ArgB) (s : State) : exec (.brp x) s = issueOne (brpOp x) s := rfl

theorem exec_bri (x : ArgA) (s : State) : exec (.bri x) s = issueOne (briOp x) s := rfl

theorem exec_call (x : ArgB) (s : State) : exec (.call x) s = issueOne (callOp x) s := rfl

theorem exec_calli (x : ArgA) (s : State) : exec (.calli x) s = issueOne (calliOp x) s := rfl

theorem exec_ret (s : State) : exec .ret s = issueOne retOp s := rfl

theorem exec_loopn (x : ArgLP) (s : State) : exec (.loopn x) s = issueOne (loopnOp x) s := rfl

theorem exec_lexit (s : State) : exec .lexit s = issueOne lexitOp s := rfl

theorem exec_haltb (s : State) : exec .haltb s = issueOne haltbOp s := rfl

theorem exec_yield (s : State) : exec .yield s = issueOne yieldOp s := rfl

theorem exec_sleepu (x : ArgA) (s : State) : exec (.sleepu x) s = issueOne (sleepuOp x) s := rfl

theorem exec_waitfe (x : ArgA) (s : State) : exec (.waitfe x) s = issueOne (waitfeOp x) s := rfl

theorem exec_trap (x : ArgW) (s : State) : exec (.trap x) s = issueOne (trapOp x) s := rfl

theorem exec_eret (s : State) : exec .eret s = issueOne eretOp s := rfl

theorem exec_snapst (x : ArgA) (s : State) : exec (.snapst x) s = issueOne (snapstOp x) s := rfl

theorem exec_snapld (x : ArgA) (s : State) : exec (.snapld x) s = issueOne (snapldOp x) s := rfl

theorem exec_snaprel (s : State) : exec .snaprel s = issueOne snaprelOp s := rfl

theorem exec_rprobe (x : ArgA) (s : State) : exec (.rprobe x) s = issueOne (rprobeOp x) s := rfl

theorem exec_wprobe (x : ArgA) (s : State) : exec (.wprobe x) s = issueOne (wprobeOp x) s := rfl

theorem exec_pgalloc (x : ArgA) (s : State) : exec (.pgalloc x) s = issueOne (pgallocOp x) s := rfl

theorem exec_fmtset (x : ArgA) (s : State) : exec (.fmtset x) s = issueOne (fmtsetOp x) s := rfl

theorem exec_csrr (x : ArgCS) (s : State) : exec (.csrr x) s = issueOne (csrrOp x) s := rfl

theorem exec_csrw (x : ArgCS) (s : State) : exec (.csrw x) s = issueOne (csrwOp x) s := rfl

theorem exec_fence (x : ArgA) (s : State) : exec (.fence x) s = issueOne (fenceOp x) s := rfl

theorem exec_bkpt (x : ArgW) (s : State) : exec (.bkpt x) s = issueOne (bkptOp x) s := rfl

theorem exec_abort (x : ArgW) (s : State) : exec (.abort x) s = issueOne (abortOp x) s := rfl

theorem exec_launch (x : ArgK) (s : State) : exec (.launch x) s = issueOne (launchOp x) s := rfl

theorem exec_launcht (x : ArgK) (s : State) : exec (.launcht x) s = issueOne (launchtOp x) s := rfl

theorem exec_kjoin (x : ArgA) (s : State) : exec (.kjoin x) s = issueOne (kjoinOp x) s := rfl

theorem exec_relaunch (x : ArgA) (s : State) : exec (.relaunch x) s = issueOne (relaunchOp x) s := rfl

theorem exec_add (x : ArgA) (s : State) : exec (.add x) s = issueOne (addOp 1 x) s := rfl

theorem exec_addi (x : ArgI) (s : State) : exec (.addi x) s = issueOne (addiOp 1 x) s := rfl

theorem exec_sub (x : ArgA) (s : State) : exec (.sub x) s = issueOne (subOp 1 x) s := rfl

theorem exec_mul (x : ArgA) (s : State) : exec (.mul x) s = issueOne (mulOp 1 x) s := rfl

theorem exec_mulhi (x : ArgA) (s : State) : exec (.mulhi x) s = issueOne (mulhiOp 1 x) s := rfl

theorem exec_mulhn (x : ArgA) (s : State) : exec (.mulhn x) s = issueOne (mulhnOp 1 x) s := rfl

theorem exec_div (x : ArgA) (s : State) : exec (.div x) s = issueOne (divOp 1 x) s := rfl

theorem exec_divn (x : ArgA) (s : State) : exec (.divn x) s = issueOne (divnOp 1 x) s := rfl

theorem exec_rem (x : ArgA) (s : State) : exec (.rem x) s = issueOne (remOp 1 x) s := rfl

theorem exec_remn (x : ArgA) (s : State) : exec (.remn x) s = issueOne (remnOp 1 x) s := rfl

theorem exec_min (x : ArgA) (s : State) : exec (.min x) s = issueOne (minOp 1 x) s := rfl

theorem exec_minn (x : ArgA) (s : State) : exec (.minn x) s = issueOne (minnOp 1 x) s := rfl

theorem exec_max (x : ArgA) (s : State) : exec (.max x) s = issueOne (maxOp 1 x) s := rfl

theorem exec_maxn (x : ArgA) (s : State) : exec (.maxn x) s = issueOne (maxnOp 1 x) s := rfl

theorem exec_and (x : ArgA) (s : State) : exec (.and x) s = issueOne (andOp 1 x) s := rfl

theorem exec_andi (x : ArgI) (s : State) : exec (.andi x) s = issueOne (andiOp 1 x) s := rfl

theorem exec_or (x : ArgA) (s : State) : exec (.or x) s = issueOne (orOp 1 x) s := rfl

theorem exec_ori (x : ArgI) (s : State) : exec (.ori x) s = issueOne (oriOp 1 x) s := rfl

theorem exec_xor (x : ArgA) (s : State) : exec (.xor x) s = issueOne (xorOp 1 x) s := rfl

theorem exec_xori (x : ArgI) (s : State) : exec (.xori x) s = issueOne (xoriOp 1 x) s := rfl

theorem exec_andn (x : ArgA) (s : State) : exec (.andn x) s = issueOne (andnOp 1 x) s := rfl

theorem exec_shl (x : ArgA) (s : State) : exec (.shl x) s = issueOne (shlOp 1 x) s := rfl

theorem exec_shli (x : ArgI) (s : State) : exec (.shli x) s = issueOne (shliOp 1 x) s := rfl

theorem exec_shr (x : ArgA) (s : State) : exec (.shr x) s = issueOne (shrOp 1 x) s := rfl

theorem exec_shri (x : ArgI) (s : State) : exec (.shri x) s = issueOne (shriOp 1 x) s := rfl

theorem exec_sra (x : ArgA) (s : State) : exec (.sra x) s = issueOne (sraOp 1 x) s := rfl

theorem exec_srai (x : ArgI) (s : State) : exec (.srai x) s = issueOne (sraiOp 1 x) s := rfl

theorem exec_rotl (x : ArgA) (s : State) : exec (.rotl x) s = issueOne (rotlOp 1 x) s := rfl

theorem exec_clz (x : ArgA) (s : State) : exec (.clz x) s = issueOne (clzOp 1 x) s := rfl

theorem exec_ctz (x : ArgA) (s : State) : exec (.ctz x) s = issueOne (ctzOp 1 x) s := rfl

theorem exec_popc (x : ArgA) (s : State) : exec (.popc x) s = issueOne (popcOp 1 x) s := rfl

theorem exec_bfx (x : ArgA) (s : State) : exec (.bfx x) s = issueOne (bfxOp 1 x) s := rfl

theorem exec_bfxs (x : ArgA) (s : State) : exec (.bfxs x) s = issueOne (bfxsOp 1 x) s := rfl

theorem exec_bfi (x : ArgA) (s : State) : exec (.bfi x) s = issueOne (bfiOp 1 x) s := rfl

theorem exec_sext (x : ArgA) (s : State) : exec (.sext x) s = issueOne (sextOp 1 x) s := rfl

theorem exec_zext (x : ArgA) (s : State) : exec (.zext x) s = issueOne (zextOp 1 x) s := rfl

theorem exec_mov (x : ArgA) (s : State) : exec (.mov x) s = issueOne (movOp 1 x) s := rfl

theorem exec_movi (x : ArgW) (s : State) : exec (.movi x) s = issueOne (moviOp 1 x) s := rfl

theorem exec_movhi (x : ArgW) (s : State) : exec (.movhi x) s = issueOne (movhiOp 1 x) s := rfl

theorem exec_cmp (x : ArgP) (s : State) : exec (.cmp x) s = issueOne (cmpOp 1 x) s := rfl

theorem exec_cmpi (x : ArgQ) (s : State) : exec (.cmpi x) s = issueOne (cmpiOp 1 x) s := rfl

theorem exec_sel (x : ArgA) (s : State) : exec (.sel x) s = issueOne (selOp 1 x) s := rfl

theorem exec_abs (x : ArgA) (s : State) : exec (.abs x) s = issueOne (absOp 1 x) s := rfl

theorem exec_neg (x : ArgA) (s : State) : exec (.neg x) s = issueOne (negOp 1 x) s := rfl

theorem exec_pand (x : ArgPL) (s : State) : exec (.pand x) s = issueOne (pandOp 1 x) s := rfl

theorem exec_por (x : ArgPL) (s : State) : exec (.por x) s = issueOne (porOp 1 x) s := rfl

theorem exec_pxor (x : ArgPL) (s : State) : exec (.pxor x) s = issueOne (pxorOp 1 x) s := rfl

theorem exec_pnot (x : ArgPL) (s : State) : exec (.pnot x) s = issueOne (pnotOp 1 x) s := rfl

theorem exec_pmov (x : ArgPL) (s : State) : exec (.pmov x) s = issueOne (pmovOp 1 x) s := rfl

theorem exec_fadds (x : ArgA) (s : State) : exec (.fadds x) s = issueOne (faddsOp 1 x) s := rfl

theorem exec_fsubs (x : ArgA) (s : State) : exec (.fsubs x) s = issueOne (fsubsOp 1 x) s := rfl

theorem exec_fmuls (x : ArgA) (s : State) : exec (.fmuls x) s = issueOne (fmulsOp 1 x) s := rfl

theorem exec_ffmas (x : ArgA) (s : State) : exec (.ffmas x) s = issueOne (ffmasOp 1 x) s := rfl

theorem exec_fmins (x : ArgA) (s : State) : exec (.fmins x) s = issueOne (fminsOp 1 x) s := rfl

theorem exec_fmaxs (x : ArgA) (s : State) : exec (.fmaxs x) s = issueOne (fmaxsOp 1 x) s := rfl

theorem exec_fcmps (x : ArgP) (s : State) : exec (.fcmps x) s = issueOne (fcmpsOp 1 x) s := rfl

theorem exec_fcvts (x : ArgCV) (s : State) : exec (.fcvts x) s = issueOne (fcvtsOp 1 x) s := rfl

theorem exec_ld (x : ArgM) (s : State) : exec (.ld x) s = issueOne (ldOp x) s := rfl

theorem exec_st (x : ArgM) (s : State) : exec (.st x) s = issueOne (stOp x) s := rfl

theorem exec_ldv (x : ArgM) (s : State) : exec (.ldv x) s = issueOne (ldvOp x) s := rfl

theorem exec_stv (x : ArgM) (s : State) : exec (.stv x) s = issueOne (stvOp x) s := rfl

theorem exec_ldvs (x : ArgM) (s : State) : exec (.ldvs x) s = issueOne (ldvsOp x) s := rfl

theorem exec_stvs (x : ArgM) (s : State) : exec (.stvs x) s = issueOne (stvsOp x) s := rfl

theorem exec_gath (x : ArgG) (s : State) : exec (.gath x) s = issueOne (gathOp x) s := rfl

theorem exec_scat (x : ArgG) (s : State) : exec (.scat x) s = issueOne (scatOp x) s := rfl

theorem exec_ldl (x : ArgM) (s : State) : exec (.ldl x) s = issueOne (ldlOp x) s := rfl

theorem exec_stul (x : ArgM) (s : State) : exec (.stul x) s = issueOne (stulOp x) s := rfl

theorem exec_atom (x : ArgM) (s : State) : exec (.atom x) s = issueOne (atomOp x) s := rfl

theorem exec_cas (x : ArgM) (s : State) : exec (.cas x) s = issueOne (casOp x) s := rfl

theorem exec_aadd (x : ArgA) (s : State) : exec (.aadd x) s = issueOne (aaddOp x) s := rfl

theorem exec_amov (x : ArgA) (s : State) : exec (.amov x) s = issueOne (amovOp x) s := rfl

theorem exec_ldc (x : ArgM) (s : State) : exec (.ldc x) s = issueOne (ldcOp x) s := rfl

theorem exec_binit (x : ArgM) (s : State) : exec (.binit x) s = issueOne (binitOp x) s := rfl

theorem exec_bexpect (x : ArgM) (s : State) : exec (.bexpect x) s = issueOne (bexpectOp x) s := rfl

theorem exec_barrive (x : ArgM) (s : State) : exec (.barrive x) s = issueOne (barriveOp x) s := rfl

theorem exec_bwait (x : ArgM) (s : State) : exec (.bwait x) s = issueOne (bwaitOp x) s := rfl

theorem exec_bwaitp (x : ArgM) (s : State) : exec (.bwaitp x) s = issueOne (bwaitpOp x) s := rfl

theorem exec_btest (x : ArgM) (s : State) : exec (.btest x) s = issueOne (btestOp x) s := rfl

theorem exec_cadd (x : ArgM) (s : State) : exec (.cadd x) s = issueOne (caddOp x) s := rfl

theorem exec_cwaitge (x : ArgM) (s : State) : exec (.cwaitge x) s = issueOne (cwaitgeOp x) s := rfl

theorem exec_nopL (s : State) : exec .nopL s = issueOne (slotNop 3) s := rfl

theorem exec_vadd (x : ArgV) (s : State) : exec (.vadd x) s = issueOne (vaddOp x) s := rfl

theorem exec_vsub (x : ArgV) (s : State) : exec (.vsub x) s = issueOne (vsubOp x) s := rfl

theorem exec_vmul (x : ArgV) (s : State) : exec (.vmul x) s = issueOne (vmulOp x) s := rfl

theorem exec_vfma (x : ArgV) (s : State) : exec (.vfma x) s = issueOne (vfmaOp x) s := rfl

theorem exec_vfms (x : ArgV) (s : State) : exec (.vfms x) s = issueOne (vfmsOp x) s := rfl

theorem exec_vmin (x : ArgV) (s : State) : exec (.vmin x) s = issueOne (vminOp x) s := rfl

theorem exec_vmax (x : ArgV) (s : State) : exec (.vmax x) s = issueOne (vmaxOp x) s := rfl

theorem exec_vabs (x : ArgV) (s : State) : exec (.vabs x) s = issueOne (vabsOp x) s := rfl

theorem exec_vneg (x : ArgV) (s : State) : exec (.vneg x) s = issueOne (vnegOp x) s := rfl

theorem exec_vand (x : ArgV) (s : State) : exec (.vand x) s = issueOne (vandOp x) s := rfl

theorem exec_vor (x : ArgV) (s : State) : exec (.vor x) s = issueOne (vorOp x) s := rfl

theorem exec_vxor (x : ArgV) (s : State) : exec (.vxor x) s = issueOne (vxorOp x) s := rfl

theorem exec_vnot (x : ArgV) (s : State) : exec (.vnot x) s = issueOne (vnotOp x) s := rfl

theorem exec_vshl (x : ArgV) (s : State) : exec (.vshl x) s = issueOne (vshlOp x) s := rfl

theorem exec_vshr (x : ArgV) (s : State) : exec (.vshr x) s = issueOne (vshrOp x) s := rfl

theorem exec_vsra (x : ArgV) (s : State) : exec (.vsra x) s = issueOne (vsraOp x) s := rfl

theorem exec_vcmp (x : ArgV) (s : State) : exec (.vcmp x) s = issueOne (vcmpOp x) s := rfl

theorem exec_vsel (x : ArgV) (s : State) : exec (.vsel x) s = issueOne (vselOp x) s := rfl

theorem exec_vmov (x : ArgV) (s : State) : exec (.vmov x) s = issueOne (vmovOp x) s := rfl

theorem exec_vmovs (x : ArgV) (s : State) : exec (.vmovs x) s = issueOne (vmovsOp x) s := rfl

theorem exec_vextr (x : ArgV) (s : State) : exec (.vextr x) s = issueOne (vextrOp x) s := rfl

theorem exec_vins (x : ArgV) (s : State) : exec (.vins x) s = issueOne (vinsOp x) s := rfl

theorem exec_vperm (x : ArgV) (s : State) : exec (.vperm x) s = issueOne (vpermOp x) s := rfl

theorem exec_vslide (x : ArgV) (s : State) : exec (.vslide x) s = issueOne (vslideOp x) s := rfl

theorem exec_viota (x : ArgV) (s : State) : exec (.viota x) s = issueOne (viotaOp x) s := rfl

theorem exec_vcompr (x : ArgV) (s : State) : exec (.vcompr x) s = issueOne (vcomprOp x) s := rfl

theorem exec_vcvt (x : ArgV) (s : State) : exec (.vcvt x) s = issueOne (vcvtOp x) s := rfl

theorem exec_vquant (x : ArgV) (s : State) : exec (.vquant x) s = issueOne (vquantOp x) s := rfl

theorem exec_vdeq (x : ArgV) (s : State) : exec (.vdeq x) s = issueOne (vdeqOp x) s := rfl

theorem exec_vdot (x : ArgV) (s : State) : exec (.vdot x) s = issueOne (vdotOp x) s := rfl

theorem exec_vrsum (x : ArgV) (s : State) : exec (.vrsum x) s = issueOne (vrsumOp x) s := rfl

theorem exec_vrmax (x : ArgV) (s : State) : exec (.vrmax x) s = issueOne (vrmaxOp x) s := rfl

theorem exec_vrmin (x : ArgV) (s : State) : exec (.vrmin x) s = issueOne (vrminOp x) s := rfl

theorem exec_vrmaxi (x : ArgV) (s : State) : exec (.vrmaxi x) s = issueOne (vrmaxiOp x) s := rfl

theorem exec_vrmini (x : ArgV) (s : State) : exec (.vrmini x) s = issueOne (vrminiOp x) s := rfl

theorem exec_vscan (x : ArgV) (s : State) : exec (.vscan x) s = issueOne (vscanOp x) s := rfl

theorem exec_vpopc (x : ArgV) (s : State) : exec (.vpopc x) s = issueOne (vpopcOp x) s := rfl

theorem exec_vclz (x : ArgV) (s : State) : exec (.vclz x) s = issueOne (vclzOp x) s := rfl

theorem exec_vrcp (x : ArgV) (s : State) : exec (.vrcp x) s = issueOne (vrcpOp x) s := rfl

theorem exec_vrsq (x : ArgV) (s : State) : exec (.vrsq x) s = issueOne (vrsqOp x) s := rfl

theorem exec_vexp2 (x : ArgV) (s : State) : exec (.vexp2 x) s = issueOne (vexp2Op x) s := rfl

theorem exec_vlog2 (x : ArgV) (s : State) : exec (.vlog2 x) s = issueOne (vlog2Op x) s := rfl

theorem exec_vtanh (x : ArgV) (s : State) : exec (.vtanh x) s = issueOne (vtanhOp x) s := rfl

theorem exec_vmset (x : ArgV) (s : State) : exec (.vmset x) s = issueOne (vmsetOp x) s := rfl

theorem exec_vmops (x : ArgV) (s : State) : exec (.vmops x) s = issueOne (vmopsOp x) s := rfl

theorem exec_nopV (s : State) : exec .nopV s = issueOne (slotNop 4) s := rfl

theorem exec_mma (x : ArgMX) (s : State) : exec (.mma x) s = issueOne (mmaOp x) s := rfl

theorem exec_mmaz (x : ArgMX) (s : State) : exec (.mmaz x) s = issueOne (mmazOp x) s := rfl

theorem exec_mmas (x : ArgMX) (s : State) : exec (.mmas x) s = issueOne (mmasOp x) s := rfl

theorem exec_mcbld (x : ArgMX) (s : State) : exec (.mcbld x) s = issueOne (mcbldOp x) s := rfl

theorem exec_accrd (x : ArgMX) (s : State) : exec (.accrd x) s = issueOne (accrdOp x) s := rfl

theorem exec_accwr (x : ArgMX) (s : State) : exec (.accwr x) s = issueOne (accwrOp x) s := rfl

theorem exec_accz (x : ArgMX) (s : State) : exec (.accz x) s = issueOne (acczOp x) s := rfl

theorem exec_mwait (x : ArgMX) (s : State) : exec (.mwait x) s = issueOne (mwaitOp x) s := rfl

theorem exec_mstat (x : ArgMX) (s : State) : exec (.mstat x) s = issueOne (mstatOp x) s := rfl

theorem exec_mdrain (x : ArgMX) (s : State) : exec (.mdrain x) s = issueOne mdrainOp s := rfl

theorem exec_nopM (s : State) : exec .nopM s = issueOne (slotNop 5) s := rfl

theorem exec_xcopy (x : ArgX) (s : State) : exec (.xcopy x) s = issueOne (xcopyOp x) s := rfl

theorem exec_xfill (x : ArgX) (s : State) : exec (.xfill x) s = issueOne (xfillOp x) s := rfl

theorem exec_xsub (x : ArgX) (s : State) : exec (.xsub x) s = issueOne (xsubOp x) s := rfl

theorem exec_xunsub (x : ArgX) (s : State) : exec (.xunsub x) s = issueOne (xunsubOp x) s := rfl

theorem exec_xslot (x : ArgX) (s : State) : exec (.xslot x) s = issueOne (xslotOp x) s := rfl

theorem exec_xremw (x : ArgX) (s : State) : exec (.xremw x) s = issueOne (xremwOp x) s := rfl

theorem exec_xrcopy (x : ArgX) (s : State) : exec (.xrcopy x) s = issueOne (xrcopyOp x) s := rfl

theorem exec_xcadd (x : ArgX) (s : State) : exec (.xcadd x) s = issueOne (xcaddOp x) s := rfl

theorem exec_xmcast (x : ArgX) (s : State) : exec (.xmcast x) s = issueOne (xmcastOp x) s := rfl

theorem exec_xmcastSet (x : ArgX) (s : State) : exec (.xmcastSet x) s = issueOne (xmcastSetOp x) s := rfl

theorem exec_xmigr (x : ArgX) (s : State) : exec (.xmigr x) s = issueOne (xmigrOp x) s := rfl

theorem exec_xcoll (x : ArgX) (s : State) : exec (.xcoll x) s = issueOne (xcollOp x) s := rfl

theorem exec_xgjoin (x : ArgX) (s : State) : exec (.xgjoin x) s = issueOne (xgjoinOp x) s := rfl

theorem exec_xgleave (x : ArgX) (s : State) : exec (.xgleave x) s = issueOne (xgleaveOp x) s := rfl

theorem exec_xgagree (x : ArgX) (s : State) : exec (.xgagree x) s = issueOne (xgagreeOp x) s := rfl

theorem exec_xcancel (x : ArgX) (s : State) : exec (.xcancel x) s = issueOne (xcancelOp x) s := rfl

theorem exec_nopX (s : State) : exec .nopX s = issueOne (slotNop 6) s := rfl

end Sys2Proof.Machine
end

