-- ==== Sys2Proof/Laws/Context.lean ====
section
/-! SUPPORT. The fields of a context that a register write leaves alone, and what a register reads as the issue begins. -/

namespace Sys2Proof.Machine

open Sys2Proof

/-- `c'` has the issue point, state, nest and hold state of `c`. -/
def Context.Keeps (c c' : Context) : Prop :=
  c'.nest = c.nest ∧ c'.rep = c.rep ∧ c'.pc = c.pc ∧ c'.after = c.after ∧ c'.st = c.st ∧ c'.held = c.held

theorem Context.Keeps.refl (c : Context) : c.Keeps c := ⟨rfl, rfl, rfl, rfl, rfl, rfl⟩

theorem Context.Keeps.trans {a b c : Context} (h : a.Keeps b) (k : b.Keeps c) : a.Keeps c :=
  ⟨k.1.trans h.1, k.2.1.trans h.2.1, k.2.2.1.trans h.2.2.1, k.2.2.2.1.trans h.2.2.2.1,
   k.2.2.2.2.1.trans h.2.2.2.2.1, k.2.2.2.2.2.trans h.2.2.2.2.2⟩

theorem Context.keeps_post (c : Context) (f : RegFile) (r : Nat) (v : VReg) : c.Keeps (c.post f r v) := by
  unfold Context.post; split <;> exact ⟨rfl, rfl, rfl, rfl, rfl, rfl⟩

theorem Context.keeps_wS (c : Context) (r : Nat) (v : Word64) : c.Keeps (c.wS r v) := c.keeps_post ..

theorem Context.keeps_wA (c : Context) (r : Nat) (v : Word64) : c.Keeps (c.wA r v) := c.keeps_post ..

theorem Context.keeps_wP (c : Context) (r : Nat) (v : Bool) : c.Keeps (c.wP r v) := c.keeps_post ..

theorem Context.keeps_wV (c : Context) (r : Nat) (v : VReg) : c.Keeps (c.wV r v) := c.keeps_post ..

theorem Context.keeps_wVM (c : Context) (r : Nat) (v : VMask) : c.Keeps (c.wVM r v) := c.keeps_post ..

theorem Context.keeps_put (c : Context) (f : RegFile) (r : Nat) (v : VReg) : c.Keeps (c.put f r v) := by
  unfold Context.put; split
  · exact .refl c
  · cases f <;> exact ⟨rfl, rfl, rfl, rfl, rfl, rfl⟩

theorem Context.keeps_wSnow (c : Context) (r : Nat) (v : Word64) : c.Keeps (c.wSnow r v) :=
  (c.keeps_put .s r _).trans ⟨rfl, rfl, rfl, rfl, rfl, rfl⟩

theorem Context.keeps_stepA (c : Context) (r : Nat) (v : Word64) : c.Keeps (c.stepA r v) := by
  unfold Context.stepA; split <;> exact ⟨rfl, rfl, rfl, rfl, rfl, rfl⟩

theorem Context.keeps_begin (c : Context) : c.Keeps c.begin := ⟨rfl, rfl, rfl, rfl, rfl, rfl⟩

theorem Context.keeps_raiseFl (c : Context) (f : FlagSet) : c.Keeps (c.raiseFl f) := ⟨rfl, rfl, rfl, rfl, rfl, rfl⟩

theorem Context.keeps_drawn (c : Context) (a : Draw) : c.Keeps (c.drawn a) := ⟨rfl, rfl, rfl, rfl, rfl, rfl⟩

theorem Context.keeps_wCsr (c : Context) (n : Nat) (v : Word64) : c.Keeps (c.wCsr n v) := by
  unfold Context.wCsr; split <;> exact ⟨rfl, rfl, rfl, rfl, rfl, rfl⟩

@[simp] theorem begin_rS (c : Context) (r : Nat) : c.begin.rS r = c.rS r := rfl

@[simp] theorem begin_rA (c : Context) (r : Nat) : c.begin.rA r = c.rA r := rfl

@[simp] theorem begin_rP (c : Context) (r : Nat) : c.begin.rP r = c.rP r := rfl

@[simp] theorem begin_rV (c : Context) (r : Nat) : c.begin.rV r = c.rV r := rfl

@[simp] theorem begin_rVM (c : Context) (r : Nat) : c.begin.rVM r = c.rVM r := rfl

@[simp] theorem begin_fmt (c : Context) : c.begin.fmt = c.fmtNow := rfl

end Sys2Proof.Machine
end

