-- ==== Sys2Proof/Laws/Issue.lean ====
section
/-! SUPPORT. What one issue does: the spec lemmas of `verdict`, `commit` and `issue` for an op that issues alone, outside a
loop nest. -/

namespace Sys2Proof.Machine

open Sys2Proof

theorem firstEmptySrc_none (s : State) (cid : Nat) (l : List Src) : ∀ n, l.all (srcFull s cid) = true →
    firstEmptySrc s cid n l = none := by
  induction l with
  | nil => intro n _; rfl
  | cons x t ih =>
    intro n h
    simp only [List.all_cons, Bool.and_eq_true] at h
    simp [firstEmptySrc, h.1, ih (n + 1) h.2]

/-- The exceptions of an op that issues alone: its own, an expectation that overflows, then those of `LDL` and `STUL`. -/
theorem ownExc_one (o : Op) (s : State) (h0 : o.early s = none) :
    ownExc [o] s = (o.chk s).or ((firstOver s (barPend s) [o]).or (o.late s)) := by
  simp only [ownExc, firstExc, Op.own, h0]
  cases o.chk s <;> cases o.late s <;> rfl

/-- An op that issues alone finds no exception. -/
theorem ownExc_none (o : Op) (s : State) (h0 : o.early s = none) (h2 : o.chk s = none) (hl : o.late s = none)
    (hp : firstOver s (barPend s) [o] = none) : ownExc [o] s = none := by
  rw [ownExc_one o s h0, h2, hl, hp]; rfl

/-- With its sources full and no check, trap or wait of its own, an op goes. -/
theorem verdict_go (o : Op) (s : State) (h0 : o.early s = none) (h1 : Ready s o.srcs) (h2 : o.chk s = none)
    (h3 : o.wait s = none) (hl : o.late s = none := by rfl) (hp : firstOver s (barPend s) [o] = none := by rfl) :
    verdict [o] s = .go := by
  simp [verdict, firstEmpty, firstWait, ownExc_none o s h0 h2 hl hp, h3, firstEmptySrc_none s s.cur o.srcs 0 h1]

/-- An op that goes on but for its own wait makes the context wait. -/
theorem verdict_wait (o : Op) (s : State) (h0 : o.early s = none) (h1 : Ready s o.srcs) (h2 : o.chk s = none)
    {r : Nat} {f : State → State} (h3 : o.wait s = some (r, f)) (hl : o.late s = none := by rfl)
    (hp : firstOver s (barPend s) [o] = none := by rfl) : verdict [o] s = .wait r f := by
  simp [verdict, firstEmpty, firstWait, ownExc_none o s h0 h2 hl hp, h3, firstEmptySrc_none s s.cur o.srcs 0 h1]

/-- An empty source whose bit selects trap raises trap 0x20, or 0x21 for a tile, and nothing of the op happens. -/
theorem verdict_empty_trap (o : Op) (s : State) (h0 : o.early s = none) {n : Nat} {x : Src}
    (h1 : firstEmptySrc s s.cur 0 o.srcs = some (n, x)) (hx : x.trap = true) :
    verdict [o] s = .exc (emptyExc s s.cur n o.slot o.held x) := by
  simp [verdict, firstEmpty, emptyVerdict, h0, h1, hx]

/-- An empty source whose bit selects block makes the context wait, reason 1, for that source. -/
theorem verdict_empty_block (o : Op) (s : State) (h0 : o.early s = none) {n : Nat} {x : Src}
    (h1 : firstEmptySrc s s.cur 0 o.srcs = some (n, x)) (hx : x.trap = false) :
    verdict [o] s = .wait 1 (noteBlock [o] x.file x.reg) := by
  simp [verdict, firstEmpty, emptyVerdict, h0, h1, hx]

/-- An op's own exception comes once its sources are full. -/
theorem verdict_exc (o : Op) (s : State) (h0 : o.early s = none) (h1 : Ready s o.srcs) {e : Exc} (h2 : o.chk s = some e) :
    verdict [o] s = .exc e := by
  simp [verdict, firstEmpty, ownExc_one o s h0, h2, firstEmptySrc_none s s.cur o.srcs 0 h1]

theorem issue_go (o : Op) (s : State) (h : verdict [o] s = .go) : issue [o] s = commit [o] s := by
  simp [issue, h]

theorem issue_exc (o : Op) (s : State) {e : Exc} (h : verdict [o] s = .exc e) : issue [o] s = raise s e := by
  simp [issue, h]

theorem issue_wait (o : Op) (s : State) {r : Nat} {f : State → State} (h : verdict [o] s = .wait r f) :
    issue [o] s = block (f s) s.cur r := by
  simp [issue, h]

/-! ### The beginning of an issue -/

theorem beginIssue_me (s : State) (h : s.cur < residents) : (beginIssue s).me = s.me.begin :=
  me_updMe (s.latched _) h _

theorem beginIssue_elsewhere (s : State) (h : s.cur < residents) : Elsewhere s (beginIssue s) :=
  ((Elsewhere.refl s).latched _).updMe h _

@[simp] theorem beginIssue_cur (s : State) : (beginIssue s).cur = s.cur := by simp [beginIssue]

@[simp] theorem beginIssue_num (s : State) : (beginIssue s).num = s.num := by simp [beginIssue]

@[simp] theorem beginIssue_mem (s : State) : (beginIssue s).mem = s.mem := by simp [beginIssue]

@[simp] theorem beginIssue_latch (s : State) : (beginIssue s).latch = latchBegin s.latch s.me := by
  simp [beginIssue, State.latched]

/-- What an op's effect leaves for a plain close of its issue: the latch as the issue began but for the step information, the
same issue point, no nest, no sleep. -/
def PlainEnd (s e : State) : Prop :=
  e.latch = { latchBegin s.latch s.me with info := e.latch.info, promise := e.latch.promise } ∧ e.cur = s.cur ∧ e.me.nest.active = false ∧ e.me.rep = s.me.rep ∧ e.me.pc = s.me.pc
  ∧ e.me.after = .none ∧ e.me.st ≠ .sleeping ∧ e.me.held = s.me.held

/-- The close of a quiet issue, from a state with its hold state written. -/
theorem finish_clear (s e e1 : State) (w : Bool) (n : Nat) (H : Held) (hq : Quiet s) (he : PlainEnd s e) (hel1 : Elsewhere e e1)
    (hme1 : e1.me = e.me.holding H) (hle : e1.latch = e.latch) :
    Elsewhere e (finish w n e1) ∧ (finish w n e1).me = closing s H e.me := by
  obtain ⟨hcur, -, hstep, -, -⟩ := hq
  obtain ⟨hl, hc, hn, hr, hp, ha, hs, hh⟩ := he
  have hstep' : (s.me.tlevel == 0 && bitOf s.me.stepctl.toNat 0) = false := by
    by_cases h : s.me.tlevel = 0 <;> simp [h, hstep]
  have hec : e.cur < residents := by rw [hc]; exact hcur
  have hfb : ∀ ws, ((e.me.holding H).fillBuffer ws) = e.me.holding H := by
    intro ws; simp [Context.fillBuffer, Context.holding, hn]
  have hl1 : e1.latch = { latchBegin s.latch s.me with info := e.latch.info, promise := e.latch.promise } := hle.trans hl
  clear hle
  generalize e.latch.info = inf at *
  generalize e.latch.promise = prm at *
  have hc1 : e1.cur < residents := by rw [hel1.cur]; exact hec
  have hme2 : (e1.updMe (fun c => (c.fillBuffer e1.latch.words).tickFmt)).me
      = (e.me.holding (H)).tickFmt := by
    rw [me_updMe _ hc1, hme1, hfb]
  have hel2 : Elsewhere e (e1.updMe (fun c => (c.fillBuffer e1.latch.words).tickFmt)) := hel1.updMe hec _
  have hl2 : (e1.updMe (fun c => (c.fillBuffer e1.latch.words).tickFmt)).latch
      = { latchBegin s.latch s.me with info := inf, promise := prm } := by rw [updMe_latch]; exact hl1
  unfold finish
  generalize e1.updMe (fun c => (c.fillBuffer e1.latch.words).tickFmt) = e2 at *
  have hc2 : e2.cur < residents := by rw [hel2.cur]; exact hec
  have hadv : advance e2 = (e2.updMe (fun c => c.goTo (if s.me.rep < s.latch.repn then s.me.pc else s.latch.next)
      (if s.me.rep < s.latch.repn then s.me.rep + 1 else 0) 0), none) := by
    unfold advance
    have hpc : e2.me.pc = s.me.pc := by rw [hme2]; exact hp
    have hrep : e2.me.rep = s.me.rep := by rw [hme2]; exact hr
    have hnest : e2.me.nest.active = false := by rw [hme2]; exact hn
    by_cases hlt : s.me.rep < s.latch.repn
    · simp only [hl2, latchBegin, hrep, hlt, if_true]
      exact congrArg (fun c => (e2.setCtx e2.cur c, (none : Option Exc)))
        (show e2.me.goTo e2.me.pc (e2.me.rep + 1) 0 = e2.me.goTo s.me.pc (s.me.rep + 1) 0 by rw [hpc, hrep])
    · simp [hl2, latchBegin, hrep, hlt, hnest, Nest.none]
  rw [hadv]
  dsimp only
  have hl3 : (e2.updMe (fun c => c.goTo (if s.me.rep < s.latch.repn then s.me.pc else s.latch.next)
      (if s.me.rep < s.latch.repn then s.me.rep + 1 else 0) 0)).latch
      = { latchBegin s.latch s.me with info := inf, promise := prm } := by rw [updMe_latch]; exact hl2
  have hme3 := me_updMe e2 hc2 (fun c => c.goTo (if s.me.rep < s.latch.repn then s.me.pc else s.latch.next)
      (if s.me.rep < s.latch.repn then s.me.rep + 1 else 0) 0)
  have hel3 := hel2.updMe hec (fun c => c.goTo (if s.me.rep < s.latch.repn then s.me.pc else s.latch.next)
      (if s.me.rep < s.latch.repn then s.me.rep + 1 else 0) 0)
  generalize e2.updMe (fun c => c.goTo (if s.me.rep < s.latch.repn then s.me.pc else s.latch.next)
      (if s.me.rep < s.latch.repn then s.me.rep + 1 else 0) 0) = e3 at *
  have hc3 : e3.cur < residents := by rw [hel3.cur]; exact hec
  have hl4 : e3.latch.post = none ∧ e3.latch.fence = none ∧ e3.latch.step = false ∧ e3.latch.yielded = false := by
    rw [hl3]; exact ⟨rfl, rfl, hstep', rfl⟩
  simp only [hl4, Bool.false_eq_true, if_false]
  have hme4 := me_updMe e3 hc3 (fun c => c.owing none)
  have hel4 := hel3.updMe hec (fun c => c.owing none)
  have hme5 : (e3.updMe (fun c => c.owing none)).me = (((e.me.holding (H)).tickFmt).goTo
      (if s.me.rep < s.latch.repn then s.me.pc else s.latch.next) (if s.me.rep < s.latch.repn then s.me.rep + 1 else 0) 0).owing none := by
    rw [hme4, hme3, hme2]
  have haf : (e3.updMe (fun c => c.owing none)).me.after = .none := by
    rw [hme5]; simp only [Context.owing, Context.goTo, Context.tickFmt, Context.holding]; exact ha
  have hst : (e3.updMe (fun c => c.owing none)).me.st ≠ .sleeping := by
    rw [hme5]; simp only [Context.owing, Context.goTo, Context.tickFmt, Context.holding]; exact hs
  have hfin : (e3.updMe (fun c => c.owing none)).me = closing s (H) e.me := by
    rw [hme5]; simp only [Context.owing, Context.goTo, Context.tickFmt, Context.holding, closing]
  have hend : afterIssue (e3.updMe (fun c => c.owing none)) = e3.updMe (fun c => c.owing none) := by
    simp only [afterIssue, haf, goesOnTo, hst, updMe_latch, hl4, if_false, Bool.false_eq_true, Bool.false_and]
  rw [hend]
  exact ⟨hel4, hfin⟩

/-- The close of a quiet issue of ops. -/
theorem finish_ops (s e : State) (w : Bool) (n : Nat) (ops : List Op) (hq : Quiet s) (he : PlainEnd s e) :
    Elsewhere e (finish w n (holds ops e))
    ∧ (finish w n (holds ops e)).me = closing s (ops.foldl Held.after s.me.held) e.me := by
  have hec : e.cur < residents := by rw [he.2.1]; exact hq.1
  refine finish_clear s e _ w n _ hq he ((Elsewhere.refl e).updMe hec _) ?_ (by simp [holds])
  rw [holds, me_updMe _ hec, he.2.2.2.2.2.2.2]

/-- The close of a quiet issue of one op. -/
theorem finish_quiet (s e : State) (w : Bool) (n : Nat) (o : Op) (hq : Quiet s) (he : PlainEnd s e) :
    Elsewhere e (finish w n (holds [o] e)) ∧ (finish w n (holds [o] e)).me = closing s (Held.after s.me.held o) e.me :=
  finish_ops s e w n [o] hq he

/-! ### An op that issues alone -/

/-- A bundle without a fence holds nothing back. -/
theorem fenceWaits_slot (s : State) (o : Op) (h : o.slot ≠ 0) : fenceWaits (beginIssue s) [o] = false := by
  simp [fenceWaits, fenceOf, h, latchBegin]

theorem effects_none (w : Bool) (pre : State) (o : Op) (s : State) (h : o.mem = none) (hb : o.bars pre = [] := by rfl) :
    effects w pre [o] s = o.eff pre s := by
  simp [effects, effect, h, hb, postBars]

/-- Outside a fence, an op's barrier writes are made before the rest of its effect. -/
theorem effects_bars (pre : State) (o : Op) (s : State) (h : o.mem = none) :
    effects false pre [o] s = o.eff pre ((o.bars pre).foldl runBar s) := by
  simp only [effects, effect, h, List.foldl_cons, List.foldl_nil]
  cases o.bars pre <;> rfl

theorem effects_mem (pre : State) (o : Op) (s : State) {m : Instr × (State → State → State)} (h : o.mem = some m) :
    effects false pre [o] s = m.2 pre (o.eff pre s) := by
  simp [effects, effect, h]

/-- The issue of an op whose effect leaves the state `e`, to be closed plainly. -/
theorem issues_of {i : Instr} {o : Op} {s e : State} (hi : exec i s = issueOne o s) (hq : Quiet s)
    (hv : verdict [o] s = .go)
    (he : effects (fenceWaits (beginIssue s) [o]) (beginIssue s) [o] (beginIssue s) = e) (hp : PlainEnd s e) :
    Issues s i (Held.after s.me.held o) e := by
  have h := finish_quiet s e (fenceWaits (beginIssue s) [o]) s.num o hq hp
  refine ⟨_, ?_, h.1, h.2⟩
  rw [hi, issueOne, issue_go o s hv, commit, beginIssue_num, he]

/-- A change of the issuing context that keeps its issue point ends an issue plainly. -/
theorem plainEnd_updMe {s : State} (hq : Quiet s) (F : Context → Context) (hF : ∀ c : Context, c.Keeps (F c)) :
    PlainEnd s ((beginIssue s).updMe F) := by
  obtain ⟨hc, hn, -, ha, hs⟩ := hq
  have hme : ((beginIssue s).updMe F).me = F s.me.begin := by
    rw [me_updMe _ (by simpa using hc), beginIssue_me s hc]
  have k := s.me.keeps_begin.trans (hF s.me.begin)
  refine ⟨by simp, by simp, ?_, ?_, ?_, ?_, ?_, ?_⟩ <;> rw [hme]
  · rw [k.1]; exact hn
  · exact k.2.1
  · exact k.2.2.1
  · rw [k.2.2.2.1]; exact ha
  · rw [k.2.2.2.2.1]; exact hs
  · exact k.2.2.2.2.2

/-- The issue of an op that changes the issuing context alone. -/
theorem writes_of {i : Instr} {o : Op} {s : State} (hi : exec i s = issueOne o s) (hq : Quiet s)
    (hv : verdict [o] s = .go) (hm : o.mem = none) (F : Context → Context)
    (he : o.eff (beginIssue s) (beginIssue s) = (beginIssue s).updMe F) (hF : ∀ c : Context, c.Keeps (F c))
    (hb : o.bars (beginIssue s) = [] := by rfl) : Writes s i (Held.after s.me.held o) F := by
  obtain ⟨t, h1, h2, h3⟩ := issues_of hi hq hv (effects_none _ _ o _ hm hb) (he ▸ plainEnd_updMe hq F hF)
  refine ⟨t, h1, ?_, ?_⟩
  · refine Elsewhere.trans ?_ h2
    rw [he]
    exact (beginIssue_elsewhere s hq.1).updMe hq.1 F
  · rw [h3, he, me_updMe _ (by simpa using hq.1), beginIssue_me s hq.1]

/-- A state that differs from the beginning of the issue in the issuing context alone, with its issue point kept, ends an
issue plainly. -/
theorem plainEnd_of {s e : State} (hq : Quiet s) {c : Context} (h : Elsewhere (beginIssue s) e)
    (hl : e.latch = (beginIssue s).latch) (hm : e.me = c) (k : s.me.begin.Keeps c) : PlainEnd s e := by
  obtain ⟨-, hn, -, ha, hs⟩ := hq
  have k := s.me.keeps_begin.trans k
  refine ⟨by rw [hl, beginIssue_latch], by rw [h.cur, beginIssue_cur], ?_, ?_, ?_, ?_, ?_, ?_⟩ <;> rw [hm]
  · rw [k.1]; exact hn
  · exact k.2.1
  · exact k.2.2.1
  · rw [k.2.2.2.1]; exact ha
  · rw [k.2.2.2.2.1]; exact hs
  · exact k.2.2.2.2.2

/-- The issue of an op whose effect is seen in the issuing context alone. -/
theorem writes_of' {i : Instr} {o : Op} {s e : State} (hi : exec i s = issueOne o s) (hq : Quiet s)
    (hv : verdict [o] s = .go) (hm : o.mem = none) (F : Context → Context)
    (he : o.eff (beginIssue s) (beginIssue s) = e) (h : Elsewhere (beginIssue s) e)
    (hl : e.latch = (beginIssue s).latch) (hme : e.me = F s.me.begin) (hF : ∀ c : Context, c.Keeps (F c))
    (hb : o.bars (beginIssue s) = [] := by rfl) : Writes s i (Held.after s.me.held o) F := by
  obtain ⟨t, h1, h2, h3⟩ := issues_of hi hq hv (effects_none _ _ o _ hm hb) (he ▸ plainEnd_of hq h hl hme (hF _))
  refine ⟨t, h1, ?_, ?_⟩
  · rw [he] at h2
    exact ((beginIssue_elsewhere s hq.1).trans h).trans h2
  · rw [h3, he, hme]

end Sys2Proof.Machine
end

