-- ==== Sys2Proof/Laws/Slot.lean ====
section
/-! SUPPORT. What an op of each shape does when it issues alone: one lemma per shape of Scalar.lean, Memory.lean and
Vector.lean. -/

namespace Sys2Proof.Machine

open Sys2Proof

theorem ready_append {s : State} {l m : List Src} (h : Ready s l) (k : Ready s m) : Ready s (l ++ m) := by
  simp only [Ready, List.all_append, Bool.and_eq_true] at *
  exact ⟨h, k⟩

/-- An op with one scalar result. -/
theorem opS_result {s : State} {i : Instr} {srcs : List Src} {d : Fin 64} {f : Context → Word64 × FlagSet}
    (hi : exec i s = issueOne (opS 1 srcs d f) s) (hq : Quiet s) (hr : Ready s srcs) :
    ScalarResult s i d (f s.me.begin) := by
  refine writes_of hi hq (verdict_go _ _ rfl hr rfl rfl) rfl _ ?_
    (fun c => (c.keeps_wS _ _).trans (Context.keeps_raiseFl _ _))
  simp [opS, Op.plain, beginIssue_me s hq.1]

/-- The same of an op with a check of its own. -/
theorem opS_chk_result {s : State} {i : Instr} {srcs : List Src} {d : Fin 64} {f : Context → Word64 × FlagSet}
    {chk : State → Option Exc} (hi : exec i s = issueOne { opS 1 srcs d f with chk := chk } s)
    (hq : Quiet s) (hr : Ready s srcs) (hc : chk s = none) : ScalarResult s i d (f s.me.begin) := by
  refine writes_of hi hq (verdict_go _ _ rfl hr hc rfl) rfl _ ?_
    (fun c => (c.keeps_wS _ _).trans (Context.keeps_raiseFl _ _))
  simp [opS, Op.plain, beginIssue_me s hq.1]

/-- An op with one predicate result. -/
theorem opP_result {s : State} {i : Instr} {srcs : List Src} {d : Fin 8} {f : Context → Bool × FlagSet}
    (hi : exec i s = issueOne (opP 1 srcs d f) s) (hq : Quiet s) (hr : Ready s srcs) :
    PredicateResult s i d (f s.me.begin) := by
  refine writes_of hi hq (verdict_go _ _ rfl hr rfl rfl) rfl _ ?_
    (fun c => (c.keeps_wP _ _).trans (Context.keeps_raiseFl _ _))
  simp [opP, Op.plain, beginIssue_me s hq.1]

/-- An op with one rounded scalar result. -/
theorem opDraw_result {s : State} {i : Instr} {srcs : List Src} {d : Fin 64} {b : Bool}
    {f : Context → Nat → Nat × FlagSet} (hi : exec i s = issueOne (opDraw 1 srcs d b f) s)
    (hq : Quiet s) (hr : Ready s srcs) : RoundedResult s i d b (f s.me.begin) := by
  refine writes_of hi hq (verdict_go _ _ rfl hr rfl rfl) rfl _ ?_
    (fun c => (c.keeps_wS _ _).trans (Context.keeps_drawn _ _))
  simp [opDraw, Op.plain, beginIssue_me s hq.1, Context.draw, Context.drawn]

/-- An op that raises an exception of its own. -/
theorem raises_of {s : State} {i : Instr} {o : Op} {e : Exc} (hi : exec i s = issueOne o s) (h0 : o.early s = none)
    (hr : Ready s o.srcs) (hc : o.chk s = some e) : Raises s i e := by
  rw [Raises, hi, issueOne, issue_exc o s (verdict_exc o s h0 hr hc)]

/-- An op that waits. -/
theorem waits_of {s : State} {i : Instr} {o : Op} {r : Nat} {f : State → State} (hi : exec i s = issueOne o s)
    (h0 : o.early s = none) (hr : Ready s o.srcs) (hc : o.chk s = none) (hw : o.wait s = some (r, f))
    (hl : o.late s = none := by rfl) (hp : firstOver s (barPend s) [o] = none := by rfl) : Waits s i r f := by
  rw [Waits, hi, issueOne, issue_wait o s (verdict_wait o s h0 hr hc hw hl hp)]

end Sys2Proof.Machine
end

