-- ==== Sys2Proof/Laws/Stores.lean ====
section
/-! SUPPORT. What an L-slot op does when it issues alone: loads, and stores of bytes. -/

namespace Sys2Proof.Machine

open Sys2Proof

/-! ### A state with another memory -/

/-- `b` is `s` but for its memory. -/
def OnlyMem (s b : State) : Prop := b = { s with mem := b.mem }

theorem OnlyMem.refl (s : State) : OnlyMem s s := rfl

theorem OnlyMem.setByte {s b : State} (h : OnlyMem s b) (pa : Nat) (v : Byte) : OnlyMem s (b.setByte pa v) := by
  unfold OnlyMem at *
  rw [h]; rfl

theorem OnlyMem.wrBytes {s : State} (l : List Byte) : ∀ {b : State} (pa : Nat), OnlyMem s b → OnlyMem s (wrBytes b pa l) := by
  induction l with
  | nil => intro b pa h; exact h
  | cons v t ih => intro b pa h; exact ih (pa + 1) (h.setByte pa v)

theorem OnlyMem.wr {s b : State} (h : OnlyMem s b) (pa n v : Nat) : OnlyMem s (wr b pa n v) := h.wrBytes _ pa

theorem OnlyMem.foldl {s : State} {α : Type} (f : State → α → State) (hf : ∀ b x, OnlyMem s b → OnlyMem s (f b x))
    (l : List α) : ∀ {b : State}, OnlyMem s b → OnlyMem s (l.foldl f b) := by
  induction l with
  | nil => intro b h; exact h
  | cons x t ih => intro b h; exact ih (hf b x h)

/-- What the bytes of `s` become under a change that two states see alike. -/
theorem wrBytes_mem_congr (l : List Byte) : ∀ {s t : State} (pa : Nat), s.mem = t.mem →
    (wrBytes s pa l).mem = (wrBytes t pa l).mem := by
  induction l with
  | nil => intro s t pa h; exact h
  | cons b u ih => intro s t pa h; exact ih (pa + 1) (by simp [State.setByte, h])

theorem wr_mem_congr {s t : State} (pa n v : Nat) (h : s.mem = t.mem) : (wr s pa n v).mem = (wr t pa n v).mem :=
  wrBytes_mem_congr _ pa h

/-- The same change of memory on both sides. -/
theorem Elsewhere.mem_congr {s t b c : State} (h : Elsewhere s t) (hb : OnlyMem s b) (hc : OnlyMem t c)
    (hm : b.mem = c.mem) : Elsewhere b c := by
  unfold OnlyMem at hb hc
  rw [hb, hc, ← hm]
  refine ⟨?_, fun g => ?_, fun n hn => ?_⟩
  · conv_lhs => rw [h.1]
  · exact h.2.1 g
  · exact h.2.2 n hn

theorem Elsewhere.wr {s t : State} (h : Elsewhere s t) (pa n v : Nat) : Elsewhere (wr s pa n v) (wr t pa n v) :=
  h.mem_congr ((OnlyMem.refl s).wr pa n v) ((OnlyMem.refl t).wr pa n v) (wr_mem_congr pa n v h.mem.symm)

theorem rd_congr {s t : State} (h : s.mem = t.mem) (pa n : Nat) : rd s pa n = rd t pa n := by
  unfold rd
  rw [rdBytes_congr s t n pa (fun k _ => by simp [State.byte, h])]

theorem Elsewhere.rd {s t : State} (h : Elsewhere s t) (pa n : Nat) : rd t pa n = rd s pa n := rd_congr h.mem pa n

theorem OnlyMem.me {s b : State} (h : OnlyMem s b) : b.me = s.me := by
  unfold OnlyMem at h; rw [h]; rfl

theorem OnlyMem.plainEnd {s e b : State} (h : OnlyMem e b) (k : PlainEnd s e) : PlainEnd s b := by
  have hl : b.latch = e.latch := by unfold OnlyMem at h; rw [h]
  have hc : b.cur = e.cur := by unfold OnlyMem at h; rw [h]
  unfold PlainEnd at *
  rw [hl, hc, h.me]
  exact k

theorem Context.keeps_stepped (x : ArgM) (n : Nat) (c : Context) : c.Keeps (stepped x n c) := by
  unfold stepped; split
  · exact .refl c
  · exact c.keeps_stepA _ _

/-! ### Loads -/

/-- An M-format op that changes the issuing context alone. -/
theorem opM_writes {s : State} {i : Instr} {x : ArgM} {n : Nat} {srcs : List Src} {dsts : List (Nat × Nat)}
    {chk : State → Option Exc} {f : State → State → State} {G : Context → Context}
    (hi : exec i s = issueOne (opM x i n srcs dsts chk f none) s) (hq : Quiet s)
    (hr : Ready s (srcA x.abase x.b :: srcs)) (hc : chk s = none)
    (hf : f (beginIssue s) (beginIssue s) = (beginIssue s).updMe G) (hG : ∀ c : Context, c.Keeps (G c)) :
    Writes s i (heldL s x.hold i) (fun c => stepped x n (G c)) := by
  have hcb : (beginIssue s).cur < residents := by simpa using hq.1
  have he : (opM x i n srcs dsts chk f none).eff (beginIssue s) (beginIssue s)
      = ((beginIssue s).updMe G).updMe (stepped x n) := by
    simp only [opM, Op.plain, hf]; rfl
  refine writes_of' hi hq (verdict_go _ _ rfl hr hc rfl) rfl _ he
    (((Elsewhere.refl _).updMe hcb G).updMe hcb _) (by simp) ?_ (fun c => (hG c).trans (Context.keeps_stepped x n _))
  have h1 : ((beginIssue s).updMe G).cur < residents := by simpa using hcb
  rw [me_updMe _ h1, me_updMe _ hcb, beginIssue_me s hq.1]

/-! ### Stores -/

theorem OnlyMem.latch {s b : State} (h : OnlyMem s b) : b.latch = s.latch := by unfold OnlyMem at h; rw [h]

theorem OnlyMem.cur {s b : State} (h : OnlyMem s b) : b.cur = s.cur := by unfold OnlyMem at h; rw [h]

/-- An op of the L slot whose memory write `w` leaves the memory of `b` and the issuing context as `G` says. -/
theorem op_rewrites {s b : State} {i : Instr} {o : Op} {w : State → State → State} {E G : Context → Context}
    (hi : exec i s = issueOne o s) (hq : Quiet s) (hv : verdict [o] s = .go) (h3 : o.slot ≠ 0) (hm : o.mem = some (i, w))
    (he : ∃ e, o.eff (beginIssue s) (beginIssue s) = e ∧ Elsewhere (beginIssue s) e ∧ e.latch = (beginIssue s).latch
      ∧ e.me = E s.me.begin)
    (hw : ∀ e, Elsewhere s e → Elsewhere b (w (beginIssue s) e) ∧ (w (beginIssue s) e).latch = e.latch
      ∧ (w (beginIssue s) e).cur = e.cur ∧ (w (beginIssue s) e).me = G e.me)
    (hE : ∀ c : Context, c.Keeps (E c)) (hG : ∀ c : Context, c.Keeps (G c)) :
    Rewrites s i (Held.after s.me.held o) b (fun c => G (E c)) := by
  obtain ⟨e, he, hel, hl, hme⟩ := he
  obtain ⟨w1, w2, w3, w4⟩ := hw e ((beginIssue_elsewhere s hq.1).trans hel)
  have hp1 : PlainEnd s e := plainEnd_of hq hel hl hme (hE _)
  have hp2 : PlainEnd s (w (beginIssue s) e) := by
    obtain ⟨h1, h2, h3, h4, h5, h6, h7, h8⟩ := hp1
    have k := hG e.me
    refine ⟨by rw [w2]; exact h1, by rw [w3]; exact h2, ?_, ?_, ?_, ?_, ?_, ?_⟩ <;> rw [w4]
    · rw [k.1]; exact h3
    · rw [k.2.1]; exact h4
    · rw [k.2.2.1]; exact h5
    · rw [k.2.2.2.1]; exact h6
    · rw [k.2.2.2.2.1]; exact h7
    · rw [k.2.2.2.2.2]; exact h8
  have hef : effects (fenceWaits (beginIssue s) [o]) (beginIssue s) [o] (beginIssue s) = w (beginIssue s) e := by
    rw [fenceWaits_slot s o h3, effects_mem _ _ _ hm, he]
  obtain ⟨t, h1, h2, h3⟩ := issues_of hi hq hv hef hp2
  exact ⟨t, h1, w1.trans h2, by rw [h3, w4, hme]⟩

/-- What a write of memory alone leaves. -/
theorem only_wr {s e : State} (h : Elsewhere s e) (pa n v : Nat) :
    Elsewhere (wr s pa n v) (wr e pa n v) ∧ (wr e pa n v).latch = e.latch ∧ (wr e pa n v).cur = e.cur
      ∧ (wr e pa n v).me = e.me :=
  have o : OnlyMem e (wr e pa n v) := (OnlyMem.refl e).wr pa n v
  ⟨h.wr pa n v, o.latch, o.cur, o.me⟩

/-- What a change of memory and then of the issuing context leaves. -/
theorem then_updMe {b e : State} (h : Elsewhere b e) (hc : e.cur < residents) (G : Context → Context) :
    Elsewhere b (e.updMe G) ∧ (e.updMe G).latch = e.latch ∧ (e.updMe G).cur = e.cur ∧ (e.updMe G).me = G e.me :=
  ⟨h.updMe (by rw [← h.cur]; exact hc) G, updMe_latch .., updMe_cur .., me_updMe e hc G⟩

/-- The address step is an M-format op's effect on the issuing context. -/
theorem step_effect {s : State} (hq : Quiet s) (f : Context → Context) :
    ∃ e, (beginIssue s).updMe f = e ∧ Elsewhere (beginIssue s) e ∧ e.latch = (beginIssue s).latch ∧ e.me = f s.me.begin := by
  have hcb : (beginIssue s).cur < residents := by simpa using hq.1
  exact ⟨_, rfl, (Elsewhere.refl _).updMe hcb f, updMe_latch .., by rw [me_updMe _ hcb, beginIssue_me s hq.1]⟩

/-- A change of memory to that of a `wr` is a store. -/
theorem Rewrites.stores {s : State} {i : Instr} {h : Held} {pa n v : Nat} {F : Context → Context}
    (k : Rewrites s i h (wr s pa n v) F) : Stores s i h pa n v F := by
  obtain ⟨t, h1, hel, h3⟩ := k
  exact ⟨t, h1, hel, h3, by rw [hel.rd, rd_wr], fun a ha => by rw [hel.byte, byte_wr_out s pa n v a ha]⟩

/-- An M-format op that stores. -/
theorem opM_rewrites {s b : State} {i : Instr} {x : ArgM} {m : Nat} {srcs : List Src} {dsts : List (Nat × Nat)}
    {chk : State → Option Exc} {w : State → State → State} {G : Context → Context}
    (hi : exec i s = issueOne (opM x i m srcs dsts chk (fun _ cur => cur) (some w)) s) (hq : Quiet s)
    (hr : Ready s (srcA x.abase x.b :: srcs)) (hc : chk s = none)
    (hw : ∀ e, Elsewhere s e → Elsewhere b (w (beginIssue s) e) ∧ (w (beginIssue s) e).latch = e.latch
      ∧ (w (beginIssue s) e).cur = e.cur ∧ (w (beginIssue s) e).me = G e.me)
    (hG : ∀ c : Context, c.Keeps (G c)) :
    Rewrites s i (heldL s x.hold i) b (fun c => G (stepped x m c)) :=
  op_rewrites hi hq (verdict_go _ _ rfl hr hc rfl) (by decide : (3 : Nat) ≠ 0) rfl (step_effect hq (stepped x m)) hw
    (Context.keeps_stepped x m) hG

/-- A fold of writes of memory. -/
theorem foldl_only {s e : State} (h : Elsewhere s e) (l : List Nat) (n : Nat) (f : Nat → Nat) (v : Nat → Nat) :
    let w := fun m i => wr m (f i) n (v i)
    Elsewhere (l.foldl w s) (l.foldl w e) ∧ (l.foldl w e).latch = e.latch ∧ (l.foldl w e).cur = e.cur
      ∧ (l.foldl w e).me = e.me := by
  induction l generalizing s e with
  | nil => exact ⟨h, rfl, rfl, rfl⟩
  | cons a t ih =>
    obtain ⟨h1, h2, h3, h4⟩ := only_wr h (f a) n (v a)
    obtain ⟨k1, k2, k3, k4⟩ := ih h1
    exact ⟨k1, k2.trans h2, k3.trans h3, k4.trans h4⟩

theorem byte_foldl_wr (l : List Nat) (n : Nat) (f : Nat → Nat) (v : Nat → Nat) (a : Nat) : ∀ (s : State),
    (∀ i ∈ l, a < f i ∨ f i + n ≤ a) → (l.foldl (fun m i => wr m (f i) n (v i)) s).byte a = s.byte a := by
  induction l with
  | nil => intro s _; rfl
  | cons x t ih =>
    intro s h
    rw [List.foldl_cons, ih _ (fun i hi => h i (by simp [hi])), byte_wr_out s _ _ _ a (h x (by simp))]

end Sys2Proof.Machine
end

