-- ==== Sys2Proof/Laws/Begin.lean ====
section
/-! SUPPORT. What the operand forms read is the same as the issue begins: the beginning of an issue changes the issuing
context's timers alone. -/

namespace Sys2Proof.Machine

open Sys2Proof

theorem begin_fields (s : State) (h : s.cur < residents) :
    beginIssue s = { s with cores := (beginIssue s).cores, latch := (beginIssue s).latch } := (beginIssue_elsewhere s h).1

theorem begin_ctxLaunch (s : State) (h : s.cur < residents) : (beginIssue s).ctxLaunch s.cur = s.ctxLaunch s.cur := by
  have hm : ((beginIssue s).ctx s.cur).launch = (s.ctx s.cur).launch := by
    have := congrArg Context.launch (beginIssue_me s h)
    rw [State.me, beginIssue_cur] at this
    exact this
  have hl : (beginIssue s).launchOf = s.launchOf := by
    funext id; rw [State.launchOf, begin_fields s h]; rfl
  rw [State.ctxLaunch, State.ctxLaunch, hm, hl]

theorem begin_jobOf (s : State) (h : s.cur < residents) : (beginIssue s).jobOf s.cur = s.jobOf s.cur := by
  rw [State.jobOf, State.jobOf, begin_ctxLaunch s h]

theorem begin_partOf (s : State) (h : s.cur < residents) : (beginIssue s).partOf s.cur = s.partOf s.cur := by
  rw [State.partOf, State.partOf, begin_ctxLaunch s h]

theorem homeCore_cur (s : State) (h : s.cur < residents) : s.homeCore s.cur = coreOf s.cur := by
  simp [State.homeCore, h]

theorem begin_homeCore (s : State) (h : s.cur < residents) : (beginIssue s).homeCore s.cur = s.homeCore s.cur := by
  rw [State.homeCore, if_pos h, homeCore_cur s h]

theorem begin_place (s : State) (h : s.cur < residents) (j : Nat) (a : Word64) : (beginIssue s).place j a = s.place j a := by
  rw [begin_fields s h]; rfl

theorem begin_inPart (s : State) (h : s.cur < residents) (p g : Nat) : (beginIssue s).inPart p g = s.inPart p g := by
  rw [begin_fields s h]; rfl

theorem begin_reach (s : State) (h : s.cur < residents) (ea : Word64) (n : Nat) :
    reach (beginIssue s) s.cur ea n = reach s s.cur ea n := by
  unfold reach
  rw [begin_homeCore s h, begin_jobOf s h, begin_partOf s h]
  simp only [begin_place s h, begin_inPart s h]

theorem begin_reachPa (s : State) (h : s.cur < residents) (ea : Word64) (n : Nat) :
    reachPa (beginIssue s) s.cur ea n = reachPa s s.cur ea n := by
  simp only [reachPa, begin_reach s h]

theorem begin_eaOf (s : State) (h : s.cur < residents) (x : ArgM) : eaOf (beginIssue s).me x = eaOf s.me x := by
  rw [beginIssue_me s h]; rfl

theorem begin_eaPa (s : State) (h : s.cur < residents) (x : ArgM) (n : Nat) : eaPa x n (beginIssue s) = eaPa x n s := by
  unfold eaPa; rw [begin_eaOf s h, beginIssue_cur, begin_reachPa s h]

theorem begin_rd (s : State) (pa n : Nat) : rd (beginIssue s) pa n = rd s pa n := rd_congr (beginIssue_mem s) pa n

theorem reachPa_ok {s : State} {cid n pa : Nat} {ea : Word64} (h : reach s cid ea n = .ok pa) : reachPa s cid ea n = pa := by
  simp [reachPa, h]

theorem reachErr_ok {s : State} {cid n pa : Nat} {ea : Word64} (h : reach s cid ea n = .ok pa) : reachErr s cid ea n = none := by
  simp [reachErr, h]

theorem firstReach_ok {s : State} {n : Nat} {f : Nat → Nat} {g : Nat → Word64} (l : List Nat)
    (h : ∀ i ∈ l, reach s s.cur (g i) n = .ok (f i)) : firstReach s n (l.map g) = none := by
  induction l with
  | nil => rfl
  | cons a t ih =>
    simp only [List.map_cons, firstReach, reachErr_ok (h a (by simp))]
    exact ih (fun i hi => h i (by simp [hi]))

/-! ### Sources and aligned accesses -/

theorem ready_cons {s : State} {a : Src} {l : List Src} (h : Ready s [a]) (k : Ready s l) : Ready s (a :: l) := by
  simp only [Ready, List.all_cons, List.all_nil, Bool.and_true, Bool.and_eq_true] at *
  exact ⟨h, k⟩
theorem ready_left {s : State} {a : Src} {l : List Src} (h : Ready s (a :: l)) : Ready s [a] := by
  simp only [Ready, List.all_cons, List.all_nil, Bool.and_true, Bool.and_eq_true] at *
  exact h.1

theorem alignedErr_ok {s : State} {x : ArgM} {pa : Nat} (ha : (eaOf s.me x).toNat % bytesOf x = 0)
    (hp : reach s s.cur (eaOf s.me x) (bytesOf x) = .ok pa) : alignedErr x s = none := by
  simp only [alignedErr, eaErr]
  rw [if_neg (by omega)]
  exact reachErr_ok hp

theorem alignedErr_bad {s : State} {x : ArgM} (ha : (eaOf s.me x).toNat % bytesOf x ≠ 0) :
    alignedErr x s = some (illegal 3 1 (eaOf s.me x)) := by
  simp only [alignedErr]
  rw [if_pos ha]

/-- An indivisible read and write (R137). -/
theorem atom_stores {s : State} {i : Instr} {x : ArgM} {srcs : List Src} {dsts : List (Nat × Nat)}
    {f : Context → Nat → Nat} {pa : Nat}
    (hi : exec i s = issueOne (opM x i (bytesOf x) srcs dsts (alignedErr x) (fun _ cur => cur) (some (atomMem x f))) s)
    (hq : Quiet s) (hr : Ready s (srcA x.abase x.b :: srcs)) (ha : (eaOf s.me x).toNat % bytesOf x = 0)
    (hp : reach s s.cur (eaOf s.me x) (bytesOf x) = .ok pa) :
    Stores s i (heldL s x.hold i) pa (bytesOf x) (f s.me.begin (rd s pa (bytesOf x)))
      (fun c => (stepped x (bytesOf x) c).wS x.reg (loaded x (rd s pa (bytesOf x)))) := by
  refine (opM_rewrites hi hq hr (alignedErr_ok ha hp) (G := fun c => c.wS x.reg (loaded x (rd s pa (bytesOf x))))
    (fun e he => ?_) (fun c => c.keeps_wS _ _)).stores
  simp only [atomMem]
  rw [begin_eaPa s hq.1, eaPa, reachPa_ok hp, beginIssue_me s hq.1, he.rd]
  obtain ⟨h1, h2, h3, h4⟩ := only_wr he pa (bytesOf x) (f s.me.begin (rd s pa (bytesOf x)))
  have hc : (wr e pa (bytesOf x) (f s.me.begin (rd s pa (bytesOf x)))).cur < residents := by
    rw [h3, he.cur]; exact hq.1
  obtain ⟨k1, k2, k3, k4⟩ := then_updMe h1 hc (fun c => c.wS x.reg (loaded x (rd s pa (bytesOf x))))
  exact ⟨k1, k2.trans h2, k3.trans h3, by rw [k4, h4]⟩

end Sys2Proof.Machine
end

