-- ==== Sys2Proof/Laws/Same.lean ====
section
/-! SUPPORT. Operations that leave the issuing context and the latch alone. -/

namespace Sys2Proof.Machine

open Sys2Proof

/-- `e` has the latch, the issuing context's number and the issuing context of `s`. -/
def SameMe (s e : State) : Prop := e.latch = s.latch ∧ e.cur = s.cur ∧ e.me = s.me

theorem SameMe.refl (s : State) : SameMe s s := ⟨rfl, rfl, rfl⟩

theorem SameMe.trans {s t u : State} (h : SameMe s t) (k : SameMe t u) : SameMe s u :=
  ⟨k.1.trans h.1, k.2.1.trans h.2.1, k.2.2.trans h.2.2⟩

theorem SameMe.plainEnd {s e b : State} (h : SameMe e b) (k : PlainEnd s e) : PlainEnd s b := by
  unfold PlainEnd at *
  rw [h.1, h.2.1, h.2.2]
  exact k

theorem OnlyMem.same {s b : State} (h : OnlyMem s b) : SameMe s b := ⟨h.latch, h.cur, h.me⟩

theorem SameMe.foldl {α : Type} (f : State → α → State) (hf : ∀ s x, SameMe s (f s x)) (l : List α) :
    ∀ s, SameMe s (l.foldl f s) := by
  induction l with
  | nil => exact .refl
  | cons x t ih => intro s; exact (hf s x).trans (ih _)

theorem ctx_updCore (s : State) (g : Nat) (f : Core → Core) (hf : ∀ c, (f c).ctxs = c.ctxs) (n : Nat) :
    (s.updCore g f).ctx n = s.ctx n := by
  unfold State.ctx
  split
  · by_cases h : coreOf n = g
    · subst h; simp [State.updCore, hf]
    · rw [State.updCore, core_setCore_ne _ _ h]
  · rfl

theorem same_updCore (s : State) (g : Nat) (f : Core → Core) (hf : ∀ c, (f c).ctxs = c.ctxs) : SameMe s (s.updCore g f) :=
  ⟨rfl, rfl, ctx_updCore s g f hf s.cur⟩

theorem same_setLock (s : State) (k : Nat × Nat) (b : LockBit) : SameMe s (s.setLock k b) := same_updCore s _ _ (fun _ => rfl)

theorem same_wr (s : State) (pa n v : Nat) : SameMe s (wr s pa n v) := ((OnlyMem.refl s).wr pa n v).same

/-- A change of another context. -/
theorem same_updCtx (s : State) (h : s.cur < residents) {n : Nat} (hn : n ≠ s.cur) (f : Context → Context) :
    SameMe s (s.updCtx n f) := by
  refine ⟨?_, ?_, ?_⟩
  · simp
  · simp
  · rw [State.me, updCtx_cur]
    by_cases hr : n < residents
    · exact ctx_updCtx_ne s hr f (Ne.symm hn)
    · simp only [State.me, State.updCtx, State.setCtx, hr, if_false, State.ctx, h, if_true]
      rfl

/-- The same change of a core on both sides, when it does not touch the contexts. -/
theorem Elsewhere.updCore {s t : State} (h : Elsewhere s t) (g : Nat) (f : Core → Core)
    (hf : ∀ (c : Core) (x : Sparse Context) (y : Option Nat) (z : Nat),
      f { c with ctxs := x, holder := y, lastHolder := z } = { f c with ctxs := x, holder := y, lastHolder := z }) :
    Elsewhere (s.updCore g f) (t.updCore g f) := by
  have hc : ∀ c, (f c).ctxs = c.ctxs := by
    intro c; have := congrArg Core.ctxs (hf c c.ctxs c.holder c.lastHolder); exact this
  refine ⟨?_, fun k => ?_, fun n hn => ?_⟩
  · conv_lhs => rw [State.updCore, State.setCore, h.1]
    rfl
  · by_cases hk : k = g
    · subst hk
      simp only [State.updCore, core_setCore_self]
      conv_lhs => rw [h.2.1 k]
      rw [hf]
      have h1 : (f (t.core k)).ctxs = (t.core k).ctxs := hc _
      have h2 := congrArg Core.holder (hf (t.core k) (t.core k).ctxs (t.core k).holder (t.core k).lastHolder)
      have h3 := congrArg Core.lastHolder (hf (t.core k) (t.core k).ctxs (t.core k).holder (t.core k).lastHolder)
      simp only at h2 h3
      rw [h1, h2, h3]
    · simp only [State.updCore, core_setCore_ne _ _ hk]
      exact h.2.1 k
  · rw [ctx_updCore t g f hc, ctx_updCore s g f hc]
    exact h.2.2 n hn

theorem Elsewhere.setLock {s t : State} (h : Elsewhere s t) (k : Nat × Nat) (b : LockBit) :
    Elsewhere (s.setLock k b) (t.setLock k b) := h.updCore _ _ (fun _ _ _ _ => rfl)

@[simp] theorem lockBit_setLock_self (s : State) (k : Nat × Nat) (b : LockBit) : (s.setLock k b).lockBit k = b := by
  simp [State.lockBit, State.setLock, State.updCore]

theorem lockBit_setLock_ne (s : State) {k m : Nat × Nat} (b : LockBit) (h : m ≠ k) : (s.setLock k b).lockBit m = s.lockBit m := by
  unfold State.lockBit State.setLock State.updCore
  by_cases h1 : m.1 = k.1
  · have h2 : m.2 ≠ k.2 := fun e => h (Prod.ext h1 e)
    rw [h1, core_setCore_self]
    simp [Sparse.get_set_ne _ _ _ h2]
  · rw [core_setCore_ne _ _ h1]

theorem Elsewhere.lockBit {s t : State} (h : Elsewhere s t) (k : Nat × Nat) : t.lockBit k = s.lockBit k := by
  rw [State.lockBit, h.2.1 k.1]; rfl

end Sys2Proof.Machine
end

