-- ==== Sys2Proof/Laws/Barrier.lean ====
section
/-! SUPPORT. The barrier word (R287), its update (R288) and the wakes of its waiters: what they change. -/

namespace Sys2Proof.Machine

open Sys2Proof

theorem onlyMem_putBarrier (s : State) (pa : Nat) (ph ov : Bool) (p : Int) (i r g : Nat) :
    OnlyMem s (putBarrier s pa ph ov p i r g) := ((OnlyMem.refl s).wr _ _ _).wr _ _ _

theorem byte_putBarrier_out (s : State) (pa : Nat) (ph ov : Bool) (p : Int) (i r g a : Nat) (h : a < pa ∨ pa + 16 ≤ a) :
    (putBarrier s pa ph ov p i r g).byte a = s.byte a := by
  unfold putBarrier
  rw [byte_wr_out _ _ _ _ a (by omega), byte_wr_out _ _ _ _ a (by omega)]

theorem rd_putBarrier_lo (s : State) (pa : Nat) (ph ov : Bool) (p : Int) (i r g : Nat) :
    rd (putBarrier s pa ph ov p i r g) pa 8 = (b2n ph * 2 ^ 63 + b2n ov * 2 ^ 62 + bitsInt p 48) % 2 ^ 64 := by
  unfold putBarrier
  rw [rd_wr_out _ _ _ _ _ _ (by omega), rd_wr]

theorem rd_putBarrier_hi (s : State) (pa : Nat) (ph ov : Bool) (p : Int) (i r g : Nat) :
    rd (putBarrier s pa ph ov p i r g) (pa + 8) 8 = (i % 65536 * 2 ^ 48 + r % 65536 * 2 ^ 32 + g % 2 ^ 32) % 2 ^ 64 := by
  unfold putBarrier
  rw [rd_wr]

theorem bitsInt_lt (v : Int) (w : Nat) : bitsInt v w < 2 ^ w := by
  unfold bitsInt
  have := Int.emod_lt_of_pos v (show (0 : Int) < 2 ^ w by positivity)
  have := Int.emod_nonneg v (show (2 ^ w : Int) ≠ 0 by positivity)
  omega

theorem b2n_le (b : Bool) : b2n b ≤ 1 := by cases b <;> simp [b2n]

@[simp] theorem barPhase_put (s : State) (pa : Nat) (ph ov : Bool) (p : Int) (i r g : Nat) :
    barPhase (putBarrier s pa ph ov p i r g) pa = ph := by
  have h := bitsInt_lt p 48
  have := b2n_le ov
  unfold barPhase
  rw [rd_putBarrier_lo]
  unfold bitOf
  cases ph <;> simp [b2n] at * <;> cases ov <;> simp at * <;> omega

@[simp] theorem barOvf_put (s : State) (pa : Nat) (ph ov : Bool) (p : Int) (i r g : Nat) :
    barOvf (putBarrier s pa ph ov p i r g) pa = ov := by
  have h := bitsInt_lt p 48
  unfold barOvf
  rw [rd_putBarrier_lo]
  unfold bitOf
  cases ph <;> cases ov <;> simp [b2n] <;> omega

theorem barPend_put (s : State) (pa : Nat) (ph ov : Bool) (p : Int) (i r g : Nat)
    (h0 : -(2 ^ 47 : Int) ≤ p) (h1 : p < 2 ^ 47) : barPend (putBarrier s pa ph ov p i r g) pa = p := by
  have h := bitsInt_lt p 48
  have hb := b2n_le ph
  have hc := b2n_le ov
  unfold barPend
  rw [rd_putBarrier_lo]
  have e : (b2n ph * 2 ^ 63 + b2n ov * 2 ^ 62 + bitsInt p 48) % 2 ^ 64 % 2 ^ 48 = bitsInt p 48 := by
    generalize b2n ph = x at *; generalize b2n ov = y at *; generalize bitsInt p 48 = z at *
    omega
  rw [e]
  unfold sx bitsInt
  rw [BitVec.toInt_eq_toNat_bmod, BitVec.toNat_ofNat]
  have e2 : ((2 ^ 48 : Nat) : Int) = 2 ^ 48 := by norm_num
  rw [e2]
  have h3 := Int.emod_nonneg p (show (2 ^ 48 : Int) ≠ 0 by decide)
  have h4 := Int.emod_lt_of_pos p (show (0 : Int) < 2 ^ 48 by decide)
  rw [Nat.mod_eq_of_lt (by omega), Int.toNat_of_nonneg h3]
  simp only [Int.bmod_def]
  norm_num at *
  split <;> omega

@[simp] theorem barInit_put (s : State) (pa : Nat) (ph ov : Bool) (p : Int) (i r g : Nat) :
    barInit (putBarrier s pa ph ov p i r g) pa = i % 65536 := by
  unfold barInit
  rw [rd_putBarrier_hi]
  unfold bits
  omega

@[simp] theorem barRem_put (s : State) (pa : Nat) (ph ov : Bool) (p : Int) (i r g : Nat) :
    barRem (putBarrier s pa ph ov p i r g) pa = r % 65536 := by
  unfold barRem
  rw [rd_putBarrier_hi]
  unfold bits
  omega

@[simp] theorem barGen_put (s : State) (pa : Nat) (ph ov : Bool) (p : Int) (i r g : Nat) :
    barGen (putBarrier s pa ph ov p i r g) pa = g % 2 ^ 32 := by
  unfold barGen
  rw [rd_putBarrier_hi]
  unfold bits
  omega

/-! ### Waiters -/

/-- A fold of changes of other contexts' claims: each step changes nothing, or a context that has a claim. -/
theorem claims_calm (F : State → Nat → State)
    (hF : ∀ s c, F s c = s ∨ ((s.ctx c).claim ≠ none ∧ ∃ f, F s c = s.updCtx c f)) (l : List Nat) :
    ∀ s : State, s.cur < residents → s.me.claim = none → SameMe s (l.foldl F s) ∧ (l.foldl F s).mem = s.mem := by
  induction l with
  | nil => intro s _ _; exact ⟨.refl s, rfl⟩
  | cons c t ih =>
    intro s hc hm
    rcases hF s c with h | ⟨h1, f, h2⟩
    · rw [List.foldl_cons, h]; exact ih s hc hm
    · have hne : c ≠ s.cur := fun e => h1 (by rw [e]; exact hm)
      have hs := same_updCtx s hc hne f
      rw [List.foldl_cons, h2]
      obtain ⟨k1, k2⟩ := ih (s.updCtx c f) (by rw [hs.2.1]; exact hc) (by rw [hs.2.2]; exact hm)
      exact ⟨hs.trans k1, k2.trans (by simp)⟩

theorem wakeWaiters_calm (s : State) (pa : Nat) (hc : s.cur < residents) (hm : s.me.claim = none) :
    SameMe s (wakeWaiters s pa) ∧ (wakeWaiters s pa).mem = s.mem := by
  unfold wakeWaiters
  refine claims_calm _ (fun s c => ?_) _ s hc hm
  cases h : (s.ctx c).claim with
  | none => exact .inl rfl
  | some k =>
    by_cases hk : k.addr = pa
    · exact .inr ⟨by simp, _, if_pos hk⟩
    · exact .inl (if_neg hk)

/-- A completion wakes waiters, and changes the barrier's bytes alone. -/
theorem barUpdate_calm (s : State) (pa : Nat) (dp : Int) (da : Nat) (hc : s.cur < residents) (hm : s.me.claim = none) :
    SameMe s (barUpdate s pa dp da) ∧ ∀ a, a < pa ∨ pa + 16 ≤ a → (barUpdate s pa dp da).byte a = s.byte a := by
  unfold barUpdate
  simp only []
  generalize (if decide (barPend s pa + dp < -2 ^ 47) = true then (-2 ^ 47 : Int) else barPend s pa + dp) = p
  generalize (barOvf s pa || decide (barPend s pa + dp < -2 ^ 47)) = ov
  split
  · have o := onlyMem_putBarrier s pa (!barPhase s pa) false 0 (barInit s pa) (barInit s pa) (barGen s pa + 1)
    obtain ⟨h1, h2⟩ := wakeWaiters_calm (putBarrier s pa (!barPhase s pa) false 0 (barInit s pa) (barInit s pa) (barGen s pa + 1))
      pa (by rw [o.cur]; exact hc) (by rw [o.me]; exact hm)
    refine ⟨o.same.trans h1, fun a ha => ?_⟩
    rw [State.byte, h2]
    exact byte_putBarrier_out s pa _ _ _ _ _ _ a ha
  · exact ⟨(onlyMem_putBarrier ..).same, fun a ha => byte_putBarrier_out s pa _ _ _ _ _ _ a ha⟩

end Sys2Proof.Machine
end

