-- ==== Sys2Proof/Laws/Leads.lean ====
section
/-! SUPPORT. The effect of an op, step by step: `Leads s b F e` says that the effect leaves `e`, which is `b` but for the
issuing context, where `F` says what changed. One lemma per operation; `Leads.rewrites` closes the issue. -/

namespace Sys2Proof.Machine

open Sys2Proof

/-- `e` is what an effect leaves from the beginning of an issue in `s`. -/
def Leads (s b : State) (F : Context → Context) (e : State) : Prop :=
  Elsewhere b e ∧ e.latch = { latchBegin s.latch s.me with info := e.latch.info, promise := e.latch.promise }
  ∧ e.cur = s.cur ∧ e.me = F s.me.begin

theorem Leads.begin {s : State} (hq : Quiet s) : Leads s s (fun c => c) (beginIssue s) :=
  ⟨beginIssue_elsewhere s hq.1, by rw [beginIssue_latch], beginIssue_cur s, beginIssue_me s hq.1⟩

theorem Leads.updMe {s b e : State} {F : Context → Context} (h : Leads s b F e) (hq : Quiet s) (G : Context → Context) :
    Leads s b (fun c => G (F c)) (e.updMe G) := by
  have hc : e.cur < residents := by rw [h.2.2.1]; exact hq.1
  have hb : b.cur < residents := by rw [← h.1.cur]; exact hc
  refine ⟨h.1.updMe hb G, ?_, ?_, ?_⟩
  · rw [updMe_latch]; exact h.2.1
  · rw [updMe_cur]; exact h.2.2.1
  · rw [me_updMe e hc, h.2.2.2]

theorem Leads.updCore {s b e : State} {F : Context → Context} (h : Leads s b F e) (g : Nat) (f : Core → Core)
    (hf : ∀ (c : Core) (x : Sparse Context) (y : Option Nat) (z : Nat),
      f { c with ctxs := x, holder := y, lastHolder := z } = { f c with ctxs := x, holder := y, lastHolder := z }) :
    Leads s (b.updCore g f) F (e.updCore g f) := by
  have hc : ∀ c, (f c).ctxs = c.ctxs := by
    intro c; have := congrArg Core.ctxs (hf c c.ctxs c.holder c.lastHolder); exact this
  obtain ⟨k1, k2, k3⟩ := same_updCore e g f hc
  exact ⟨h.1.updCore g f hf, by rw [k1]; exact h.2.1, by rw [k2]; exact h.2.2.1, by rw [k3]; exact h.2.2.2⟩

theorem Leads.setLock {s b e : State} {F : Context → Context} (h : Leads s b F e) (k : Nat × Nat) (v : LockBit) :
    Leads s (b.setLock k v) F (e.setLock k v) := h.updCore _ _ (fun _ _ _ _ => rfl)

theorem Leads.wr {s b e : State} {F : Context → Context} (h : Leads s b F e) (pa n v : Nat) :
    Leads s (wr b pa n v) F (wr e pa n v) := by
  obtain ⟨h1, h2, h3, h4⟩ := only_wr h.1 pa n v
  exact ⟨h1, by rw [h2]; exact h.2.1, by rw [h3]; exact h.2.2.1, by rw [h4]; exact h.2.2.2⟩

theorem Leads.putBarrier {s b e : State} {F : Context → Context} (h : Leads s b F e) (pa : Nat) (ph ov : Bool) (p : Int)
    (i r g : Nat) : Leads s (putBarrier b pa ph ov p i r g) F (putBarrier e pa ph ov p i r g) := (h.wr _ _ _).wr _ _ _

/-- A change that both states see alike and that leaves the issuing context alone. -/
theorem Leads.same {s b e b' e' : State} {F : Context → Context} (h : Leads s b F e) (k : SameMe e e') (he : Elsewhere b' e') :
    Leads s b' F e' := ⟨he, by rw [k.1]; exact h.2.1, by rw [k.2.1]; exact h.2.2.1, by rw [k.2.2]; exact h.2.2.2⟩

/-- The step information changes. -/
theorem Leads.noted {s b e : State} {F : Context → Context} (h : Leads s b F e) (i p : Word64) :
    Leads s b F { e with latch := { e.latch with info := i, promise := p } } := by
  refine ⟨h.1.trans ⟨rfl, fun _ => rfl, fun _ _ => rfl⟩, ?_, h.2.2.1, h.2.2.2⟩
  show ({ e.latch with info := i, promise := p } : Latch) = _
  rw [h.2.1]

theorem Leads.plainEnd {s b e : State} {F : Context → Context} (h : Leads s b F e) (hq : Quiet s)
    (hF : s.me.begin.Keeps (F s.me.begin)) : PlainEnd s e := by
  obtain ⟨-, hn, -, hf, hs⟩ := hq
  have k := s.me.keeps_begin.trans hF
  rw [← h.2.2.2] at k
  refine ⟨h.2.1, h.2.2.1, ?_, ?_, ?_, ?_, ?_, ?_⟩
  · rw [k.1]; exact hn
  · exact k.2.1
  · exact k.2.2.1
  · rw [k.2.2.2.1]; exact hf
  · rw [k.2.2.2.2.1]; exact hs
  · exact k.2.2.2.2.2

/-- The issue of an op whose effect is known. -/
theorem Leads.issues {s b e : State} {F : Context → Context} {i : Instr} {o : Op} (h : Leads s b F e)
    (hi : exec i s = issueOne o s) (hq : Quiet s) (hv : verdict [o] s = .go)
    (he : effects (fenceWaits (beginIssue s) [o]) (beginIssue s) [o] (beginIssue s) = e)
    (hF : s.me.begin.Keeps (F s.me.begin)) : Issues s i (Held.after s.me.held o) e :=
  issues_of hi hq hv he (h.plainEnd hq hF)

theorem Leads.rewrites {s b e : State} {F : Context → Context} {i : Instr} {o : Op} (h : Leads s b F e)
    (hi : exec i s = issueOne o s) (hq : Quiet s) (hv : verdict [o] s = .go)
    (he : effects (fenceWaits (beginIssue s) [o]) (beginIssue s) [o] (beginIssue s) = e)
    (hF : s.me.begin.Keeps (F s.me.begin)) : Rewrites s i (Held.after s.me.held o) b F := by
  obtain ⟨t, t1, t2, t3⟩ := h.issues hi hq hv he hF
  exact ⟨t, t1, h.1.trans t2, by rw [t3, h.2.2.2]⟩

theorem Leads.writes {s e : State} {F : Context → Context} {i : Instr} {o : Op} (h : Leads s s F e)
    (hi : exec i s = issueOne o s) (hq : Quiet s) (hv : verdict [o] s = .go)
    (he : effects (fenceWaits (beginIssue s) [o]) (beginIssue s) [o] (beginIssue s) = e)
    (hF : s.me.begin.Keeps (F s.me.begin)) : Writes s i (Held.after s.me.held o) F := h.rewrites hi hq hv he hF

theorem effects_mem_slot {s : State} {o : Op} (h : o.slot ≠ 0) {m : Instr × (State → State → State)} (hm : o.mem = some m) :
    effects (fenceWaits (beginIssue s) [o]) (beginIssue s) [o] (beginIssue s)
      = m.2 (beginIssue s) (o.eff (beginIssue s) (beginIssue s)) := by
  rw [fenceWaits_slot s o h, effects_mem _ _ _ hm]

theorem clearLock_facts (s : State) (cid : Nat) (k : Nat × Nat) :
    SameMe s (clearLock s cid k) ∧ (clearLock s cid k).mem = s.mem
    ∧ ((clearLock s cid k).lockBit k = .clear ∨ ∃ w, (clearLock s cid k).lockBit k = .granted w) := by
  unfold clearLock
  split
  · exact ⟨same_setLock .., rfl, .inl (lockBit_setLock_self ..)⟩
  · exact ⟨same_setLock .., rfl, .inr ⟨_, lockBit_setLock_self ..⟩⟩

theorem begin_lockSlot (s : State) (h : s.cur < residents) (k : Nat × Nat) :
    lockSlotOf (beginIssue s).me k = lockSlotOf s.me k := by rw [beginIssue_me s h]; rfl

theorem begin_barPhase (s : State) (pa : Nat) : barPhase (beginIssue s) pa = barPhase s pa := by simp only [barPhase, begin_rd]

/-- The fields of a barrier are those of its bytes. -/
theorem bar_congr {s t : State} (h : s.mem = t.mem) (pa : Nat) :
    barPhase s pa = barPhase t pa ∧ barOvf s pa = barOvf t pa ∧ barPend s pa = barPend t pa ∧ barInit s pa = barInit t pa
    ∧ barRem s pa = barRem t pa ∧ barGen s pa = barGen t pa := by
  simp only [barPhase, barOvf, barPend, barInit, barRem, barGen, rd_congr h, and_self]

end Sys2Proof.Machine
end

