-- ==== Sys2Proof/Laws/Finish.lean ====
section
/-! SUPPORT. The end of an issue whose effect notes something in the latch: a transfer of control, a trap, a fence, a return,
a loop. -/

namespace Sys2Proof.Machine

open Sys2Proof

/-- `e` is what an effect leaves, with the latch `l`. -/
def Arrives (s b : State) (F : Context → Context) (l : Latch) (e : State) : Prop :=
  Elsewhere b e ∧ e.latch = l ∧ e.cur = s.cur ∧ e.me = F s.me.begin

theorem Arrives.begin {s : State} (hq : Quiet s) : Arrives s s (fun c => c) (latchBegin s.latch s.me) (beginIssue s) :=
  ⟨beginIssue_elsewhere s hq.1, beginIssue_latch s, beginIssue_cur s, beginIssue_me s hq.1⟩

/-- The same without `Quiet`. -/
theorem Arrives.begin' {s : State} (hc : s.cur < residents) :
    Arrives s s (fun c => c) (latchBegin s.latch s.me) (beginIssue s) :=
  ⟨beginIssue_elsewhere s hc, beginIssue_latch s, beginIssue_cur s, beginIssue_me s hc⟩

theorem Arrives.updMe {s b e : State} {F : Context → Context} {l : Latch} (h : Arrives s b F l e) (hc : s.cur < residents)
    (G : Context → Context) : Arrives s b (fun c => G (F c)) l (e.updMe G) := by
  have hc : e.cur < residents := by rw [h.2.2.1]; exact hc
  have hb : b.cur < residents := by rw [← h.1.cur]; exact hc
  exact ⟨h.1.updMe hb G, by rw [updMe_latch]; exact h.2.1, by rw [updMe_cur]; exact h.2.2.1, by rw [me_updMe e hc, h.2.2.2]⟩

theorem Arrives.latched {s b e : State} {F : Context → Context} {l : Latch} (h : Arrives s b F l e) (f : Latch → Latch) :
    Arrives s b F (f l) (e.latched f) :=
  ⟨h.1.latched f, by rw [State.latched, h.2.1], h.2.2.1, h.2.2.2⟩

theorem step_off {s : State} (hq : Quiet s) : (latchBegin s.latch s.me).step = false := by
  simp only [latchBegin]
  by_cases h : s.me.tlevel = 0
  · simp [h, hq.2.2.1 h]
  · simp [h]

/-- The state as the bundle's effects are in and its issue cycle has passed. -/
def settled (o : Op) (e : State) : State :=
  (holds [o] e).updMe (fun c => (c.fillBuffer (holds [o] e).latch.words).tickFmt)

theorem Arrives.settled {s b e : State} {F : Context → Context} {l : Latch} (h : Arrives s b F l e) (hc : s.cur < residents)
    (o : Op) : Arrives s b (fun c => (((F c).holding (Held.after (F c).held o)).fillBuffer l.words).tickFmt) l (settled o e) := by
  have h1 : Arrives s b (fun c => (F c).holding (Held.after (F c).held o)) l (holds [o] e) := h.updMe hc _
  have h2 := h1.updMe hc (fun c => (c.fillBuffer l.words).tickFmt)
  unfold Machine.settled
  rw [h1.2.1]
  exact h2

/-- An issue that ends with nothing but its next issue point. -/
theorem finish_point {s b e : State} {F G : Context → Context} {l : Latch} {o : Op} {w : Bool} {n : Nat}
    (h : Arrives s b F l e) (hc : s.cur < residents) (ha : advance (settled o e) = ((settled o e).updMe G, none))
    (hpost : l.post = none) (hstep : l.step = false) (hfence : l.fence = none) (hy : l.yielded = false)
    (hA : (G ((((F s.me.begin).holding (Held.after (F s.me.begin).held o)).fillBuffer l.words).tickFmt)).after = .none)
    (hS : (G ((((F s.me.begin).holding (Held.after (F s.me.begin).held o)).fillBuffer l.words).tickFmt)).st ≠ .sleeping) :
    Arrives s b (fun c => (G ((((F c).holding (Held.after (F c).held o)).fillBuffer l.words).tickFmt)).owing none) l
      (finish w n (holds [o] e)) := by
  have h2 := (h.settled hc o).updMe hc G
  have h3 := h2.updMe hc (fun c => c.owing none)
  have hs : (holds [o] e).updMe (fun c => (c.fillBuffer (holds [o] e).latch.words).tickFmt) = Machine.settled o e := rfl
  unfold finish
  rw [hs, ha]
  simp only [h2.2.1, hpost, hstep, hfence, Bool.false_eq_true, if_false]
  have hA' : (((settled o e).updMe G).updMe (fun c => c.owing none)).me.after = .none := by
    rw [h3.2.2.2]; exact hA
  have hS' : (((settled o e).updMe G).updMe (fun c => c.owing none)).me.st ≠ .sleeping := by
    rw [h3.2.2.2]; exact hS
  have hend : afterIssue (((settled o e).updMe G).updMe (fun c => c.owing none)) = ((settled o e).updMe G).updMe (fun c => c.owing none) := by
    simp only [afterIssue, hA', goesOnTo, hS', h3.2.1, hstep, hy, if_false, Bool.false_eq_true, Bool.false_and]
  rw [hend]
  exact h3

theorem fillBuffer_same (c : Context) (ws : List Word32) : (c.fillBuffer ws).after = c.after ∧ (c.fillBuffer ws).st = c.st := by
  unfold Context.fillBuffer
  split <;> exact ⟨rfl, rfl⟩

theorem finish_plain {s b e : State} {F G : Context → Context} {l : Latch} {o : Op} {w : Bool} {n : Nat}
    (h : Arrives s b F l e) (hc : s.cur < residents) (ha : advance (settled o e) = ((settled o e).updMe G, none))
    (hpost : l.post = none) (hstep : l.step = false) (hfence : l.fence = none) (hy : l.yielded = false)
    (haf : ∀ c, (G c).after = c.after) (hst : ∀ c, (G c).st = .sleeping → c.st = .sleeping)
    (hF : s.me.begin.Keeps (F s.me.begin)) (hA : s.me.after = .none) (hS : s.me.st ≠ .sleeping) :
    Arrives s b (fun c => (G ((((F c).holding (Held.after (F c).held o)).fillBuffer l.words).tickFmt)).owing none) l
      (finish w n (holds [o] e)) := by
  have k := s.me.keeps_begin.trans hF
  refine finish_point h hc ha hpost hstep hfence hy ?_ (fun z => ?_)
  · rw [haf]
    exact (fillBuffer_same _ _).1.trans (k.2.2.2.1.trans hA)
  · have k2 := hst _ z
    have k3 := (fillBuffer_same ((F s.me.begin).holding (Held.after (F s.me.begin).held o)) l.words).2
    exact hS (k.2.2.2.2.1.symm.trans (k3.symm.trans k2))

theorem keeps_applyStrides (r : StrideRec) (c : Context) : c.Keeps (applyStrides c r) := by
  unfold applyStrides
  generalize List.range _ = l
  induction l generalizing c with
  | nil => exact .refl c
  | cons a t ih => exact (Context.keeps_stepA c _ _).trans (ih _)

theorem keeps_setLCs (f : Context → Nat → Word32) (l : List Nat) :
    ∀ c : Context, c.Keeps (l.foldl (fun c m => c.wLC m (f c m)) c) := by
  induction l with
  | nil => exact .refl
  | cons a t ih => intro c; exact Context.Keeps.trans (b := c.wLC a (f c a)) ⟨rfl, rfl, rfl, rfl, rfl, rfl⟩ (ih _)

/-- A level transition changes counters and address registers alone. -/
theorem keeps_levelStep (k : Nat) : ∀ (l : Nat) (c : Context), c.Keeps (levelStep k l c).1 := by
  induction k with
  | zero => intro l c; exact .refl c
  | succ k ih =>
    intro l c
    have h1 : c.Keeps (applyStrides (c.wLC l (c.rLC l + 1)) (c.nest.recs.getD l { head := 0, strides := [] })) :=
      Context.Keeps.trans (b := c.wLC l (c.rLC l + 1)) ⟨rfl, rfl, rfl, rfl, rfl, rfl⟩ (keeps_applyStrides _ _)
    unfold levelStep
    simp only []
    split
    · exact h1
    · split
      · exact h1.trans (keeps_setLCs (fun c m => c.nest.trip.getD m 0) _ _)
      · exact h1.trans (Context.Keeps.trans (b := Context.wLC _ l 0) ⟨rfl, rfl, rfl, rfl, rfl, rfl⟩ (ih _ _))

theorem Elsewhere.fetchWord {s e : State} (h : Elsewhere s e) (j : Nat) (a : Word64) : fetchWord e j a = fetchWord s j a := by
  rw [h.1]; rfl

theorem Elsewhere.bundleTail {s e : State} (h : Elsewhere s e) (j n : Nat) : ∀ a, bundleTail e j n a = bundleTail s j n a := by
  induction n with
  | zero => intro a; rfl
  | succ n ih => intro a; simp only [Machine.bundleTail, h.fetchWord, ih]

theorem Elsewhere.fetchBundle {s e : State} (h : Elsewhere s e) (j : Nat) (a : Word64) : fetchBundle e j a = fetchBundle s j a := by
  simp only [Machine.fetchBundle, h.fetchWord, h.bundleTail]

theorem Elsewhere.bodyWords {s e : State} (h : Elsewhere s e) (j : Nat) (n : Nest) (p : Nat) (a : Word64) :
    bodyWords e j n p a = bodyWords s j n p a := by
  simp only [Machine.bodyWords, h.fetchBundle]

theorem Elsewhere.walkBody {s e : State} (h : Elsewhere s e) (j : Nat) (n : Nest) (k : Nat) :
    ∀ p a, walkBody e j n k p a = walkBody s j n k p a := by
  induction k with
  | zero => intro p a; rfl
  | succ k ih => intro p a; simp only [Machine.walkBody, h.bodyWords, ih]

theorem Elsewhere.exitPoint {s e : State} (h : Elsewhere s e) (j : Nat) (n : Nest) : exitPoint e j n = exitPoint s j n :=
  h.walkBody j n 33 0 n.first

theorem Elsewhere.bodyPos {s e : State} (h : Elsewhere s e) (j : Nat) (n : Nest) (t : Word64) (k : Nat) :
    ∀ p a, bodyPos e j n t k p a = bodyPos s j n t k p a := by
  induction k with
  | zero => intro p a; rfl
  | succ k ih => intro p a; simp only [Machine.bodyPos, h.bodyWords, ih]

/-- The job of the issuing context is that of its launch. -/
theorem Elsewhere.jobOf {s e : State} (h : Elsewhere s e) (hl : e.me.launch = s.me.launch) : e.jobOf s.cur = s.jobOf s.cur := by
  have h1 : (e.ctx s.cur).launch = (s.ctx s.cur).launch := by
    have : e.me = e.ctx s.cur := by rw [State.me, h.cur]
    rw [← this]; exact hl
  have h2 : e.launchOf = s.launchOf := by rw [h.1]; rfl
  rw [State.jobOf, State.jobOf, State.ctxLaunch, State.ctxLaunch, h1, h2]

theorem settled_launch {s b e : State} {F : Context → Context} {l : Latch} {o : Op} (A : Arrives s b F l e) (hc : s.cur < residents)
    (hF : (F s.me.begin).launch = s.me.launch) : (settled o e).me.launch = s.me.launch := by
  rw [(A.settled hc o).2.2.2]
  show (Context.fillBuffer _ _).launch = _
  unfold Context.fillBuffer
  split <;> exact hF

theorem exec_commit {s : State} {i : Instr} {o : Op} (hi : exec i s = issueOne o s) (hv : verdict [o] s = .go) :
    exec i s = .next (finish (fenceWaits (beginIssue s) [o]) s.num (holds [o] (effects (fenceWaits (beginIssue s) [o]) (beginIssue s) [o] (beginIssue s)))) := by
  rw [hi, issueOne, issue_go o s hv, commit, beginIssue_num]

theorem fill_off {c : Context} (h : c.nest.active = false) (ws : List Word32) : c.fillBuffer ws = c := by
  simp [Context.fillBuffer, h]

theorem keeps_wLCs (l : List Nat) : ∀ c : Context, c.Keeps (l.foldl (fun c m => c.wLC m 0) c) := by
  induction l with
  | nil => exact .refl
  | cons a t ih => intro c; exact Context.Keeps.trans (b := c.wLC a 0) ⟨rfl, rfl, rfl, rfl, rfl, rfl⟩ (ih _)

theorem launch_wLCs (l : List Nat) : ∀ c : Context, (l.foldl (fun c m => c.wLC m 0) c).launch = c.launch := by
  induction l with
  | nil => intro c; rfl
  | cons a t ih => intro c; exact ih _

theorem begin_rdBytes (s : State) (pa n : Nat) : rdBytes (beginIssue s) pa n = rdBytes s pa n :=
  rdBytes_congr _ _ n pa (fun k _ => by simp [State.byte])

/-- A C-slot op whose effect sets a target. -/
theorem jumps_of {s e : State} {i : Instr} {o : Op} {F : Context → Context} {a : Word64}
    (hi : exec i s = issueOne o s) (hq : Quiet s) (hv : verdict [o] s = .go) (h0 : o.slot = 0) (hh : o.held = false)
    (hm : o.mem = none) (he : o.eff (beginIssue s) (beginIssue s) = e)
    (A : Arrives s s F { latchBegin s.latch s.me with target := some a } e) (hF : s.me.begin.Keeps (F s.me.begin))
    (hb : o.bars (beginIssue s) = [] := by rfl) : Jumps s i a F := by
  have hn : (F s.me.begin).nest.active = false := by rw [hF.1]; exact hq.2.1
  have hheld : ∀ h : Held, Held.after h o = h := by intro h; simp [Held.after, h0, hh]
  have A2 := A.settled hq.1 o
  have hme2 : (settled o e).me = ((F s.me.begin).holding (F s.me.begin).held).tickFmt := by
    rw [A2.2.2.2]; simp only [hheld]; rw [fill_off (by exact hn)]
  have hadv : advance (settled o e)
      = ((settled o e).updMe (fun c => (c.withNest Nest.none).goTo a 0 s.me.pc), none) := by
    have h1 : (settled o e).me.nest.active = false := by rw [hme2]; exact hn
    have h2 : (settled o e).me.pc = s.me.pc := by rw [hme2]; exact hF.2.2.1
    unfold advance
    simp only [A2.2.1, latchBegin, h1, h2]
    simp
  have R := finish_plain (w := fenceWaits (beginIssue s) [o]) (n := s.num) (o := o)
    (G := fun c => (c.withNest Nest.none).goTo a 0 s.me.pc) A hq.1 hadv rfl (step_off hq) rfl rfl (fun c => rfl) (fun c h => h)
    hF hq.2.2.2.1 hq.2.2.2.2
  refine ⟨_, (exec_commit hi hv).trans (by rw [effects_none _ _ _ _ hm hb, he]), R.1, ?_⟩
  rw [R.2.2.2]
  simp only [hheld]
  rw [fill_off (by exact hn)]
  have := hF.2.2.2.2.2
  simp only [closing, Context.goTo, Context.withNest, Context.tickFmt, Context.holding, Context.owing]
  rw [this]
  rfl

/-- What an effect leaves to the end of the issue: the nest, the issue point and hold state. -/
def Steady (c d : Context) : Prop := d.nest = c.nest ∧ d.rep = c.rep ∧ d.pc = c.pc ∧ d.held = c.held

theorem Context.Keeps.steady {c d : Context} (h : c.Keeps d) : Steady c d := ⟨h.1, h.2.1, h.2.2.1, h.2.2.2.2.2⟩

/-- A latch that notes neither a transfer nor a loop. -/
def Straight (s : State) (l : Latch) : Prop :=
  l.eret = false ∧ l.target = none ∧ l.enter.active = false ∧ l.exitNest = false ∧ l.repn = s.latch.repn ∧ l.next = s.latch.next

/-- Outside a nest, an issue that notes no transfer goes on at its next issue point. -/
theorem advance_straight {s b e : State} {F : Context → Context} {l : Latch} (o : Op) (hq : Quiet s) (A : Arrives s b F l e)
    (hl : Straight s l) (hF : Steady s.me.begin (F s.me.begin)) :
    ∃ m, advance (settled o e) = (m, none) ∧ Arrives s b
      (fun _ => { closing s (Held.after s.me.held o) (F s.me.begin) with
        owed := (F s.me.begin).owed }) l m := by
  obtain ⟨l1, l2, l3, l4, l5, l6⟩ := hl
  have hn : (F s.me.begin).nest.active = false := by rw [hF.1]; exact hq.2.1
  have A2 := A.settled hq.1 o
  have hme : (settled o e).me = ((F s.me.begin).holding (Held.after (F s.me.begin).held o)).tickFmt := by
    rw [A2.2.2.2]; exact congrArg Context.tickFmt (fill_off (c := (F s.me.begin).holding (Held.after (F s.me.begin).held o)) hn _)
  have h1 : (settled o e).me.nest.active = false := by rw [hme]; exact hn
  have h2 : (settled o e).me.pc = s.me.pc := by rw [hme]; exact hF.2.2.1
  have h3 : (settled o e).me.rep = s.me.rep := by rw [hme]; exact hF.2.1
  have hheld : (F s.me.begin).held = s.me.held := hF.2.2.2
  by_cases hr : s.me.rep < s.latch.repn
  · refine ⟨(settled o e).updMe (fun c => c.goTo c.pc (c.rep + 1) 0), ?_, ?_⟩
    · unfold advance
      simp only [A2.2.1, l1, l2, l5, h3, hr, Bool.false_eq_true, if_false, if_true]
    · have A3 := A2.updMe hq.1 (fun c => c.goTo c.pc (c.rep + 1) 0)
      refine ⟨A3.1, A3.2.1, A3.2.2.1, ?_⟩
      rw [A3.2.2.2]
      have hf2 : ∀ h, ((F s.me.begin).holding h).fillBuffer l.words = (F s.me.begin).holding h := fun h => fill_off (c := (F s.me.begin).holding h) hn _
      have e1 : (F s.me.begin).pc = s.me.pc := hF.2.2.1
      have e2 : (F s.me.begin).rep = s.me.rep := hF.2.1
      simp only [hf2]
      simp only [closing, if_pos hr, hheld, Context.goTo, Context.tickFmt, Context.holding, e1, e2]
  · refine ⟨(settled o e).updMe (fun c => c.goTo s.latch.next 0 0), ?_, ?_⟩
    · unfold advance
      simp only [A2.2.1, l1, l2, l3, l4, l5, l6, h1, h3, hr, Bool.false_eq_true, if_false]
    · have A3 := A2.updMe hq.1 (fun c => c.goTo s.latch.next 0 0)
      refine ⟨A3.1, A3.2.1, A3.2.2.1, ?_⟩
      rw [A3.2.2.2]
      have hf2 : ∀ h, ((F s.me.begin).holding h).fillBuffer l.words = (F s.me.begin).holding h := fun h => fill_off (c := (F s.me.begin).holding h) hn _
      simp only [hf2]
      simp only [closing, if_neg hr, hheld, Context.goTo, Context.tickFmt, Context.holding]

/-- The state that an issue without step-off, transfer or loop reaches, and what `finish` then does with it. -/
theorem finish_straight {s b e : State} {F : Context → Context} {l : Latch} (o : Op) (w : Bool) (n : Nat) (hq : Quiet s)
    (A : Arrives s b F l e) (hl : Straight s l) (hs : l.step = false) (hF : Steady s.me.begin (F s.me.begin)) :
    ∃ m, Arrives s b (fun _ => { closing s (Held.after s.me.held o) (F s.me.begin) with owed := (F s.me.begin).owed }) l m
      ∧ finish w n (holds [o] e) = match l.post with
        | some (code, einfo) => raisePost m s.cur code 0 einfo
        | none =>
          let t := m.updMe (fun c => c.owing none)
          match l.fence with
          | some sc => if w then block (t.updMe (fun c => c.awaits (.fence sc n))) s.cur 6 else fenceEnd t s.cur
          | none => afterIssue t := by
  obtain ⟨m, hm, A2⟩ := advance_straight o hq A hl hF
  refine ⟨m, A2, ?_⟩
  have hs2 : (holds [o] e).updMe (fun c => (c.fillBuffer (holds [o] e).latch.words).tickFmt) = settled o e := rfl
  unfold finish
  rw [hs2, hm]
  have h3 := A2.updMe hq.1 (fun c => c.owing none)
  simp only [A2.2.1, A2.2.2.1, h3.2.2.1, hs, Bool.false_eq_true, if_false]
  all_goals
    cases l.post with
    | some p => rfl
    | none =>
      cases l.fence with
      | some sc => simp only
      | none => rfl

end Sys2Proof.Machine
end

