-- ==== Sys2Proof/Laws/Width.lean ====
section
/-! SUPPORT. Giving up the issue width, blocking, and trap entry (R249, R250, R257). -/

namespace Sys2Proof.Machine

open Sys2Proof

theorem same_releaseWidth (s : State) (n : Nat) : SameMe s (releaseWidth s n) := by
  unfold releaseWidth
  split
  · exact same_updCore s _ _ (fun _ => rfl)
  · exact .refl s

theorem ctx_releaseWidth (s : State) (n m : Nat) : (releaseWidth s n).ctx m = s.ctx m := by
  unfold releaseWidth
  split
  · exact ctx_updCore s _ (fun k => { k with holder := none, lastHolder := slotOf n }) (fun _ => rfl) m
  · rfl

theorem core_updCore (s : State) (g h : Nat) (f : Core → Core) :
    (s.updCore g f).core h = if h = g then f (s.core g) else s.core h := by
  by_cases e : h = g
  · subst e; simp [State.updCore]
  · simp [State.updCore, core_setCore_ne _ _ e, e]

theorem elsewhere_releaseWidth (s : State) (n : Nat) : Elsewhere s (releaseWidth s n) := by
  refine ⟨?_, fun g => ?_, fun m _ => ctx_releaseWidth s n m⟩
  · unfold releaseWidth; split <;> rfl
  · unfold releaseWidth
    split
    · rw [core_updCore]; split
      · subst_vars; rfl
      · rfl
    · rfl

/-- Afterwards the context does not hold the width. -/
theorem holder_releaseWidth (s : State) {n : Nat} (h : n < residents) :
    ((releaseWidth s n).core (coreOf n)).holder ≠ some (slotOf n) := by
  unfold releaseWidth
  split
  · rw [core_updCore, if_pos rfl]; simp
  · rename_i h2; exact fun e => h2 ⟨h, e⟩

/-- A blocked context keeps everything but its state, the reason and the measure of R265. -/
theorem block_elsewhere {s : State} (h : s.cur < residents) (r : Nat) :
    Elsewhere s (block s s.cur r) ∧ (block s s.cur r).me
      = { s.me with st := .blocked, reason := r, blockedAt := if s.me.blockedAt = 0 then s.cyc.toNat + 1 else s.me.blockedAt } := by
  refine ⟨((Elsewhere.refl s).updMe h _).trans (elsewhere_releaseWidth _ _), ?_⟩
  rw [block, (same_releaseWidth _ _).2.2]
  exact me_updMe s h _

/-! ### The halt line (R261) -/

theorem ctx_congr {s t : State} (h : t.cores = s.cores) (k : t.saved = s.saved) (n : Nat) : t.ctx n = s.ctx n := by
  unfold State.ctx State.core; rw [h, k]

/-- Raising the halt line changes launches and the pool alone. -/
theorem raiseHalt_calm (s : State) (lid : Nat) (u : UnitId) (c : Nat) (d da : Word64) :
    SameMe s (raiseHalt s lid u c d da) ∧ (raiseHalt s lid u c d da).mem = s.mem
    ∧ (raiseHalt s lid u c d da).cores = s.cores ∧ (raiseHalt s lid u c d da).saved = s.saved := by
  unfold raiseHalt
  split
  · exact ⟨.refl s, rfl, rfl, rfl⟩
  · dsimp only; split <;> exact ⟨⟨rfl, rfl, rfl⟩, rfl, rfl, rfl⟩

theorem find_updLaunch (s : State) (k : Nat) (l : Launch) (h : s.launchOf k = some l) (f : Launch → Launch)
    (hf : ∀ x, (f x).id = x.id) : (s.updLaunch k f).launchOf k = some (f l) := by
  unfold State.launchOf at *
  unfold State.updLaunch
  dsimp only
  generalize s.launches = ls at *
  induction ls with
  | nil => simp at h
  | cons a t ih =>
    rw [List.map_cons]
    by_cases e : a.id = k
    · have : a = l := by simpa [List.find?_cons, e] using h
      subst this
      simp [e, hf]
    · have h' : t.find? (fun l => l.id == k) = some l := by simpa [List.find?_cons, e] using h
      simp only [beq_iff_eq, e, if_false, List.find?_cons]
      rw [show (a.id == k) = false by simpa using e]
      simpa using ih h'

/-- The halt line of a launch whose line is not yet up. -/
theorem raiseHalt_up (s : State) (k : Nat) (u : UnitId) (c : Nat) (d da : Word64) (l : Launch) (h : s.launchOf k = some l)
    (hh : l.halt = none) : ∃ z, ((raiseHalt s k u c d da).launchOf k).bind (·.halt) = some z ∧ z.unit = u ∧ z.cause = c
      ∧ z.detail = d ∧ z.daddr = da := by
  unfold raiseHalt
  rw [h]
  dsimp only
  rw [hh]
  simp only [Option.isSome_none, Bool.false_eq_true, if_false]
  let z : Halt := ⟨u, c, d, da, if (s.unitsOf k).contains u || u.kind == 15 then s.unitsOf k else u :: s.unitsOf k, [], 0,
    (s.queue l.queue).stopWr, false, false⟩
  refine ⟨z, ?_, rfl, rfl, rfl, rfl⟩
  exact congrArg (fun o : Option Launch => o.bind (·.halt))
    (find_updLaunch s k l h (fun l => { l with halt := some z }) (fun _ => rfl))

/-- The context as a fault leaves it. -/
def Context.stopped (c : Context) (code : Nat) (f : FaultInfo) : Context :=
  { c with st := if code = 0x83 ∨ code = 0x84 then .killed else .halted, after := .none, fault := some f }

/-- A fault stops its context, notes what its stop record says, and raises the halt line of its launch. -/
theorem faultCtx_facts (s : State) {cid : Nat} (h : cid < residents) (code tc : Nat) (a b pc : Word64) :
    (faultCtx s cid code tc a b pc).ctx cid = (s.ctx cid).stopped code (faultInfo code tc a b pc)
    ∧ (faultCtx s cid code tc a b pc).mem = s.mem ∧ (faultCtx s cid code tc a b pc).cur = s.cur
    ∧ ∀ k l, (s.ctx cid).launch = some k → s.launchOf k = some l → l.halt = none →
        ∃ z, ((faultCtx s cid code tc a b pc).launchOf k).bind (·.halt) = some z ∧ z.unit = ⟨0, cid⟩ ∧ z.cause = code
          ∧ z.detail = (faultInfo code tc a b pc).detail ∧ z.daddr = (faultInfo code tc a b pc).daddr := by
  generalize hf : faultInfo code tc a b pc = f
  have hL : ∀ t : State, (releaseWidth (t.updCtx cid (fun c => c.stopped code f)) cid).launchOf = t.launchOf := by
    intro t
    have : ∀ u : State, (releaseWidth u cid).launches = u.launches := by intro u; unfold releaseWidth; split <;> rfl
    funext m
    simp only [State.launchOf, this, updCtx_launches]
  have hM : ∀ t : State, (releaseWidth (t.updCtx cid (fun c => c.stopped code f)) cid).mem = t.mem := by
    intro t; rw [(elsewhere_releaseWidth _ _).mem]; simp
  have hU : ∀ t : State, (releaseWidth (t.updCtx cid (fun c => c.stopped code f)) cid).cur = t.cur := by
    intro t; rw [(elsewhere_releaseWidth _ _).cur]; simp
  have hC : ∀ t : State, (releaseWidth (t.updCtx cid (fun c => c.stopped code f)) cid).ctx cid
      = (t.ctx cid).stopped code f := by
    intro t; rw [ctx_releaseWidth, ctx_updCtx_self _ h]
  cases hl : (s.ctx cid).launch with
  | none =>
    have e : faultCtx s cid code tc a b pc = releaseWidth (s.updCtx cid (fun c => c.stopped code f)) cid := by
      unfold faultCtx; dsimp only; rw [hl, hf]; rfl
    rw [e]
    exact ⟨hC s, hM s, hU s, fun k l hk => by simp at hk⟩
  | some k0 =>
    have e : faultCtx s cid code tc a b pc = releaseWidth ((raiseHalt s k0 ⟨0, cid⟩ code f.detail f.daddr).updCtx cid
        (fun c => c.stopped code f)) cid := by
      unfold faultCtx; dsimp only; rw [hl, hf]; rfl
    have k := raiseHalt_calm s k0 ⟨0, cid⟩ code f.detail f.daddr
    have hx : (raiseHalt s k0 ⟨0, cid⟩ code f.detail f.daddr).ctx cid = s.ctx cid := by
      exact ctx_congr k.2.2.1 k.2.2.2 cid
    rw [e]
    refine ⟨by rw [hC, hx], by rw [hM, k.2.1], by rw [hU, k.1.2.1], fun m l hm h2 h3 => ?_⟩
    obtain rfl : k0 = m := by simpa using hm
    rw [hL]
    exact raiseHalt_up s k0 _ _ _ _ l h2 h3

/-! ### Trap entry (R257) -/

/-- The context that takes a trap at the next level, with a copy. -/
def entered (c : Context) (n : Nat) (t : TrapInfo) : Context :=
  { Context.enter { c with snap := c.capture n t, snapv := true, l2snap := false,
                           fmt := if postCause t.code then c.fmt else c.fmtNow, fmtPend := [] } (c.tlevel + 1) t with
        l2snap := false }

theorem trapped_entered {c : Context} (t : TrapInfo) (n : Nat) (h0 : c.tlevel = 0) :
    Trapped c (entered c n t) t.code t.ret t.eva t.einfo := by
  unfold entered
  rw [h0]
  refine ⟨rfl, rfl, rfl, rfl, rfl, rfl, rfl, rfl, rfl, rfl, rfl, rfl, rfl, h0, rfl, rfl, rfl, rfl, rfl, rfl, rfl, rfl, rfl, rfl, rfl, rfl, rfl⟩

/-- A trap that is raised after its bundle has issued, at level 0. -/
theorem raisePost_trapped (t : State) {n : Nat} (hn : n < residents) (h0 : (t.ctx n).tlevel = 0) (hp : (t.ctx n).pend = [])
    (hc : n = t.cur) (code : Nat) (eva einfo : Word64) :
    Elsewhere t (raisePost t n code eva einfo)
    ∧ Trapped (t.ctx n) ((raisePost t n code eva einfo).ctx n) code (t.ctx n).point eva einfo
    ∧ ((raisePost t n code eva einfo).ctx n).loss = (t.ctx n).loss := by
  unfold raisePost
  dsimp only
  obtain ⟨ti, hti⟩ : ∃ ti : TrapInfo, ti = TrapInfo.mk code eva einfo false (t.ctx n).point (t.ctx n).triedS
      (t.ctx n).triedO (peekRep t (t.jobOf n) (t.ctx n).pc) := ⟨_, rfl⟩
  rw [← hti]
  have h1 : takeTrap t n ti = t.updCtx n (fun c => entered c (t.ctxid n) ti) := by
    unfold takeTrap
    rw [if_pos (by simp [hp])]
    unfold enterTrap
    dsimp only
    rw [if_neg (by omega), if_neg (by omega)]
    rfl
  rw [h1]
  refine ⟨?_, ?_⟩
  · subst hc
    exact (Elsewhere.refl t).updMe hn _
  · rw [ctx_updCtx_self _ hn]
    have := trapped_entered ti (t.ctxid n) h0
    refine ⟨by rw [hti] at this ⊢; exact this, ?_⟩
    unfold entered Context.enter
    dsimp only
    split <;> rfl

/-- The end of a straight issue that notes a trap. -/
theorem post_trap {s e : State} {F : Context → Context} {l : Latch} (o : Op) (w : Bool) (n : Nat) (hq : Quiet s)
    (A : Arrives s s F l e) (hl : Straight s l) (hs : l.step = false) (hF : Steady s.me.begin (F s.me.begin))
    {code : Nat} {einfo : Word64} (hp : l.post = some (code, einfo)) (h0 : (F s.me.begin).tlevel = 0)
    (hpe : (F s.me.begin).pend = []) :
    let m := closing s (Held.after s.me.held o) (F s.me.begin)
    Elsewhere s (finish w n (holds [o] e)) ∧ Trapped m (finish w n (holds [o] e)).me code m.point 0 einfo := by
  intro m
  obtain ⟨t, ht, hf⟩ := finish_straight o w n hq A hl hs hF
  rw [hf, hp]
  dsimp only
  have hctx : t.ctx s.cur = { m with owed := (F s.me.begin).owed } := by
    have := ht.2.2.2; rw [State.me, ht.2.2.1] at this; exact this
  have R := raisePost_trapped t hq.1 (by rw [hctx]; exact h0) (by rw [hctx]; exact hpe) ht.2.2.1.symm code 0 einfo
  refine ⟨ht.1.trans R.1, ?_⟩
  rw [State.me, R.1.cur, ht.2.2.1]
  have R2 := R.2.1
  rw [hctx] at R2
  exact R2

end Sys2Proof.Machine
end

