-- ==== Sys2Proof/Laws/Engine.lean ====
section
/-! SUPPORT. What the operations of the copy engine leave alone, and what a job's acceptance leaves. -/

namespace Sys2Proof.Machine

open Sys2Proof

/-! ### Changes away from the cores and from memory -/

/-- `e` has the cores, the saved contexts, the latch and the memory of `s`. -/
def Apart (s e : State) : Prop :=
  e.cores = s.cores ∧ e.saved = s.saved ∧ e.latch = s.latch ∧ e.cur = s.cur ∧ e.mem = s.mem

theorem Apart.refl (s : State) : Apart s s := ⟨rfl, rfl, rfl, rfl, rfl⟩

theorem Apart.trans {s t u : State} (h : Apart s t) (k : Apart t u) : Apart s u :=
  ⟨k.1.trans h.1, k.2.1.trans h.2.1, k.2.2.1.trans h.2.2.1, k.2.2.2.1.trans h.2.2.2.1, k.2.2.2.2.trans h.2.2.2.2⟩

theorem Apart.foldl {α : Type} (f : State → α → State) (hf : ∀ s x, Apart s (f s x)) (l : List α) :
    ∀ s, Apart s (l.foldl f s) := by
  induction l with
  | nil => exact .refl
  | cons x t ih => intro s; exact (hf s x).trans (ih _)

theorem Apart.core {s e : State} (h : Apart s e) (g : Nat) : e.core g = s.core g := by
  unfold State.core; rw [h.1]

theorem Apart.ctx {s e : State} (h : Apart s e) (n : Nat) : e.ctx n = s.ctx n := by
  unfold State.ctx; rw [h.2.1, h.core]

theorem Apart.same {s e : State} (h : Apart s e) : SameMe s e :=
  ⟨h.2.2.1, h.2.2.2.1, by rw [State.me, State.me, h.2.2.2.1, h.ctx]⟩

theorem apart_bindBusy (s : State) (j : Nat) (l : List Nat) : Apart s (bindBusy s j l) := by
  unfold bindBusy
  apply Apart.foldl
  intro s i; exact ⟨rfl, rfl, rfl, rfl, rfl⟩

theorem apart_freeBusy (s : State) (j : Nat) (l : List Nat) : Apart s (freeBusy s j l) := by
  unfold freeBusy
  apply Apart.foldl
  intro s i; exact ⟨rfl, rfl, rfl, rfl, rfl⟩

theorem apart_wantPage (s : State) (j g p : Nat) : Apart s (wantPage s j g p) := by
  unfold wantPage; split
  · exact .refl s
  · exact ⟨rfl, rfl, rfl, rfl, rfl⟩

theorem apart_wantPages (j : Nat) (l : List Word64) (s : State) : Apart s (wantPages j l s) := by
  refine Apart.foldl _ (fun s a => ?_) l s
  split
  · exact .refl s
  · split
    · exact apart_wantPage ..
    · exact .refl s

theorem apart_updLaunch (s : State) (k : Nat) (f : Launch → Launch) : Apart s (s.updLaunch k f) := by
  unfold State.updLaunch; exact ⟨rfl, rfl, rfl, rfl, rfl⟩

/-! ### Leads -/

theorem Leads.into {s b e e' : State} {F : Context → Context} (h : Leads s b F e) (k : SameMe e e') : Leads s e' F e' :=
  h.same k (.refl _)

theorem Leads.self {s b e : State} {F : Context → Context} (h : Leads s b F e) : Leads s e F e := h.into (.refl e)

theorem Leads.apart {s b e e' : State} {F : Context → Context} (h : Leads s b F e) (k : Apart e e') : Leads s e' F e' :=
  h.into k.same

/-- A trace record is all that recorded reads change. -/
theorem traceReads_leads {s e : State} {F : Context → Context} (hq : Quiet s) (h : Leads s e F e) (j : Nat) (l : List Word64) :
    ∃ r, Leads s (traceReads j l e) (fun c => { F c with trec := r }) (traceReads j l e)
      ∧ (traceReads j l e).mem = e.mem ∧ ∀ g, ((traceReads j l e).core g).jobs = (e.core g).jobs := by
  unfold traceReads
  cases hr : e.me.trec with
  | none => exact ⟨(F s.me.begin).trec, ⟨h.1, h.2.1, h.2.2.1, by rw [h.2.2.2]⟩, rfl, fun _ => rfl⟩
  | some r =>
    let G : Context → Context := fun c => { c with trec := some (l.foldl (traceAddr e j) r) }
    have hc : e.cur < residents := by rw [h.2.2.1]; exact hq.1
    refine ⟨_, (h.updMe hq G).self, updMe_mem _ _, fun g => ?_⟩
    rw [((Elsewhere.refl e).updMe hc G).2.1 g]

/-- A job joins the engine. -/
theorem acceptJob_leads {s e : State} {F : Context → Context} (hq : Quiet s) (h : Leads s e F e) (x : CopyJob) :
    ∃ ok, Leads s (acceptJob x e) F (acceptJob x e) ∧ (acceptJob x e).mem = e.mem
      ∧ ((acceptJob x e).core (s.cur / 4)).jobs = (e.core (s.cur / 4)).jobs ++ [{ x with bound := ok }] := by
  refine ⟨canBind e x.job x.segs, ?_⟩
  unfold acceptJob
  dsimp only
  have hhome : e.homeCore e.cur = s.cur / 4 := by rw [h.2.2.1, State.homeCore, if_pos hq.1]; rfl
  rw [hhome]
  have hb : Apart e (if canBind e x.job x.segs = true then bindBusy e x.job x.segs else e) := by
    split
    · exact apart_bindBusy ..
    · exact .refl e
  revert hb
  generalize (if canBind e x.job x.segs = true then bindBusy e x.job x.segs else e) = b
  generalize canBind e x.job x.segs = ok
  intro hb
  have L := h.apart hb
  have U := (L.updCore (s.cur / 4)
    (fun k => { k with jobs := k.jobs ++ [{ x with bound := ok }], cal := liveCal b (s.cur / 4) ++ x.cycles }) (fun _ _ _ _ => rfl)).self
  have hm : (b.updCore (s.cur / 4)
    (fun k => { k with jobs := k.jobs ++ [{ x with bound := ok }], cal := liveCal b (s.cur / 4) ++ x.cycles })).mem = e.mem := hb.2.2.2.2
  have hj : ((b.updCore (s.cur / 4)
    (fun k => { k with jobs := k.jobs ++ [{ x with bound := ok }], cal := liveCal b (s.cur / 4) ++ x.cycles })).core (s.cur / 4)).jobs
      = (e.core (s.cur / 4)).jobs ++ [{ x with bound := ok }] := by
    simp only [State.updCore, core_setCore_self, hb.core]
  revert U hm hj
  generalize (b.updCore (s.cur / 4)
    (fun k => { k with jobs := k.jobs ++ [{ x with bound := ok }], cal := liveCal b (s.cur / 4) ++ x.cycles })) = u
  intro U hm hj
  have hA : Apart u { u with num := b.num + 1 } := ⟨rfl, rfl, rfl, rfl, rfl⟩
  exact ⟨U.apart hA, hm, (congrArg Core.jobs (hA.core _)).trans hj⟩

/-- A promise is given. -/
theorem givePromise_leads {s e : State} {F : Context → Context} (hq : Quiet s) (h : Leads s e F e) (r p : Nat) :
    Leads s (givePromise r p e) (fun c => (F c).wSnow r (n64 p)) (givePromise r p e)
    ∧ (givePromise r p e).mem = e.mem ∧ ∀ g, ((givePromise r p e).core g).jobs = (e.core g).jobs := by
  have hc : e.cur < residents := by rw [h.2.2.1]; exact hq.1
  have L := (h.updMe hq (fun c => c.wSnow r (n64 p))).self
  have hm : (e.updMe (fun c => c.wSnow r (n64 p))).mem = e.mem := updMe_mem _ _
  have hj : ∀ g, ((e.updMe (fun c => c.wSnow r (n64 p))).core g).jobs = (e.core g).jobs := fun g => by
    rw [((Elsewhere.refl e).updMe hc (fun c => c.wSnow r (n64 p))).2.1 g]
  unfold givePromise
  dsimp only
  revert L hm hj
  generalize e.updMe (fun c => c.wSnow r (n64 p)) = u
  intro L hm hj
  exact ⟨(L.noted _ _).self, hm, hj⟩

/-- An update of a barrier, as part of an effect. -/
theorem barUpdate_leads {s e : State} {F : Context → Context} (hq : Quiet s) (h : Leads s e F e)
    (hcl : (F s.me.begin).claim = none) (pa : Nat) (dp : Int) (da : Nat) :
    Leads s (barUpdate e pa dp da) F (barUpdate e pa dp da) :=
  h.into (barUpdate_calm e pa dp da (by rw [h.2.2.1]; exact hq.1) (by rw [h.2.2.2]; exact hcl)).1

theorem jobs_updCtx (s : State) (n : Nat) (f : Context → Context) (g : Nat) : ((s.updCtx n f).core g).jobs = (s.core g).jobs := by
  unfold State.updCtx State.setCtx
  split
  · by_cases hg : g = coreOf n
    · subst hg; simp only [State.updCore, core_setCore_self]
    · simp only [State.updCore, core_setCore_ne _ _ hg]
  · rfl

theorem wakeWaiters_rest (s : State) (pa : Nat) : (wakeWaiters s pa).mem = s.mem ∧ ∀ g, ((wakeWaiters s pa).core g).jobs = (s.core g).jobs := by
  unfold wakeWaiters
  generalize s.liveCtxs = l
  induction l generalizing s with
  | nil => exact ⟨rfl, fun _ => rfl⟩
  | cons c t ih =>
    rw [List.foldl_cons]
    obtain ⟨h1, h2⟩ := ih (match (s.ctx c).claim with
      | some k => if k.addr = pa then s.updCtx c (fun x => { x with claim := some { k with woken := true } }) else s
      | none => s)
    refine ⟨h1.trans ?_, fun g => (h2 g).trans ?_⟩
    · split
      · split
        · exact updCtx_mem _ _ _
        · rfl
      · rfl
    · split
      · split
        · exact jobs_updCtx _ _ _ _
        · rfl
      · rfl

theorem core_putBarrier (s : State) (pa : Nat) (ph ov : Bool) (p : Int) (i r g k : Nat) :
    (putBarrier s pa ph ov p i r g).core k = s.core k := by
  have := onlyMem_putBarrier s pa ph ov p i r g
  unfold OnlyMem at this
  unfold State.core
  rw [this]

theorem jobs_barUpdate (s : State) (pa : Nat) (dp : Int) (da g : Nat) : ((barUpdate s pa dp da).core g).jobs = (s.core g).jobs := by
  unfold barUpdate
  simp only []
  generalize (if decide (barPend s pa + dp < -2 ^ 47) = true then (-2 ^ 47 : Int) else barPend s pa + dp) = p
  generalize (barOvf s pa || decide (barPend s pa + dp < -2 ^ 47)) = ov
  split
  · rw [(wakeWaiters_rest _ _).2, core_putBarrier]
  · rw [core_putBarrier]

theorem putBarrier_mem_congr {s t : State} (h : s.mem = t.mem) (pa : Nat) (ph ov : Bool) (p : Int) (i r g : Nat) :
    (putBarrier s pa ph ov p i r g).mem = (putBarrier t pa ph ov p i r g).mem := by
  unfold putBarrier
  exact wr_mem_congr _ _ _ (wr_mem_congr _ _ _ h)

/-- The memory after an update of a barrier is a function of the memory before it. -/
theorem barUpdate_mem_congr {s t : State} (h : s.mem = t.mem) (pa : Nat) (dp : Int) (da : Nat) :
    (barUpdate s pa dp da).mem = (barUpdate t pa dp da).mem := by
  obtain ⟨h1, h2, h3, h4, h5, h6⟩ := bar_congr h pa
  unfold barUpdate
  rw [h1, h2, h3, h4, h5, h6]
  simp only []
  generalize (if decide (barPend t pa + dp < -2 ^ 47) = true then (-2 ^ 47 : Int) else barPend t pa + dp) = p
  generalize (barOvf t pa || decide (barPend t pa + dp < -2 ^ 47)) = ov
  split
  · rw [(wakeWaiters_rest _ _).1, (wakeWaiters_rest _ _).1]; exact putBarrier_mem_congr h ..
  · exact putBarrier_mem_congr h ..

/-- The expectation of a job, as part of an effect. -/
theorem expect_leads {s e : State} {F : Context → Context} (hq : Quiet s) (h : Leads s e F e) (hcl : (F s.me.begin).claim = none)
    (hm : e.mem = s.mem) (g : Nat) (b : Box) :
    Leads s (if b.bar = 0 then e else barUpdate e (barAddr g b.bar) b.bytes 0) F
      (if b.bar = 0 then e else barUpdate e (barAddr g b.bar) b.bytes 0)
    ∧ (if b.bar = 0 then e else barUpdate e (barAddr g b.bar) b.bytes 0).mem = expected s g b
    ∧ ∀ k, ((if b.bar = 0 then e else barUpdate e (barAddr g b.bar) b.bytes 0).core k).jobs = (e.core k).jobs := by
  unfold expected
  split
  · exact ⟨h, hm, fun _ => rfl⟩
  · exact ⟨barUpdate_leads hq h hcl _ _ _, barUpdate_mem_congr hm _ _ _, fun k => jobs_barUpdate _ _ _ _ k⟩

/-- A register write keeps a trace record apart. -/
theorem wSnow_trec (c : Context) (t : Option TraceRec) (r : Nat) (v : Word64) :
    ({ c with trec := t }).wSnow r v = { c.wSnow r v with trec := t } := by
  unfold Context.wSnow Context.put
  split <;> rfl

theorem wS_trec (c : Context) (t : Option TraceRec) (r : Nat) (v : Word64) :
    ({ c with trec := t }).wS r v = { c.wS r v with trec := t } := by
  unfold Context.wS Context.post
  split <;> rfl

/-- The issue closes on a state that an effect leads to. -/
theorem results_of {s e : State} {i : Instr} {o : Op} {h : Held} {F G : Context → Context} {m : List Host.Cell} {P : State → Prop}
    (hq : Quiet s) (hi : exec i s = issueOne o s) (hv : verdict [o] s = .go) (hm : o.mem = none)
    (he : o.eff (beginIssue s) ((o.bars (beginIssue s)).foldl runBar (beginIssue s)) = e) (L : Leads s e F e)
    (hF : s.me.begin.Keeps (F s.me.begin))
    (hh : h = Held.after s.me.held o) (hmem : e.mem = m) (hG : F s.me.begin = { G s.me.begin with trec := (F s.me.begin).trec })
    (hP : ∀ t, Elsewhere e t → P t) (hs : o.slot ≠ 0 := by decide) : Results s i h m G P := by
  obtain ⟨t, h1, h2, h3⟩ := L.issues hi hq hv (by rw [fenceWaits_slot s o hs, effects_bars _ _ _ hm]; exact he) hF
  refine ⟨t, h1, hP t h2, h2.mem.trans hmem, ?_⟩
  rw [L.2.2.2] at h3
  have ht : t.me.trec = (F s.me.begin).trec := by rw [h3]; rfl
  rw [ht, h3, hG, hh]

end Sys2Proof.Machine
end

