-- ==== Sys2Proof/Laws/Jobs.lean ====
section
/-! SUPPORT. How an op that gives the copy engine a job runs: what its checks read is what the state before holds, and one
lemma closes a chain of operations that ends in an acceptance. -/

namespace Sys2Proof.Machine

open Sys2Proof

theorem begin_descBytes {s : State} (hq : Quiet s) (x : ArgX) (n : Nat) : descBytes (beginIssue s) x n = descBytes s x n := by
  unfold descBytes descAddr
  rw [beginIssue_me s hq.1, beginIssue_cur, begin_homeCore s hq.1]
  have : ∀ p m, rdBytes (beginIssue s) p m = rdBytes s p m := fun p m => rdBytes_congr _ _ _ _ (fun k _ => (beginIssue_elsewhere s hq.1).byte _)
  dsimp only
  rw [this]; rfl

theorem begin_boxAt {s : State} (hq : Quiet s) (x : ArgX) : boxAt x (beginIssue s) = boxAt x s := by
  unfold boxAt
  rw [begin_descBytes hq, beginIssue_me s hq.1]; rfl

theorem begin_jobs {s : State} : ∀ {g : Nat}, s.cur < residents → ((beginIssue s).core g).jobs = (s.core g).jobs := by
  intro g h; rw [(beginIssue_elsewhere s h).2.1 g]

theorem bufferFull_room {s : State} (hq : Quiet s) (h : (s.core (s.cur / 4)).jobs.length < 128) : bufferFull s = false := by
  unfold bufferFull
  rw [homeCore_cur s hq.1]
  exact decide_eq_false (by show ¬ 128 ≤ (s.core (s.cur / 4)).jobs.length; omega)

theorem bufferFull_full {s : State} (hq : Quiet s) (h : ¬ (s.core (s.cur / 4)).jobs.length < 128) : bufferFull s = true := by
  unfold bufferFull
  rw [homeCore_cur s hq.1]
  exact decide_eq_true (by show 128 ≤ (s.core (s.cur / 4)).jobs.length; omega)

theorem Leads.start {s : State} (hq : Quiet s) : Leads s (beginIssue s) (fun c => c) (beginIssue s) := (Leads.begin hq).self

/-- A job without `trec` changes. -/
theorem accept_of {s e : State} {i : Instr} {o : Op} {h : Held} {m : List Host.Cell} {F : CopyJob → Context → Context} {P : CopyJob → Prop}
    {j : CopyJob} {G : Context → Context}
    (hq : Quiet s) (hi : exec i s = issueOne o s) (hv : verdict [o] s = .go) (hm : o.mem = none)
    (he : o.eff (beginIssue s) ((o.bars (beginIssue s)).foldl runBar (beginIssue s)) = e) (L : Leads s e G e)
    (hG : s.me.begin.Keeps (G s.me.begin)) (hh : h = Held.after s.me.held o) (hmem : e.mem = m) (hF : G s.me.begin = { F j s.me.begin with trec := (G s.me.begin).trec })
    (hj : (e.core (s.cur / 4)).jobs = (s.core (s.cur / 4)).jobs ++ [j]) (hP : P j)
    (h1 : j.ctx = s.cur ∧ j.bundle = s.me.point ∧ j.began = false ∧ j.done = [])
    (hs : o.slot ≠ 0 := by decide) : Accepts s i h m F P :=
  ⟨j, hP, h1.1, h1.2.1, h1.2.2.1, h1.2.2.2, results_of hq hi hv hm he L hG hh hmem hF (fun t ht => by rw [ht.2.1]; exact hj) hs⟩

theorem begin_remoteOf {s : State} (hq : Quiet s) (a : Word64) : remoteOf (beginIssue s) a = remoteOf s a := by
  unfold remoteOf
  rw [beginIssue_cur, begin_jobOf s hq.1, begin_place s hq.1]

theorem begin_deadDest {s : State} (hq : Quiet s) (a : Word64) : deadDest (beginIssue s) a = deadDest s a := by
  unfold deadDest
  rw [begin_remoteOf hq, beginIssue_cur, begin_jobOf s hq.1]
  have : (beginIssue s).routes = s.routes := by rw [begin_fields s hq.1]
  unfold State.route
  rw [this]

def Context.lostAt (k : Nat) (c : Context) : Context := { c with loss := min (c.loss + 1) (2 ^ 32 - 1), firstLost := if c.loss = 0 then k else c.firstLost }

theorem countLoss_me {s : State} (hq : Quiet s) (hst : s.me.st = .running) (hl : s.me.launch.isSome = true) (k : Nat) :
    countLoss (beginIssue s) (beginIssue s).cur ((beginIssue s).me.launch.getD 0) k = (beginIssue s).updMe (Context.lostAt k) := by
  have hme := beginIssue_me s hq.1
  have h1 : (beginIssue s).me.st = .running := by rw [hme]; exact hst
  have h2 : (beginIssue s).me.launch = s.me.launch := by rw [hme]; rfl
  obtain ⟨l, hl⟩ := Option.isSome_iff_exists.mp hl
  unfold countLoss
  dsimp only
  rw [show (beginIssue s).ctx (beginIssue s).cur = (beginIssue s).me from rfl, h1, h2, hl, beginIssue_cur, if_neg]
  · show State.updCtx (beginIssue s) s.cur (Context.lostAt k) = (beginIssue s).updMe (Context.lostAt k)
    unfold State.updMe
    rw [beginIssue_cur]
  · rintro (h | h | h | h)
    · have := hq.1
      unfold residents at this
      unfold gone at h
      omega
    · cases h
    · cases h
    · exact h rfl

theorem Context.keeps_lostAt (k : Nat) (c : Context) : c.Keeps (Context.lostAt k c) := ⟨rfl, rfl, rfl, rfl, rfl, rfl⟩

theorem sendWait_room {s : State} (hq : Quiet s) (f : State → Word64) (h : (s.core (s.cur / 4)).jobs.length < 128) : sendWait f s = none := by
  unfold sendWait
  split
  · rfl
  · unfold bufferWait; rw [bufferFull_room hq h]; rfl

theorem sendWait_dead {s : State} {f : State → Word64} (h : deadDest s (f s) = true) : sendWait f s = none := by
  unfold sendWait; rw [h]; rfl

theorem copy_chain {s : State} {i : Instr} {o : Op} {h : Held} {sreg : Fin 64} {b : Box} {mid : State → State} {Jf : State → CopyJob} {p : Nat}
    {P : CopyJob → Prop}
    (hq : Quiet s) (hi : exec i s = issueOne o s) (hv : verdict [o] s = .go) (hm : o.mem = none) (hh : h = Held.after s.me.held o)
    (hmid : ∀ e (F : Context → Context), Leads s e F e → ∃ r, Leads s (mid e) (fun c => { F c with trec := r }) (mid e) ∧ (mid e).mem = e.mem
      ∧ ∀ g, ((mid e).core g).jobs = (e.core g).jobs)
    (hbar : (o.bars (beginIssue s)).foldl runBar (beginIssue s)
      = if b.bar = 0 then beginIssue s else barUpdate (beginIssue s) (barAddr (s.cur / 4) b.bar) b.bytes 0)
    (he : o.eff (beginIssue s) (if b.bar = 0 then beginIssue s else barUpdate (beginIssue s) (barAddr (s.cur / 4) b.bar) b.bytes 0)
        = givePromise sreg p (acceptJob (Jf (mid (if b.bar = 0 then beginIssue s else barUpdate (beginIssue s) (barAddr (s.cur / 4) b.bar) b.bytes 0)))
        (mid (if b.bar = 0 then beginIssue s else barUpdate (beginIssue s) (barAddr (s.cur / 4) b.bar) b.bytes 0))))
    (hJ : ∀ e ok, e.cur = s.cur → (Jf e).ctx = s.cur ∧ (Jf e).bundle = s.me.point ∧ (Jf e).began = false ∧ (Jf e).done = [] ∧ (Jf e).promise = p
      ∧ P { Jf e with bound := ok }) (hs : o.slot ≠ 0 := by decide) :
    Accepts s i h (expected s (s.cur / 4) b) (fun j c => c.wSnow sreg (n64 j.promise)) P := by
  have hcl : s.me.begin.claim = none := rfl
  obtain ⟨L1, m1, j1⟩ := expect_leads hq (Leads.start hq) hcl (beginIssue_mem s) (s.cur / 4) b
  rw [← congrArg (o.eff (beginIssue s)) hbar] at he
  clear hbar
  revert he L1 m1 j1
  generalize (if b.bar = 0 then beginIssue s else barUpdate (beginIssue s) (barAddr (s.cur / 4) b.bar) b.bytes 0) = e1
  intro he L1 m1 j1
  obtain ⟨r, L3, m3, j3⟩ := hmid e1 _ L1
  revert he L3 m3 j3
  generalize mid e1 = e3
  intro he L3 m3 j3
  obtain ⟨k1, k2, k3, k4, k5, k6⟩ := hJ e3 true L3.2.2.1
  obtain ⟨ok, L4, m4, j4⟩ := acceptJob_leads hq L3 (Jf e3)
  obtain ⟨-, -, -, -, -, k6⟩ := hJ e3 ok L3.2.2.1
  revert he L4 m4 j4
  generalize acceptJob (Jf e3) e3 = e4
  intro he L4 m4 j4
  obtain ⟨L5, m5, j5⟩ := givePromise_leads hq L4 sreg p
  refine accept_of (j := { Jf e3 with bound := ok }) hq hi hv hm he L5 (Context.Keeps.trans (show s.me.begin.Keeps _ from ⟨rfl, rfl, rfl, rfl, rfl, rfl⟩) (Context.keeps_wSnow _ _ _)) hh
    (m5.trans (m4.trans (m3.trans m1))) ?_ ?_ k6 ⟨k1, k2, k3, k4⟩ hs
  · dsimp only; rw [wSnow_trec, k5]
  · rw [j5, j4, j3, j1, begin_jobs hq.1]

theorem trace_mid {s : State} (hq : Quiet s) (j : Nat) (w l : List Word64) (e : State) (F : Context → Context) (L : Leads s e F e) :
    ∃ r, Leads s (traceReads j l (wantPages j w e)) (fun c => { F c with trec := r }) (traceReads j l (wantPages j w e))
      ∧ (traceReads j l (wantPages j w e)).mem = e.mem ∧ ∀ g, ((traceReads j l (wantPages j w e)).core g).jobs = (e.core g).jobs := by
  have a2 := apart_wantPages j w e
  obtain ⟨r, L3, m3, j3⟩ := traceReads_leads hq (L.apart a2) j l
  exact ⟨r, L3, m3.trans a2.2.2.2.2, fun g => by rw [j3, a2.core]⟩

theorem untrk_mid {s : State} (hq : Quiet s) (j : Nat) (l : List Word64) (e : State) (F : Context → Context) (L : Leads s e F e) :
    ∃ r, Leads s (traceUntrk j l e) (fun c => { F c with trec := r }) (traceUntrk j l e)
      ∧ (traceUntrk j l e).mem = e.mem ∧ ∀ g, ((traceUntrk j l e).core g).jobs = (e.core g).jobs := by
  unfold traceUntrk
  dsimp only
  split
  · let G : Context → Context := fun c => { c with trec := c.trec.map (fun r => { r with untrk := true }) }
    have hc : e.cur < residents := by rw [L.2.2.1]; exact hq.1
    refine ⟨(F s.me.begin).trec.map (fun r => { r with untrk := true }), ?_, updMe_mem _ _, fun g => ?_⟩
    · have := (L.updMe hq G).self
      exact ⟨this.1, this.2.1, this.2.2.1, this.2.2.2⟩
    · rw [((Elsewhere.refl e).updMe hc G).2.1 g]
  · exact ⟨(F s.me.begin).trec, ⟨L.1, L.2.1, L.2.2.1, by rw [L.2.2.2]⟩, rfl, fun _ => rfl⟩

theorem point_begin {s : State} (hq : Quiet s) : (beginIssue s).me.point = s.me.point := by rw [beginIssue_me s hq.1]; rfl

theorem begin_segOf {s : State} (hq : Quiet s) (j : Nat) (a : Word64) : segOf (beginIssue s) j a = segOf s j a := by
  rw [begin_fields s hq.1]; rfl

theorem Leads.promise {s b e : State} {F : Context → Context} (hq : Quiet s) (h : Leads s b F e) (r p : Nat) :
    Leads s b (fun c => (F c).wSnow r (n64 p)) (givePromise r p e) := by
  have L := h.updMe hq (fun c => c.wSnow r (n64 p))
  unfold givePromise
  dsimp only
  revert L
  generalize e.updMe (fun c => c.wSnow r (n64 p)) = u
  intro L
  exact L.noted _ _

theorem begin_sendsConf {s : State} (hq : Quiet s) (x : ArgX) (b : Box) : sendsConf (beginIssue s) x b = sendsConf s x b := by
  unfold sendsConf segsOf
  rw [beginIssue_cur, begin_jobOf s hq.1, begin_homeCore s hq.1]
  have : (beginIssue s).segs = s.segs := by rw [begin_fields s hq.1]
  have h2 : segOf (beginIssue s) (s.jobOf s.cur) = segOf s (s.jobOf s.cur) := funext (begin_segOf hq _)
  rw [h2]
  simp only [State.seg, this]

end Sys2Proof.Machine
end

