-- ==== Sys2Proof/Laws/Beside.lean ====
section
/-! SUPPORT. Events that change one resident context: what they leave alone. -/

namespace Sys2Proof.Machine

open Sys2Proof

/-- A table whose values are mapped, at a key. -/
theorem get_mapV {α : Type} [DecidableEq α] (d : α) (f : Nat → α → α) (hf : ∀ k, f k d = d) (t : Sparse α) (k : Nat) :
    ∀ lo, Sparse.wfFrom d lo t = true → Sparse.get d (Sparse.mapV d f t) k = f k (Sparse.get d t k) := by
  induction t with
  | nil => intro lo _; exact (hf k).symm
  | cons p t ih =>
    obtain ⟨j, v⟩ := p
    intro lo h
    simp only [Sparse.wfFrom, Bool.and_eq_true, decide_eq_true_eq] at h
    have hk := ih (j + 1) h.2
    by_cases e : k = j
    · subst e
      have hn : ∀ (t : Sparse α) lo, k < lo → Sparse.wfFrom d lo t = true → Sparse.get d t k = d := by
        intro t
        induction t with
        | nil => intro _ _ _; rfl
        | cons q t ih =>
          intro lo hl hw
          simp only [Sparse.wfFrom, Bool.and_eq_true, decide_eq_true_eq] at hw
          have : k ≠ q.1 := by omega
          simp only [Sparse.get, if_neg this]
          exact ih (q.1 + 1) (by omega) hw.2
      rw [hn t (k + 1) (by omega) h.2, hf] at hk
      simp only [Sparse.mapV, Sparse.get, if_true]
      split
      · next hd => rw [hk, hd]
      · simp [Sparse.get]
    · simp only [Sparse.mapV, Sparse.get, if_neg e]
      split
      · exact hk
      · simp only [Sparse.get, if_neg e, hk]

theorem Beside.refl (n : Nat) (s : State) : Beside n s s := ⟨rfl, fun _ => rfl, fun _ _ => rfl⟩

theorem Beside.trans {n : Nat} {s t u : State} (h : Beside n s t) (k : Beside n t u) : Beside n s u := by
  refine ⟨?_, fun g => ?_, fun m hm => (k.2.2 m hm).trans (h.2.2 m hm)⟩
  · rw [k.1, h.1]
  · rw [k.2.1 g, h.2.1 g]

theorem beside_updCtx (s : State) {n : Nat} (h : n < residents) (f : Context → Context) : Beside n s (s.updCtx n f) := by
  refine ⟨?_, fun g => ?_, fun m hm => ctx_updCtx_ne s h f hm⟩
  · unfold State.updCtx State.setCtx
    rw [if_pos h]; rfl
  · have := core_setCtx s n g (f (s.ctx n))
    unfold State.updCtx
    rw [this]

theorem beside_releaseWidth (n m : Nat) (s : State) : Beside n s (releaseWidth s m) := by
  obtain ⟨-, h, -⟩ := elsewhere_releaseWidth s m
  refine ⟨?_, h, fun k _ => ctx_releaseWidth s m k⟩
  unfold releaseWidth; split <;> rfl

theorem Beside.mem {n : Nat} {s t : State} (h : Beside n s t) : t.mem = s.mem := by rw [h.1]

/-- An event that is one update of a resident context. -/
theorem becomes_updCtx {s : State} {i : Instr} {n : Nat} (h : n < residents) (f : Context → Context)
    (hi : exec i s = .next (s.updCtx n f)) : Becomes s i n (f (s.ctx n)) :=
  ⟨_, hi, beside_updCtx s h f, ctx_updCtx_self s h f⟩

/-- A context that wakes. -/
theorem becomes_wake {s : State} {i : Instr} {n : Nat} (h : n < residents) (hi : exec i s = .next (wake s n)) :
    Becomes s i n { s.ctx n with st := readyState (s.ctx n).tlevel, reason := 0 } :=
  becomes_updCtx h (fun c => { c with st := readyState c.tlevel, reason := 0 }) hi

end Sys2Proof.Machine
end

