-- ==== Sys2Proof/Laws/OpOf.lean ====
section
/-! SUPPORT. The op of an instruction and its meaning; a decoded slot word is an op of its slot. -/

namespace Sys2Proof.Machine

open Sys2Proof

/-- The meaning of a slot op is the issue of its op. -/
theorem exec_opOf {i : Instr} {o : Op} (s : State) (h : opOf 1 i = some o) : exec i s = issueOne o s := by
  cases i <;> first | (injection h with h; subst h; rfl) | cases h

/-- An instruction of a slot other than S0 and S1: its op does not depend on the slot number. -/
def AnySlot (i : Instr) : Prop := ∀ k, opOf k i = opOf 1 i

theorem rawC_op {n : Nat} {e : Word32} {i : Instr} (h : rawC n e = some i) : AnySlot i ∧ (opOf 1 i).isSome = true := by
  unfold rawC at h
  split at h <;> first
    | (unfold getN at h; split at h
       · injection h with h; subst h; exact ⟨fun _ => rfl, rfl⟩
       · cases h)
    | (obtain ⟨x, -, rfl⟩ := Option.map_eq_some_iff.mp h; exact ⟨fun _ => rfl, rfl⟩)
    | cases h

theorem rawL_op {n : Nat} {e : Word32} {i : Instr} (h : rawL n e = some i) : AnySlot i ∧ (opOf 1 i).isSome = true := by
  unfold rawL at h
  split at h <;> first
    | (unfold getN at h; split at h
       · injection h with h; subst h; exact ⟨fun _ => rfl, rfl⟩
       · cases h)
    | (obtain ⟨x, -, rfl⟩ := Option.map_eq_some_iff.mp h; exact ⟨fun _ => rfl, rfl⟩)
    | cases h

theorem rawV_op {n : Nat} {e : Word32} {i : Instr} (h : rawV n e = some i) : AnySlot i ∧ (opOf 1 i).isSome = true := by
  unfold rawV at h
  split at h <;> first
    | (unfold getN at h; split at h
       · injection h with h; subst h; exact ⟨fun _ => rfl, rfl⟩
       · cases h)
    | (obtain ⟨x, -, rfl⟩ := Option.map_eq_some_iff.mp h; exact ⟨fun _ => rfl, rfl⟩)
    | cases h

theorem rawM_op {n : Nat} {e : Word32} {i : Instr} (h : rawM n e = some i) : AnySlot i ∧ (opOf 1 i).isSome = true := by
  unfold rawM at h
  split at h <;> first
    | (unfold getN at h; split at h
       · injection h with h; subst h; exact ⟨fun _ => rfl, rfl⟩
       · cases h)
    | (obtain ⟨x, -, rfl⟩ := Option.map_eq_some_iff.mp h; exact ⟨fun _ => rfl, rfl⟩)
    | cases h

theorem getMcast_op {n : Nat} {i : Instr} (h : getMcast n = some i) : AnySlot i ∧ (opOf 1 i).isSome = true := by
  unfold getMcast at h
  obtain ⟨x, -, hx⟩ := Option.map_eq_some_iff.mp h
  split at hx <;> (subst hx; exact ⟨fun _ => rfl, rfl⟩)

theorem rawX_op {n : Nat} {e : Word32} {i : Instr} (h : rawX n e = some i) : AnySlot i ∧ (opOf 1 i).isSome = true := by
  unfold rawX at h
  split at h <;> first
    | (unfold getN at h; split at h
       · injection h with h; subst h; exact ⟨fun _ => rfl, rfl⟩
       · cases h)
    | exact getMcast_op h
    | (obtain ⟨x, -, rfl⟩ := Option.map_eq_some_iff.mp h; exact ⟨fun _ => rfl, rfl⟩)
    | cases h

theorem rawS_op {n : Nat} {e : Word32} {i : Instr} (h : rawS n e = some i) : ∀ k, (opOf k i).isSome = true := by
  unfold rawS at h
  split at h <;> first
    | (obtain ⟨x, -, rfl⟩ := Option.map_eq_some_iff.mp h; exact fun _ => rfl)
    | cases h

/-- What a slot's word decodes to is an op; in every slot but S1 it is the op that the instruction's meaning issues. -/
theorem decode_op {k : Nat} {w e : Word32} {i : Instr} (h : decode k w e = some i) :
    (opOf k i).isSome = true ∧ (k ≠ 2 → opOf k i = opOf 1 i) := by
  unfold decode at h
  split at h
  · next j hj =>
    split at h
    · injection h with h; subst h
      unfold rawSlot at hj
      split at hj
      · have := rawC_op hj; rw [this.1]; exact ⟨this.2, fun _ => rfl⟩
      · exact ⟨rawS_op hj _, fun _ => rfl⟩
      · exact ⟨rawS_op hj _, fun c => absurd rfl c⟩
      · have := rawL_op hj; rw [this.1]; exact ⟨this.2, fun _ => rfl⟩
      · have := rawV_op hj; rw [this.1]; exact ⟨this.2, fun _ => rfl⟩
      · have := rawM_op hj; rw [this.1]; exact ⟨this.2, fun _ => rfl⟩
      · have := rawX_op hj; rw [this.1]; exact ⟨this.2, fun _ => rfl⟩
      · cases hj
    · cases h
  · cases h

end Sys2Proof.Machine
end

