-- ==== Sys2Proof/Tests/Slice0.lean ====
section
/-! SUPPORT. Tests: ill-formed terms that WellFormed refuses, words written out from the encoding tables, single steps on
small states, and for every statement with hypotheses a state and operands that meet them. -/

set_option Elab.async false

namespace Sys2Proof.Tests

open Sys2Proof Sys2Proof.Machine

/-! ### Helpers -/

/-- Format A with every block/trap bit clear. -/
def fa (d s1 s2 : Fin 64) (m : Fin 8) : ArgA := { dst := d, src1 := s1, src2 := s2, b1 := false, b2 := false, mod := m }

/-- Format M without step, hold or extension word. -/
def fm (r : Fin 64) (ab : Fin 16) (ty : Fin 8) : ArgM :=
  { hold := false, reg := r, abase := ab, b := false, ty := ty, step := 0, opt := 0, ext := none }

/-- Format X. -/
def fx (sr : Fin 64) (ad : Fin 16) (sa : Fin 64) (o : BitVec 6) : ArgX :=
  { hold := false, sreg := sr, adesc := ad, sarg := sa, b := false, opt := o }

/-- Format MX. -/
def fmx (acc : Fin 16) (sr : Fin 64) (aa ab : Fin 16) (o : BitVec 4) (e : Option Word32) : ArgMX :=
  { hold := false, acc := acc, sreg := sr, aa := aa, ab := ab, b := false, opt := o, ext := e }

/-- Format A in the V slot. -/
def fv (d s1 s2 : Fin 64) (m : Fin 8) (e : Option Word32) : ArgV :=
  { hold := false, dst := d, src1 := s1, src2 := s2, b1 := false, b2 := false, mod := m, ext := e }

/-- The package after reset, with context 0 of core 0 changed. -/
def on (f : Context → Context) : State := State.reset.updMe f

/-- Context 0 with two scalar registers set. -/
def withS (a b : Word64) : State := on (fun c => { c with s := [(1, a), (2, b)] })

/-- Context 0 with one address register set, and bytes in memory. -/
def withA (a : Word64) (m : List Host.Cell) : State := { on (fun c => { c with a := [(1, a)] }) with mem := m }

/-- A computation gives the value `a`. -/
def gives {ε α : Type} [DecidableEq α] (e : Except ε α) (a : α) : Bool :=
  match e with
  | .ok x => x == a
  | .error _ => false

theorem ok_of_gives {ε α : Type} [DecidableEq α] {e : Except ε α} {a : α} (h : gives e a = true) : e = .ok a := by
  unfold gives at h
  split at h <;> simp_all

/-- A segment of 2 MiB at HBM address 0, virtual address 0, with every attribute but CONF and DZ. -/
def seg0 : Seg :=
  { tier := false, vbase := 0, len := 2 ^ 21, pbase := 0, busy := 0, st := .bound, r := true, w := true, a := true, x := true,
    inv := true, conf := false, dz := false, mig := true, trk := false, planes := 0 }

/-- Code at the segment's start, where context 0 stands with its width. -/
def code (ws : List Word32) (f : Context → Context) : State :=
  let s := { State.reset with segs := [(0, seg0)] }
  let s := wrBytes s 0 (ws.flatMap (fun w => leBytes 4 w.toNat))
  (s.updMe (fun c => f { c with pc := n64 (0x7FF * 2 ^ 53), st := .running })).updCore 0 (fun k => { k with holder := some 0 })

/-- A kernel descriptor of one block. -/
def kd0 : KDesc :=
  { codebase := 0, entry := 0, tvofs := 0, parambase := 0, plen := 0, mode := 0, cpc := 1, tpc := 1, prio := 0, part := 0,
    slotid := 0, spb := 0, quota := 0, step := false, relaunchable := false, traced := false, tracebase := 0, tracesize := 0,
    plane := 0, ltbase := 0, levels := [{ kind := 0, trip := 1 }], mctab := 0, zeros := true }

/-- A packet of a type, with nothing to wait for. -/
def pkt0 (t : Nat) : Packet :=
  { type := t, flags := 0, nwait := 0, kdesc := 0, param := 0, cctr := 0, caddv := 0, wctr0 := 0, wval0 := 0, wctr1 := 0,
    wval1 := 0, zeros := true }

/-- A launch of one block, number 7, on queue 0. -/
def launch7 : Launch :=
  { id := 7, queue := 0, index := 0, job := 0, part := 0, prio := 0, kd := kd0, pkt := pkt0 1, paramAddr := 0, nblk := 1,
    todo := none, next := [], extra := [], loaded := 1, retired := 0, left := [], entry := none, parent := none, mc := [],
    halt := none, lost := false, relaunch := false }

/-- Its halt line, raised with cause 0x86 by context 0. -/
def halt7 (ws : List UnitId) : Halt :=
  { unit := { kind := 0, inst := 0 }, cause := 0x86, detail := 0, daddr := 0, waiting := ws, done := [], nstop := 0,
    fstop := 0, posted := false, killed := false }

/-- Context 0 as a block of launch 7, changed, and the launch changed. -/
def withL (f : Context → Context) (g : Launch → Launch) : State :=
  { on (fun c => f { c with launch := some 7, st := .running }) with launches := [g launch7] }

theorem none_of {α : Type} {o : Option α} (h : o.isNone = true) : o = none := by
  cases o with
  | none => rfl
  | some a => cases h

/-- A copy descriptor of one byte. -/
def boxBytes (src dst bar : Nat) : List Byte :=
  leBytes 8 src ++ leBytes 8 dst ++ leBytes 8 bar ++ zeroBytes 16 ++ [1, 0, 0, 0] ++ zeroBytes 4
    ++ (List.range 6).flatMap (fun _ => leBytes 4 1) ++ zeroBytes 120

/-- A ring descriptor of one tile, a tensor in the segment of `seg0`. -/
def ringBytes : List Byte :=
  boxBytes (0x7FF * 2 ^ 53) 0 0 ++ leBytes 8 0 ++ leBytes 8 0x1000 ++ leBytes 4 64 ++ [1, 0, 0, 0]
    ++ (List.range 6).flatMap (fun _ => leBytes 4 1) ++ zeroBytes 16

/-- A BARRIER record of one instance (R390). -/
def collBytes4 : List Byte :=
  [4, 0, 0, 1] ++ zeroBytes 60 ++ (List.range 4).flatMap (fun _ => leBytes 4 1 ++ zeroBytes 12)

/-- Context 0 in launch 7, which has partition 0 with core 0; its a1 and s1 given, `d` at the scratchpad offset a1; `seg0` mapped,
chip 5 with a live route and chip 6 with a dead one. -/
def xSt (a1 s1 : Nat) (d : List Byte) : State :=
  let s := { withL (fun c => { c with a := [(1, n64 a1)], s := [(1, n64 s1)] }) id with
    segs := [(0, seg0)], routes := [(5, 1#64 <<< 62), (6, 2#64 <<< 62)],
    parts := [(0, some { cores := [0], slotid := 0, watchdog := 1, slip := 0, ready := true })] }
  wrBytes s (2 ^ 39 + a1 % 2 ^ 20) d

/-- A context of launch 7 that has left slot 1 of core 0. -/
def saved7 (st : CtxState) (done : Bool) : Saved :=
  { id := 2 ^ 20, core := 0, slot := 1, ctx := { Context.empty with launch := some 7, st := st }, tiles := [], ops := [], spilled := done,
    prevSt := .ready, fresh := false }

/-- Partition 0 with core 0, in the package's first slot. -/
def part0 : Partition := { cores := [0], slotid := 0, watchdog := 1, slip := 0, ready := true }

/-- A kernel descriptor in memory, of one block with priority `p`. -/
def kdBytes (p : Nat) : List Byte :=
  leBytes 8 (0x7FF * 2 ^ 53) ++ zeroBytes 19 ++ [1, 1] ++ leBytes 1 p ++ zeroBytes 34
    ++ (List.range 6).flatMap (fun _ => leBytes 4 1 ++ zeroBytes 4) ++ zeroBytes 144

/-- Queue 0 with a packet at its head, partition 0 with core 0, and a descriptor at 1 MiB of `seg0`. -/
def qSt (p : Packet) (prio : Nat) (f : State → State) : State :=
  let s := { State.reset with
    segs := [(0, seg0)], parts := [(0, some part0)], slotMasks := [(0, BitVec.allOnes 64)], num := 8, preDelay := 1,
    queues := [(0, { Queue.cold with st := .ready, ctl := 4, tail := 1, pkt := some p, readyAt := 1 })] }
  f (wrBytes s 0x100000 (kdBytes prio))

/-- A packet that names that descriptor. -/
def pktK (t fl : Nat) : Packet := { pkt0 t with kdesc := n64 (0x7FF * 2 ^ 53 + 0x100000), flags := fl }

/-- The candidate that it makes. -/
def cand0 (p : Packet) : Cand :=
  { pkt := p, job := 0, part := 0, prio := 0, queue := 0, index := 0, entry := none, parent := none, since := 0 }

/-- A copy of the context's own. -/
def job3 : CopyJob :=
  { num := 0, kind := .copy, ctx := 0, launch := 7, job := 0, part := 0, bundle := 0,
    box := { src := 0, dst := 64, bar := 0, ctr := 0, cval := 0, ndim := 1, esz := 0, bound := false, fill := 0, ext := [1], orig := [],
             tdim := [], sstr := [1], dstr := [1] },
    inv := false, first := 0, cycles := [], promise := 1, data := [], vc := 0, conf := false, noexp := false, group := 0, members := [],
    segs := [], bound := true, slotted := false, start := 0, began := false, done := [], snap := none, handed := false, dead := false,
    lost := false, foot := { rd := [], wr := [] } }

/-- A subscription of launch 7 to one tile. -/
def sub7 (c : Nat) : Sub :=
  { serial := 0, ring := ringOf ringBytes, core := 0, ctx := 0, launch := 7, job := 0, part := 0, inv := false, bundle := 0, num := 0,
    segs := [], bound := true, cursor := c, next := 0, prog := none, tnums := [], closing := false, ctr := 0, blk := 0 }

/-- A matrix operation of tile 0, owned. -/
def mat (opc wave : Nat) (b : Bool) : MEntry :=
  { blankEntry State.reset State.reset opc 0 with owned := true, launch := 7, waves := 8, wave := wave, begun := b }

/-! ### Hypotheses that are met, statement by statement, with a state for each clause -/

theorem witness_IntegerOps :
    (Quiet (withS 1 0) ∧ Ready (withS 1 0) [srcS 1 false, srcS 2 false] ∧ (intTy 0).read ((withS 1 0).me.rS 2).toNat = 0)
    ∧ (Quiet (withS 1 1) ∧ Ready (withS 1 1) [srcS 1 false, srcS 2 false] ∧ (intTy 0).read ((withS 1 1).me.rS 2).toNat ≠ 0) := by
  unfold Quiet Ready; decide

theorem witness_ImmediateOps : Quiet (withS 1 0) ∧ Ready (withS 1 0) [srcS 1 true] := by
  unfold Quiet Ready; decide

theorem witness_FieldsAndMoves :
    Quiet (withS 5 63) ∧ Ready (withS 5 63) [srcS 1 true, srcS 2 false] ∧ Ready (withS 5 63) [srcS 3 false]
      ∧ Ready (withS 5 63) [srcP 7] := by
  unfold Quiet Ready; decide

theorem witness_PredicateLogic :
    let s := on (fun c => { c with pend := [{ file := .p, reg := 7, val := 1 }] })
    Quiet s ∧ Ready s [srcP 0, srcP 6] ∧ srcFull s s.cur (srcP 7) = false ∧ srcFull s s.cur (srcP 6) = true := by
  unfold Quiet Ready; decide

theorem witness_ScalarFloatOps :
    Quiet (withS 1 0) ∧ Ready (withS 1 0) [srcS 1 false, srcS 2 true] ∧ Ready (withS 1 0) [srcS 63 false] := by
  unfold Quiet Ready; decide

/-- A scalar access that ends at the scratchpad's last byte, a strided and a gathered one. -/
theorem witness_Loads :
    (let s := withA 0xFFFF8 [(2 ^ 39 + 0xFFFF8, 5)]
     (Quiet s ∧ Ready s [srcA 1 false]) ∧ reach s s.cur (eaOf s.me (fm 3 1 0)) (bytesOf (fm 3 1 0)) = .ok (2 ^ 39 + 0xFFFF8))
    ∧ (let s := withA 0xFFF00 []
       (Quiet s ∧ Ready s [srcA 1 false]) ∧ reach s s.cur (eaOf s.me (fm 3 1 0)) 256 = .ok (2 ^ 39 + 0xFFF00))
    ∧ (let s := withA 0xFFFF8 []
       (Quiet s ∧ Ready s [srcA 1 false] ∧ Ready s [srcA 2 false])
       ∧ ∀ i ∈ strideIdx (fm 3 1 0), reach s s.cur (strideEa (fm 3 1 0) s.me i) (bytesOf (fm 3 1 0)) = .ok (2 ^ 39 + 0xFFFF8)) := by
  refine ⟨⟨by unfold Quiet Ready; decide, ok_of_gives (by decide)⟩, ⟨by unfold Quiet Ready; decide, ok_of_gives (by decide)⟩, by unfold Quiet Ready; decide, ?_⟩
  intro i hi
  have h : strideEa (fm 3 1 0) (withA 0xFFFF8 []).me i = 0xFFFF8 := by
    show 0xFFFF8 + n64 i * 0 = 0xFFFF8
    simp
  rw [h]; exact ok_of_gives (by decide)

/-- A gather with one lane on. -/
def gat : ArgG := { hold := false, vreg := 1, abase := 1, vidx := 2, b := false, ty := 2, vm := 1, ext := none }

/-- Its state. -/
def gatSt : State := on (fun c => { c with vm := [(1, 1)], a := [(1, 0xFFFFC)] })

theorem witness_Loads_gather :
    let s := gatSt
    (Quiet s ∧ Ready s [srcA 1 false, srcV 1 false, srcV 2 false, srcVM 1 false])
    ∧ ∀ i ∈ gathIdx gat s.me, reach s s.cur (gathEa gat s.me i) (gathW gat.ty / 8) = .ok (2 ^ 39 + 0xFFFFC) := by
  refine ⟨by unfold Quiet Ready; decide, fun i hi => ?_⟩
  have h : ∀ i ∈ gathIdx gat gatSt.me, gives (reach gatSt gatSt.cur (gathEa gat gatSt.me i) (gathW gat.ty / 8)) (2 ^ 39 + 0xFFFFC) = true := by decide +kernel
  exact ok_of_gives (h i hi)

theorem witness_Loads_reach : (0 : Nat) < residents ∧ (0xFFFFF : Word64).toNat < 2 ^ 20 ∧ (0xFFFFF : Word64).toNat + 1 ≤ 2 ^ 20
    ∧ 2 ^ 20 < (0xFFFFF : Word64).toNat + 2 := by decide

theorem witness_PlainStores :
    let s := withA 0xFFFF8 []
    (Quiet s ∧ Ready s [srcA 1 false, srcA 2 false, srcV 3 false] ∧ Ready s [srcS 3 false])
    ∧ reach s s.cur (eaOf s.me (fm 3 1 0)) (bytesOf (fm 3 1 0)) = .ok (2 ^ 39 + 0xFFFF8) := by
  exact ⟨by unfold Quiet Ready; decide, ok_of_gives (by decide)⟩

/-- An aligned and a misaligned atomic; a free lock, one held by the context, and one held by another. -/
theorem witness_Atomics :
    (let s := withA 0xFFFF8 []
     (Quiet s ∧ Ready s [srcA 1 false, srcS 3 false] ∧ Ready s [srcS 4 false] ∧ (eaOf s.me (fm 3 1 0)).toNat % bytesOf (fm 3 1 0) = 0
       ∧ lockSlotOf s.me (0, 0) = none ∧ lockBusy s s.cur (0, 0) = false ∧ s.me.locks.length < 2)
     ∧ reach s s.cur (eaOf s.me (fm 3 1 0)) (bytesOf (fm 3 1 0)) = .ok (2 ^ 39 + 0xFFFF8))
    ∧ (let s := withA 0xFFFF9 []
       Quiet s ∧ (eaOf s.me (fm 3 1 0)).toNat % bytesOf (fm 3 1 0) ≠ 0)
    ∧ (let s := on (fun c => { c with locks := [{ core := 0, idx := 0, count := 1 }, { core := 0, idx := 1, count := 2 }] })
       Quiet s ∧ lockKey (2 ^ 39) = (0, 0) ∧ lockKey (2 ^ 39 + 8) = (0, 1)
       ∧ (lockSlotOf s.me (0, 0)).map (·.count) = some 1 ∧ (lockSlotOf s.me (0, 1)).map (·.count) = some 2)
    ∧ (let s := State.reset.setLock (0, 0) (.held 5)
       Quiet s ∧ lockSlotOf s.me (0, 0) = none ∧ lockBusy s s.cur (0, 0) = true) := by
  exact ⟨⟨by unfold Quiet Ready; decide, ok_of_gives (by decide)⟩, by unfold Quiet; decide, by unfold Quiet; decide, by unfold Quiet; decide⟩

theorem witness_AddressOps :
    let s := on (fun c => { c with constBuf := List.replicate 8 1 })
    Quiet s ∧ Ready s [srcA 1 false, srcS 2 false] ∧ (eaOf s.me (fm 3 1 0)).toNat + bytesOf (fm 3 1 0) ≤ s.me.constBuf.length
      ∧ State.reset.me.constBuf.length < (eaOf State.reset.me (fm 3 1 0)).toNat + bytesOf (fm 3 1 0) := by
  unfold Quiet Ready; decide

/-- An update that completes, one that saturates, and the greatest sum. -/
theorem witness_BarrierUpdate :
    let s := State.reset
    barPend s (2 ^ 39) + 0 ≤ 2 ^ 47 - 1 ∧ barPend s (2 ^ 39) + (2 ^ 47 - 1) ≤ 2 ^ 47 - 1
      ∧ barPend s (2 ^ 39) + (-(2 ^ 47) - 1) < -(2 ^ 47 : Int) ∧ (barRem s (2 ^ 39) + 65536 - 0) % 65536 = 0
      ∧ barOvf s (2 ^ 39) = false ∧ (barRem s (2 ^ 39) + 65536 - 1) % 65536 ≠ 0 := by
  decide

/-- A barrier at the scratchpad's first word: PEND 0, INIT 1, REM 1. -/
def barMem : List Host.Cell := [(2 ^ 39 + 12, 1), (2 ^ 39 + 14, 1)]

theorem witness_BarrierOps :
    (let s := withA 0 []
     (Quiet s ∧ Ready s [srcA 1 false] ∧ Ready s [srcS 3 false] ∧ (eaOf s.me (fm 3 1 0)).toNat % 16 = 0
       ∧ (s.me.rS 3).toNat ≤ 65535 ∧ 0 ≤ (s.me.rS 3).toInt ∧ barOver s (2 ^ 39) (s.me.rS 3).toInt = false ∧ barRem s (2 ^ 39) = 0)
     ∧ reach s s.cur (eaOf s.me (fm 3 1 0)) 16 = .ok (2 ^ 39))
    ∧ (let s := { on (fun c => { c with s := [(3, BitVec.allOnes 64)] }) with mem := barMem }
       Quiet s ∧ (s.me.rS 3).toInt < 0 ∧ barRem s (2 ^ 39) ≠ 0 ∧ barInit s (2 ^ 39) ≠ 0)
    ∧ (-(2 ^ 47 : Int) ≤ -(2 ^ 47) ∧ (2 ^ 47 - 1 : Int) < 2 ^ 47) := by
  exact ⟨⟨by unfold Quiet Ready; decide, ok_of_gives (by decide)⟩, by unfold Quiet; decide, by decide⟩

/-- A phase that has passed and one that has not, with a promise to come and one at hand; an overflowed barrier. -/
theorem witness_BarrierWaits :
    (let s := on (fun c => { c with s := [(2, 1)] })
     (Quiet s ∧ Ready s [srcA 1 false, srcS 2 false] ∧ Ready s [srcS 3 false] ∧ (eaOf s.me (fm 2 1 0)).toNat % 16 = 0
       ∧ barOvf s (2 ^ 39) = false ∧ barPhase s (2 ^ 39) ≠ (s.me.rS 2).getLsbD 0)
     ∧ reach s s.cur (eaOf s.me (fm 2 1 0)) 16 = .ok (2 ^ 39))
    ∧ (let s := on (fun c => { c with s := [(3, 1)] })
       Quiet s ∧ barOvf s (2 ^ 39) = false ∧ ¬(barPhase s (2 ^ 39) ≠ (s.me.rS 2).getLsbD 0 ∨ claimWoken s.me (2 ^ 39) = true)
       ∧ s.cyc.toNat < (promiseOf (fm 2 1 0) s).toNat ∧ (promiseOf (fm 2 1 0) State.reset).toNat ≤ s.cyc.toNat)
    ∧ barOvf { State.reset with mem := [(2 ^ 39 + 7, 0x40)] } (2 ^ 39) = true := by
  exact ⟨⟨by unfold Quiet Ready; decide, ok_of_gives (by decide)⟩, by unfold Quiet; decide, by decide⟩

/-- A counter that takes the addend, one that overflows, a negative addend, and a target reached and not reached. -/
theorem witness_Counters :
    (let s := { on (fun c => { c with s := [(2, 1)] }) with mem := (List.range 8).map (fun i => (2 ^ 39 + i, 255)) }
     (Quiet s ∧ Ready s [srcA 1 false, srcS 2 false] ∧ Ready s [srcS 3 false] ∧ (eaOf s.me (fm 2 1 0)).toNat % 8 = 0
       ∧ 0 ≤ (s.me.rS 2).toInt ∧ 2 ^ 64 ≤ rd s (2 ^ 39) 8 + (s.me.rS 2).toNat ∧ (s.me.rS 2).toNat ≤ rd s (2 ^ 39) 8
       ∧ rd s (2 ^ 39) 8 + (s.me.rS 3).toNat < 2 ^ 64)
     ∧ reach s s.cur (eaOf s.me (fm 2 1 0)) 8 = .ok (2 ^ 39))
    ∧ (let s := on (fun c => { c with s := [(2, BitVec.allOnes 64)] })
       Quiet s ∧ (s.me.rS 2).toInt < 0 ∧ rd s (2 ^ 39) 8 < (s.me.rS 2).toNat) := by
  exact ⟨⟨by unfold Quiet Ready; decide, ok_of_gives (by decide)⟩, by unfold Quiet; decide⟩

theorem witness_Transfers :
    let s := State.reset
    Quiet s ∧ Ready s [srcP 0] ∧ Ready s [srcS 1 true] ∧ Ready s [srcS 63 false] ∧ (s.me.rP 0 ^^ false) = true
      ∧ (s.me.rP 1 ^^ false) = false := by
  unfold Quiet Ready; decide

/-- A loop of six levels over a body of one bundle, whose table lies at the scratchpad's end; one with a zero trip count. -/
def lp : ArgLP := { levels := 5, body := 0, abase := 1, b := false }

/-- Its state: `LOOPN`'s own bundle of two words, then a body bundle with LBE and a no-op. -/
def lpSt : State :=
  let s := code [0xB0000000, 0, 0xB2010000, 0x3F800000]
    (fun c => { c with a := [(1, 0xFFE80)], lc := (List.range 6).map (fun i => (i, 1)) })
  { s with latch := { s.latch with next := n64 (0x7FF * 2 ^ 53 + 8) } }

theorem witness_LoopEntry :
    (let s := lpSt
     let a := (s.me.rA lp.abase).toNat
     Quiet s ∧ Ready s [srcA lp.abase lp.b] ∧ lp.levels.val ≤ 5 ∧ s.latch.repn ≤ s.me.rep ∧ a % 8 = 0 ∧ a + 64 * (lp.levels.val + 1) ≤ 2 ^ 20
       ∧ firstBad s (s.cur / 4) a (List.range (lp.levels.val + 1)) = none ∧ (loopNest lp s).trip.contains 0 = false)
    ∧ (let s := lpSt.updMe (fun c => { c with lc := [] })
       (Quiet s ∧ (loopNest lp s).trip.contains 0 = true)
       ∧ exitPoint s (s.jobOf s.cur) (loopNest lp s) = .ok (n64 (0x7FF * 2 ^ 53 + 16)))
    ∧ (withA 4 []).me.rA 1 = 4 ∧ ((withA 4 []).me.rA 1).toNat % 8 ≠ 0 := by
  refine ⟨by unfold Quiet Ready; decide +kernel, ⟨by unfold Quiet; decide +kernel, ok_of_gives (by decide +kernel)⟩, by decide⟩

/-- A nest of one level whose body is the bundle at hand, in the loop buffer. -/
def inNest1 (trip : Word32) : State :=
  let s := on (fun c => { c with nest := { Nest.none with active := true, trip := [trip], buf := [(0, [0xB2010000, 0x3F800000])] } })
  { s with latch := { s.latch with lbe := true, words := [0xB2010000, 0x3F800000] } }

theorem witness_LoopBody :
    (let s := inNest1 2
     s.cur < residents ∧ s.me.nest.active = true ∧ (s.me.tlevel = 0 → bitOf s.me.stepctl.toNat 0 = false) ∧ s.me.after = .none
       ∧ s.me.st ≠ .sleeping ∧ s.latch.repn ≤ s.me.rep ∧ s.me.nest.pos = s.me.nest.body ∧ s.latch.lbe = true
       ∧ s.me.nest.levels ≤ 5 ∧ ((s.me.rLC 0) + 1).toNat < (s.me.nest.trip.getD 0 0).toNat)
    ∧ (levelStep 6 0 (inNest1 1).me).2 = false := by
  decide +kernel

theorem witness_LoopExit :
    (Quiet State.reset ∧ State.reset.latch.repn ≤ State.reset.me.rep)
    ∧ (let s := inNest1 2
       exitPoint s (s.jobOf s.cur) ((s.me.begin.fillBuffer s.latch.words).tickFmt).nest = .ok 8) := by
  exact ⟨by unfold Quiet; decide, ok_of_gives (by decide +kernel)⟩

theorem witness_ControlRegisters :
    let s := withS 8 (BitVec.allOnes 64)
    let v := (s.me.fmtNow &&& ~~~ s.me.rS 2) ||| (s.me.rS 1 &&& s.me.rS 2)
    Quiet s ∧ Ready s [srcS 1 false, srcS 2 false] ∧ fmtOk v = true
      ∧ fmtOk ((s.me.fmtNow &&& ~~~ s.me.rS 2) ||| (s.me.rS 2 &&& s.me.rS 2)) = false
      ∧ csrValue s s.cur 0 = some 0 ∧ csrValue s s.cur 0x030 = some 0 ∧ csrValue s s.cur 0x031 = none ∧ csrValue s s.cur 0x3FF = none := by
  unfold Quiet Ready; decide

/-- A context at each trap level, with the mask on and off, and with a writeback pending. -/
theorem witness_TrapEntry :
    let s := on (fun c => { c with pend := [{ file := .s, reg := 1, val := 1 }] })
    let at1 := fun m => (on (fun c => { c with tlevel := 1, mask := m })).me
    0 < residents ∧ (s.ctx 0).pend ≠ [] ∧ (State.reset.ctx 3071).pend = [] ∧ (State.reset.ctx 3071).tlevel = 0 ∧ 3071 < residents
      ∧ (at1 false).tlevel = 1 ∧ (at1 false).mask = false ∧ (at1 true).mask = true ∧ (on (fun c => { c with tlevel := 2 })).me.tlevel = 2 := by
  decide

/-- Level 0; BKOFF; a launch to halt; level 1 with its copy; level 2 with a `SNAPST`'s copy kept; a copy given up. -/
theorem witness_SoftwareTraps :
    let at' := fun (l : Nat) (v k : Bool) => on (fun c => { c with tlevel := l, snapv := v, l2snap := k })
    (Quiet (at' 0 false false) ∧ (at' 0 false false).me.pend = [] ∧ bitOf (at' 0 false false).me.stepctl.toNat 2 = false)
    ∧ (Quiet (on (fun c => { c with stepctl := 4 })) ∧ bitOf (on (fun c => { c with stepctl := 4 })).me.stepctl.toNat 2 = true)
    ∧ (Quiet (at' 1 true false) ∧ bitOf (at' 1 true false).me.epcNow.toNat 54 = false)
    ∧ (Quiet (at' 2 true true) ∧ (at' 2 true true).me.tlevel = 2 ∧ (at' 2 true true).me.snapv = true ∧ (at' 2 true true).me.l2snap = true)
    ∧ (Quiet (at' 1 false false) ∧ (at' 1 false false).me.tlevel ≠ 0 ∧ (at' 1 false false).me.snapv = false) := by
  unfold Quiet; decide

/-- The same, returning to the last position of a nest. -/
theorem witness_SoftwareTraps_nest :
    let s := on (fun c => { c with
      tlevel := 1, snapv := true, epc1 := n64 (31 * 2 ^ 55 + 2 ^ 54), snap := { Snap.zero with nest := { Nest.none with active := true, body := 31 } } })
    Quiet s ∧ bitOf s.me.epcNow.toNat 54 = true ∧ s.me.snap.nest.active = true ∧ bits s.me.epcNow.toNat 59 55 ≤ s.me.snap.nest.body := by
  unfold Quiet; decide

/-- An `ABORT` in a launch whose halt line is not raised. -/
theorem witness_SoftwareTraps_abort :
    let s := withL id id
    (Quiet s ∧ s.me.launch = some 7) ∧ s.launchOf 7 = some launch7 ∧ launch7.halt = none := by
  exact ⟨by unfold Quiet; decide, rfl, rfl⟩

/-- Alone on the core, and beside a READY context; a time that has passed and one to come; a register of each kind, and none. -/
theorem witness_Idling :
    let s := withS 1 0
    let r := s.setCtx 1 { Context.empty with st := .ready }
    (Quiet s ∧ otherReady s s.cur = false ∧ Ready s [srcS 1 false] ∧ (s.me.rS 2).toNat ≤ s.cyc.toNat ∧ s.cyc.toNat < (s.me.rS 1).toNat)
    ∧ (Quiet r ∧ otherReady r r.cur = true)
    ∧ (Ready s [{ file := 0, reg := 63, trap := false }] ∧ 63 < fileSize 0 ∧ Ready s [{ file := 1, reg := 16, trap := true }]
      ∧ fileSize 1 ≤ 16 ∧ Ready s [{ file := 5, reg := 15, trap := false }] ∧ 15 < fileSize 5) := by
  unfold Quiet Ready; decide

/-- Nothing outstanding, with and without losses; a copy outstanding. -/
theorem witness_Fences :
    let s := State.reset
    let l := on (fun c => { c with loss := 1 })
    let w := { State.reset.updCore 0 (fun k => { k with jobs := [job3] }) with num := 1 }
    (Quiet s ∧ fenceDone (beginIssue s) s.cur 3 s.num = true ∧ s.me.loss = 0)
    ∧ (Quiet l ∧ fenceDone (beginIssue l) l.cur 0 l.num = true ∧ 0 < l.me.loss ∧ l.me.tlevel = 0 ∧ l.me.pend = [])
    ∧ (Quiet w ∧ fenceDone (beginIssue w) w.cur 0 w.num = false) := by
  unfold Quiet; decide

/-- Level 1 with a copy and room at the scratchpad's end; without one and an image there; misaligned; the mask on and off. -/
theorem witness_Snapshots :
    let at1 := fun (v m : Bool) (a : Word64) => on (fun c => { c with tlevel := 1, snapv := v, mask := m, s := [(1, a)] })
    let s := at1 true true 0xFFE00
    let t := wrBytes (at1 false true 0xFFE00) (2 ^ 39 + 0xFFE00) Snap.zero.bytes
    (Quiet s ∧ Ready s [srcS 1 false] ∧ s.me.tlevel = 1 ∧ (s.me.rS 1).toNat % 64 = 0 ∧ (s.me.rS 1).toNat + 512 ≤ 2 ^ 20
      ∧ s.me.snapv = true ∧ s.me.pend = [] ∧ s.me.mask = true)
    ∧ (Quiet t ∧ t.me.snapv = false ∧ areaEcc t t.cur (t.me.rS 1) = false
      ∧ imageOk t.cur (imageWords (rdBytes t (2 ^ 39 + t.cur / 4 * 2 ^ 20 + (t.me.rS 1).toNat) 512)) = true)
    ∧ imageOk s.cur (imageWords (rdBytes s (2 ^ 39 + s.cur / 4 * 2 ^ 20 + (s.me.rS 1).toNat) 512)) = false
    ∧ (Quiet (at1 true false 32) ∧ ((at1 true false 32).me.rS 1).toNat % 64 ≠ 0 ∧ (at1 true false 32).me.mask = false)
    ∧ State.reset.me.tlevel ≠ 1
    ∧ (let b := fun x => (on (fun c => { c with st := .blocked, after := x })).setCtx 3071 { Context.empty with st := .blocked, after := x }
       ∀ n ∈ [0, 3071], ∀ x ∈ [After.snapst 0xFFE00, .snapld], n < residents ∧ ((b x).ctx n).st = .blocked ∧ relocking (b x) (n / 4) = false
         ∧ ((b x).ctx n).owed = none ∧ ((b x).ctx n).after = x ∧ (0xFFE00 : Word64).toNat < 2 ^ 20) := by
  unfold Quiet Ready; decide +kernel

/-- Job 0 with the segment of `seg0` changed, an address of it in s1, and bytes of memory. -/
def segSt (f : Seg → Seg) (a : Nat) (m : List Host.Cell) (pool : List Nat) : State :=
  { on (fun c => { c with s := [(1, n64 (0x7FF * 2 ^ 53 + a)), (2, 2)] }) with segs := [(0, f seg0)], mem := m, dzPool := pool }

/-- Probes that pass, wait and trap at the segment's last bytes; a present page, an absent one with and without a page in the
pool, and no demand-zero page. -/
theorem witness_PageOps :
    let s := segSt id (2 ^ 21 - 2) [] []
    let z := segSt (fun e => { e with st := .zeroing }) 0 [] []
    let u := segSt id (2 ^ 21 - 1) [] []
    let found := fun (s : State) need wr opc => probe s s.cur need wr opc (s.me.rS 1) (s.me.rS 2).toNat
    let dz := fun e : Seg => { e with dz := true, mig := false }
    let p := segSt dz 0 [(0, 1)] []
    let q := segSt dz (2 ^ 21 - 1) [] [2 ^ 21]
    (Quiet s ∧ Ready s [srcS 1 false] ∧ Ready s [srcS 2 false] ∧ s.me.pend = [] ∧ found s (rprobeNeed 0) false 0x12 = .pass
      ∧ found s (wprobeNeed 2) true 0x13 = .pass)
    ∧ (Quiet z ∧ found z (rprobeNeed 0) false 0x12 = .wait ∧ found z (wprobeNeed 0) true 0x13 = .wait)
    ∧ (Quiet u ∧ found u (rprobeNeed 0) false 0x12 = .trap 0x40 (n64 (0x7FF * 2 ^ 53 + 2 ^ 21)) (missInfo 1 0xFFF 0x12)
      ∧ found u (wprobeNeed 0) true 0x13 = .trap 0x40 (n64 (0x7FF * 2 ^ 53 + 2 ^ 21)) (missInfo 1 0xFFF 0x13))
    ∧ (on (fun c => { c with pend := [{ file := .s, reg := 5, val := 0 }] })).me.pend ≠ []
    ∧ (Quiet p ∧ pgTarget p p.cur (p.me.rS 1) = .page 0 0 true ∧ p.me.grant = .none)
    ∧ (Quiet q ∧ pgTarget q q.cur (q.me.rS 1) = .page 0 0 false ∧ q.me.grant = .none ∧ hostPage (fa 3 1 2 0) q = false
      ∧ filling q (q.jobOf q.cur) 0 0 = false ∧ q.dzPool = 2 ^ 21 :: [])
    ∧ ((segSt dz 0 [] []).dzPool = [] ∧ pgTarget (segSt dz 0 [] []) 0 (p.me.rS 1) = .page 0 0 false)
    ∧ pgTarget s s.cur (s.me.rS 1) = .bad 0x40 := by
  unfold Quiet Ready; decide +kernel

/-- A launch packet of type 1 at the scratchpad's end, with an entry left and with none; a RELAUNCH packet; handles of a settled
child, of one that runs, of none, and two that are malformed. -/
theorem witness_ChildLaunches :
    let s := { withL (fun c => { c with a := [(1, 0xFFF00)], s := [(1, 0xFFF00), (2, 0x10003), (3, 0x10004), (4, 0x10005), (5, 0x400), (6, n64 (2 ^ 32))] })
        (fun l => { l with left := [3] }) with
      mem := [(2 ^ 39 + 0xFFF00, 1)],
      pool := [(3, { ser := 1, st := .ended 7 0 }), (4, { ser := 1, st := .running 7 8 })] }
    let p := fun m => packetOf (rdBytes { s with mem := m } (2 ^ 39 + s.cur / 4 * 2 ^ 20 + 0xFFF00) 256)
    (Quiet s ∧ Ready s [srcA 1 false] ∧ Ready s [srcS 1 false] ∧ (s.me.rA 1).toNat % 64 = 0 ∧ (s.me.rA 1).toNat + 256 ≤ 2 ^ 20
      ∧ (p s.mem).type = 1 ∧ (p s.mem).flags = 0 ∧ (p s.mem).nwait ≤ 2 ∧ (p s.mem).zeros = true
      ∧ (p [(2 ^ 39 + 0xFFF00, 2), (2 ^ 39 + 0xFFF04, 2)]).type = 2 ∧ (p [(2 ^ 39 + 0xFFF00, 2), (2 ^ 39 + 0xFFF04, 2)]).nwait = 2
      ∧ s.me.launch = some 7 ∧ (s.launchOf 7).map (·.left) = some [3] ∧ myEntries (withL id id) = [])
    ∧ (joinOf s (s.me.rS 2) = .settled 0 ∧ joinOf s (s.me.rS 3) = .going ∧ joinOf s (s.me.rS 4) = .stale
      ∧ bits (s.me.rS 2).toNat 63 32 = 0 ∧ bits (s.me.rS 2).toNat 15 10 = 0 ∧ bits (s.me.rS 5).toNat 15 10 ≠ 0
      ∧ bits (s.me.rS 6).toNat 63 32 ≠ 0) := by
  unfold Quiet Ready; decide +kernel

/-- Every register full, with a write mask and without, rounding and stochastic rounding. -/
def vecSt : State := on (fun c => { c with vm := [(1, 5)], fmt := 0x10000 })

theorem witness_VectorArithmetic :
    let s := vecSt
    let x := fv 1 2 3 0 (some 0x20000000)
    Quiet s ∧ Ready s (laneSrcs x (twoSrcs x) false) ∧ Ready s (laneSrcs x (twoSrcs x) true)
      ∧ Ready s (laneSrcs x [srcV x.src1 x.b1] false) := by
  unfold Quiet Ready; decide +kernel

/-- The same for the lane ops: operands of each kind, and a lane of each kind. -/
theorem witness_LaneOps :
    let s := vecSt
    let x := fv 1 2 3 0 (some 0x20000000)
    Quiet s ∧ Ready s (laneSrcs x (twoSrcs x) false) ∧ Ready s (laneSrcs x [srcV x.src1 x.b1] false)
      ∧ Ready s (laneSrcs x [srcS x.src1 x.b1] false) ∧ Ready s (laneSrcs x [srcV x.src1 x.b1, srcV x.src2 x.b2] false)
      ∧ Ready s (laneSrcs x [srcV x.src1 x.b1, srcS x.src2 x.b2] false) ∧ Ready s (laneSrcs x [srcS x.src1 x.b1, srcS x.src2 x.b2] false)
      ∧ (vMask x s.me).getLsbD 0 = true ∧ (vMask x s.me).getLsbD 1 = false ∧ vZ x = false ∧ vN x = 64 := by
  unfold Quiet Ready; decide +kernel

/-- The mod values of `VMSET` and `VMOPS` at their bounds, and a lane index at and beyond the last lane. -/
theorem witness_MasksAndLanes :
    let s := withS 63 64
    Quiet s ∧ Ready s [srcS 1 false, srcS 2 false] ∧ (s.me.rS 1).toNat < vN (fv 1 2 1 0 none) ∧ ¬(s.me.rS 2).toNat < vN (fv 1 2 2 0 none)
      ∧ Ready s (twoSrcs (fv 1 2 3 0 none) ++ [srcVM 1 false] ++ [srcVM 7 false])
      ∧ Ready s (laneSrcs (fv 1 2 3 0 none) [srcV 2 false, srcV 3 false] true) ∧ Ready s [srcV 1 false, srcS 1 false, srcS 2 false, srcV 3 false]
      ∧ Ready s [srcVM 1 false, srcVM 7 false] ∧ (fv 1 2 3 2 none).mod = 2 ∧ (fv 1 2 3 3 none).mod.val < 4 ∧ (fv 1 2 3 4 none).mod = 4
      ∧ 5 ≤ (fv 1 2 3 5 none).mod.val := by
  unfold Quiet Ready; decide +kernel

/-- A PART within and beyond the ratio; aligned and misaligned groups at the file's end; each scale mode; a codebook at rest and
being loaded. -/
theorem witness_Conversions :
    let s := fun (m : Nat) => on (fun c => { c with fmt := n64 (m * 2 ^ 22) })
    let c := fv 1 2 0 0 (some 0x00070000)
    let d := fv 1 2 0 0 (some 0x00040000)
    let q := fv 30 28 0 0 none
    let l := State.reset.updCore 0 (fun k => { k with mq := [{ blankEntry State.reset State.reset 3 0 with launch := 0 }] })
    (Quiet (s 0) ∧ Ready (s 0) (laneSrcs c [srcV c.src1 c.b1] (cvtNarrows c || (vPk c && subByte (vTyc c))))
      ∧ max (laneBits (vOty c)) (vW c) / min (laneBits (vOty c)) (vW c) ≤ vPart c
      ∧ vPart d < max (laneBits (vOty d)) (vW d) / min (laneBits (vOty d)) (vW d))
    ∧ (Ready (s 1) ((List.range (groupRegs (vOty q))).map (fun i => srcV (q.src1 + i) q.b1)) ∧ q.src1.val % groupRegs (vOty q) = 0
      ∧ q.src1.val + groupRegs (vOty q) ≤ 32 ∧ q.dst.val % 2 = 0 ∧ q.dst.val + 2 ≤ 32
      ∧ bits (s 1).me.fmtNow.toNat 23 22 = 1 ∧ bits (s 2).me.fmtNow.toNat 23 22 = 2 ∧ bits (s 0).me.fmtNow.toNat 23 22 = 0
      ∧ bits (s 3).me.fmtNow.toNat 23 22 = 3 ∧ (fv 31 30 0 0 none).dst.val % 2 ≠ 0)
    ∧ (Ready (s 0) [srcV q.src1 q.b1, srcV (q.src1 + 1) q.b1] ∧ q.dst.val % groupRegs (vTyc (fv 30 30 0 1 none)) = 0
      ∧ q.dst.val + groupRegs (vTyc (fv 30 30 0 1 none)) ≤ 32 ∧ bitOf (vExt q) 14 = false
      ∧ bitOf (vExt (fv 30 30 0 1 (some 0x4000))) 14 = true ∧ ownMcbld (s 0) = false ∧ ownMcbld l = true) := by
  unfold Quiet Ready; decide +kernel

theorem witness_Reductions :
    let s := State.reset
    let x := fv 62 2 3 0 none
    Quiet s ∧ Ready s ([srcV x.src1 x.b1, srcV x.src2 x.b2, srcVM (vMaskReg x) x.b1] ++ (List.range 2).map (fun i => srcS (x.dst + i) false))
      ∧ Ready s (laneSrcs x [srcV x.src1 x.b1] false) ∧ x.dst.val % 2 = 0 ∧ (fv 63 2 3 0 none).dst.val % 2 = 1 := by
  unfold Quiet Ready; decide

/-- Core 0 with its operation queue full, and operands in two bank groups. -/
def fullMq : State := (on (fun c => { c with a := [(2, 0x40000)] })).updCore 0
  (fun k => { k with mq := List.replicate 16 (blankEntry State.reset State.reset 6 0) })

/-- Operands in two bank groups, plain and scaled; a whole tile's rectangle and one beyond it; a format pair without a product; a
misaligned base; a full queue; a complete and an outstanding token. -/
theorem witness_MatrixIssue :
    let s := on (fun c => { c with a := [(2, 0x40000), (3, 0x50000), (4, 256)] })
    let t := on (fun c => { c with a := [(1, 0x10000), (2, 0x40000), (3, 0x50000)], fmt := 0x400033 })
    let x := fmx 1 5 0 2 0 none
    let r := fmx 1 5 0 4 0 none
    let f := fullMq
    let o := on (fun c => { c with iseq := 1, out := 1 })
    (Quiet s ∧ (s.core (s.cur / 4)).mq.length < 16 ∧ Ready s [srcA 0 false, srcA 2 false] ∧ Ready s [srcA 1 false, srcA 3 false]
      ∧ Ready s [srcAcc 1 false] ∧ (s.me.rA 0).toNat % 64 = 0 ∧ (s.me.rA 0).toNat + 1024 ≤ 2 ^ 20)
    ∧ ((s.core (s.cur / 4)).savedOps = [] ∧ mmaChk x 0 s = none ∧ mmaChk x 1 s = none ∧ mmaChk x 2 t = none ∧ rectChk r true s = none
      ∧ rectChk r false s = none)
    ∧ (pairLen (on (fun c => { c with fmt := 1 })).me.fmtNow = 0 ∧ 63 < (rectOf (fmx 1 5 0 4 0 (some 0x04000000))).1 + 63
      ∧ (rectOf (fmx 1 5 0 4 0 (some 0x07F00000))).2.1 = 63 ∧ (rectOf (fmx 1 5 0 4 0 (some 0x07F00000))).1 = 1
      ∧ ((withA 32 []).me.rA 1).toNat % 64 ≠ 0)
    ∧ (Quiet f ∧ 16 ≤ (f.core (f.cur / 4)).mq.length ∧ Ready f [srcA 0 false, srcA 2 false] ∧ (mmaChk x 0 f).isNone = true)
    ∧ (Quiet o ∧ Ready o [srcS 5 false] ∧ tokenDone o.me ((o.me.rS 5).toNat % 256) = false ∧ tokenDone s.me ((s.me.rS 5).toNat % 256) = true
      ∧ o.me.out ≠ 0 ∧ s.me.out = 0) := by
  refine ⟨by unfold Quiet Ready; decide, ⟨by decide, none_of (by decide +kernel), none_of (by decide +kernel), none_of (by decide +kernel),
    none_of (by decide +kernel), none_of (by decide +kernel)⟩, by decide +kernel, ?_⟩
  unfold Quiet Ready; decide +kernel

/-- Core 0 with its time buffer full. -/
def fullBuf : State := (xSt 0xFFF40 0 (boxBytes 0 64 0x100)).updCore 0 (fun k => { k with jobs := List.replicate 128 job3 })

/-- A copy whose descriptor ends at the scratchpad's end, with room and with the time buffer full; a misaligned descriptor. -/
theorem witness_Copies :
    let s := xSt 0xFFF40 0 (boxBytes 0 64 0x100)
    let x := fx 3 1 1 0
    let f := fullBuf
    (Quiet s ∧ Ready s (descSrcs x [srcS x.sarg x.b]) ∧ (s.core (s.cur / 4)).jobs.length < 128)
    ∧ (oddDesc x = none ∧ copyChk x false s = none ∧ copyChk x true s = none)
    ∧ (Quiet f ∧ ¬(f.core (f.cur / 4)).jobs.length < 128)
    ∧ (copyChk x false f = none ∧ copyChk x true f = none)
    ∧ (((xSt 32 0 []).me.rA 1).toNat % 64 ≠ 0 ∧ Quiet (xSt 32 0 [])) := by
  refine ⟨by unfold Quiet Ready; decide +kernel, ⟨none_of (by decide), none_of (by decide +kernel), none_of (by decide +kernel)⟩,
    by unfold Quiet; decide +kernel, ⟨none_of (by decide +kernel), none_of (by decide +kernel)⟩,
    by unfold Quiet; decide +kernel⟩

/-- An `XREMW` of 64 bytes and an `XCADD`, to this chip, to a live route and to a dead one; a negative addend; an `XRCOPY` to each. -/
theorem witness_RemoteSends :
    let at' := fun (c : Nat) (n : Nat) => xSt (c * 2 ^ 53) n []
    let x := fx 3 1 1 0
    let rc := fun (c : Nat) => xSt 0xFFF40 0 (boxBytes 0 (c * 2 ^ 53) 0x100)
    (Quiet (at' 5 64) ∧ (at' 5 64).me.st = .running ∧ Ready (at' 5 64) [srcA 1 false, srcS 1 false, srcV 3 false]
      ∧ deadDest (at' 5 64) ((at' 5 64).me.rA 1) = false ∧ deadDest (at' 0x7FF 64) ((at' 0x7FF 64).me.rA 1) = false
      ∧ deadDest (at' 6 64) ((at' 6 64).me.rA 1) = true ∧ (at' 6 64).me.launch.isSome = true ∧ remoteOf (at' 6 64) ((at' 6 64).me.rA 1) = some 6
      ∧ ((at' 5 64).core 0).jobs.length < 128)
    ∧ (xremwChk x (at' 5 64) = none ∧ xremwChk x (at' 0x7FF 64) = none ∧ xremwChk x (at' 6 64) = none)
    ∧ (xcaddChk x (at' 5 64) = none ∧ xcaddChk x (at' 0x7FF 64) = none ∧ xcaddChk x (at' 6 64) = none)
    ∧ (((at' 5 (2 ^ 63)).me.rA 1).toNat % 8 = 0 ∧ ((at' 5 (2 ^ 63)).me.rS 1).toInt < 0)
    ∧ (oddDesc (rcX x) = none ∧ xrcopyChk x (rc 0x7FF) = none ∧ xrcopyChk x (rc 5) = none ∧ xrcopyChk x (rc 6) = none)
    ∧ (Ready (rc 5) (descSrcs (rcX x) [srcS x.sarg x.b]) ∧ remoteOf (rc 0x7FF) (boxAt (rcX x) (rc 0x7FF)).dst = none
      ∧ remoteOf (rc 5) (boxAt (rcX x) (rc 5)).dst = some 5 ∧ deadDest (rc 5) (boxAt (rcX x) (rc 5)).dst = false
      ∧ deadDest (rc 6) (boxAt (rcX x) (rc 6)).dst = true) := by
  refine ⟨by unfold Quiet Ready; decide +kernel, ?_, ?_, by decide +kernel, ?_, by unfold Ready; decide +kernel⟩
  · exact ⟨none_of (by decide +kernel), none_of (by decide +kernel), none_of (by decide +kernel)⟩
  · exact ⟨none_of (by decide +kernel), none_of (by decide +kernel), none_of (by decide +kernel)⟩
  · exact ⟨none_of (by decide +kernel), none_of (by decide +kernel), none_of (by decide +kernel), none_of (by decide +kernel)⟩

/-- A multicast to a group of one and to an empty one; a group record; both withdrawals. -/
theorem witness_Multicasts :
    let s := xSt 0xFFF40 0 (boxBytes 0 64 0x100)
    let m := { s with launches := [{ launch7 with mc := [(0, [0])] }] }
    let r := xSt 0 0 [1]
    let x := fx 3 1 1 0
    (Quiet s ∧ Ready s (descSrcs x [srcS x.sarg x.b]) ∧ (s.core 0).jobs.length < 128 ∧ mcMembers s (mcGroup x s.me) = []
      ∧ mcMembers m (mcGroup x m.me) ≠ [] ∧ r.me.launch = some 7 ∧ (fx 3 0 1 1).opt = 1 ∧ (fx 3 0 1 2).opt = 2
      ∧ Sparse.wf Core.cold s.cores = true)
    ∧ (oddDesc x = none ∧ mcastChk x s = none ∧ mcastChk x m = none ∧ mcsetChk x r = none)
    ∧ r.launchOf 7 = some launch7 := by
  refine ⟨by unfold Quiet Ready; decide +kernel, ⟨none_of (by decide), none_of (by decide +kernel), none_of (by decide +kernel),
    none_of (by decide +kernel)⟩, by decide +kernel⟩

/-- A ring to open; a handle before and at the last tile; a stale one. -/
theorem witness_Rings :
    let s := xSt 0xFFF00 0 ringBytes
    let x := fx 3 1 0 0
    let u := fun c => { s with quays := [(0, { Quay.cold with subs := [(0, some (sub7 c))] })] }
    (Quiet s ∧ Ready s (descSrcs x []) ∧ (xsubWait x s).isNone = true ∧ (sub7 0).cursor ≠ (sub7 0).ring.tiles
      ∧ (sub7 1).cursor = (sub7 1).ring.tiles ∧ Ready s [srcA 1 false])
    ∧ (oddDesc x = none ∧ xsubChk x s = none ∧ ctrErr (s.me.rA 0) = none ∧ ctrReach s (s.me.rA 0) = none)
    ∧ (handleSub (u 0) ((u 0).me.rS 0) = some (0, 0, sub7 0) ∧ handleSub (u 1) ((u 1).me.rS 0) = some (0, 0, sub7 1)
      ∧ handleSub s (s.me.rS 0) = none) := by
  refine ⟨by unfold Quiet Ready; decide +kernel, ⟨none_of (by decide), none_of (by decide +kernel), none_of (by decide +kernel),
    none_of (by decide +kernel)⟩, by decide +kernel⟩

/-- A group that engine 0 may join, and one of which it is a member, with a BARRIER record; its queue full; the states of an
`XMIGR`'s answer. -/
theorem witness_GroupRecords :
    let grp := fun (m : List Nat) => { Group.unused with used := true, st := .active, ranks := [0, 0xFFFF], memb := m }
    let s := { xSt 0xFFF80 0 collBytes4 with groups := [(0, grp [])] }
    let m := { xSt 0xFFF80 0 collBytes4 with groups := [(0, grp [0])] }
    let full := m.updEngine 0 (fun k => { k with count := [(0, 2)] })
    let x := fx 3 1 1 0
    let ans := fun (g : Grant) => (on (fun c => { c with mgrant := g })).me.mgrant
    (Quiet s ∧ Ready s [srcA 1 false, srcA 2 false, srcS 3 false, srcS 1 false] ∧ groupFull x s = false ∧ groupFull x m = false
      ∧ collHeld x m = false ∧  collHeld x full = true ∧ (fx 3 1 1 1).opt.getLsbD 0 = true
      ∧ collHeld (fx 3 1 1 1) full = true ∧ ans .none = .none ∧ ans (.done 0) = .done 0 ∧ ans (.done 0x44) = .done 0x44)
    ∧ ((xgjoinOp x).chk s = none ∧ (xgagreeOp x).chk m = none ∧ (xgleaveOp x).chk m = none ∧ xcollChk x m = none
      ∧ xcollChk x full = none ∧ xcollChk (fx 3 1 1 1) full = none) := by
  refine ⟨by unfold Quiet Ready; decide +kernel, ?_⟩
  exact ⟨none_of (by decide +kernel), none_of (by decide +kernel), none_of (by decide +kernel), none_of (by decide +kernel),
    none_of (by decide +kernel), none_of (by decide +kernel)⟩

/-- Two writebacks of one register, one of a hard-wired one; an op whose second source is empty. -/
theorem witness_Writebacks :
    let p := fun (v : VReg) => ({ file := .s, reg := 2, val := v } : Pending)
    let s := on (fun c => { c with pend := [p 1, p 2, { file := .p, reg := 0, val := 0 }] })
    let o := addOp 1 { fa 3 1 2 0 with b2 := true }
    (0 < residents ∧ (s.ctx 0).pend[0]? = some (p 1) ∧ (s.ctx 0).pend[1]? = some (p 2)
      ∧ ((s.ctx 0).pend.drop 1).any (fun q => q.file == RegFile.s && q.reg == 2) = true
      ∧ ((s.ctx 0).pend.drop 2).any (fun q => q.file == RegFile.s && q.reg == 2) = false ∧ hardwired .s 1 = false)
    ∧ opOf 1 (.add { fa 3 1 2 0 with b2 := true }) = some o
    ∧ (o.early s).isNone = true ∧ o.srcs = [srcS 1 false] ++ srcS 2 true :: [] ∧ Ready s [srcS 1 false] ∧ srcFull s s.cur (srcS 2 true) = false
      ∧ (srcS 2 true).trap = true ∧ (srcS 2 true).file ≠ 5 ∧ (srcS 2 false).trap = false := by
  refine ⟨by decide +kernel, rfl, by decide, rfl, ?_⟩
  unfold Ready; decide

/-- Each event of a context at a state that allows it, at the last cycle that matters. -/
theorem witness_ContextEvents :
    let at' := fun (n : Word64) f => { on f with cyc := n }
    let w := { withL (fun c => { c with st := .blocked, reason := 3, blockedAt := 1 }) id with
      cyc := 1025, parts := [(0, some part0)] }
    let r := withL (fun c => { c with st := .blocked, after := .haltb }) id
    let q := at' 4096 (fun c => { c with st := .running })
    let h := q.updCore 0 (fun k => { k with holder := some 0 })
    let i : TrapInfo := { code := 2, eva := 0, einfo := 0, snapst := false, ret := 0, pends := 0, pendo := 0, repn := 0 }
    (0 < residents ∧ reasonGone (on (fun c => { c with st := .blocked, reason := 1, pc := 1 })) 0 = true)
    ∧ ((at' 5 (fun c => { c with st := .sleeping, sleepTo := 5 })).ctx 0).sleepTo ≤ (at' 5 id).cyc.toNat
    ∧ (relocking (at' 5 id) 0 = false ∧ (at' 5 id).me.owed = none)
    ∧ promisePassed (at' 5 id) { Context.empty with claim := some { addr := 0, promise := some 5, woken := false, retry := false } } = true
    ∧ (on (fun c => { c with st := .blocked, reason := 14, after := .step })).me.after = .step
    ∧ ((on (fun c => { c with st := .blocked, after := .trapEntry i })).me.after = .trapEntry i ∧ (on (fun c => { c with st := .blocked, after := .trapEntry i })).me.tlevel = 0)
    ∧ (w.part (w.partOf 0) = some part0 ∧ w.me.launch = some 7 ∧ w.launchOf 7 = some launch7 ∧ launch7.halt = none ∧ w.me.reason ≠ 11
      ∧ w.me.reason ≠ 14 ∧ part0.watchdog ≠ 0 ∧ w.me.blockedAt ≠ 0 ∧ w.me.blockedAt + part0.watchdog.toNat * 1024 ≤ w.cyc.toNat)
    ∧ (w.me.spared = false ∧ relocking w 0 = false ∧ grantsOf r 0 = [] ∧ relocking r 0 = false)
    ∧ (r.ctxLaunch 0 = some launch7 ∧ r.me.st = .blocked ∧ r.me.after = .haltb ∧ r.me.out = 0 ∧ r.me.pend = [] ∧ r.me.trec = none
      ∧ r.me.locks = [] ∧ r.me.lockWait = none ∧ Sparse.wf Core.cold r.cores = true)
    ∧ (holderOf h 0 = some 0 ∧ quantumOver h 0 = true ∧ relocking h 0 = false ∧ otherReady h 0 = false
      ∧ otherReady (h.setCtx 1 { Context.empty with st := .ready }) 0 = true) := by
  decide +kernel

/-- `ADD s3, s1, s2` alone in a bundle, in slot S0 and in slot S1, comes next. -/
def stepSt (slot : Nat) : State :=
  { code [BitVec.ofNat 32 (0xB0000000 + 2 ^ (21 + slot)), 0x00060840] id with agenda := [{ dt := 1, ev := .bundleIssue 0 }] }

theorem witness_StepRunsDecoded : ∀ slot ∈ [1, 2],
    let s := stepSt slot
    let s' := { s.settle.pass 1 with agenda := [] }
    let u := { s' with cur := 0 * 4 + 0 }
    let h := BitVec.ofNat 32 (0xB0000000 + 2 ^ (21 + slot))
    let w : SlotWords := { slot := slot, word := 0x00060840, ext := 0 }
    s.settle.agenda = { dt := 1, ev := .bundleIssue 0 } :: [] ∧ clear s.settle 1 = true ∧ MayIssue s' 0 0 ∧ Standing u h [0x00060840]
      ∧ slotPairs (maskSlots (bits h.toNat 27 21)) [0x00060840] = [w] ∧ u.me.full .p (bits h.toNat 14 12) = true
      ∧ guardHolds h.toNat u.me = true ∧ bits h.toNat 20 17 = 0 ∧ decode w.slot w.word w.ext = some (.add (fa 3 1 2 0))
      ∧ repeats (wordDsts w) = false := by
  intro slot hs
  have h : slot = 1 ∨ slot = 2 := by simpa using hs
  rcases h with rfl | rfl <;>
  · unfold MayIssue Standing
    refine ⟨by decide +kernel, by decide +kernel, by decide +kernel, ⟨by decide +kernel, by decide +kernel, by decide +kernel, ok_of_gives (by decide +kernel), by decide +kernel,
      by decide +kernel, by decide +kernel⟩, by decide +kernel, by decide +kernel, by decide +kernel, by decide +kernel, by decide +kernel,
      by decide +kernel⟩

/-- A misaligned program counter, a word that is no header, a word that does not decode behind a false guard, an empty guard
register, and a false guard. -/
theorem witness_BundleIssues :
    let bad := (code [] id).updMe (fun c => { c with pc := c.pc + 2 })
    let none' := code [0x12345678] id
    let g := fun w f => code [0xB0401000, w] f
    let np := fun c : Context => { c with pend := [{ file := .p, reg := 1, val := 1 }] }
    let l := slotPairs (maskSlots (bits (0xB0401000 : Word32).toNat 27 21))
    (MayIssue bad 0 0 ∧ bad.me.pc.toNat % 4 ≠ 0)
    ∧ (MayIssue none' 0 0 ∧ none'.me.pc.toNat % 4 = 0 ∧ none'.me.nest.active = false ∧ codeEcc none' 0 none'.me.pc 1 = false ∧ headerOk 0x12345678 = false)
    ∧ fetchBundle none' (none'.jobOf none'.cur) none'.me.pc = .ok [0x12345678]
    ∧ (Standing (g 0x3F000000 id) 0xB0401000 [0x3F000000] ∧ Standing (g 0x00060840 np) 0xB0401000 [0x00060840])
    ∧ (repeats ((l [0x3F000000]).flatMap wordDsts) = false ∧ badSlot (l [0x3F000000]) = some 1 ∧ guardHolds 0xB0401000 (g 0x3F000000 id).me = false
      ∧ badSlot (l [0x00060840]) = none ∧ (g 0x00060840 np).me.full .p (bits 0xB0401000 14 12) = false
      ∧ (g 0x00060840 id).me.full .p (bits 0xB0401000 14 12) = true ∧ Quiet (g 0x00060840 id)
      ∧ guardHolds 0xB0400000 (g 0x00060840 id).me = true ∧ repeats ((issueOps (l [0x00060840]) .none).flatMap opDsts) = false) := by
  unfold MayIssue Standing Quiet
  refine ⟨by decide +kernel, by decide +kernel, ok_of_gives (by decide +kernel), ⟨?_, ?_⟩, by decide +kernel⟩ <;>
  exact ⟨by decide +kernel, by decide +kernel, by decide +kernel, ok_of_gives (by decide +kernel), by decide +kernel, by decide +kernel,
    by decide +kernel⟩

/-- A launch without a halt line, with one, and units of each kind that wait. -/
theorem witness_HaltEvents :
    let s := withL id id
    let u := fun k => ({ kind := k, inst := 0 } : UnitId)
    let us := [u 0, u 1, u 2, u 3, u 4, u 5, u 7]
    let h := withL id (fun l => { l with halt := some (halt7 us) })
    (s.launchOf 7 = some launch7 ∧ launch7.halt = none ∧ 0 < residents ∧ (s.ctx 0).launch = some 7)
    ∧ ((h.launchOf 7).map (·.halt) = some (some (halt7 us)) ∧ (∀ k ∈ [0, 1, 2, 3, 4, 5, 7], u k ∈ (halt7 us).waiting) ∧ (h.ctx 0).pend = []
      ∧ (h.ctx 0).st ≠ .mewsIn ∧ h.savedOf 0 = none ∧ h.deferred = [] ∧ (halt7 us).done = [] ∧ midChunk (h.engine 0) 7 = false)
    ∧ ((halt7 []).waiting = [] ∧ (halt7 []).posted = false ∧ (halt7 []).killed = false ∧ launch7.entry = none ∧ launch7.kd.traced = false) := by
  decide +kernel

/-- Each phase of a pre-emption on core 0, and a host's request that can and cannot proceed. -/
theorem witness_MewEvents :
    let base := fun (x : Saved) (m : Mews) => { withL id id with
      saved := [x], parts := [(0, some part0)], slotMasks := [(0, BitVec.allOnes 64)],
      cores := Sparse.set Core.cold (withL id id).cores 0 { (withL id id).core 0 with mews := m } }
    let at' := fun p => { Mews.idle with phase := p, slot := 1 }
    let x := saved7 .mewsOut true
    let y := saved7 .mewsIn true
    let z := saved7 .mewsOut false
    let s := { base x Mews.idle with preReqs := [{ core := 0, slot := 0, inc := some (.saved (2 ^ 20)), host := false }] }
    let pre := base y (at' .preloading)
    let ld := base y (at' .loaded)
    let own := (base y { at' .loaded with slot := 0 })
    let sp := base z (at' .spilling)
    let fill := { withL id id with parts := [(0, some part0)], slotMasks := [(0, BitVec.allOnes 64)] }.updTile 0 0 (fun t => { t with unfilled := true })
    (s.preReqs[0]? = some { core := 0, slot := 0, inc := some (.saved (2 ^ 20)), host := false } ∧ canPreempt s 0 0 = true
      ∧ s.savedOf (2 ^ 20) = some x ∧ x.ctx.st = .mewsOut)
    ∧ (canRestore s x = true ∧ s.saved.find? (fun y => y.core == x.core && canRestore s y) = some x)
    ∧ (partOfCore s 0 = some 0 ∧ savedAt s 0 1 = some x ∧ (candidate s 0).isNone = true ∧ canPreempt s 0 1 = false)
    ∧ ((pre.core 0).mews.phase = .preloading ∧ incomingOf pre 0 = some y ∧ mewsSlot pre (savedPart pre y) = true)
    ∧ ((ld.core 0).mews.phase = .loaded ∧ (ld.core 0).mews.slot < 4 ∧ incomingOf ld 0 = some y ∧ y.fresh = false
      ∧ Sparse.wf Core.cold ld.cores = true ∧ mayLeave ld 1 = false ∧ slotFree (ld.ctx 1) = true ∧ mayLeave own 0 = true
      ∧ newSavedId { own with num := 1 } ≠ y.id)
    ∧ ((sp.core 0).mews.phase = .spilling ∧ outgoingOf sp 0 = some z ∧ quiescent sp 0 z.id = true ∧ mewsSlot sp (savedPart sp z) = true
      ∧ sp.savedOf z.id = some z ∧ Clean sp)
    ∧ (fill.ctxLaunch 0 = some launch7 ∧ (slotTiles launch7.kd 0).filter (fun i => (fill.tile 0 i).unfilled) ≠ []
      ∧ fill.saved = [] ∧ mewsSlot fill launch7.part = true) := by
  unfold Clean; decide +kernel

/-- Two ops of one bundle, the second reading what the first writes. -/
theorem witness_BundleIssues_together :
    let s := withS 5 6
    let ops := [addOp 1 (fa 3 1 2 0), addOp 2 (fa 4 3 3 0)]
    let F := fun (o : Op) (c : Context) => if o.slot = 1 then
        ((c.wS 3 (intRes (intTy 0) true (5 + 6)).1).raiseFl (intRes (intTy 0) true (5 + 6)).2)
      else (c.wS 4 (intRes (intTy 0) true (0 + 0)).1).raiseFl (intRes (intTy 0) true (0 + 0)).2
    Quiet s ∧ verdict ops s = .go
      ∧ ∀ o ∈ ops, o.mem.isNone = true ∧ o.bars (beginIssue s) = [] ∧ o.slot ≠ 0
        ∧ (∀ c : Context, let d := F o c
            d.nest = c.nest ∧ d.rep = c.rep ∧ d.pc = c.pc ∧ d.after = c.after ∧ d.st = c.st ∧ d.held = c.held)
        ∧ ∀ e, o.eff (beginIssue s) e = e.updMe (F o) := by
  refine ⟨by unfold Quiet; decide, rfl, ?_⟩
  intro o ho
  have h : o = addOp 1 (fa 3 1 2 0) ∨ o = addOp 2 (fa 4 3 3 0) := by simpa using ho
  rcases h with rfl | rfl
  · exact ⟨rfl, rfl, by decide, fun c => ⟨rfl, rfl, rfl, rfl, rfl, rfl⟩, fun e => rfl⟩
  · exact ⟨rfl, rfl, by decide, fun c => ⟨rfl, rfl, rfl, rfl, rfl, rfl⟩, fun e => rfl⟩

/-- The head of a queue before its first wave, at its last and after it, and entries of each other kind. -/
theorem witness_MatrixEvents :
    let s := fun e => { State.reset.updCore 0 (fun k => { k with mq := [e] }) with launches := [launch7] }
    (0 < Config.nCores ∧ ((s (mat 1 0 false)).core 0).mq = [mat 1 0 false] ∧ entryReady (s (mat 1 0 false)) 0 (mat 1 0 false) = true)
    ∧ Clean (s (mat 0 7 true))
    ∧ ((((s (mat 0 7 true)).launchOf 7).map (·.halt.isNone)).getD true = true ∧ (mat 0 7 true).opc ≤ 2 ∧ (mat 0 7 true).wave < (mat 0 7 true).waves)
    ∧ ((mat 0 8 true).wave = (mat 0 8 true).waves ∧ ((s (mat 6 0 true)).core 0).savedOps = [] ∧ (mat 6 0 true).ctx < residents
      ∧ ∀ o ∈ [3, 4, 5, 6], 2 < (mat o 0 true).opc) := by
  unfold Clean; decide +kernel

/-- A copy that can start, one at its only element and one past it, with and without a counter; a multicast's one member; a
subscription at a tile's start, within it, and closing. -/
theorem witness_CopyEvents :
    let j := fun (k : JobKind) (b : Bool) (d : List Nat) => { job3 with kind := k, began := b, done := d, members := [0], box := pointBox 64 0 }
    let c : CopyJob := { j .copy true [0] with box := pointBox 64 8 }
    let s := fun x => { State.reset.updCore 0 (fun k => { k with jobs := [x] }) with launches := [launch7] }
    let x := fun st (p : Option (Nat × Nat)) (cl : Bool) => { sub7 0 with
      ring := { (ringOf ringBytes) with storer := st }, prog := p, closing := cl, cursor := if st then 1 else 0 }
    let q := fun y => { putBarrier (xSt 0 0 []) (spAddr 0 ((ringOf ringBytes).fullBar 0)) false false 0 0 0 1 with
      quays := [(0, { Quay.cold with subs := [(0, some y)] })], slotMasks := [(0, BitVec.allOnes 64)] }
    (findJob (s (j .copy false [])) 0 0 = some (j .copy false []) ∧ startable { s (j .copy false []) with cyc := 1 } 0 (j .copy false []) = true)
    ∧ ((s (j .fill true [])).haltedL 7 = false ∧ (j .fill true []).box.count = 1
      ∧ unitSent (s (j .fill true [])) (j .fill true []) (0 * (j .fill true []).box.esize) = true ∧ wordMates (j .fill true []) 0 = [0]
      ∧ resetHolds (s (j .fill true [])) 0 ((j .fill true []).box.dstAt 0) = false ∧ absentAt (s (j .fill true [])) 0 ((j .fill true []).box.dstAt 0) = none
      ∧ (j .mcast true []).members[0]? = some 0 ∧ (j .copy true [0]).done.length = (j .copy true [0]).box.count ∧ (j .copy true [0]).box.ctr = 0
      ∧ c.box.ctr ≠ 0 ∧ absentAt (s c) 0 c.box.ctr = none
      ∧ resetHolds (s c) 0 c.box.ctr = false)
    ∧ (∀ y ∈ [x false none false, x true none false, x false (some (0, 0)) false, x true (some (0, 0)) false], ringTurn (q y) 0 = some 0)
    ∧ ((q (x false none false)).sub 0 0 = some (x false none false) ∧ (q (x false none false)).haltedL 7 = false
      ∧ (q (x false none false)).ownSlot 0 0 = true ∧ tileStarts (q (x false none false)) (x false none false) = true
      ∧ tileStarts (q (x true none false)) (x true none false) = true
      ∧ ((x false (some (0, 0)) false).ring.tile 0).inside 0 = true
      ∧ absentAt (q (x true (some (0, 0)) false)) 0 (((x true (some (0, 0)) false).ring.tile 0).srcAt 0) = none
      ∧ resetHolds (q (x true (some (0, 0)) false)) 0 (((x true (some (0, 0)) false).ring.tile 0).srcAt 0) = false
      ∧ ringMates (x false (some (0, 0)) false) ((x false (some (0, 0)) false).ring.tile 0) 0 = [0]
      ∧ closable (x false none true) = true ∧ (x false none true).ctr = 0) := by
  decide +kernel

/-- A command block at physical address 0: a segment to bind, a pool range of one page. -/
def segCmd (f : State → State) : State :=
  f (wrBytes State.reset 0 ([0, 0, 1, 0, 0, 0, 0, 0] ++ leBytes 8 (2 ^ 21) ++ leBytes 8 (2 ^ 21) ++ leBytes 8 (2 ^ 21) ++ leBytes 8 (2 ^ 43)))

theorem witness_SegmentCommands :
    let s := segCmd id
    let st := fun (x : SegState) => segCmd (fun s => { s with segs := [(1, { seg0 with st := x, vbase := 2 ^ 21 })] })
    let p := fun (rm : Byte) => wrBytes State.reset 0 (zeroBytes 8 ++ leBytes 8 (2 ^ 39 - 2 ^ 21) ++ leBytes 8 1 ++ [rm])
    (s.segStat ≠ 15 ∧ badImage s (hbmAddr 0 + 8) = false ∧ cmdJob s 0 < 32 ∧ cmdSeg s 0 < 4096 ∧ (s.seg 0 1).st = .free
      ∧ overlaps s 0 (segImage s (hbmAddr 0 + 8)) = false ∧ badImage State.reset (hbmAddr 0 + 8) = true
      ∧ overlaps { s with segs := [(0, { seg0 with len := 2 ^ 22 })] } 0 (segImage s (hbmAddr 0 + 8)) = true)
    ∧ (∀ x ∈ [SegState.bound, .zeroing, .migrating, .draining, .revoked], ((st x).seg (cmdJob (st x) 0) (cmdSeg (st x) 0)).st = x)
    ∧ (∀ rm ∈ [(0 : Byte), 1], rd (p rm) (hbmAddr 0 + 8) 8 % 2 ^ 21 = 0 ∧ rd (p rm) (hbmAddr 0 + 16) 8 ≠ 0
      ∧ rd (p rm) (hbmAddr 0 + 8) 8 + rd (p rm) (hbmAddr 0 + 16) 8 * 2 ^ 21 ≤ 2 ^ 39 ∧ rd (p rm) (hbmAddr 0 + 2) 6 = 0
      ∧ rd (p rm) (hbmAddr 0 + 25) 39 = 0 ∧ rd (p rm) (hbmAddr 0 + 24) 1 = rm.toNat)
    ∧ (0 ∉ State.reset.sorric.modes ∧ pageBound State.reset (2 ^ 39 - 2 ^ 21) = false ∧ (2 ^ 39 - 2 ^ 21) ∉ State.reset.dzPool)
    ∧ (let f := { State.reset with dzPool := [2 ^ 39 - 2 ^ 21] }
       (2 ^ 39 - 2 ^ 21) ∈ f.dzPool ∧ pageBound f (2 ^ 39 - 2 ^ 21) = false
       ∧ pageBound { f with segs := [(0, { seg0 with pbase := 2 ^ 39 - 2 ^ 21 })] } (2 ^ 39 - 2 ^ 21) = true)
    ∧ cmdSeg (wrBytes State.reset 0 [0, 0, 0, 16]) 0 = 4096
    ∧ ((st .draining).seg 0 1).busy = 0 := by
  decide +kernel

/-- A context that waits at an `XMIGR` of segment 0 to the job's reserve, taken and refused; the migration at each of its points. -/
theorem witness_Migrations :
    let x := fx 3 2 1 0
    let s := { (code [0xB8000000, BitVec.ofNat 32 (0x09 * 2 ^ 23 + 3 * 2 ^ 17 + 2 * 2 ^ 13 + 1 * 2 ^ 7)]
        (fun c => { c with mgrant := .asked 0, reason := 13 })) with
      jobs := [(0, { Job.none with present := true, rsvBase := 2 ^ 21, rsvSize := 2 ^ 21 })], parts := [(0, some part0)], slotMasks := [(0, BitVec.allOnes 64)] }
    let r := { s with jobs := [] }
    let m : Migration := { job := 0, seg := 0, dst := 2 ^ 21, ctr := 0, deadline := 1, core := 0, part := 0, copied := false }
    let g := fun c => { s with migs := [{ m with copied := c }], segs := [(0, { seg0 with st := .migrating })] }
    ((s.ctx 0).mgrant = .asked 0 ∧ (s.ctx 0).reason = 13 ∧ standingXmigr s 0 = some x ∧ migReasonOf x s (s.ctx 0) 0 = 0 ∧ standingXmigr r 0 = some x
      ∧ migReasonOf x r (r.ctx 0) 0 ≠ 0)
    ∧ (migOf (g false) 0 0 = some m ∧ ((g false).seg 0 0).st = .migrating ∧ ((g false).seg 0 0).busy = 0 ∧ (g false).ownSlot 0 0 = true
      ∧ Memory.wf (g false).mem = true)
    ∧ (migOf (g true) 0 0 = some { m with copied := true } ∧ m.ctr = 0 ∧ (g true).cyc.toNat / 1024 ≤ m.deadline.toNat ∧ m.deadline ≠ 0
      ∧ m.deadline.toNat < (2048 : Word64).toNat / 1024 ∧ (g true).part 0 = some part0) := by
  decide +kernel

/-- A request for page 0 with a page in the pool and without; a tag that is carried, by a context and by an engine; a fill at its
timeout, with and without a unit that waits for it. -/
theorem witness_PageRequests :
    let r : FillReq := { job := 0, seg := 0, page := 0, ctx := 0xFFFF, tag := none, since := 0, port := false }
    let t : FillReq := { r with tag := some 5 }
    let dz : Seg := { seg0 with dz := true, mig := false }
    let s := fun (l : List FillReq) (p : List Nat) => { State.reset with segs := [(0, dz)], fills := l, dzPool := p, mem := [(0, 1)], cyc := 20000000 }
    let u := { (s [t] []).updCore 0 (fun k => { k with jobs := [{ job3 with foot := { rd := [], wr := pageRange (s [t] []) 0 0 0 } }] }) with
      launches := [launch7] }
    (r ∈ (s [r] [2 ^ 21]).fills ∧ (s [r] [2 ^ 21]).dzPool = 2 ^ 21 :: [] ∧ (s [r] []).dzPool = [] ∧ r.tag = none
      ∧ t ∈ (s [t] [2 ^ 21]).fills ∧ t.ctx = 0xFFFF ∧ t.tag.isSome = true)
    ∧ ((s [t] []).fills.find? (fun q => q.tag == some (5 : BitVec 16).toNat) = some t ∧ (s [{ t with ctx := 3071 }] []).dzPage dz 0 = some 0
      ∧ 3071 < residents ∧ (on (fun c => { c with grant := .asked 5 })).me.grant = .asked (5 : BitVec 16).toNat ∧ (s [t] []).fills.find? (fun q => q.tag == some (6 : BitVec 16).toNat) = none)
    ∧ ((s [t] []).fills.find? (fun q => q.job == 0 && q.seg == 0 && q.page == 0 && q.ctx == 0xFFFF && q.tag.isSome) = some t
      ∧ t.since + 20000000 ≤ (s [t] []).cyc.toNat ∧ pageUsers (s [t] []) 0 0 0 = [] ∧ pageUsers u 0 0 0 ≠ []) := by
  decide +kernel

/-- A write of the segment's last byte, one beyond it, one to an absent page, and one at a physical address; a job image at its
bounds; a queue in and out of DISABLED. -/
theorem witness_HostAccess :
    let s := { State.reset with segs := [(0, seg0)] }
    let d := { State.reset with segs := [(0, { seg0 with dz := true, mig := false })] }
    let a := n64 (0x7FF * 2 ^ 53 + 2 ^ 21 - 1)
    let i : JobImage := { own := 2046, rglog2 := 11, keyid := 0, segBase := 0, rsvBase := 2 ^ 39 - 2 ^ 21, rsvSize := 2 ^ 21 }
    let z := { State.reset with segs := [(0, { seg0 with st := .zeroing })] }
    (s.hostHeld = [] ∧ hostHolds s 0 a = false ∧ hostMiss z 0 a = false ∧ hostAbsent z 0 a = none ∧ hostHolds z 0 a = true
      ∧ { s with hostHeld := [.tail 0 0] }.hostHeld ≠ [])
    ∧ (s.place 0 a = .here ∧ hostXlat s 0 a = .ok (2 ^ 21 - 1) 0 ∧ hostMiss s 0 (a + 1) = true ∧ hostMiss d 0 a = false
      ∧ (hostAbsent d 0 a).isSome = true ∧ (n64 (2 ^ 39 - 1)).toNat + 1 ≤ 2 ^ 39)
    ∧ (i.own ≤ 2046 ∧ i.rglog2 ≤ 11 ∧ i.rsvBase % 2 ^ 21 = 0 ∧ i.rsvSize % 2 ^ 21 = 0 ∧ i.rsvBase + i.rsvSize ≤ 2 ^ 39 ∧ (s.job 31).present = false
      ∧ ({ s with jobs := [(31, { Job.none with present := true })] }.job 31).present = true)
    ∧ ((s.queue 8191).st = .disabled ∧ ((qSt (pkt0 1) 0 id).queue 0).st ≠ .disabled) := by
  decide +kernel

/-- A queue in each state, a tail at the ring's bound and past it, a head whose waits are done, and a record that waits. -/
theorem witness_QueueEvents :
    let q := fun (st : QState) => { State.reset with queues := [(8191, { Queue.cold with st := st, ctl := 4, evt := 4 })] }
    let f := { State.reset with launches := [{ launch7 with halt := some { halt7 [] with posted := true } }], queues := [(0, { Queue.cold with st := .faulted, launch := some 7 })] }
    let w := fun n => { Queue.cold with evt := 4, evtWr := n, waiting := [(zeroBytes 64, true)] }
    (∀ st ∈ [QState.disabled, .idle, .ready, .running, .blocked, .faulted, .draining], ((q st).queue 8191).st = st)
    ∧ ((16 - ((q .idle).queue 8191).head).toNat ≤ 2 ^ bits ((q .idle).queue 8191).ctl.toNat 4 0
      ∧ 2 ^ bits ((q .idle).queue 8191).ctl.toNat 4 0 < (17 - ((q .idle).queue 8191).head).toNat
      ∧ ((q .disabled).queue 8191).base.toNat % 4096 = 0 ∧ 4 ≤ bits ((q .disabled).queue 8191).evt.toNat 3 0)
    ∧ (f.launches.any (fun l => l.queue == 0 && (l.halt.map (·.posted)).getD false) = true ∧ (f.queue 0).st = .faulted)
    ∧ (workDone (withL id id) launch7 = false ∧ workDone { State.reset with launches := [{ launch7 with retired := 1 }] } { launch7 with retired := 1 } = true
      ∧ State.reset.hostHeld = [])
    ∧ ((withL id id).launchOf 7 = some launch7 ∧ waitsDone State.reset 0 (pkt0 1) = true)
    ∧ ((w 15).evtFull = false ∧ (w 16).evtFull = true) := by
  decide +kernel

/-- A state with an urgent candidate and one context in its partition. -/
def preSt : State :=
  qSt (pktK 1 2) 1 (fun s => { s.setCtx 0 { Context.empty with launch := some 7, st := .running } with
    launches := [launch7], queues := s.queues.map (fun p => (p.1, { p.2 with ctl := 0x24 })) })

/-- The candidate that it has. -/
def cand1 : Cand := { cand0 (pktK 1 2) with prio := 1 }

theorem quotaFree_zero {s : State} {c : Cand} {d : KDesc} (h : d.quota = 0) : quotaFree s c d = true := by
  simp [quotaFree, h]

theorem hasRoom_zero {s : State} {c : Cand} {d : KDesc} {b : Bool} (h : d.quota = 0)
    (e : (roundFree s c d && !heldBack s c.part (launchPrio c d) && (if d.mode = 2 then allFit s c.part d
      else (spotIn s none d ((homes s c.part d).getD (homeSet d (homes s c.part d).length 0) [])).isSome)) = b) : hasRoom s c d = b := by
  simp only [hasRoom, quotaFree_zero h, Bool.true_and]
  exact e

/-- A state whose candidate is a CONC launch. -/
def concSt : State := qSt (pktK 1 0) 0 (fun s => wrBytes s (0x100000 + 26) [2])

/-- A candidate with room, one without, and a CONC one with room. -/
theorem witness_LaunchEvents_room :
    hasRoom (qSt (pktK 1 0) 0 id) (cand0 (pktK 1 0)) (candDesc (qSt (pktK 1 0) 0 id) (cand0 (pktK 1 0))) = true
    ∧ hasRoom preSt cand1 (candDesc preSt cand1) = false
    ∧ quotaFree preSt cand1 (candDesc preSt cand1) = true
    ∧ hasRoom concSt (cand0 (pktK 1 0)) (candDesc concSt (cand0 (pktK 1 0))) = true :=
  ⟨hasRoom_zero (by decide +kernel) (by decide +kernel), hasRoom_zero (by decide +kernel) (by decide +kernel),
    quotaFree_zero (by decide +kernel), hasRoom_zero (by decide +kernel) (by decide +kernel)⟩

/-- That candidate. -/
theorem witness_LaunchEvents_conc :
    candidate concSt 0 = some (cand0 (pktK 1 0)) ∧ checkCand concSt (cand0 (pktK 1 0)) = .pass ∧ (candDesc concSt (cand0 (pktK 1 0))).mode = 2
    ∧ (preSt.queue 0).readyAt ≠ 0 := by
  decide +kernel

/-- A candidate of each kind: rejected, waiting for a segment in ZEROING, a WAIT packet, one with room, and one that only a victim
makes room for; a block to load; a launch to end. -/
theorem witness_LaunchEvents :
    let k := pktK 1 0
    let bad : Packet := { pktK 1 0 with kdesc := 32 }
    let v := preSt
    let l := { launch7 with loaded := 0 }
    let b := qSt k 0 (fun s => { s with launches := [l] })
    let e := { launch7 with retired := 1 }
    (candidate (qSt k 0 id) 0 = some (cand0 k) ∧ checkCand (qSt k 0 id) (cand0 k) = .pass
      ∧ (candDesc (qSt k 0 id) (cand0 k)).traced = false ∧ (qSt k 0 id).launches = [])
    ∧ (candidate (qSt bad 0 id) 0 = some (cand0 bad) ∧ checkCand (qSt bad 0 id) (cand0 bad) = .code 1)
    ∧ (checkCand (qSt k 0 (fun s => { s with segs := [(0, { seg0 with st := .zeroing })] })) (cand0 k) = .wait)
    ∧ (candidate (qSt (pkt0 3) 0 id) 0 = some (cand0 (pkt0 3)) ∧ checkCand (qSt (pkt0 3) 0 id) (cand0 (pkt0 3)) = .pass)
    ∧ (candidate v 0 = some cand1 ∧ checkCand v cand1 = .pass
      ∧ bitOf (pktK 1 2).flags 1 = true ∧ v.preDelay ≠ 0 ∧ (v.queue 0).readyAt + v.preDelay.toNat ≤ v.cyc.toNat + 2
      ∧ roundFree v cand1 (candDesc v cand1) = true
      ∧ victims v cand1 (candDesc v cand1) ≠ [] ∧ launch7.id < v.num)
    ∧ (b.launchOf 7 = some l ∧ l.kd.mode ≠ 2 ∧ placeable b l = some (0, 0, 0))
    ∧ (e.full = true ∧ e.retired = e.loaded ∧ workLeft { State.reset with launches := [e] } 7 = false ∧ e.entry = none ∧ e.pkt.cctr = 0) := by
  decide +kernel

/-- A flit that arrives from chip 5, of a type, at the first byte of `seg0`. -/
def flit5 (t : Nat) : Flit :=
  withCrc { type := t, last := true, first := true, conf := false, vc := 0, seq := 0, djob := 0, src := 5, dst := 0, nb := 0, addr := 0,
            payload := zeroBytes 8, crc := 0, ackSeq := 0, ackV := false, ackVc := 0, epoch := 0, crV := false, crVc := 0, crN := 0 }

/-- A data flit of job 0 on its way to chip 5. -/
def sent5 : Sent :=
  { chip := 5, flit := { flit5 1 with src := 0, dst := 5 }, ctx := 0, launch := 7, part := 0, job := 0, lchip := 5, op := 1, sent := false,
    lost := false }

/-- Port `p` as given, at a cycle late enough for every timer. -/
def portSt (p : Nat) (x : Port) : State := { State.reset with ports := [(p, x)], cyc := 20000000 }

/-- A port in each state, with the light, the buffer, the age or the CRC failures that a transition asks for. -/
theorem witness_PortEvents :
    let x := fun st => { Port.cold with st := st, mask := 0xFFFF, lit := 0xF }
    let s := fun st => portSt 15 (x st)
    (∀ st ∈ [PortState.off, .train, .up16, .drain, .fenced, .down], ((s st).port 15).st = st) ∧ (1 : BitVec 4) ≠ 0
    ∧ ((s .train).port 15).since + 20000000 ≤ (s .train).cyc.toNat ∧ ((s .drain).port 15).since + 400000 ≤ (s .drain).cyc.toNat
    ∧ ((s .up16).port 15).st.isUp = true ∧ ((s .up16).port 15).mask.getLsbD 15 = true
    ∧ maskGroups (x .up16).mask &&& ~~~ (1#4 <<< (15 / 4)) ≠ 0#4 ∧ maskGroups 0xF000 &&& ~~~ (1#4 <<< (15 / 4)) = 0#4
    ∧ ((portSt 0 { x .up16 with dark := true }).port 0).dark = true ∧ ((s .drain).port 15).buf = []
    ∧ 1024 < (recentCrc (portSt 0 { x .up16 with crc := List.replicate 1025 20000000 }) 0).length := by
  decide +kernel

/-! The states of the flit witnesses: a port with a flit to send, an acknowledgement owed, a triple whose port is down, and a job with
a key. -/

/-- A port in UP16 with a flit in its buffer. -/
def upPort : Port := { Port.cold with st := .up16, buf := [sent5] }

/-- Such a port alone. -/
def outSt (p : Nat) : State := { portSt p upPort with slotMasks := [(0, BitVec.allOnes 64)], parts := [(0, some part0)] }

/-- The triple of chip 5. -/
def key5 : Nat := tkey 5 0 0

/-- A port that receives, with a route to chip 5. -/
def inSt : State := { xSt 0 0 [] with
  routes := [(5, 0x4000000000000005#64)], ports := [(0, { upPort with buf := [] })], jobs := [(0, { Job.none with present := true })], cyc := 20000000 }

/-- A flit with a wrong CRC. -/
def badFlit : Flit := { flit5 1 with crc := 0 }

/-- A flit to chip 5, not acknowledged. -/
def ackSt : State := { xSt 0 0 [] with ports := [(0, upPort)], triples := [(key5, { Triple.cold with ext := 1, path := 1 })], cyc := 20000000 }

/-- Its port down. -/
def noPathSt : State := { ackSt with ports := [(0, { upPort with st := .down })] }

/-- Its route over Ethernet. -/
def netSt : State := { ackSt with routes := [(5, 0x4100000000000005#64)] }

/-- A flit received, not acknowledged. -/
def winSt : State := { inSt with windows := [(key5, { Window.cold with ext := 1, unacked := 1 })] }

/-- Its port down and another path up. -/
def pinSt : State := { ackSt with ports := [(0, { upPort with st := .down }), (1, { upPort with buf := [] })], routes := [(5, 0x4001001000000005#64)] }

/-- A job with a key slot. -/
def keySt : State := { State.reset with jobs := [(0, { Job.none with present := true, keyid := 0 })] }

/-- The same with a CONF flit in a buffer. -/
def busySt : State := { keySt with ports := [(0, { upPort with buf := [{ sent5 with flit := { sent5.flit with conf := true } }] })] }

set_option maxRecDepth 20000 in
/-- A flit to send on a Wilaro and on an Ethernet port. -/
theorem witness_FlitEvents_send :
    portSends (outSt 0) 0 = true ∧ nextSend (outSt 0) 0 = some (0, sent5) ∧ portSends (outSt 23) 23 = true ∧ nextSend (outSt 23) 23 = some (0, sent5) := by
  decide +kernel

set_option maxRecDepth 20000 in
/-- A bad flit that arrives. -/
theorem witness_FlitEvents_bad :
    portReceives inSt 0 = true ∧ flitGood badFlit = false := by
  decide +kernel

set_option maxRecDepth 20000 in
/-- A data flit and an add that are performed. -/
theorem witness_FlitEvents_arrive :
    ∀ t ∈ [1, 2], let f := flit5 t
    let k := winKey inSt 0 f
    let w := inSt.window k
    (portReceives inSt 0 = true ∧ f.ackV = false ∧ f.crV = false ∧ arrivalGate inSt f = 0
      ∧ (inSt.port 0).held.any (fun h => h.vc == f.vc) = false ∧ f.seq = recvSeq inSt k w.ext ∧ w.rejected = false
      ∧ checkArrival inSt f (w.ext - keyBase inSt k f.djob true) = .perform (zeroBytes (if t = 1 then 1 else 8)) ∧ f.type = t)
    ∧ landing inSt 0 f = some f ∧ flitGood f = true := by
  intro t ht
  have h : t = 1 ∨ t = 2 := by simpa using ht
  rcases h with rfl | rfl
  · exact ⟨by decide +kernel, rfl, by decide +kernel⟩
  · exact ⟨by decide +kernel, rfl, by decide +kernel⟩

set_option maxRecDepth 20000 in
/-- An acknowledgement with and without a flit that it covers; a rejected flit whose context is live. -/
theorem witness_FlitEvents_ack :
    let k := ackKey ackSt 0 5 0
    Sparse.wf Port.cold ackSt.ports = true ∧ (outstanding ackSt (k 0)).any (fun f => ackedBy (seqMod (k 0)) 0 f.flit.seq) = true
    ∧ (outstanding ackSt (k 65535)).any (fun f => ackedBy (seqMod (k 65535)) 65535 f.flit.seq) = false
    ∧ (outstanding ackSt (k 0)).find? (fun f => f.flit.seq == 0) = some sent5 ∧ sent5.ctx < residents ∧ sent5.tree = false
    ∧ Sparse.wf Core.cold ackSt.cores = true ∧ sent5.lost = false ∧ (ackSt.ctx 0).launch = some sent5.launch ∧ (ackSt.ctx 0).st ≠ .retired
    ∧ (ackSt.ctx 0).st ≠ .killed ∧ rtState (ackSt.route 0 5) = 1 := by
  decide +kernel

/-- A live route, stuck and not, one without a path, and one over Ethernet. -/
theorem witness_FlitEvents_routes :
    stuck inSt (rtChip (inSt.route 0 5) 0 5) 400000 = false
    ∧ stuck { ackSt with routes := [(5, 0x4000000000000005#64)] } (rtChip 0x4000000000000005#64 0 5) 400000 = true
    ∧ hasPath noPathSt (noPathSt.route 0 5) = false
    ∧ (∀ i < rtPaths (noPathSt.route 0 5), (noPathSt.port (rtPort (noPathSt.route 0 5) i)).upEnd + 400000 ≤ noPathSt.cyc.toNat)
    ∧ rtState (netSt.route 0 5) = 1 ∧ rtNet (netSt.route 0 5) = true := by
  decide +kernel

/-- The timers' triple and window. -/
theorem witness_FlitEvents_timers :
    windowsOf winSt 5 0 = [key5] ∧ (winSt.window key5).unacked ≠ 0 ∧ triplesOf ackSt 5 0 = [key5] ∧ outstanding ackSt key5 ≠ []
    ∧ (ackSt.triple key5).replayAt + 20000 ≤ ackSt.cyc.toNat := by
  decide +kernel

set_option maxRecDepth 20000 in
/-- A triple whose port is down with another path. -/
theorem witness_FlitEvents_repin :
    triplesOf pinSt 5 0 = [key5] ∧ Sparse.wf Port.cold pinSt.ports = true ∧ (outstanding pinSt key5).head? = some sent5 ∧ (pinSt.triple key5).path ≠ 0
    ∧ portUp pinSt ((pinSt.triple key5).path - 1) = false ∧ portUp pinSt (choosePort pinSt (pinSt.route 0 5) 0) = true ∧ sent5.tree = false
    ∧ (pinSt.port 0).st ≠ .drain ∧ (pinSt.port (choosePort pinSt (pinSt.route 0 5) 0)).buf.length + (outstanding pinSt key5).length ≤ 4096
    ∧ pinSt.sorric.modes.contains 2 = false := by
  decide +kernel

set_option maxRecDepth 20000 in
/-- A job with a key, with and without a CONF flit in a buffer. -/
theorem witness_FlitEvents_keys :
    (keySt.job 0).present = true ∧ (keySt.job 0).keyid ≠ 0xFFFF ∧ keySt.ports.any (fun p => p.2.buf.any (fun f => f.job == 0 && f.flit.conf)) = false
    ∧ (busySt.job 0).present = true ∧ busySt.ports.any (fun p => p.2.buf.any (fun f => f.job == 0 && f.flit.conf)) = true := by
  decide +kernel

/-- An image of a group of one engine. -/
def gimg : GroupImage :=
  { vc := 0, prio := 0, port := 0, chunk := 4096, ranks := 0 :: List.replicate 7 0xFFFF, zeros := true }

/-- The record of a `GAGREE` and of a `GJOIN`, not yet sent. -/
def grec (k : RecKind) : GRec :=
  { num := 1, job := 0, group := 255, kind := k, ctx := 0, launch := 7, part := 0, core := 0, bundle := 0, started := false, version := 0,
    chunk := 0, segs := [], owed := 0, bound := true, aborted := false, foot := { rd := [], wr := [] } }

/-- Group 255 unused and in every state, with a record queued or none; a head record of two kinds that its engine takes. -/
theorem witness_GroupEvents :
    let e := fun st => { Group.unused with used := true, st := st, tree := 1, chunk := 4096, memb := [0] }
    let s := fun st => { withL id id with
      groups := [(255, e st)], jobs := [(0, { Job.none with present := true })], slotMasks := [(0, BitVec.allOnes 64)],
      parts := [(0, some part0)], ports := [(0, { Port.cold with st := .up16 })] }
    let q := fun st r => { s st with coll := [(0, { CollEngine.cold with queue := [r] })] }
    let h := { q .active { grec (.join (n64 (0x7FF * 2 ^ 53))) with started := true } with segs := [(0, { seg0 with st := .zeroing })] }
    let m : CommitMsg := { tree := 1, version := 1, agreed := 0, nmem := 1, memb := [0] }
    (badGroupImage { gimg with vc := 8 } = true ∧ badGroupImage gimg = false ∧ ({ s .active with groups := [] }.group 0 255).used = false
      ∧ ((s .active).job 0).present = true)
    ∧ (∀ st ∈ [GState.unbound, .creating, .active, .agreeing, .quiesced], ((s st).group 0 255).used = true ∧ ((s st).group 0 255).st = st)
    ∧ (((s .active).group 0 255).running = true ∧ ((s .active).group 0 255).tree = m.tree ∧ (s .active).commits.any (fun y => y.1 == 0 && y.2.1 == 255) = false
      ∧ commitHeld m 0 255 (s .active) = false ∧ commitPage m 0 255 (s .active) = none ∧ commitHeld m 0 255 h = true)
    ∧ ((q .quiesced (grec (.join 0))).coll.any (fun p => p.2.queue.any (fun r => r.job == 0 && r.group == 255)) = true
      ∧ (s .quiesced).coll.any (fun p => p.2.queue.any (fun r => r.job == 0 && r.group == 255)) = false)
    ∧ (∀ k ∈ [RecKind.join 0, .agree 0 0], ((q .active (grec k)).engine 0).cur = none
      ∧ pickHead (settleFlying 0 (q .active (grec k))) 0 = some (grec k)) := by
  decide +kernel

/-- For every level a unit with one launch in it and one with none; every unit number at its bound and below. -/
theorem witness_ResetEvents :
    let s := withL id id
    let u := { s with
      quays := [(0, { Quay.cold with subs := [(0, some (sub7 0))] })], coll := [(0, { CollEngine.cold with queue := [grec (.join 0)] })],
      ports := [(15, { Port.cold with st := .up16 }), (0, { Port.cold with st := .drain })] }
    let c := fun (f : Core → Core) => { (State.reset.updCore 0 f) with launches := [launch7] }
    (∀ l ∈ [2, 3, 4], launchesIn s l 0 = [7]) ∧ launchesIn (c (fun k => { k with mq := [mat 0 0 false] })) 5 0 = [7]
    ∧ launchesIn (c (fun k => { k with jobs := [job3] })) 6 0 = [7] ∧ launchesIn u 7 0 = [7] ∧ launchesIn u 9 0 = [7]
    ∧ s.launchOf 7 = some launch7 ∧ launch7.halt = none ∧ s.sorric.inReset = [] ∧ s.sorric.inReset.contains { kind := 9, inst := 7 } = false
    ∧ (∀ x ∈ [(2, 3), (3, 7), (4, 767), (5, 767), (6, 767), (7, 7), (8, 15), (9, 7)], ∀ k ∈ launchesIn u x.1 x.2, recordsDone u k = true)
    ∧ recordsDone (withL id (fun l => { l with halt := some (halt7 []) })) 7 = true
    ∧ (u.port 15).st.isUp = true ∧ (u.port 0).st = .drain ∧ (u.port 1).st.isUp = false
    ∧ (∀ x ∈ [(3, 7), (4, 767), (5, 576), (6, 767), (9, 7)], unitWithin { kind := x.1, inst := x.2 } { kind := 2, inst := 3 } = true)
    ∧ unitWithin { kind := 7, inst := 0 } { kind := 2, inst := 0 } = false ∧ launchesIn State.reset 3 7 = [] ∧ Sparse.wf Port.cold u.ports = false
    ∧ Sparse.wf Port.cold [(0, { Port.cold with crcTot := 1 })] = true := by
  decide +kernel

/-- A partition free to be set, one that is set, masks that clash and that do not, a cluster at its frequency's bounds, powered and
pausing, an ageing proposal, a module over its cap, functions at rest and at work, a word with an ECC error, and firmware in each of its states. -/
theorem witness_ManagementEvents :
    let s := { State.reset with slotMasks := [(0, BitVec.allOnes 64)], eccWords := [0], soft := [.word 1] }
    let p := { s with parts := [(0, some part0)] }
    let c := { s with parts := [(1, some { part0 with cores := [1] })] }
    let so := fun f => { s with sorric := f s.sorric }
    let f := so (fun x => { x with proposals := [7], session := true, swapped := [2], image := [(2, true)], modes := [5, 3] })
    let cap := so (fun x => { x with cap := 1, sensors := [(0x107, 2)] })
    ((∀ n ∈ [0, 1, 2, 3, 4, 5, 6], fnIdle s n = true) ∧ fnIdle f 5 = false ∧ mayAge cap 7 = false
      ∧ ({ f with coll := [(7, { CollEngine.cold with cur := some 0 })] }.engine 7).cur.isSome = true ∧ Sparse.get 0 f.sorric.active 2 ≤ 1)
    ∧ (capActs s 7 = false ∧ capActs cap 7 = true ∧ 1200 < cap.mhz 7 ∧ relocking (so (fun x => { x with relock := [(7, 1)] })) (7 * 96) = true
      ∧ relocking cap (7 * Config.coresPerCluster) = false ∧ s.soft.contains (.word 1) = true ∧ s.eccWords.contains (8 / 8) = false)
    ∧ (sensorListed 0x100 = true ∧ sensorListed 0x808 = true ∧ s.eccWords.contains (7 / 8) = true)
    ∧ ([767, 0].length = (coreSet [767, 0]).length ∧ coreSet [767, 0] ≠ [] ∧ partBusy s 31 = false ∧ s.slotMask 0 ≠ 0#64
      ∧ maskClash s (some 31) (s.slotMask 0) = false ∧ s.parts = [])
    ∧ (p.part 0 = some part0 ∧ Sparse.wf none p.parts = true ∧ maskClash p (some 0) (p.slotMask 0) = false ∧ partBusy p 0 = false)
    ∧ (maskClash c none 1 = true ∧ maskClash p (some 0) 1 = false
      ∧ (p.parts.find? (fun q => (q.2.map (fun x => x.slotid == 0)).getD false)).map (·.1) = some 0
      ∧ (c.parts.find? (fun q => (q.2.map (fun x => x.slotid == 63)).getD false)).map (·.1) = none)
    ∧ (relocking s (7 * Config.coresPerCluster) = false ∧ 1200 < s.mhz 7)
    ∧ (f.sorric.proposals.contains 7 = true ∧ f.sorric.modes.contains 5 = true ∧ s.sorric.modes.contains 5 = false)
    ∧ (s.sorric.session = false ∧ f.sorric.session = true ∧ Sparse.get false s.sorric.image 2 = false
      ∧ Sparse.get false f.sorric.image 2 = true ∧ f.sorric.swapped.contains 2 = true) := by
  decide +kernel

/-- An instruction of each slot class that its format admits and that has words. -/
theorem witness_EncodeDecode :
    ∀ i ∈ [Instr.bri (fa 0 63 0 0), .add (fa 63 1 2 3), .ld (fm 8 15 5), .vadd (fv 1 2 3 0 none), .mmaz (fmx 2 10 4 6 0 none), .xcopy (fx 12 3 5 1)],
      i.wf = true ∧ (encode i).isSome = true := by
  decide

/-- Memory in canonical form at a state that steps. -/
theorem witness_StepKeepsMemory :
    State.reset.memWf = true ∧ (match step State.reset with
      | .next _ => true
      | .fault _ => false
      | .refused _ => false) = true := by
  decide +kernel

/-- Control words, opcodes and fields written out from R53, R54 and the opcode table. -/
theorem test_decode_control0 : ∀ p ∈ ([
    (0x00000000, 0, .nop),
    (0x00812345, 0, .br { pred := 0, neg := false, ofs := 74565, ext := none }),
    (0x01392345, 0, .brp { pred := 3, neg := true, ofs := 74565, ext := none }),
    (0x01803010, 0, .bri { dst := 0, src1 := 6, src2 := 0, b1 := true, b2 := false, mod := 0 }),
    (0x02012345, 0, .call { pred := 0, neg := false, ofs := 74565, ext := none }),
    (0x02803010, 0, .calli { dst := 0, src1 := 6, src2 := 0, b1 := true, b2 := false, mod := 0 }),
    (0x03000000, 0, .ret),
    (0x03A8D400, 0, .loopn { levels := 2, body := 17, abase := 10, b := true }),
    (0x04000000, 0, .lexit),
    (0x04800000, 0, .haltb),
    (0x05000000, 0, .yield),
    (0x05803010, 0, .sleepu { dst := 0, src1 := 6, src2 := 0, b1 := true, b2 := false, mod := 0 }),
    (0x06003012, 0, .waitfe { dst := 0, src1 := 6, src2 := 0, b1 := true, b2 := false, mod := 2 }),
    (0x06800009, 0, .trap { dst := 0, imm := 9, ext := none }),
    (0x07000000, 0, .eret),
    (0x07803010, 0, .snapst { dst := 0, src1 := 6, src2 := 0, b1 := true, b2 := false, mod := 0 })
    ] : List (Word32 × Word32 × Instr)), decode 0 p.1 p.2.1 = some p.2.2 := by
  decide +kernel

/-- Control words, opcodes and fields written out from R53, R54 and the opcode table. -/
theorem test_decode_control1 : ∀ p ∈ ([
    (0x08003010, 0, .snapld { dst := 0, src1 := 6, src2 := 0, b1 := true, b2 := false, mod := 0 }),
    (0x08800000, 0, .snaprel),
    (0x090030F2, 0, .rprobe { dst := 0, src1 := 6, src2 := 7, b1 := true, b2 := false, mod := 2 }),
    (0x098030F2, 0, .wprobe { dst := 0, src1 := 6, src2 := 7, b1 := true, b2 := false, mod := 2 }),
    (0x0A0A3011, 0, .pgalloc { dst := 5, src1 := 6, src2 := 0, b1 := true, b2 := false, mod := 1 }),
    (0x0A8030F0, 0, .fmtset { dst := 0, src1 := 6, src2 := 7, b1 := true, b2 := false, mod := 0 }),
    (0x0B0A0030, 0, .csrr { dst := 5, src1 := 0, b1 := false, index := 48 }),
    (0x0B803430, 0, .csrw { dst := 0, src1 := 6, b1 := true, index := 48 }),
    (0x0C000002, 0, .fence { dst := 0, src1 := 0, src2 := 0, b1 := false, b2 := false, mod := 2 }),
    (0x0C800009, 0, .bkpt { dst := 0, imm := 9, ext := none }),
    (0x0D000009, 0, .abort { dst := 0, imm := 9, ext := none }),
    (0x0D8A2A00, 0, .launch { dst := 5, pd := 0, abase := 10, b := true }),
    (0x0E0AEA00, 0, .launcht { dst := 5, pd := 3, abase := 10, b := true }),
    (0x0E8A3010, 0, .kjoin { dst := 5, src1 := 6, src2 := 0, b1 := true, b2 := false, mod := 0 }),
    (0x0F0A3010, 0, .relaunch { dst := 5, src1 := 6, src2 := 0, b1 := true, b2 := false, mod := 0 })
    ] : List (Word32 × Word32 × Instr)), decode 0 p.1 p.2.1 = some p.2.2 := by
  decide +kernel

/-- Scalar words, opcodes and fields written out from R53, R54 and the opcode table. -/
theorem test_decode_scalar0 : ∀ p ∈ ([
    (0x000A30F2, 0, .add { dst := 5, src1 := 6, src2 := 7, b1 := true, b2 := false, mod := 2 }),
    (0x008A3409, 0, .addi { dst := 5, src1 := 6, b1 := true, imm := 9, ext := none }),
    (0x010A30F2, 0, .sub { dst := 5, src1 := 6, src2 := 7, b1 := true, b2 := false, mod := 2 }),
    (0x018A30F2, 0, .mul { dst := 5, src1 := 6, src2 := 7, b1 := true, b2 := false, mod := 2 }),
    (0x020A30F2, 0, .mulhi { dst := 5, src1 := 6, src2 := 7, b1 := true, b2 := false, mod := 2 }),
    (0x028A30F6, 0, .mulhn { dst := 5, src1 := 6, src2 := 7, b1 := true, b2 := false, mod := 6 }),
    (0x030A30F2, 0, .div { dst := 5, src1 := 6, src2 := 7, b1 := true, b2 := false, mod := 2 }),
    (0x038A30F6, 0, .divn { dst := 5, src1 := 6, src2 := 7, b1 := true, b2 := false, mod := 6 }),
    (0x040A30F2, 0, .rem { dst := 5, src1 := 6, src2 := 7, b1 := true, b2 := false, mod := 2 }),
    (0x048A30F6, 0, .remn { dst := 5, src1 := 6, src2 := 7, b1 := true, b2 := false, mod := 6 }),
    (0x050A30F2, 0, .min { dst := 5, src1 := 6, src2 := 7, b1 := true, b2 := false, mod := 2 }),
    (0x058A30F6, 0, .minn { dst := 5, src1 := 6, src2 := 7, b1 := true, b2 := false, mod := 6 }),
    (0x060A30F2, 0, .max { dst := 5, src1 := 6, src2 := 7, b1 := true, b2 := false, mod := 2 }),
    (0x068A30F6, 0, .maxn { dst := 5, src1 := 6, src2 := 7, b1 := true, b2 := false, mod := 6 }),
    (0x070A30F2, 0, .and { dst := 5, src1 := 6, src2 := 7, b1 := true, b2 := false, mod := 2 }),
    (0x078A3409, 0, .andi { dst := 5, src1 := 6, b1 := true, imm := 9, ext := none })
    ] : List (Word32 × Word32 × Instr)), decode 1 p.1 p.2.1 = some p.2.2 := by
  decide +kernel

/-- Scalar words, opcodes and fields written out from R53, R54 and the opcode table. -/
theorem test_decode_scalar1 : ∀ p ∈ ([
    (0x080A30F2, 0, .or { dst := 5, src1 := 6, src2 := 7, b1 := true, b2 := false, mod := 2 }),
    (0x088A3409, 0, .ori { dst := 5, src1 := 6, b1 := true, imm := 9, ext := none }),
    (0x090A30F2, 0, .xor { dst := 5, src1 := 6, src2 := 7, b1 := true, b2 := false, mod := 2 }),
    (0x098A3409, 0, .xori { dst := 5, src1 := 6, b1 := true, imm := 9, ext := none }),
    (0x0A0A30F2, 0, .andn { dst := 5, src1 := 6, src2 := 7, b1 := true, b2 := false, mod := 2 }),
    (0x0A8A30F2, 0, .shl { dst := 5, src1 := 6, src2 := 7, b1 := true, b2 := false, mod := 2 }),
    (0x0B0A3409, 0, .shli { dst := 5, src1 := 6, b1 := true, imm := 9, ext := none }),
    (0x0B8A30F6, 0, .shr { dst := 5, src1 := 6, src2 := 7, b1 := true, b2 := false, mod := 6 }),
    (0x0C0A3409, 0, .shri { dst := 5, src1 := 6, b1 := true, imm := 9, ext := none }),
    (0x0C8A30F2, 0, .sra { dst := 5, src1 := 6, src2 := 7, b1 := true, b2 := false, mod := 2 }),
    (0x0D0A3409, 0, .srai { dst := 5, src1 := 6, b1 := true, imm := 9, ext := none }),
    (0x0D8A30F2, 0, .rotl { dst := 5, src1 := 6, src2 := 7, b1 := true, b2 := false, mod := 2 }),
    (0x0E0A3012, 0, .clz { dst := 5, src1 := 6, src2 := 0, b1 := true, b2 := false, mod := 2 }),
    (0x0E8A3012, 0, .ctz { dst := 5, src1 := 6, src2 := 0, b1 := true, b2 := false, mod := 2 }),
    (0x0F0A3012, 0, .popc { dst := 5, src1 := 6, src2 := 0, b1 := true, b2 := false, mod := 2 }),
    (0x0F8A30F0, 0, .bfx { dst := 5, src1 := 6, src2 := 7, b1 := true, b2 := false, mod := 0 })
    ] : List (Word32 × Word32 × Instr)), decode 1 p.1 p.2.1 = some p.2.2 := by
  decide +kernel

/-- Scalar words, opcodes and fields written out from R53, R54 and the opcode table. -/
theorem test_decode_scalar2 : ∀ p ∈ ([
    (0x100A30F0, 0, .bfxs { dst := 5, src1 := 6, src2 := 7, b1 := true, b2 := false, mod := 0 }),
    (0x108A30F0, 0, .bfi { dst := 5, src1 := 6, src2 := 7, b1 := true, b2 := false, mod := 0 }),
    (0x110A3012, 0, .sext { dst := 5, src1 := 6, src2 := 0, b1 := true, b2 := false, mod := 2 }),
    (0x118A3016, 0, .zext { dst := 5, src1 := 6, src2 := 0, b1 := true, b2 := false, mod := 6 }),
    (0x120A3010, 0, .mov { dst := 5, src1 := 6, src2 := 0, b1 := true, b2 := false, mod := 0 }),
    (0x128A0009, 0, .movi { dst := 5, imm := 9, ext := none }),
    (0x130A0009, 0, .movhi { dst := 5, imm := 9, ext := none }),
    (0x13B030F5, 0, .cmp { pd := 3, src1 := 6, src2 := 7, b1 := true, b2 := false, cond := 5 }),
    (0x143A3409, 0, .cmpi { pd := 3, cond := 5, src1 := 6, b1 := true, imm := 9, ext := none }),
    (0x148A30F2, 0, .sel { dst := 5, src1 := 6, src2 := 7, b1 := true, b2 := false, mod := 2 }),
    (0x150A3012, 0, .abs { dst := 5, src1 := 6, src2 := 0, b1 := true, b2 := false, mod := 2 }),
    (0x158A3012, 0, .neg { dst := 5, src1 := 6, src2 := 0, b1 := true, b2 := false, mod := 2 }),
    (0x16358000, 0, .pand { pd := 3, pa := 2, pb := 6 }),
    (0x16B58000, 0, .por { pd := 3, pa := 2, pb := 6 }),
    (0x17358000, 0, .pxor { pd := 3, pa := 2, pb := 6 }),
    (0x17B40000, 0, .pnot { pd := 3, pa := 2, pb := 0 })
    ] : List (Word32 × Word32 × Instr)), decode 1 p.1 p.2.1 = some p.2.2 := by
  decide +kernel

/-- Scalar words, opcodes and fields written out from R53, R54 and the opcode table. -/
theorem test_decode_scalar3 : ∀ p ∈ ([
    (0x18340000, 0, .pmov { pd := 3, pa := 2, pb := 0 }),
    (0x188A30F2, 0, .fadds { dst := 5, src1 := 6, src2 := 7, b1 := true, b2 := false, mod := 2 }),
    (0x190A30F2, 0, .fsubs { dst := 5, src1 := 6, src2 := 7, b1 := true, b2 := false, mod := 2 }),
    (0x198A30F2, 0, .fmuls { dst := 5, src1 := 6, src2 := 7, b1 := true, b2 := false, mod := 2 }),
    (0x1A0A30F2, 0, .ffmas { dst := 5, src1 := 6, src2 := 7, b1 := true, b2 := false, mod := 2 }),
    (0x1A8A30F2, 0, .fmins { dst := 5, src1 := 6, src2 := 7, b1 := true, b2 := false, mod := 2 }),
    (0x1B0A30F2, 0, .fmaxs { dst := 5, src1 := 6, src2 := 7, b1 := true, b2 := false, mod := 2 }),
    (0x1BB030F5, 0, .fcmps { pd := 3, src1 := 6, src2 := 7, b1 := true, b2 := false, cond := 5 }),
    (0x1C0A3050, 0, .fcvts { dst := 5, src1 := 6, dty := 2, b1 := true, sty := 0 })
    ] : List (Word32 × Word32 × Instr)), decode 1 p.1 p.2.1 = some p.2.2 := by
  decide +kernel

/-- Memory words, opcodes and fields written out from R53, R54 and the opcode table. -/
theorem test_decode_memory0 : ∀ p ∈ ([
    (0x00195A31, 0, .ld { hold := false, reg := 12, abase := 10, b := true, ty := 5, step := 3, opt := 1, ext := none }),
    (0x00995A30, 0, .st { hold := false, reg := 12, abase := 10, b := true, ty := 5, step := 3, opt := 0, ext := none }),
    (0x01195031, 0, .ldv { hold := false, reg := 12, abase := 10, b := true, ty := 0, step := 3, opt := 1, ext := none }),
    (0x01995030, 0, .stv { hold := false, reg := 12, abase := 10, b := true, ty := 0, step := 3, opt := 0, ext := none }),
    (0x02195A31, 0, .ldvs { hold := false, reg := 12, abase := 10, b := true, ty := 5, step := 3, opt := 1, ext := none }),
    (0x02995A30, 0, .stvs { hold := false, reg := 12, abase := 10, b := true, ty := 5, step := 3, opt := 0, ext := none }),
    (0x0356A7B8, 0, .gath { hold := false, vreg := 21, abase := 10, vidx := 19, b := true, ty := 5, vm := 6, ext := none }),
    (0x03D6A7B8, 0, .scat { hold := false, vreg := 21, abase := 10, vidx := 19, b := true, ty := 5, vm := 6, ext := none }),
    (0x04195A00, 0, .ldl { hold := false, reg := 12, abase := 10, b := true, ty := 5, step := 0, opt := 0, ext := none }),
    (0x04995A00, 0, .stul { hold := false, reg := 12, abase := 10, b := true, ty := 5, step := 0, opt := 0, ext := none }),
    (0x05195A01, 0, .atom { hold := false, reg := 12, abase := 10, b := true, ty := 5, step := 0, opt := 1, ext := none }),
    (0x05995A00, 0, .cas { hold := false, reg := 12, abase := 10, b := true, ty := 5, step := 0, opt := 0, ext := none }),
    (0x060A30F2, 0, .aadd { dst := 5, src1 := 6, src2 := 7, b1 := true, b2 := false, mod := 2 }),
    (0x068A3012, 0, .amov { dst := 5, src1 := 6, src2 := 0, b1 := true, b2 := false, mod := 2 }),
    (0x07195A30, 0, .ldc { hold := false, reg := 12, abase := 10, b := true, ty := 5, step := 3, opt := 0, ext := none }),
    (0x08195000, 0, .binit { hold := false, reg := 12, abase := 10, b := true, ty := 0, step := 0, opt := 0, ext := none })
    ] : List (Word32 × Word32 × Instr)), decode 3 p.1 p.2.1 = some p.2.2 := by
  decide +kernel

/-- Memory words, opcodes and fields written out from R53, R54 and the opcode table. -/
theorem test_decode_memory1 : ∀ p ∈ ([
    (0x08995001, 0, .bexpect { hold := false, reg := 12, abase := 10, b := true, ty := 0, step := 0, opt := 1, ext := none }),
    (0x09195001, 0, .barrive { hold := false, reg := 12, abase := 10, b := true, ty := 0, step := 0, opt := 1, ext := none }),
    (0x09995000, 0, .bwait { hold := false, reg := 12, abase := 10, b := true, ty := 0, step := 0, opt := 0, ext := none }),
    (0x0A195000, 0, .bwaitp { hold := false, reg := 12, abase := 10, b := true, ty := 0, step := 0, opt := 0, ext := none }),
    (0x0A995001, 0, .btest { hold := false, reg := 12, abase := 10, b := true, ty := 0, step := 0, opt := 1, ext := none }),
    (0x0B195000, 0, .cadd { hold := false, reg := 12, abase := 10, b := true, ty := 0, step := 0, opt := 0, ext := none }),
    (0x0B995000, 0, .cwaitge { hold := false, reg := 12, abase := 10, b := true, ty := 0, step := 0, opt := 0, ext := none }),
    (0x3F800000, 0, .nopL)
    ] : List (Word32 × Word32 × Instr)), decode 3 p.1 p.2.1 = some p.2.2 := by
  decide +kernel

/-- Vector words, opcodes and fields written out from R53, R54 and the opcode table. -/
theorem test_decode_vector0 : ∀ p ∈ ([
    (0x000A30F2, 0, .vadd { hold := false, dst := 5, src1 := 6, src2 := 7, b1 := true, b2 := false, mod := 2, ext := none }),
    (0x008A30F2, 0, .vsub { hold := false, dst := 5, src1 := 6, src2 := 7, b1 := true, b2 := false, mod := 2, ext := none }),
    (0x010A30F2, 0, .vmul { hold := false, dst := 5, src1 := 6, src2 := 7, b1 := true, b2 := false, mod := 2, ext := none }),
    (0x018A30F2, 0, .vfma { hold := false, dst := 5, src1 := 6, src2 := 7, b1 := true, b2 := false, mod := 2, ext := none }),
    (0x020A30F2, 0, .vfms { hold := false, dst := 5, src1 := 6, src2 := 7, b1 := true, b2 := false, mod := 2, ext := none }),
    (0x028A30F2, 0, .vmin { hold := false, dst := 5, src1 := 6, src2 := 7, b1 := true, b2 := false, mod := 2, ext := none }),
    (0x030A30F2, 0, .vmax { hold := false, dst := 5, src1 := 6, src2 := 7, b1 := true, b2 := false, mod := 2, ext := none }),
    (0x038A3012, 0, .vabs { hold := false, dst := 5, src1 := 6, src2 := 0, b1 := true, b2 := false, mod := 2, ext := none }),
    (0x040A3012, 0, .vneg { hold := false, dst := 5, src1 := 6, src2 := 0, b1 := true, b2 := false, mod := 2, ext := none }),
    (0x048A30F2, 0, .vand { hold := false, dst := 5, src1 := 6, src2 := 7, b1 := true, b2 := false, mod := 2, ext := none }),
    (0x050A30F2, 0, .vor { hold := false, dst := 5, src1 := 6, src2 := 7, b1 := true, b2 := false, mod := 2, ext := none }),
    (0x058A30F2, 0, .vxor { hold := false, dst := 5, src1 := 6, src2 := 7, b1 := true, b2 := false, mod := 2, ext := none }),
    (0x060A3012, 0, .vnot { hold := false, dst := 5, src1 := 6, src2 := 0, b1 := true, b2 := false, mod := 2, ext := none }),
    (0x068A30F4, 0, .vshl { hold := false, dst := 5, src1 := 6, src2 := 7, b1 := true, b2 := false, mod := 4, ext := none }),
    (0x070A30F4, 0, .vshr { hold := false, dst := 5, src1 := 6, src2 := 7, b1 := true, b2 := false, mod := 4, ext := none }),
    (0x078A30F4, 0, .vsra { hold := false, dst := 5, src1 := 6, src2 := 7, b1 := true, b2 := false, mod := 4, ext := none })
    ] : List (Word32 × Word32 × Instr)), decode 4 p.1 p.2.1 = some p.2.2 := by
  decide +kernel

/-- Vector words, opcodes and fields written out from R53, R54 and the opcode table. -/
theorem test_decode_vector1 : ∀ p ∈ ([
    (0x080A30F2, 0, .vcmp { hold := false, dst := 5, src1 := 6, src2 := 7, b1 := true, b2 := false, mod := 2, ext := none }),
    (0x088A30F2, 0, .vsel { hold := false, dst := 5, src1 := 6, src2 := 7, b1 := true, b2 := false, mod := 2, ext := none }),
    (0x090A3012, 0, .vmov { hold := false, dst := 5, src1 := 6, src2 := 0, b1 := true, b2 := false, mod := 2, ext := none }),
    (0x098A3012, 0, .vmovs { hold := false, dst := 5, src1 := 6, src2 := 0, b1 := true, b2 := false, mod := 2, ext := none }),
    (0x0A0A30F2, 0, .vextr { hold := false, dst := 5, src1 := 6, src2 := 7, b1 := true, b2 := false, mod := 2, ext := none }),
    (0x0A8A30F2, 0, .vins { hold := false, dst := 5, src1 := 6, src2 := 7, b1 := true, b2 := false, mod := 2, ext := none }),
    (0x0B0A30F2, 0, .vperm { hold := false, dst := 5, src1 := 6, src2 := 7, b1 := true, b2 := false, mod := 2, ext := none }),
    (0x0B8A30F2, 0, .vslide { hold := false, dst := 5, src1 := 6, src2 := 7, b1 := true, b2 := false, mod := 2, ext := none }),
    (0x0C0A30F4, 0, .viota { hold := false, dst := 5, src1 := 6, src2 := 7, b1 := true, b2 := false, mod := 4, ext := none }),
    (0x0C8A3012, 0, .vcompr { hold := false, dst := 5, src1 := 6, src2 := 0, b1 := true, b2 := false, mod := 2, ext := none }),
    (0x0D0A3012, 0, .vcvt { hold := false, dst := 5, src1 := 6, src2 := 0, b1 := true, b2 := false, mod := 2, ext := none }),
    (0x8D8A4017, 0x0A000000, .vquant { hold := false, dst := 5, src1 := 8, src2 := 0, b1 := true, b2 := false, mod := 7, ext := some 0x0A000000 }),
    (0x8E0A3011, 0x00140000, .vdeq { hold := false, dst := 5, src1 := 6, src2 := 0, b1 := true, b2 := false, mod := 1, ext := some 0x00140000 }),
    (0x0E8A30F2, 0, .vdot { hold := false, dst := 5, src1 := 6, src2 := 7, b1 := true, b2 := false, mod := 2, ext := none }),
    (0x0F0A3012, 0, .vrsum { hold := false, dst := 5, src1 := 6, src2 := 0, b1 := true, b2 := false, mod := 2, ext := none }),
    (0x0F8A3012, 0, .vrmax { hold := false, dst := 5, src1 := 6, src2 := 0, b1 := true, b2 := false, mod := 2, ext := none })
    ] : List (Word32 × Word32 × Instr)), decode 4 p.1 p.2.1 = some p.2.2 := by
  decide +kernel

/-- Vector words, opcodes and fields written out from R53, R54 and the opcode table. -/
theorem test_decode_vector2 : ∀ p ∈ ([
    (0x100A3012, 0, .vrmin { hold := false, dst := 5, src1 := 6, src2 := 0, b1 := true, b2 := false, mod := 2, ext := none }),
    (0x108A3012, 0, .vrmaxi { hold := false, dst := 5, src1 := 6, src2 := 0, b1 := true, b2 := false, mod := 2, ext := none }),
    (0x110A3012, 0, .vrmini { hold := false, dst := 5, src1 := 6, src2 := 0, b1 := true, b2 := false, mod := 2, ext := none }),
    (0x118A3012, 0, .vscan { hold := false, dst := 5, src1 := 6, src2 := 0, b1 := true, b2 := false, mod := 2, ext := none }),
    (0x120A3014, 0, .vpopc { hold := false, dst := 5, src1 := 6, src2 := 0, b1 := true, b2 := false, mod := 4, ext := none }),
    (0x128A3014, 0, .vclz { hold := false, dst := 5, src1 := 6, src2 := 0, b1 := true, b2 := false, mod := 4, ext := none }),
    (0x130A3012, 0, .vrcp { hold := false, dst := 5, src1 := 6, src2 := 0, b1 := true, b2 := false, mod := 2, ext := none }),
    (0x138A3012, 0, .vrsq { hold := false, dst := 5, src1 := 6, src2 := 0, b1 := true, b2 := false, mod := 2, ext := none }),
    (0x140A3012, 0, .vexp2 { hold := false, dst := 5, src1 := 6, src2 := 0, b1 := true, b2 := false, mod := 2, ext := none }),
    (0x148A3012, 0, .vlog2 { hold := false, dst := 5, src1 := 6, src2 := 0, b1 := true, b2 := false, mod := 2, ext := none }),
    (0x150A3012, 0, .vtanh { hold := false, dst := 5, src1 := 6, src2 := 0, b1 := true, b2 := false, mod := 2, ext := none }),
    (0x158A30F2, 0, .vmset { hold := false, dst := 5, src1 := 6, src2 := 7, b1 := true, b2 := false, mod := 2, ext := none }),
    (0x160A30F2, 0, .vmops { hold := false, dst := 5, src1 := 6, src2 := 7, b1 := true, b2 := false, mod := 2, ext := none }),
    (0x3F800000, 0, .nopV)
    ] : List (Word32 × Word32 × Instr)), decode 4 p.1 p.2.1 = some p.2.2 := by
  decide +kernel

/-- Matrix words, opcodes and fields written out from R53, R54 and the opcode table. -/
theorem test_decode_matrix0 : ∀ p ∈ ([
    (0x004A8970, 0, .mma { hold := false, acc := 9, sreg := 20, aa := 4, ab := 11, b := true, opt := 0, ext := none }),
    (0x00CA8970, 0, .mmaz { hold := false, acc := 9, sreg := 20, aa := 4, ab := 11, b := true, opt := 0, ext := none }),
    (0x014A8970, 0, .mmas { hold := false, acc := 9, sreg := 20, aa := 4, ab := 11, b := true, opt := 0, ext := none }),
    (0x01828810, 0, .mcbld { hold := false, acc := 0, sreg := 20, aa := 4, ab := 0, b := true, opt := 0, ext := none }),
    (0x024A8970, 0, .accrd { hold := false, acc := 9, sreg := 20, aa := 4, ab := 11, b := true, opt := 0, ext := none }),
    (0x02CA8971, 0, .accwr { hold := false, acc := 9, sreg := 20, aa := 4, ab := 11, b := true, opt := 1, ext := none }),
    (0x034A8001, 0, .accz { hold := false, acc := 9, sreg := 20, aa := 0, ab := 0, b := false, opt := 1, ext := none }),
    (0x03828010, 0, .mwait { hold := false, acc := 0, sreg := 20, aa := 0, ab := 0, b := true, opt := 0, ext := none }),
    (0x04028001, 0, .mstat { hold := false, acc := 0, sreg := 20, aa := 0, ab := 0, b := false, opt := 1, ext := none }),
    (0x04800000, 0, .mdrain { hold := false, acc := 0, sreg := 0, aa := 0, ab := 0, b := false, opt := 0, ext := none }),
    (0x3F800000, 0, .nopM)
    ] : List (Word32 × Word32 × Instr)), decode 5 p.1 p.2.1 = some p.2.2 := by
  decide +kernel

/-- Engine words, opcodes and fields written out from R53, R54 and the opcode table. -/
theorem test_decode_engine0 : ∀ p ∈ ([
    (0x0029B0C1, 0, .xcopy { hold := false, sreg := 20, adesc := 13, sarg := 33, b := true, opt := 1 }),
    (0x00A9B0C0, 0, .xfill { hold := false, sreg := 20, adesc := 13, sarg := 33, b := true, opt := 0 }),
    (0x0129A041, 0, .xsub { hold := false, sreg := 20, adesc := 13, sarg := 0, b := true, opt := 1 }),
    (0x0181B0C0, 0, .xunsub { hold := false, sreg := 0, adesc := 13, sarg := 33, b := true, opt := 0 }),
    (0x022810C0, 0, .xslot { hold := false, sreg := 20, adesc := 0, sarg := 33, b := true, opt := 0 }),
    (0x02A9B0C1, 0, .xremw { hold := false, sreg := 20, adesc := 13, sarg := 33, b := true, opt := 1 }),
    (0x0329B0C1, 0, .xrcopy { hold := false, sreg := 20, adesc := 13, sarg := 33, b := true, opt := 1 }),
    (0x0381B0C1, 0, .xcadd { hold := false, sreg := 0, adesc := 13, sarg := 33, b := true, opt := 1 }),
    (0x0429B0C1, 0, .xmcast { hold := false, sreg := 20, adesc := 13, sarg := 33, b := true, opt := 1 }),
    (0x0401B0E0, 0, .xmcastSet { hold := false, sreg := 0, adesc := 13, sarg := 33, b := true, opt := 32 }),
    (0x04A9B0C0, 0, .xmigr { hold := false, sreg := 20, adesc := 13, sarg := 33, b := true, opt := 0 }),
    (0x0529B0C1, 0, .xcoll { hold := false, sreg := 20, adesc := 13, sarg := 33, b := true, opt := 1 }),
    (0x05A9B0C0, 0, .xgjoin { hold := false, sreg := 20, adesc := 13, sarg := 33, b := true, opt := 0 }),
    (0x062810C0, 0, .xgleave { hold := false, sreg := 20, adesc := 0, sarg := 33, b := true, opt := 0 }),
    (0x06A9B0C0, 0, .xgagree { hold := false, sreg := 20, adesc := 13, sarg := 33, b := true, opt := 0 }),
    (0x07280001, 0, .xcancel { hold := false, sreg := 20, adesc := 0, sarg := 0, b := false, opt := 1 })
    ] : List (Word32 × Word32 × Instr)), decode 6 p.1 p.2.1 = some p.2.2 := by
  decide +kernel

/-- Engine words, opcodes and fields written out from R53, R54 and the opcode table. -/
theorem test_decode_engine1 : ∀ p ∈ ([
    (0x3F800000, 0, .nopX)
    ] : List (Word32 × Word32 × Instr)), decode 6 p.1 p.2.1 = some p.2.2 := by
  decide +kernel

/-! ### Ill-formed terms, one for each check of `WellFormed` -/

/-- The fields that format A leaves unused in an op are zero (R55). -/
theorem test_wf_unused_A :
    (∀ f ∈ [Instr.bri, .calli, .sleepu, .waitfe, .snapst, .snapld, .rprobe, .wprobe, .fmtset, .fence], (f (fa 1 0 0 0)).wf = false)
    ∧ (∀ f ∈ [Instr.bri, .calli, .sleepu, .snapst, .snapld, .fmtset, .kjoin, .relaunch, .bfx, .bfxs, .bfi, .mov], (f (fa 0 0 0 1)).wf = false)
    ∧ (∀ f ∈ [Instr.bri, .calli, .sleepu, .waitfe, .snapst, .snapld, .pgalloc, .fence, .kjoin, .relaunch, .clz, .ctz, .popc, .sext, .mov, .abs, .neg, .amov],
        (f (fa 0 0 1 0)).wf = false ∧ (f { fa 0 0 0 0 with b2 := true }).wf = false)
    ∧ ((Instr.fence (fa 0 1 0 0)).wf = false ∧ (Instr.fence { fa 0 0 0 0 with b1 := true }).wf = false)
    ∧ ((Instr.zext (fa 0 0 1 4)).wf = false ∧ (Instr.zext { fa 0 0 0 4 with b2 := true }).wf = false) := by
  decide

/-- The mod values that an op accepts. -/
theorem test_wf_mod :
    (∀ f ∈ [Instr.rprobe, .wprobe, .fadds, .fsubs, .fmuls, .ffmas, .fmins, .fmaxs], (f (fa 0 0 0 3)).wf = false)
    ∧ (∀ f ∈ [Instr.mulhi, .div, .rem, .min, .max, .sra, .sext, .fence], (f (fa 0 0 0 4)).wf = false)
    ∧ (∀ f ∈ [Instr.mulhn, .divn, .remn, .minn, .maxn, .shr, .zext], (f (fa 0 0 0 3)).wf = false)
    ∧ (Instr.pgalloc (fa 0 0 0 2)).wf = false ∧ (Instr.amov (fa 0 0 0 5)).wf = false := by
  decide

/-- Register fields beyond their file. -/
theorem test_wf_files :
    (∀ x ∈ [fa 16 0 0 0, fa 0 16 0 1, fa 6 0 0 2, fa 0 6 0 3, { fa 0 0 0 3 with b1 := true }, fa 16 0 0 4, fa 0 16 0 4], (Instr.amov x).wf = false)
    ∧ (Instr.aadd (fa 16 0 0 0)).wf = false ∧ (Instr.aadd (fa 0 16 0 0)).wf = false
    ∧ (∀ f ∈ [Instr.ldv, .stv, .ldvs, .stvs], (f (fm 32 0 0)).wf = false) ∧ (Instr.xremw (fx 32 0 0 0)).wf = false
    ∧ (∀ x ∈ [fv 32 0 0 0 none, fv 0 32 0 0 none, fv 0 0 32 0 none], (Instr.vadd x).wf = false)
    ∧ (Instr.vcmp (fv 8 0 0 0 none)).wf = false ∧ (Instr.vmset (fv 8 0 0 0 none)).wf = false
    ∧ (∀ x ∈ [fv 8 0 0 0 none, fv 0 8 0 0 none, fv 0 0 8 0 none, fv 0 0 4 7 none], (Instr.vmops x).wf = false) := by
  decide

/-- The other formats of slots S0 to S2. -/
theorem test_wf_formats :
    (∀ f ∈ [Instr.br, .call], (f { pred := 1, neg := false, ofs := 0, ext := none }).wf = false ∧ (f { pred := 0, neg := true, ofs := 0, ext := none }).wf = false
      ∧ (f { pred := 0, neg := false, ofs := 1, ext := some 0 }).wf = false)
    ∧ (Instr.brp { pred := 0, neg := false, ofs := 1, ext := some 0 }).wf = false
    ∧ (∀ f ∈ [Instr.trap, .bkpt, .abort], (f { dst := 1, imm := 0, ext := none }).wf = false)
    ∧ (∀ f ∈ [Instr.trap, .bkpt, .abort, .movi, .movhi], (f { dst := 0, imm := 1, ext := some 0 }).wf = false)
    ∧ (∀ f ∈ [Instr.addi, .andi, .ori, .xori, .shli, .shri, .srai], (f { dst := 0, src1 := 0, b1 := false, imm := 1, ext := some 0 }).wf = false)
    ∧ (∀ f ∈ [Instr.shli, .shri, .srai], (f { dst := 0, src1 := 0, b1 := false, imm := 64, ext := none }).wf = false
      ∧ (f { dst := 0, src1 := 0, b1 := false, imm := 0, ext := some 0 }).wf = false)
    ∧ (Instr.cmpi { pd := 0, cond := 0, src1 := 0, b1 := false, imm := 1, ext := some 0 }).wf = false
    ∧ (Instr.csrr { dst := 0, src1 := 1, b1 := false, index := 0 }).wf = false ∧ (Instr.csrr { dst := 0, src1 := 0, b1 := true, index := 0 }).wf = false
    ∧ (Instr.csrw { dst := 1, src1 := 0, b1 := false, index := 0 }).wf = false ∧ (Instr.launch { dst := 0, pd := 1, abase := 0, b := false }).wf = false
    ∧ (Instr.pnot { pd := 0, pa := 0, pb := 1 }).wf = false ∧ (Instr.pmov { pd := 0, pa := 0, pb := 1 }).wf = false := by
  decide

/-- The L slot. -/
theorem test_wf_L :
    (∀ f ∈ [Instr.ld, .ldv, .ldvs, .bexpect, .barrive, .btest], (f { fm 0 0 0 with opt := 2 }).wf = false)
    ∧ (∀ f ∈ [Instr.st, .stv, .stvs, .ldl, .stul, .cas, .ldc, .binit, .bwait, .bwaitp, .cadd, .cwaitge], (f { fm 2 0 0 with opt := 1 }).wf = false)
    ∧ (∀ f ∈ [Instr.ldv, .stv, .binit, .bexpect, .barrive, .bwait, .bwaitp, .btest, .cadd, .cwaitge], (f (fm 0 0 1)).wf = false)
    ∧ (∀ f ∈ [Instr.ldl, .stul, .atom, .cas, .binit, .bexpect, .barrive, .bwait, .bwaitp, .btest, .cadd, .cwaitge],
        (f { fm 2 0 0 with hold := true }).wf = false ∧ (f { fm 2 0 0 with step := 1 }).wf = false)
    ∧ (∀ f ∈ [Instr.ldvs, .stvs], (f (fm 0 1 0)).wf = false) ∧ (∀ f ∈ [Instr.atom, .cas], (f (fm 2 0 2)).wf = false)
    ∧ (Instr.atom { fm 0 0 0 with opt := 7 }).wf = false ∧ (Instr.cas (fm 3 0 0)).wf = false ∧ (Instr.cas (fm 0 0 0)).wf = false
    ∧ (∀ f ∈ [Instr.gath, .scat], (f { hold := false, vreg := 0, abase := 0, vidx := 0, b := false, ty := 7, vm := 0, ext := none }).wf = false) := by
  decide

/-- The V slot: a field of the extension word that the op does not use, a type outside its classes, two types, a rounding mode, SAT of a
floating type, an unused source, PK of a wide type, a saturating conversion between kinds, a codebook with an output type, a dot product's, a scan's
and a compare's own field, and the mask ops. -/
theorem test_wf_V :
    (∀ x ∈ [fv 0 0 0 0 (some 1), fv 0 0 0 7 (some 0x06000000), fv 0 0 0 7 (some 0x16000000), fv 0 0 0 0 (some 0x02000000), fv 0 0 0 0 (some 0x180),
        fv 0 0 0 0 (some 0x00800000), fv 0 0 0 4 (some 0x40)], (Instr.vadd x).wf = false)
    ∧ (∀ f ∈ [Instr.vabs, .vmov, .vrcp], (f (fv 0 0 1 0 none)).wf = false ∧ (f { fv 0 0 0 0 none with b2 := true }).wf = false)
    ∧ (Instr.vshl (fv 0 0 0 0 none)).wf = false ∧ (Instr.vrcp (fv 0 0 0 4 none)).wf = false
    ∧ (∀ x ∈ [fv 0 0 0 0 (some 0x00008000), fv 0 0 0 0 (some 0x00800000), fv 0 0 0 0 (some 0x002C0000)], (Instr.vcvt x).wf = false)
    ∧ (∀ x ∈ [fv 0 0 0 7 (some 0x060C0000), fv 0 0 0 7 (some 0x06008000)], (Instr.vquant x).wf = false)
    ∧ (∀ x ∈ [fv 0 0 0 3 (some 0x00140000), fv 0 0 0 0 (some 0x00144000), fv 0 0 0 0 (some 0xC000), fv 0 0 0 0 none, fv 0 0 0 0 (some 0x000C8000)],
        (Instr.vdeq x).wf = false)
    ∧ (Instr.vdot (fv 0 0 0 0 (some 2))).wf = false ∧ (Instr.vscan (fv 0 0 0 0 (some 3))).wf = false ∧ (Instr.vscan (fv 0 0 0 4 (some 0x40))).wf = false
    ∧ (Instr.vcmp (fv 0 0 0 4 (some 6))).wf = false
    ∧ (∀ x ∈ [fv 0 0 0 3 none, fv 0 0 0 0 (some 1), fv 0 0 1 0 none, { fv 0 0 0 0 none with b2 := true }], (Instr.vmset x).wf = false)
    ∧ (∀ x ∈ [fv 0 0 0 0 (some 1), { fv 0 0 0 4 none with b2 := true }, fv 0 0 1 4 none], (Instr.vmops x).wf = false) := by
  decide

/-- The M slot. -/
theorem test_wf_M :
    (∀ f ∈ [Instr.mma, .mmaz, .mmas], (f (fmx 0 0 0 0 1 none)).wf = false ∧ (f (fmx 0 0 0 0 0 (some 1024))).wf = false)
    ∧ (∀ f ∈ [Instr.accrd, .accwr], (f (fmx 0 0 0 0 0 (some 1))).wf = false)
    ∧ (∀ f ∈ [Instr.mcbld, .accrd, .accwr, .accz, .mwait, .mstat, .mdrain], (f { fmx 0 0 0 0 0 none with hold := true }).wf = false
      ∧ (f (fmx 0 0 0 0 15 none)).wf = false)
    ∧ (∀ f ∈ [Instr.mcbld, .accz, .mwait, .mstat, .mdrain], (f (fmx 0 0 0 0 0 (some 0))).wf = false ∧ (f (fmx 0 0 0 1 0 none)).wf = false)
    ∧ (∀ f ∈ [Instr.mcbld, .mwait, .mstat, .mdrain], (f (fmx 1 0 0 0 0 none)).wf = false)
    ∧ (∀ f ∈ [Instr.accz, .mwait, .mstat, .mdrain], (f (fmx 0 0 1 0 0 none)).wf = false)
    ∧ (∀ f ∈ [Instr.accz, .mstat, .mdrain], (f { fmx 0 0 0 0 0 none with b := true }).wf = false) ∧ (Instr.mdrain (fmx 0 1 0 0 0 none)).wf = false := by
  decide

/-- The X slot. -/
theorem test_wf_X :
    (∀ f ∈ [Instr.xcopy, .xunsub, .xslot, .xremw, .xmcast, .xmcastSet, .xmigr, .xcoll, .xgjoin, .xgleave, .xgagree, .xcancel], (f (fx 0 0 0 63)).wf = false)
    ∧ ((Instr.xfill (fx 0 0 0 1)).wf = false ∧ (Instr.xsub (fx 0 0 0 4)).wf = false ∧ (Instr.xcadd (fx 0 0 0 8)).wf = false)
    ∧ (∀ f ∈ [Instr.xsub, .xunsub, .xrcopy, .xcadd, .xmcast, .xmigr, .xcoll, .xgjoin, .xgleave, .xgagree], (f { fx 0 0 0 0 with hold := true }).wf = false)
    ∧ (Instr.xmcastSet { fx 0 0 0 32 with hold := true }).wf = false ∧ (Instr.xcancel { fx 0 0 0 1 with hold := true }).wf = false
    ∧ (Instr.xsub (fx 0 0 1 0)).wf = false ∧ (∀ f ∈ [Instr.xunsub, .xcadd], (f (fx 1 0 0 0)).wf = false) ∧ (Instr.xmcastSet (fx 1 0 0 32)).wf = false
    ∧ (∀ f ∈ [Instr.xslot, .xgleave], (f (fx 0 1 0 0)).wf = false) ∧ (Instr.xcancel (fx 0 1 0 2)).wf = false
    ∧ (Instr.xcancel (fx 0 0 1 1)).wf = false ∧ (Instr.xcancel { fx 0 0 0 1 with b := true }).wf = false
    ∧ (∀ n ∈ [0, 3], (Instr.xcancel (fx 0 0 0 (BitVec.ofNat 6 n))).wf = false) := by
  decide

/-- Events of a unit that the package does not have. -/
theorem test_wf_events :
    (∀ f ∈ [Instr.bundleIssue, .quantum, .preload, .swap, .spill, .entryStart, .wave, .entryComplete, .resetCore, .resetMatrix, .resetCopy], (f 768).wf = false)
    ∧ (∀ f ∈ [Instr.enable, .disable, .resume, .kill, .packetWaits, .eventRecord], (f 8192).wf = false)
    ∧ (∀ f ∈ [Instr.dispatch, .predelay, .powerUp], (f 32).wf = false)
    ∧ (∀ f ∈ [Instr.restripe, .trainTimeout, .crcThreshold, .drain, .drainTimeout, .retrain, .fencePort, .disablePort, .resetPort], (f 16).wf = false)
    ∧ (Instr.flitSend 24).wf = false ∧ (Instr.resetDie 4).wf = false
    ∧ (∀ f ∈ [Instr.resetCluster, .resetQuay, .resetCollective, .recordStart, .capWindow, .relock, .ageingStep], (f 8).wf = false) := by
  decide

/-! ### Words and values that the spec works out -/

/-- The slot words worked in R105, R291, R316, R331 and R372, of a bundle's own example, and of `SNAPST` (09_context.md). -/
theorem test_decode_worked :
    ∀ p ∈ ([
      (1, 0x000618A0, 0, .add (fa 3 3 5 0)), (3, 0x00864810, 0, .st { fm 3 2 4 with step := 1 }),
      (3, 0x89C08000, 0x10, .bwait { fm 32 4 0 with ext := some 0x10 }), (6, 0x0000400C, 0, .xcopy (fx 0 2 0 12)),
      (0, 0x0E0A9800, 0, .launcht { dst := 5, pd := 2, abase := 6, b := false }), (0, 0x0F0E4000, 0, .relaunch (fa 7 8 0 0)),
      (6, 0x0288C482, 0, .xremw (fx 4 6 9 2)), (6, 0x0380E302, 0, .xcadd (fx 0 7 6 2)), (0, 0x0781E000, 0, .snapst (fa 0 60 0 0))
      ] : List (Nat × Word32 × Word32 × Instr)),
      decode p.1 p.2.1 p.2.2.1 = some p.2.2.2 ∧ (encode p.2.2.2).map (fun w => (w.word, w.ext)) = some (p.2.1, p.2.2.1) := by
  decide +kernel

/-- -2.75, 0.01 and 500 in each format (R78): the encoding and the flags. -/
theorem test_rounding_worked :
    let c := fun (sat : Bool) (t : FTy) (x : Nat) => convert { rnd := 0, sat := sat, nanm := false } false (.fl f32) (.fl t) x 0
    c false f16 0xC0300000 = (0xC180, 0) ∧ c false bf16 0xC0300000 = (0xC030, 0) ∧ c false e4m3 0xC0300000 = (0xC3, 0)
    ∧ c false e5m2 0xC0300000 = (0xC2, flNX) ∧ c false e2m3 0xC0300000 = (0x33, 0) ∧ c false e3m2 0xC0300000 = (0x32, flNX)
    ∧ c false e2m1 0xC0300000 = (0xD, flNX) ∧ c false e4m3 0x3C23D70A = (0x05, flNX ||| flUF) ∧ c true e4m3 0x43FA0000 = (0x7E, flOF ||| flNX)
    ∧ c false e4m3 0x43FA0000 = (0x7F, flOF ||| flNX) ∧ c false e5m2 0x43FA0000 = (0x60, flNX) := by
  decide +kernel

/-- Two conversions to `.bf16` under SR from `SEED` 0xACE1 (R87). -/
theorem test_stochastic_worked :
    let c := fun (seed : BitVec 16) x => Draw.run { fl := 0, seed := seed } true 4
      (convert { rnd := 4, sat := false, nanm := false } false (.fl f32) (.fl bf16) x)
    c 0xACE1 0x3F80C000 = (0x3F81, { fl := flNX, seed := 0x59C3 }) ∧ c 0x59C3 0x3F804000 = (0x3F80, { fl := flNX, seed := 0xB387 }) := by
  decide +kernel

/-- Eight groups quantised to `.e4m3` with `FMT.JUMP` 2: the bitmap and the scales of the three blocks by both rules, and 500 in a block of
its own (R88 to R92). -/
theorem test_quantise_worked :
    let g := [[Num.fin false 3 0], [.fin false 5 0], [.fin false 3 (-1)], [.fin false 40 0], [.fin false 33 0], [.fin false 0 0],
      [.fin false 13 (-6)], [.fin false 5 (-4)]]
    let bl := blocksOf 2 2 0 { groups := 0, amax := .fin false 0 0, prev := false } g
    let env : FEnv := { rnd := 0, sat := false, nanm := false }
    boundBits 0 bl = 0x49 ∧ bl.map (fun b => blockCode 0 e4m3 b.flatten) = [0x79, 0x7C, 0x75]
    ∧ bl.map (fun b => blockCode 1 e4m3 b.flatten) = [0x79, 0x7C, 0x75]
    ∧ blockCode 0 e4m3 [.fin false 500 0] = 0x7F ∧ quantElem e4m3 env false 0x7F (.fin false 500 0) 0 = (0x7E, flOF ||| flNX)
    ∧ blockCode 1 e4m3 [.fin false 500 0] = 0x80 ∧ quantElem e4m3 env false 0x80 (.fin false 500 0) 0 = (0x78, flNX) := by
  decide +kernel

/-- The weights of index 0x2A53 at a codebook entry of 0x41527013 (R94). -/
theorem test_codebook_worked :
    (List.range 8).map (cbWeight 0x41527013 0x2A53) = [.fin true 4 (-1), .fin false 2 (-1), .fin false 1 (-1), .fin true 8 (-1),
      .fin false 3 (-1), .fin true 6 (-1), .fin false 2 (-1), .fin true 5 (-1)] := by
  decide

/-- A byte of core 613's scratchpad (R31). -/
theorem test_address_worked :
    tierOf 0xFFF0000032504A20 = true ∧ coreOfAddr 0x00B0000032504A20 = 613 ∧ ofsOf 0x00B0000032504A20 % 2 ^ 20 = 0x4A20 := by
  decide

/-- The calendar of four jobs, in a partition that owns slots 0 to 15 (R303). -/
theorem test_calendar_worked :
    let s := fun cal => ({ State.reset with parts := [(0, some part0)], slotMasks := [(0, 0xFFFF)] }).updCore 0 (fun k => { k with cal := cal })
    reserveAt (s []) 0 0 true 64 1001 = [(1024, 64)] ∧ reserveAt (s [(1024, 64)]) 0 0 true 128 1003 = [(1088, 128)]
    ∧ reserveAt (s [(1024, 64), (1088, 128)]) 0 0 true 256 1100 = [(1216, 64), (2048, 192)]
    ∧ reserveAt (s [(1024, 64), (1088, 128), (1216, 64), (2048, 192)]) 0 0 false 32 1007 = [(1007, 17), (1280, 15)] := by
  decide +kernel

/-! ### Single steps -/

/-- `DIV.i32` of -2^31 by -1 (R119): the quotient wraps, and OF is set. -/
theorem test_div_overflow :
    let t := exec (.div (fa 3 1 2 1)) (withS 0xFFFFFFFF80000000 0xFFFFFFFFFFFFFFFF)
    (match t with
      | .next t => t.me.pend.map (fun p => (p.reg, p.val)) == [(3, 0xFFFFFFFF80000000)] && t.me.flags == flOF
      | .fault _ => false
      | .refused _ => false) = true := by
  decide +kernel

/-- A store of `.n64` puts its bytes little-endian, at the register, and then steps it (02_bundles.md, the worked bundle). -/
theorem test_store_steps :
    let t := exec (.st { fm 3 2 4 with step := 1 }) (on (fun c => { c with a := [(2, 0x1000)], s := [(3, 7)] }))
    (match t with
      | .next t => t.mem == [(2 ^ 39 + 0x1000, 7)] && t.me.rA 2 == 0x1008
      | .fault _ => false
      | .refused _ => false) = true := by
  decide +kernel

/-- A word placed for the first step runs: `PNOT p3, p2` posts its result, and the next bundle is 8 bytes on. -/
theorem test_placed_word_runs :
    decodeTableWord 32 0x17B40000 = some (.pnot { pd := 3, pa := 2, pb := 0 })
    ∧ (match step (State.reset.withFetchWord 32 0x17B40000) with
      | .next t => (t.ctx 0).pend.map (·.reg) == [3] && (t.ctx 0).pc == n64 (0x7FF * 2 ^ 53 + 8)
      | .fault _ => false
      | .refused _ => false) = true := by
  decide +kernel

end Sys2Proof.Tests
end

/-! The functions of the management controller other than its resets (R20, R23 to R29, R265, R297, R410 to R413): what each command
leaves in Sorric's registers and in the partitions, and the statement about them. -/

namespace Sys2Proof.Machine

open Sys2Proof

theorem Happens.of_eq {s t u : State} {i : Instr} {P : State → Prop} (hi : exec i s = .next t) (h : t = u) (hP : P u) :
    Happens s i P := ⟨u, h ▸ hi, hP⟩

/-! ### Event records (R284, R369) -/

theorem OnlyMem.markTile {s b : State} (h : OnlyMem s b) (e : Seg) (ofs : Nat) : OnlyMem s (markTile b e ofs) := by
  unfold Machine.markTile
  split
  · exact OnlyMem.foldl _ (fun _ _ hb => hb.setByte _ _) _ h
  · exact h

theorem OnlyMem.markPhys {s b : State} (h : OnlyMem s b) (pa : Nat) : OnlyMem s (markPhys b pa) := by
  refine OnlyMem.foldl _ (fun c p hc => ?_) _ h
  split
  · exact hc.markTile _ _
  · exact hc

theorem OnlyMem.quayBytes {s : State} (l : List Byte) : ∀ {b : State} (pa : Nat), OnlyMem s b → OnlyMem s (quayBytes b pa l) := by
  induction l with
  | nil => intro b pa h; exact h
  | cons v t ih => intro b pa h; exact ih (pa + 1) ((h.markPhys pa).setByte pa v)

/-- `t` has the cores of `s`, and of Sorric's registers only the log may differ: what the posting of an event record leaves. -/
def Logged (s t : State) : Prop := t.cores = s.cores ∧ ∃ l, t.sorric = { s.sorric with log := l }

theorem Logged.of_eq {s t : State} (hc : t.cores = s.cores) (hs : t.sorric = s.sorric) : Logged s t := ⟨hc, s.sorric.log, hs⟩

theorem logged_putRecord (s : State) (q : Nat) (rec : List Byte) (intr : Bool) : Logged s (putRecord s q rec intr) := by
  have hb : ∀ pa, OnlyMem s (quayBytes s pa rec) := fun pa => (OnlyMem.refl s).quayBytes rec pa
  apply Logged.of_eq
  · unfold putRecord; split <;> (simp only [updQueue_cores]; rw [hb])
  · unfold putRecord; split <;> (simp only [updQueue_sorric]; rw [hb])

theorem logged_postFor (s : State) (job : Option Nat) (rec : List Byte) : Logged s (postFor s job rec) := by
  unfold postFor
  split
  · unfold postRecord
    dsimp only
    split
    · exact .of_eq (updQueue_cores ..) (updQueue_sorric ..)
    · exact logged_putRecord ..
  · exact ⟨rfl, _, rfl⟩

theorem logged_postFree (job : Option Nat) (s : State) : Logged s (postFree job s) := logged_postFor { s with free := s.free + 64 } job _

/-! ### Modes (R410) -/

theorem setmode_idle {s : State} {n : Nat} (h : Bool) (hn : n ≤ 6) (hi : fnIdle s n = true) :
    setmode n h s = sorStatus 0 (takeMode n h s) := by
  rw [setmode, if_neg (by omega), if_pos hi]

theorem setmode_waits {s : State} {n : Nat} (h : Bool) (hn : n ≤ 6) (hi : fnIdle s n = false) :
    setmode n h s = sorStatus 0 { s with sorric := { s.sorric with asked := s.sorric.asked.filter (fun a => a.1 != n) ++ [(n, h)] } } := by
  rw [setmode, if_neg (by omega), if_neg (by simp [hi])]

theorem setmode_malformed {s : State} {n : Nat} (h : Bool) (hn : 6 < n) : setmode n h s = sorStatus 1 s := if_pos hn

/-- The function takes the mode, and no other function's changes. -/
theorem contains_takeMode (s : State) (n k : Nat) (h : Bool) :
    (takeMode n h s).sorric.modes.contains k = if k = n then h else s.sorric.modes.contains k := by
  by_cases hk : k = n <;> cases h <;> simp [takeMode, hk]

/-! ### Telemetry and scrub (R411) -/

theorem logged_telemetryUpdate (s : State) {n : Nat} (v : Nat) (hn : sensorListed n = true) :
    Logged { s with sorric := { s.sorric with sensors := Sparse.set (sensorNone n) s.sorric.sensors n (sensorSample s n v) } }
      (telemetryUpdate n v s) := by
  simp only [telemetryUpdate, hn, Bool.not_true, Bool.false_eq_true, if_false]
  split
  · exact logged_postFree none _
  · exact .of_eq rfl rfl

theorem execSensorRead_eq (n : Nat) (s : State) : execSensorRead n s = .next s := by
  unfold execSensorRead; split <;> rfl

theorem scrub_uncorrectable {s : State} {pa : Nat} (hp : pa < Config.hbmBytes) (he : s.eccWords.contains (pa / 8) = true) :
    scrub pa s = countEcc (0x701 + 2 * stackOf pa) 1 s := by
  simp only [scrub, hp, he, if_true]
  congr 1
  omega

theorem scrub_correctable {s : State} {pa : Nat} (hp : pa < Config.hbmBytes) (he : s.eccWords.contains (pa / 8) = false)
    (hs : s.soft.contains (.word (pa / 8)) = true) :
    scrub pa s = { countEcc (0x700 + 2 * stackOf pa) 1 s with soft := s.soft.filter (fun x => x != .word (pa / 8)) } := by
  simp only [scrub, hp, he, hs, if_true, Bool.false_eq_true, if_false]

/-! ### Partitions and slot masks (R27, R28, R265, R297) -/

/-- A write of partition `p` reads back, and leaves every other partition alone. -/
theorem part_of_parts {s t : State} {p : Nat} {v : Option Partition} (h : t.parts = Sparse.set none s.parts p v) :
    t.part p = v ∧ ∀ q, q ≠ p → t.part q = s.part q := by
  simp only [State.part, h]
  exact ⟨Sparse.get_set_self none s.parts p v, fun q hq => Sparse.get_set_ne none s.parts v hq⟩

/-- An event that writes partition `p` and answers OK. -/
theorem happens_setPart {s t : State} {i : Instr} {p : Nat} {v : Option Partition} (hi : exec i s = .next (sorStatus 0 t))
    (h : t.parts = Sparse.set none s.parts p v) :
    Happens s i (fun t => t.part p = v ∧ (∀ q, q ≠ p → t.part q = s.part q) ∧ t.sorric.status = 0) := by
  obtain ⟨hp, hq⟩ := part_of_parts (t := sorStatus 0 t) h
  exact ⟨_, hi, hp, hq, rfl⟩

theorem partition_defines {s : State} {p sid : Nat} {cores : List Nat} (hp : p ≤ 31) (hsid : sid ≤ 63)
    (hl : cores.length = (coreSet cores).length) (hne : coreSet cores ≠ [])
    (hfree : ∀ g ∈ coreSet cores, ∀ q ∈ s.parts, q.1 ≠ p → ∀ x, q.2 = some x → g ∉ x.cores)
    (hb : partBusy s p = false) (hm : s.slotMask sid ≠ 0#64) (hc : maskClash s (some p) (s.slotMask sid) = false) :
    partition p cores sid s = sorStatus 0 (gateIdle { s with
      parts := Sparse.set none s.parts p (some
        { cores := coreSet cores, slotid := sid, watchdog := ((s.part p).map (·.watchdog)).getD 0, slip := 0,
          ready := powered s (coreSet cores) }) }) := by
  have htaken : (coreSet cores).any (fun g => s.parts.any (fun q =>
      q.1 != p && (q.2.map (fun x => x.cores.contains g)).getD false)) = false := by
    simp only [List.any_eq_false]
    rintro g hg ht
    obtain ⟨q, hq, hqp⟩ := List.any_eq_true.mp ht
    cases hx : q.2 with
    | none => simp [hx] at hqp
    | some x =>
      have := hfree g hg q hq (by simpa [hx] using (Bool.and_eq_true_iff.mp hqp).1) x hx
      simp [hx, this] at hqp
  simp only [partition]
  rw [if_neg (by omega), if_neg (by rw [htaken]; exact Bool.false_ne_true), if_neg (by simp [hb]), if_neg hne, if_neg (by simp [hm, hc])]

theorem powerUp_of_part {s : State} {p : Nat} {x : Partition} (h : s.part p = some x) (hw : Sparse.wf none s.parts = true) :
    (∀ g ∈ x.cores, (powerUp p s).sorric.gated.contains (clusterOf g) = false)
    ∧ ∀ q, (powerUp p s).part q = (s.part q).map (fun y => { y with ready := powered (powerUp p s) y.cores }) := by
  simp only [powerUp, h]
  refine ⟨fun g hg => ?_, fun q => get_mapV none _ (fun _ => rfl) s.parts q 0 hw⟩
  simp only [List.contains_eq_mem, List.mem_filter, decide_eq_false_iff_not]
  rintro ⟨-, hn⟩
  simp only [Bool.not_eq_true', List.any_eq_false] at hn
  exact hn g hg (beq_self_eq_true _)

/-- The partition to which slot mask `n` is bound. -/
def maskOwner (s : State) (n : Nat) : Option Nat :=
  (s.parts.find? (fun q => (q.2.map (fun x => x.slotid == n)).getD false)).map (·.1)

theorem slotMask_clash {s : State} {n : Nat} {m : Word64} (hn : n ≤ 63) (hm : m ≠ 0#64) (hc : maskClash s (maskOwner s n) m = true) :
    slotMask none n m s = sorStatus 2 s := by
  rw [maskOwner] at hc
  simp only [slotMask]
  rw [if_neg (by omega), if_neg hm, if_pos hc]

theorem slotMask_set {s : State} {n : Nat} {m : Word64} (hn : n ≤ 63) (hm : m ≠ 0#64) (hc : maskClash s (maskOwner s n) m = false)
    (hb : ((maskOwner s n).map (partBusy s)).getD false = false) :
    slotMask none n m s = sorStatus 0 { s with slotMasks := Sparse.set 0 s.slotMasks n m } := by
  rw [maskOwner] at hc hb
  simp only [slotMask]
  rw [if_neg (by omega), if_neg hm, if_neg (by simp [hc]), if_neg (by rw [hb]; exact Bool.false_ne_true)]

theorem slotMask_bind {s : State} {p n : Nat} {x : Partition} (m : Word64) (hx : s.part p = some x) (hn : n ≤ 63)
    (hm : s.slotMask n ≠ 0#64) (hc : maskClash s (some p) (s.slotMask n) = false) (hb : partBusy s p = false) :
    slotMask (some p) n m s = sorStatus 0 { s with parts := Sparse.set none s.parts p (some { x with slotid := n }) } := by
  simp only [slotMask, hx]
  rw [if_neg (by omega), if_neg (by simp [hm, hc]), if_neg (by simp [hb])]

theorem execWatchdogLimit_set {s : State} {p : Nat} {x : Partition} (w : Word32) (hx : s.part p = some x) :
    execWatchdogLimit p w s = .next (sorStatus 0 { s with parts := Sparse.set none s.parts p (some { x with watchdog := w }) }) := by
  simp only [execWatchdogLimit, hx]

/-! ### Power and frequency (R23 to R26) -/

theorem execPowerCap_set {s : State} {w : Nat} (h : 1400 ≤ w ∧ w ≤ 2800) :
    execPowerCap w s = .next { s with sorric := { s.sorric with cap := w, status := 0 } } := by
  rw [execPowerCap, if_pos h]; rfl

theorem execPowerCap_malformed {s : State} {w : Nat} (h : w < 1400 ∨ 2800 < w) :
    execPowerCap w s = .next { s with sorric := { s.sorric with status := 1 } } := by
  rw [execPowerCap, if_neg (by omega)]; rfl

theorem withUnit_next {n bound : Nat} (h : n < bound) (s : State) : withUnit n bound s = .next s := if_pos h

/-- A frequency taken: the island's own, the start of its pause, and no other register of Sorric. -/
theorem setFreq_sorric {s : State} {n : Nat} (f : Nat) (h : relocking s (n * Config.coresPerCluster) = false) :
    (setFreq n f s).sorric = { s.sorric with
      freq := Sparse.set 2000 s.sorric.freq n f, relock := Sparse.set 0 s.sorric.relock n (s.cyc.toNat + 1) } := by
  simp only [setFreq, h, Bool.false_eq_true, if_false, settleQuanta]

theorem execFrequencyStep_step {n f : Nat} (hn : n < 8) (hf : 1200 ≤ f ∧ f ≤ 2400 ∧ f % 100 = 0) (s : State) :
    execFrequencyStep n f s = .next (setFreq n f s) := by
  rw [execFrequencyStep, if_pos hf, withUnit_next hn]

theorem execFrequencyStep_pause {s : State} {n : Nat} (f : Nat) (hn : n < 8) (h : relocking s (n * Config.coresPerCluster) = true) :
    execFrequencyStep n f s = .next s := by
  rw [execFrequencyStep, withUnit_next hn, setFreq, if_pos h, ite_self]

theorem stepVolt_down (n : Nat) (s : State) :
    (stepVolt n false s).sorric = { s.sorric with volt := Sparse.set 0 s.sorric.volt n (Sparse.get 0 s.sorric.volt n - 1) } := rfl

theorem stepVolt_up {s : State} {n : Nat} (h : Sparse.get 0 s.sorric.volt n < Config.voltLimit n) :
    (stepVolt n true s).sorric = { s.sorric with volt := Sparse.set 0 s.sorric.volt n (Sparse.get 0 s.sorric.volt n + 1) } := by
  simp only [stepVolt, if_true, h]

/-- A window over the cap at a cluster above the lowest step and not in its pause. -/
theorem capWindow_sorric {s : State} {n : Nat} (hc : capActs s n = true) (hf : 1200 < s.mhz n)
    (h : relocking s (n * Config.coresPerCluster) = false) :
    (capWindow n s).sorric = { s.sorric with
      freq := Sparse.set 2000 s.sorric.freq n (s.mhz n - 100), relock := Sparse.set 0 s.sorric.relock n (s.cyc.toNat + 1),
      volt := Sparse.set 0 s.sorric.volt n (Sparse.get 0 s.sorric.volt n - 1) } := by
  simp only [capWindow, hc, if_true]
  rw [if_neg (by omega), stepVolt_down, setFreq_sorric _ h]

theorem capWindow_rest {s : State} {n : Nat} (hc : capActs s n = false) : capWindow n s = s := by
  simp only [capWindow, hc, Bool.false_eq_true, if_false]

/-- The pause of the cluster is over. -/
theorem relock_relock (s : State) (n : Nat) : Sparse.get 0 (relock n s).sorric.relock n = 0 := by
  simp only [relock]
  split
  · assumption
  · exact Sparse.get_set_self 0 (takeHalts n s).sorric.relock n 0

/-! ### Ageing (R412) -/

theorem propose_contains (s : State) (n : Nat) : (propose n s).sorric.proposals.contains n = true := by
  by_cases h : n ∈ s.sorric.proposals <;> simp [propose, h]

theorem volt_below_of_mayAge {s : State} {n : Nat} (h : mayAge s n = true) : Sparse.get 0 s.sorric.volt n < Config.voltLimit n :=
  of_decide_eq_true (Bool.and_eq_true_iff.mp h).2

/-- A step that may be made raises the voltage by one, and the hour begins; no other register of Sorric changes. -/
theorem age_sorric {s : State} {n : Nat} (h : mayAge s n = true) :
    (age n s).sorric = { s.sorric with
      volt := Sparse.set 0 s.sorric.volt n (Sparse.get 0 s.sorric.volt n + 1), aged := Sparse.set 0 s.sorric.aged n (s.cyc.toNat + 1) } := by
  simp only [age, h, if_true, stepVolt_up (volt_below_of_mayAge h)]

theorem age_rest {s : State} {n : Nat} (h : mayAge s n = false) : age n s = s := by
  simp only [age, h, Bool.false_eq_true, if_false]

theorem volt_age (s : State) (n : Nat) :
    Sparse.get 0 (age n s).sorric.volt n = if mayAge s n then Sparse.get 0 s.sorric.volt n + 1 else Sparse.get 0 s.sorric.volt n := by
  cases h : mayAge s n
  · simp [age_rest h]
  · simp [age_sorric h]

theorem aged_age (s : State) (n : Nat) :
    Sparse.get 0 (age n s).sorric.aged n = if mayAge s n then s.cyc.toNat + 1 else Sparse.get 0 s.sorric.aged n := by
  cases h : mayAge s n
  · simp [age_rest h]
  · simp [age_sorric h]

theorem proposals_age (s : State) (n : Nat) : (age n s).sorric.proposals = s.sorric.proposals := by
  cases h : mayAge s n
  · rw [age_rest h]
  · rw [age_sorric h]

theorem ageingStep_proposes {s : State} (n : Nat) (h : s.sorric.modes.contains 5 = true) : ageingStep n s = propose n s := if_pos h

theorem ageingStep_applies {s : State} (n : Nat) (h : s.sorric.modes.contains 5 = false) : ageingStep n s = age n s :=
  if_neg (by simp only [h, Bool.false_eq_true, not_false_iff])

/-- The proposal is settled, and the voltage rises where the host approves and the step may be made. -/
theorem ageingApproval_settles {s : State} {n : Nat} (b : Bool) (h : s.sorric.proposals.contains n = true) :
    (ageingApproval n b s).sorric.proposals.contains n = false
    ∧ Sparse.get 0 (ageingApproval n b s).sorric.volt n
      = if b && mayAge s n then Sparse.get 0 s.sorric.volt n + 1 else Sparse.get 0 s.sorric.volt n := by
  simp only [ageingApproval, h, if_true]
  cases b with
  | false => simp
  | true =>
    rw [if_pos rfl, proposals_age, volt_age]
    exact ⟨by simp, rfl⟩

/-! ### The chip number and firmware (R29, R413) -/

theorem execChipNumber_set {s : State} {c : Nat} (h : c ≤ 2047) :
    execChipNumber c s = .next { s with sorric := { s.sorric with phys := c, status := 0 } } := by
  rw [execChipNumber, if_pos h]; rfl

theorem firmwareWrite_closed {s : State} {c : Nat} (b : Bool) (hc : c ≤ 2) (h : s.sorric.session = false) :
    firmwareWrite c b s = sorStatus 2 s := by
  rw [firmwareWrite, if_neg (by omega), if_pos (by simp [h])]

theorem firmwareWrite_open {s : State} {c : Nat} (b : Bool) (hc : c ≤ 2) (h : s.sorric.session = true) :
    firmwareWrite c b s = sorStatus (if b then 0 else 4)
      { s with sorric := { s.sorric with image := Sparse.set false s.sorric.image c b } } := by
  rw [firmwareWrite, if_neg (by omega), if_neg (by simp [h])]

theorem activate_badImage {s : State} {c : Nat} (hc : c ≤ 2) (h : Sparse.get false s.sorric.image c = false) :
    activate c s = sorStatus 4 s := by
  rw [activate, if_neg (by omega), if_pos (by simp [h])]

theorem activate_swaps {s : State} {c : Nat} (hc : c ≤ 2) (h : Sparse.get false s.sorric.image c = true) :
    activate c s = sorStatus 0 { swapBank c s with sorric := { (swapBank c s).sorric with
      swapped := (swapBank c s).sorric.swapped.filter (· != c) ++ [c] } } := by
  rw [activate, if_neg (by omega), if_neg (by simp [h])]

theorem active_swapBank (c : Nat) (s : State) :
    Sparse.get 0 (swapBank c s).sorric.active c = 1 - Sparse.get 0 s.sorric.active c := Sparse.get_set_self ..

/-- The bank of an engine is the recorded one, or the other while the engine lags behind. -/
theorem engineBank_eq (s : State) (k : Nat) :
    engineBank s k = if k ∈ s.sorric.lagging then 1 - Sparse.get 0 s.sorric.active 2 else Sparse.get 0 s.sorric.active 2 := by
  simp only [engineBank, List.contains_eq_mem, decide_eq_true_eq]

theorem lagging_swapBank (s : State) (k : Nat) (hk : k < 8) (hcur : (s.engine k).cur.isSome = true) :
    k ∈ (swapBank 2 s).sorric.lagging ↔ k ∉ s.sorric.lagging := by
  simp [swapBank, hk, hcur]

/-- A collective engine inside a chunk goes on under its bank (R413): one that lags catches up with the record, and one that does
not falls behind it. -/
theorem engineBank_swapBank {s : State} {k : Nat} (hk : k < 8) (ha : Sparse.get 0 s.sorric.active 2 ≤ 1)
    (hcur : (s.engine k).cur.isSome = true) : engineBank (swapBank 2 s) k = engineBank s k := by
  rw [engineBank_eq, engineBank_eq, active_swapBank]
  by_cases hl : k ∈ s.sorric.lagging
  · rw [if_neg (by simp [lagging_swapBank s k hk hcur, hl]), if_pos hl]
  · rw [if_pos ((lagging_swapBank s k hk hcur).mpr hl), if_neg hl]
    omega

theorem selfCheck_passes {s : State} {c : Nat} (h : s.sorric.swapped.contains c = true) :
    selfCheck c true s = { s with sorric := { s.sorric with swapped := s.sorric.swapped.filter (· != c) } } := by
  rw [selfCheck, if_pos h]; rfl

theorem selfCheck_fails {s : State} {c : Nat} (h : s.sorric.swapped.contains c = true) :
    selfCheck c false s
      = postFree none (swapBank c { s with sorric := { s.sorric with swapped := s.sorric.swapped.filter (· != c) } }) := by
  rw [selfCheck, if_pos h]; rfl

/-- A component that fails its check returns to the other bank, and its switch is forgotten. -/
theorem selfCheck_returns {s : State} {c : Nat} (h : s.sorric.swapped.contains c = true) :
    Sparse.get 0 (selfCheck c false s).sorric.active c = 1 - Sparse.get 0 s.sorric.active c
    ∧ (selfCheck c false s).sorric.swapped.contains c = false := by
  obtain ⟨-, l, hl⟩ := logged_postFree none (swapBank c { s with sorric := { s.sorric with swapped := s.sorric.swapped.filter (· != c) } })
  rw [selfCheck_fails h, hl]
  exact ⟨active_swapBank c _, by simp [swapBank]⟩

/-! ### The statement -/

/-- Settles O55: it holds, clause by clause from what each command leaves. The status numbers, `SETMODE`'s function numbers and its
idle points are the model's choice (log entry 49), and so are firmware writes without a session and an activation without an image (log
entry 67). -/
theorem managementEvents : Obligations.ManagementEvents := by
  intro s
  refine ⟨?mode, ?modeWaits, ?modeNumber, fun n => execSensorRead_eq n s, ?sensor, ?uncorrectable, ?correctable, ?partition, ?power,
    ?mask, ?bind, ?watchdog, fun w h1 h2 => execPowerCap_set ⟨h1, h2⟩, fun w h => execPowerCap_malformed h, ?cluster,
    fun c h => execChipNumber_set h, fun b => rfl, ?firmware⟩
  case mode =>
    refine fun n h hn hi => .of_eq rfl (setmode_idle h hn hi) ⟨?_, fun k hk => ?_, rfl, rfl⟩
    · exact (contains_takeMode s n n h).trans (if_pos rfl)
    · exact (contains_takeMode s n k h).trans (if_neg hk)
  case modeWaits => exact fun n h hn hi => congrArg Host.Outcome.next (setmode_waits h hn hi)
  case modeNumber => exact fun n h hn => congrArg Host.Outcome.next (setmode_malformed h hn)
  case sensor =>
    intro n v hn
    obtain ⟨hcores, l, hl⟩ := logged_telemetryUpdate s v hn
    exact ⟨_, rfl, hcores, congrArg Sorric.sensors hl⟩
  case uncorrectable => exact fun pa hp he => congrArg Host.Outcome.next (scrub_uncorrectable hp he)
  case correctable => exact fun pa hp he hs => .of_eq rfl (scrub_correctable hp he hs) ⟨rfl, by simp, rfl⟩
  case partition =>
    intro p cores sid hp hsid hl hne hfree hb hm hc
    exact .of_eq rfl (partition_defines hp hsid hl hne hfree hb hm hc) ⟨rfl, And.symm (part_of_parts rfl)⟩
  case power => exact fun p x hx hw => ⟨_, rfl, powerUp_of_part hx hw⟩
  case mask =>
    refine fun n m hn hm => ⟨fun hc => congrArg Host.Outcome.next (slotMask_clash hn hm hc), fun hc hb => ?_⟩
    refine .of_eq rfl (slotMask_set hn hm hc hb) ⟨?_, fun k hk => ?_, rfl⟩
    · exact Sparse.get_set_self 0 s.slotMasks n m
    · exact Sparse.get_set_ne 0 s.slotMasks m hk
  case bind =>
    exact fun p x n m hx hn hm hc hb => happens_setPart (congrArg Host.Outcome.next (slotMask_bind m hx hn hm hc hb)) rfl
  case watchdog => exact fun p x w hx => happens_setPart (execWatchdogLimit_set w hx) rfl
  case cluster =>
    intro n hn
    have next : ∀ t, withUnit n 8 t = .next t := withUnit_next hn
    refine ⟨fun hr => ⟨fun f h1 h2 h3 => ?_, fun hf hc => ?_⟩, fun hr f => execFrequencyStep_pause f hn hr, fun hc => ?_,
      ⟨_, next _, relock_relock s n⟩, fun hm => ?_, fun hm => ?_, fun hm ha => ?_, fun b hp => ?_⟩
    · refine ⟨_, execFrequencyStep_step hn ⟨h1, h2, h3⟩ s, ?_⟩
      simp [State.mhz, setFreq_sorric f hr]
    · refine ⟨_, next _, ?_⟩
      simp [State.mhz, capWindow_sorric hc hf hr]
    · exact (next _).trans (congrArg Host.Outcome.next (capWindow_rest hc))
    · exact .of_eq (next _) (ageingStep_proposes n hm) ⟨propose_contains s n, rfl⟩
    · exact .of_eq (next _) (ageingStep_applies n hm) ⟨volt_age s n, aged_age s n⟩
    · exact (next _).trans (congrArg Host.Outcome.next ((ageingStep_applies n hm).trans (age_rest ha)))
    · exact ⟨_, next _, ageingApproval_settles b hp⟩
  case firmware =>
    intro c hc
    refine ⟨fun h b => congrArg Host.Outcome.next (firmwareWrite_closed b hc h), fun h b => congrArg Host.Outcome.next (firmwareWrite_open b hc h),
      fun h => congrArg Host.Outcome.next (activate_badImage hc h), fun h => ?_,
      fun h => ⟨congrArg Host.Outcome.next (selfCheck_passes h), ⟨_, rfl, selfCheck_returns h⟩⟩⟩
    refine .of_eq rfl (activate_swaps hc h) ⟨active_swapBank c s, by simp [sorStatus], rfl, ?_⟩
    rintro k hk rfl ha hcur
    exact engineBank_swapBank hk ha hcur

end Sys2Proof.Machine

/-! The encoder against the decoder (R53 to R56): for each format the fields of a slot word are those that were put into it,
    for each
slot class the opcode leads back to the instruction's constructor. -/

namespace Sys2Proof.Machine

open Sys2Proof

/-! ### Fields of a slot word -/

theorem bitOf_of {n k : Nat} {b : Bool} (h : n / 2 ^ k % 2 = b2n b) : bitOf n k = b := by rw [bitOf, h]; cases b <;> rfl

theorem finOfNat_of {m n : Nat} [NeZero m] {x : Fin m} (h : n % m = x.val) : Fin.ofNat m n = x := Fin.ext h

theorem bvOfNat_of {m n : Nat} {x : BitVec m} (h : n % 2 ^ m = x.toNat) : BitVec.ofNat m n = x :=
  BitVec.eq_of_toNat_eq (by rw [BitVec.toNat_ofNat, h])

theorem bare_of {n : Nat} (h : n < 2 ^ 30) : bare n = true := by rw [bare, beq_iff_eq]; omega

theorem unheld_of {n : Nat} (h : n / 2 ^ 30 % 2 = 0) : unheld n = true := by rw [unheld, beq_iff_eq, h]

theorem topBits_eq (hold : Bool) (ext : Option Word32) : topBits hold ext = b2n ext.isSome * 2 ^ 31 + b2n hold * 2 ^ 30 := by
  cases ext <;> simp [topBits, b2n]

/-- A word whose EXT bit says whether there is an extension word gives it back. -/
theorem extOf_of {n : Nat} {ext : Option Word32} (h : n / 2 ^ 31 % 2 = b2n ext.isSome) : extOf n (ext.getD 0) = ext := by
  cases ext <;> rw [extOf, h] <;> rfl

/-! ### The formats (R54) -/

/-- A word of any opcode with the bits `rest` beside it has that opcode, and `get` reads from it and from the extension word `ext`
the operands `x`. -/
def Reads {α : Type} (get : Nat → Word32 → Option α) (rest : Nat) (ext : Option Word32) (x : α) : Prop :=
  ∀ op n, op < 128 → n = op * 2 ^ 23 + rest → n < 2 ^ 32 ∧ n / 2 ^ 23 % 128 = op ∧ get n (ext.getD 0) = some x

theorem reads_A (x : ArgA) : Reads (fun n _ => getA n) (putA x) none x := by
  intro op n hop hn
  obtain ⟨dst, src1, src2, b1, b2, mod⟩ := x
  simp only [putA] at hn
  have h0 := b2n_le b1
  have h1 := b2n_le b2
  refine ⟨by omega, by omega, ?_⟩
  simp only [getA, bare_of (n := n) (by omega), if_true, Option.some.injEq, ArgA.mk.injEq]
  exact ⟨finOfNat_of (by omega), finOfNat_of (by omega), finOfNat_of (by omega), bitOf_of (by omega), bitOf_of (by omega),
    finOfNat_of (by omega)⟩

theorem reads_I (x : ArgI) : Reads getI (putI x) x.ext x := by
  intro op n hop hn
  obtain ⟨dst, src1, b1, imm, ext⟩ := x
  simp only [putI, topBits_eq, show b2n false = 0 from rfl] at hn
  have h0 := b2n_le b1
  have h1 := b2n_le ext.isSome
  refine ⟨by omega, by omega, ?_⟩
  simp only [getI, unheld_of (n := n) (by omega), if_true, Option.some.injEq, ArgI.mk.injEq]
  exact ⟨finOfNat_of (by omega), finOfNat_of (by omega), bitOf_of (by omega), bvOfNat_of (by omega), extOf_of (by omega)⟩

theorem reads_W (x : ArgW) : Reads getW (putW x) x.ext x := by
  intro op n hop hn
  obtain ⟨dst, imm, ext⟩ := x
  simp only [putW, topBits_eq, show b2n false = 0 from rfl] at hn
  have h0 := b2n_le ext.isSome
  refine ⟨by omega, by omega, ?_⟩
  simp only [getW, unheld_of (n := n) (by omega), if_true, Option.some.injEq, ArgW.mk.injEq]
  exact ⟨finOfNat_of (by omega), bvOfNat_of (by omega), extOf_of (by omega)⟩

theorem reads_B (x : ArgB) : Reads getB (putB x) x.ext x := by
  intro op n hop hn
  obtain ⟨pred, neg, ofs, ext⟩ := x
  simp only [putB, topBits_eq, show b2n false = 0 from rfl] at hn
  have h0 := b2n_le neg
  have h1 := b2n_le ext.isSome
  refine ⟨by omega, by omega, ?_⟩
  simp only [getB, unheld_of (n := n) (by omega), if_true, Option.some.injEq, ArgB.mk.injEq]
  exact ⟨finOfNat_of (by omega), bitOf_of (by omega), bvOfNat_of (by omega), extOf_of (by omega)⟩

theorem reads_P (x : ArgP) : Reads (fun n _ => getP n) (putP x) none x := by
  intro op n hop hn
  obtain ⟨pd, src1, src2, b1, b2, cond⟩ := x
  simp only [putP] at hn
  have h0 := b2n_le b1
  have h1 := b2n_le b2
  refine ⟨by omega, by omega, ?_⟩
  simp only [getP, bare_of (n := n) (by omega), show n / 2 ^ 17 % 8 = 0 by omega, beq_self_eq_true, Bool.and_self, if_true,
    Option.some.injEq, ArgP.mk.injEq]
  exact ⟨finOfNat_of (by omega), finOfNat_of (by omega), finOfNat_of (by omega), bitOf_of (by omega), bitOf_of (by omega),
    finOfNat_of (by omega)⟩

theorem reads_Q (x : ArgQ) : Reads getQ (putQ x) x.ext x := by
  intro op n hop hn
  obtain ⟨pd, cond, src1, b1, imm, ext⟩ := x
  simp only [putQ, topBits_eq, show b2n false = 0 from rfl] at hn
  have h0 := b2n_le b1
  have h1 := b2n_le ext.isSome
  refine ⟨by omega, by omega, ?_⟩
  simp only [getQ, unheld_of (n := n) (by omega), if_true, Option.some.injEq, ArgQ.mk.injEq]
  exact ⟨finOfNat_of (by omega), finOfNat_of (by omega), finOfNat_of (by omega), bitOf_of (by omega), bvOfNat_of (by omega),
    extOf_of (by omega)⟩

theorem reads_PL (x : ArgPL) : Reads (fun n _ => getPL n) (putPL x) none x := by
  intro op n hop hn
  obtain ⟨pd, pa, pb⟩ := x
  simp only [putPL] at hn
  refine ⟨by omega, by omega, ?_⟩
  simp only [getPL, bare_of (n := n) (by omega), show n % 2 ^ 14 = 0 by omega, beq_self_eq_true, Bool.and_self, if_true,
    Option.some.injEq, ArgPL.mk.injEq]
  exact ⟨finOfNat_of (by omega), finOfNat_of (by omega), finOfNat_of (by omega)⟩

theorem reads_CS (x : ArgCS) : Reads (fun n _ => getCS n) (putCS x) none x := by
  intro op n hop hn
  obtain ⟨dst, src1, b1, index⟩ := x
  simp only [putCS] at hn
  have h0 := b2n_le b1
  refine ⟨by omega, by omega, ?_⟩
  simp only [getCS, bare_of (n := n) (by omega), if_true, Option.some.injEq, ArgCS.mk.injEq]
  exact ⟨finOfNat_of (by omega), finOfNat_of (by omega), bitOf_of (by omega), bvOfNat_of (by omega)⟩

theorem reads_LP (x : ArgLP) : Reads (fun n _ => getLP n) (putLP x) none x := by
  intro op n hop hn
  obtain ⟨levels, body, abase, b⟩ := x
  simp only [putLP] at hn
  have h0 := b2n_le b
  refine ⟨by omega, by omega, ?_⟩
  simp only [getLP, bare_of (n := n) (by omega), show n % 2 ^ 10 = 0 by omega, beq_self_eq_true, Bool.and_self, if_true,
    Option.some.injEq, ArgLP.mk.injEq]
  exact ⟨finOfNat_of (by omega), finOfNat_of (by omega), finOfNat_of (by omega), bitOf_of (by omega)⟩

theorem reads_K (x : ArgK) : Reads (fun n _ => getK n) (putK x) none x := by
  intro op n hop hn
  obtain ⟨dst, pd, abase, b⟩ := x
  simp only [putK] at hn
  have h0 := b2n_le b
  refine ⟨by omega, by omega, ?_⟩
  simp only [getK, bare_of (n := n) (by omega), show n % 2 ^ 9 = 0 by omega, beq_self_eq_true, Bool.and_self, if_true,
    Option.some.injEq, ArgK.mk.injEq]
  exact ⟨finOfNat_of (by omega), finOfNat_of (by omega), finOfNat_of (by omega), bitOf_of (by omega)⟩

theorem reads_M (x : ArgM) : Reads getM (putM x) x.ext x := by
  intro op n hop hn
  obtain ⟨hold, reg, abase, b, ty, step, opt, ext⟩ := x
  simp only [putM, topBits_eq] at hn
  have h0 := b2n_le hold
  have h1 := b2n_le b
  have h2 := b2n_le ext.isSome
  refine ⟨by omega, by omega, ?_⟩
  simp only [getM, Option.some.injEq, ArgM.mk.injEq]
  exact ⟨bitOf_of (by omega), finOfNat_of (by omega), finOfNat_of (by omega), bitOf_of (by omega), finOfNat_of (by omega),
    bvOfNat_of (by omega), bvOfNat_of (by omega), extOf_of (by omega)⟩

theorem reads_G (x : ArgG) : Reads getG (putG x) x.ext x := by
  intro op n hop hn
  obtain ⟨hold, vreg, abase, vidx, b, ty, vm, ext⟩ := x
  simp only [putG, topBits_eq] at hn
  have h0 := b2n_le hold
  have h1 := b2n_le b
  have h2 := b2n_le ext.isSome
  refine ⟨by omega, by omega, ?_⟩
  simp only [getG, show n % 4 = 0 by omega, beq_self_eq_true, if_true, Option.some.injEq, ArgG.mk.injEq]
  exact ⟨bitOf_of (by omega), finOfNat_of (by omega), finOfNat_of (by omega), finOfNat_of (by omega), bitOf_of (by omega),
    finOfNat_of (by omega), finOfNat_of (by omega), extOf_of (by omega)⟩

theorem reads_MX (x : ArgMX) : Reads getMX (putMX x) x.ext x := by
  intro op n hop hn
  obtain ⟨hold, acc, sreg, aa, ab, b, opt, ext⟩ := x
  simp only [putMX, topBits_eq] at hn
  have h0 := b2n_le hold
  have h1 := b2n_le b
  have h2 := b2n_le ext.isSome
  refine ⟨by omega, by omega, ?_⟩
  simp only [getMX, Option.some.injEq, ArgMX.mk.injEq]
  exact ⟨bitOf_of (by omega), finOfNat_of (by omega), finOfNat_of (by omega), finOfNat_of (by omega), finOfNat_of (by omega),
    bitOf_of (by omega), bvOfNat_of (by omega), extOf_of (by omega)⟩

theorem reads_X (x : ArgX) : Reads (fun n _ => getX n) (putX x) none x := by
  intro op n hop hn
  obtain ⟨hold, sreg, adesc, sarg, b, opt⟩ := x
  simp only [putX, topBits_eq, show b2n (none : Option Word32).isSome = 0 from rfl] at hn
  have h0 := b2n_le hold
  have h1 := b2n_le b
  refine ⟨by omega, by omega, ?_⟩
  simp only [getX, show n / 2 ^ 31 % 2 = 0 by omega, beq_self_eq_true, if_true, Option.some.injEq, ArgX.mk.injEq]
  exact ⟨bitOf_of (by omega), finOfNat_of (by omega), finOfNat_of (by omega), finOfNat_of (by omega), bitOf_of (by omega),
    bvOfNat_of (by omega)⟩

theorem reads_CV (x : ArgCV) : Reads (fun n _ => getCV n) (putCV x) none x := by
  intro op n hop hn
  obtain ⟨dst, src1, b1, dty, sty⟩ := x
  simp only [putCV] at hn
  have h0 := b2n_le b1
  refine ⟨by omega, by omega, ?_⟩
  simp only [getCV, bare_of (n := n) (by omega), show n / 2 ^ 9 % 4 = 0 by omega, beq_self_eq_true, Bool.and_self, if_true,
    Option.some.injEq, ArgCV.mk.injEq]
  exact ⟨finOfNat_of (by omega), finOfNat_of (by omega), bitOf_of (by omega), finOfNat_of (by omega), finOfNat_of (by omega)⟩

theorem reads_V (x : ArgV) : Reads getV (putV x) x.ext x := by
  intro op n hop hn
  obtain ⟨hold, dst, src1, src2, b1, b2, mod, ext⟩ := x
  simp only [putV, topBits_eq] at hn
  have h0 := b2n_le hold
  have h1 := b2n_le b1
  have h2 := b2n_le b2
  have h3 := b2n_le ext.isSome
  refine ⟨by omega, by omega, ?_⟩
  simp only [getV, Option.some.injEq, ArgV.mk.injEq]
  exact ⟨bitOf_of (by omega), finOfNat_of (by omega), finOfNat_of (by omega), finOfNat_of (by omega), bitOf_of (by omega),
    bitOf_of (by omega), finOfNat_of (by omega), extOf_of (by omega)⟩

/-! ### From the opcode back to the constructor (R70) -/

theorem decode_of_raw {slot : Nat} {w e : Word32} {i : Instr} (hw : i.wf = true) (h : rawSlot slot w.toNat e = some i) :
    decode slot w e = some i := by rw [decode, h]; exact if_pos hw

theorem getMcast_xmcast {n : Nat} {x : ArgX} (hw : (Instr.xmcast x).wf = true) (hx : getX n = some x) :
    getMcast n = some (.xmcast x) := by
  have h5 : bitOf x.opt.toNat 5 = false := by
    simp only [Instr.wf, optIn, Bool.and_eq_true, beq_iff_eq] at hw
    have hlt : x.opt.toNat &&& 27 ≤ 27 := Nat.and_le_right
    simp only [bitOf, decide_eq_false_iff_not]
    omega
  rw [getMcast, hx, Option.map_some, if_neg (by rw [h5]; exact Bool.false_ne_true)]

theorem getMcast_xmcastSet {n : Nat} {x : ArgX} (hw : (Instr.xmcastSet x).wf = true) (hx : getX n = some x) :
    getMcast n = some (.xmcastSet x) := by
  have hopt : x.opt = 32 := by
    simp only [Instr.wf, Bool.and_eq_true, beq_iff_eq] at hw
    exact hw.2
  rw [getMcast, hx, Option.map_some, if_pos (by rw [hopt]; rfl)]

/-- The decoding of a word that carries operands: `ctor` stands at opcode `op` of the slot class,
    and its format reads its operands
back. -/
theorem decode_slotWord {α : Type} {slot op rest : Nat} {ext : Option Word32} {get : Nat → Word32 → Option α} {x : α}
    {ctor : α → Instr} (hw : (ctor x).wf = true) (hop : op < 128) (hx : Reads get rest ext x)
    (hraw : ∀ n, n / 2 ^ 23 % 128 = op → get n (ext.getD 0) = some x → rawSlot slot n (ext.getD 0) = some (ctor x)) :
    decode slot (BitVec.ofNat 32 (op * 2 ^ 23 + rest)) (ext.getD 0) = some (ctor x) := by
  obtain ⟨hlt, hopc, hget⟩ := hx op _ hop rfl
  have hn : (BitVec.ofNat 32 (op * 2 ^ 23 + rest)).toNat = op * 2 ^ 23 + rest := by rw [BitVec.toNat_ofNat, Nat.mod_eq_of_lt hlt]
  exact decode_of_raw hw (by rw [hn]; exact hraw _ hopc hget)

/-- Settles O57: it holds. Each format reads back what was put into it,
    and each opcode leads back to its constructor; the two forms of
`XMCAST` are told apart by opt bit 5, which their well-formedness fixes. -/
theorem encodeDecode : Obligations.EncodeDecode := by
  intro i w hw h
  cases i with
  | bri x | calli x | sleepu x | waitfe x | snapst x | snapld x | rprobe x | wprobe x | pgalloc x | fmtset x | fence x
    | kjoin x | relaunch x =>
    cases h
    exact decode_slotWord hw (by decide) (reads_A x) (fun n hop hx => by rw [rawSlot, rawC, hop, hx]; rfl)
  | add x | sub x | mul x | mulhi x | mulhn x | div x | divn x | rem x | remn x | min x | minn x | max x | maxn x | and x
    | or x | xor x | andn x | shl x | shr x | sra x | rotl x | clz x | ctz x | popc x | bfx x | bfxs x | bfi x | sext x
    | zext x | mov x | sel x | abs x | neg x | fadds x | fsubs x | fmuls x | ffmas x | fmins x | fmaxs x =>
    cases h
    exact decode_slotWord hw (by decide) (reads_A x) (fun n hop hx => by rw [rawSlot, rawS, hop, hx]; rfl)
  | aadd x | amov x =>
    cases h
    exact decode_slotWord hw (by decide) (reads_A x) (fun n hop hx => by rw [rawSlot, rawL, hop, hx]; rfl)
  | addi x | andi x | ori x | xori x | shli x | shri x | srai x =>
    cases h
    exact decode_slotWord hw (by decide) (reads_I x) (fun n hop hx => by rw [rawSlot, rawS, hop, hx]; rfl)
  | trap x | bkpt x | abort x =>
    cases h
    exact decode_slotWord hw (by decide) (reads_W x) (fun n hop hx => by rw [rawSlot, rawC, hop, hx]; rfl)
  | movi x | movhi x =>
    cases h
    exact decode_slotWord hw (by decide) (reads_W x) (fun n hop hx => by rw [rawSlot, rawS, hop, hx]; rfl)
  | br x | brp x | call x =>
    cases h
    exact decode_slotWord hw (by decide) (reads_B x) (fun n hop hx => by rw [rawSlot, rawC, hop, hx]; rfl)
  | cmp x | fcmps x =>
    cases h
    exact decode_slotWord hw (by decide) (reads_P x) (fun n hop hx => by rw [rawSlot, rawS, hop, hx]; rfl)
  | cmpi x =>
    cases h
    exact decode_slotWord hw (by decide) (reads_Q x) (fun n hop hx => by rw [rawSlot, rawS, hop, hx]; rfl)
  | pand x | por x | pxor x | pnot x | pmov x =>
    cases h
    exact decode_slotWord hw (by decide) (reads_PL x) (fun n hop hx => by rw [rawSlot, rawS, hop, hx]; rfl)
  | csrr x | csrw x =>
    cases h
    exact decode_slotWord hw (by decide) (reads_CS x) (fun n hop hx => by rw [rawSlot, rawC, hop, hx]; rfl)
  | loopn x =>
    cases h
    exact decode_slotWord hw (by decide) (reads_LP x) (fun n hop hx => by rw [rawSlot, rawC, hop, hx]; rfl)
  | launch x | launcht x =>
    cases h
    exact decode_slotWord hw (by decide) (reads_K x) (fun n hop hx => by rw [rawSlot, rawC, hop, hx]; rfl)
  | ld x | st x | ldv x | stv x | ldvs x | stvs x | ldl x | stul x | atom x | cas x | ldc x | binit x | bexpect x | barrive x
    | bwait x | bwaitp x | btest x | cadd x | cwaitge x =>
    cases h
    exact decode_slotWord hw (by decide) (reads_M x) (fun n hop hx => by rw [rawSlot, rawL, hop, hx]; rfl)
  | gath x | scat x =>
    cases h
    exact decode_slotWord hw (by decide) (reads_G x) (fun n hop hx => by rw [rawSlot, rawL, hop, hx]; rfl)
  | mma x | mmaz x | mmas x | mcbld x | accrd x | accwr x | accz x | mwait x | mstat x | mdrain x =>
    cases h
    exact decode_slotWord hw (by decide) (reads_MX x) (fun n hop hx => by rw [rawSlot, rawM, hop, hx]; rfl)
  | xcopy x | xfill x | xsub x | xunsub x | xslot x | xremw x | xrcopy x | xcadd x | xmigr x | xcoll x | xgjoin x | xgleave x
    | xgagree x | xcancel x =>
    cases h
    exact decode_slotWord hw (by decide) (reads_X x) (fun n hop hx => by rw [rawSlot, rawX, hop, hx]; rfl)
  | fcvts x =>
    cases h
    exact decode_slotWord hw (by decide) (reads_CV x) (fun n hop hx => by rw [rawSlot, rawS, hop, hx]; rfl)
  | vadd x | vsub x | vmul x | vfma x | vfms x | vmin x | vmax x | vabs x | vneg x | vand x | vor x | vxor x | vnot x
    | vshl x | vshr x | vsra x | vcmp x | vsel x | vmov x | vmovs x | vextr x | vins x | vperm x | vslide x | viota x
    | vcompr x | vcvt x | vquant x | vdeq x | vdot x | vrsum x | vrmax x | vrmin x | vrmaxi x | vrmini x | vscan x | vpopc x
    | vclz x | vrcp x | vrsq x | vexp2 x | vlog2 x | vtanh x | vmset x | vmops x =>
    cases h
    exact decode_slotWord hw (by decide) (reads_V x) (fun n hop hx => by rw [rawSlot, rawV, hop, hx]; rfl)
  | xmcast x =>
    cases h
    exact decode_slotWord hw (by decide) (reads_X x) (fun n hop hx => by rw [rawSlot, rawX, hop]; exact getMcast_xmcast hw hx)
  | xmcastSet x =>
    cases h
    exact decode_slotWord hw (by decide) (reads_X x) (fun n hop hx => by rw [rawSlot, rawX, hop]; exact getMcast_xmcastSet hw hx)
  | nop | ret | lexit | haltb | yield | eret | snaprel | nopL | nopV | nopM | nopX =>
    cases h
    exact decode_of_raw rfl rfl
  | bundleIssue _ | writeback _ _ | reasonCleared _ | quantum _ | sleepWake _ | promiseWake _ | watchdog _ | trapEntry _
    | haltLine _ _ _ | haltArrival _ _ | faultCompletion _ | preemptionRequest _ | preload _ | swap _ | spill _
    | tileFill _ _ | restore _ | entryStart _ | wave _ | entryComplete _ | copyStart _ _ | byteArrival _ _ _
    | copyComplete _ _ | ringFill _ _ _ | ringPull _ _ _ | subscriptionClose _ _ | multicastDelivery _ _ _
    | zeroingComplete _ _ | drained _ _ | demandFill _ _ _ | fillTimeout _ _ _ | migrationAccept _ | migrationCopy _ _
    | rebind _ _ | qtail _ _ | enable _ | disable _ | resume _ | kill _ | packetWaits _ | dispatch _ | blockLoad _
    | predelay _ | retirement _ | launchCompletion _ | eventRecord _ | bind _ | unbind _ | release _ | pool _ | pageresp _ _
    | steprel _ | preempt _ _ | registerWrite _ _ | hostWrite _ _ _ | flitSend _ | dataFlit _ _ | addFlit _ _ | ack _ _ _ _
    | nak _ _ _ _ _ | ackTimer _ _ | replay _ _ | routeDead _ _ _ | noPath _ _ | lossOfLight _ _ | restripe _ | training _ _
    | trainTimeout _ | crcThreshold _ | drain _ | drainTimeout _ | retrain _ | fencePort _ | disablePort _ | repin _ _
    | qpError _ _ _ | routeWrite _ _ _ | keyInstall _ _ | gcreate _ _ _ | gbind _ _ | gquiesce _ _ | gresume _ _
    | gevict _ _ _ | gabort _ _ | gdestroy _ _ | treeProgrammed _ _ _ _ _ | recordStart _ | commit _ _ _
    | instanceComplete _ _ _ _ _ | instanceAbort _ _ _ _ _ | resetCold | resetWarm | resetDie _ | resetCluster _
    | resetCore _ | resetMatrix _ | resetCopy _ | resetQuay _ | resetPort _ | resetCollective _ | perst | hotReset
    | setmode _ _ | sensorRead _ | telemetryUpdate _ _ | scrub _ | partition _ _ _ | powerUp _ | slotMask _ _ _
    | watchdogLimit _ _ | powerCap _ | capWindow _ | frequencyStep _ _ | relock _ | ageingStep _ | chipNumber _
    | spdmSession _ | firmwareWrite _ _ | activate _ | selfCheck _ _ | creditReturn _ _ _ _ | priorityFlowControl _ _ _
    | createJob _ _ | ageingApproval _ _ =>
    cases h

/-- Settles O56: the decoder runs on each of the written-out words. -/
theorem decodeWords : Obligations.DecodeWords := by
  refine ⟨?branch, ?branchExt, ?alu, ?immediate, ?load, ?vector, ?matrix, ?copy, ?reserved⟩ <;> decide +kernel

end Sys2Proof.Machine

/-! Transfers of control, no-ops, the level transition of a loop body, and the control registers (R41 to R44, R63, R66, R102, R103,
R108, R111, R112). -/

namespace Sys2Proof.Machine

open Sys2Proof

/-! ### Transfers (R50, R103) -/

theorem begin_pc {s : State} (h : s.cur < residents) : (beginIssue s).me.pc = s.me.pc := by rw [beginIssue_me s h]; rfl

theorem me_begin_rS {s : State} (h : s.cur < residents) (r : Nat) : (beginIssue s).me.rS r = s.me.rS r := by
  rw [beginIssue_me s h, begin_rS]

theorem begin_relTarget {s : State} (h : s.cur < residents) (x : ArgB) : relTarget (beginIssue s) x = relTarget s x := by
  rw [relTarget, relTarget, begin_pc h]

theorem inNest_quiet {s : State} (hq : Quiet s) : inNest s = none := by
  obtain ⟨-, hn, -⟩ := hq
  rw [inNest, hn]; rfl

/-- A C-slot op whose effect is a transfer and nothing else. -/
theorem jumps_goto {s : State} {i : Instr} {o : Op} {a : Word64} (hi : exec i s = issueOne o s) (hq : Quiet s)
    (hv : verdict [o] s = .go) (he : o.eff (beginIssue s) (beginIssue s) = (beginIssue s).goto a) (h0 : o.slot = 0 := by rfl)
    (hh : o.held = false := by rfl) (hm : o.mem = none := by rfl) (hb : o.bars (beginIssue s) = [] := by rfl) :
    Jumps s i a (fun c => c) :=
  jumps_of hi hq hv h0 hh hm he ((Arrives.begin hq).latched _) (.refl _) hb

/-- A call: the link is full at once, and holds the address after the bundle. -/
theorem jumps_link {s : State} {i : Instr} {o : Op} {a : Word64} (hi : exec i s = issueOne o s) (hq : Quiet s)
    (hv : verdict [o] s = .go) (he : o.eff (beginIssue s) (beginIssue s) = linkTo a (beginIssue s)) (h0 : o.slot = 0 := by rfl)
    (hh : o.held = false := by rfl) (hm : o.mem = none := by rfl) (hb : o.bars (beginIssue s) = [] := by rfl) :
    Jumps s i a (fun c => c.wSnow 63 s.latch.next) := by
  have hnext : (beginIssue s).latch.next = s.latch.next := by rw [beginIssue_latch]; rfl
  refine jumps_of hi hq hv h0 hh hm (he.trans (by rw [linkTo, hnext])) ?_ (Context.keeps_wSnow _ _ _) hb
  exact ((Arrives.begin hq).updMe hq.1 (fun c => c.wSnow 63 s.latch.next)).latched _

/-- An op whose effect leaves the state as it is. -/
theorem writes_nothing {s : State} {i : Instr} {o : Op} (hi : exec i s = issueOne o s) (hq : Quiet s) (hv : verdict [o] s = .go)
    (he : o.eff (beginIssue s) (beginIssue s) = beginIssue s) (hm : o.mem = none := by rfl)
    (hb : o.bars (beginIssue s) = [] := by rfl) : Writes s i (Held.after s.me.held o) (fun c => c) :=
  writes_of' hi hq hv hm (fun c => c) he (.refl _) rfl (beginIssue_me s hq.1) .refl hb

theorem nop_writes {s : State} {i : Instr} {k : Nat} (hi : exec i s = issueOne (slotNop k) s) (hq : Quiet s) :
    Writes s i (Held.after s.me.held (slotNop k)) (fun c => c) :=
  writes_nothing hi hq (verdict_go _ s rfl rfl rfl rfl) rfl

theorem brpOp_eff {s : State} (hc : s.cur < residents) (x : ArgB) :
    (brpOp x).eff (beginIssue s) (beginIssue s)
      = if s.me.rP x.pred ^^ x.neg then (beginIssue s).goto (relTarget s x) else beginIssue s := by
  simp only [brpOp, Op.plain, begin_relTarget hc, beginIssue_me s hc, begin_rP]

/-- Settles O14: it holds. Each op's effect is a transfer, a link and a transfer, or nothing, and the shared close of an issue does the
rest. -/
theorem transfers : Obligations.Transfers := by
  refine ⟨fun s hq => ⟨fun x => ⟨?br, fun hr => ⟨?taken, ?notTaken⟩, ?call⟩, fun x hr => ⟨?bri, ?calli⟩, fun hr => ?ret⟩,
    fun s hq => ⟨nop_writes (exec_nop s) hq, nop_writes (exec_nopL s) hq, nop_writes (exec_nopV s) hq, nop_writes (exec_nopM s) hq,
      nop_writes (exec_nopX s) hq⟩⟩
  case br =>
    refine jumps_goto (exec_br x s) hq (verdict_go _ s rfl rfl rfl rfl) ?_
    exact congrArg (beginIssue s).goto (begin_relTarget hq.1 x)
  case taken =>
    intro hp
    refine jumps_goto (exec_brp x s) hq (verdict_go _ s rfl hr rfl rfl) ?_
    rw [brpOp_eff hq.1, if_pos hp]
  case notTaken =>
    intro hp
    refine writes_nothing (exec_brp x s) hq (verdict_go _ s rfl hr rfl rfl) ?_
    rw [brpOp_eff hq.1, if_neg (by rw [hp]; exact Bool.false_ne_true)]
  case call =>
    refine jumps_link (exec_call x s) hq (verdict_go _ s rfl rfl (inNest_quiet hq) rfl) ?_
    exact congrArg (linkTo · (beginIssue s)) (begin_relTarget hq.1 x)
  case bri =>
    refine jumps_goto (exec_bri x s) hq (verdict_go _ s rfl hr rfl rfl) ?_
    exact congrArg (beginIssue s).goto (me_begin_rS hq.1 _)
  case calli =>
    refine jumps_link (exec_calli x s) hq (verdict_go _ s rfl hr (inNest_quiet hq) rfl) ?_
    exact congrArg (linkTo · (beginIssue s)) (me_begin_rS hq.1 _)
  case ret =>
    refine jumps_goto (exec_ret s) hq (verdict_go _ s rfl hr (inNest_quiet hq) rfl) ?_
    exact congrArg (beginIssue s).goto (me_begin_rS hq.1 _)

/-! ### Control registers (R41 to R44, R111, R112) -/

/-- No pending `FMT` write is due once the due ones have taken effect. -/
theorem begin_fmtNow (c : Context) : c.begin.fmtNow = c.fmtNow := by
  have h : c.begin.fmtPend.filter (fun p => p.1 == 0) = [] := by
    simp only [Context.begin, List.filter_filter, List.filter_eq_nil_iff, Bool.and_eq_true, bne_iff_ne, beq_iff_eq, not_and_not_right]
    exact fun _ _ => id
  rw [Context.fmtNow, h]
  rfl

theorem begin_fmtNew {s : State} (hc : s.cur < residents) (x : ArgA) : fmtNew x (beginIssue s).me = fmtNew x s.me := by
  simp only [fmtNew, beginIssue_me s hc, begin_fmtNow, begin_rS]

/-- What a control register reads is the same as the issue begins. -/
theorem begin_csrValue {s : State} (hc : s.cur < residents) (n : Nat) :
    csrValue (beginIssue s) (beginIssue s).cur n = csrValue s s.cur n := by
  have hme : (beginIssue s).ctx s.cur = (s.ctx s.cur).begin := by
    have := beginIssue_me s hc
    rwa [State.me, beginIssue_cur] at this
  have hid : (beginIssue s).ctxid s.cur = s.ctxid s.cur := by simp only [State.ctxid, hc, if_true]
  have hcyc : (beginIssue s).cyc = s.cyc := by rw [begin_fields s hc]
  have hquota : quotaOf (beginIssue s) s.cur = quotaOf s s.cur := by rw [quotaOf, quotaOf, begin_ctxLaunch s hc]
  simp only [csrValue, beginIssue_cur, hme, hid, hcyc, hquota, begin_fmtNow]
  rfl

/-- Settles O18: it holds. Values are read from the state before the bundle, which the beginning of an issue leaves as it is. -/
theorem controlRegisters : Obligations.ControlRegisters := by
  refine ⟨fun s x hq hr => ⟨?accepted, ?rejected⟩, fun s x hq => ⟨?reads, ?unlisted, fun hr => ⟨?writes, ?fmt⟩⟩⟩
  case accepted =>
    intro hok
    refine writes_of (exec_fmtset x s) hq (verdict_go _ s rfl hr (if_pos hok) rfl) rfl _ ?_ (fun c => ⟨rfl, rfl, rfl, rfl, rfl, rfl⟩)
    simp only [fmtsetOp, Op.plain, begin_fmtNew hq.1]
    rfl
  case rejected =>
    intro hbad
    exact raises_of (exec_fmtset x s) rfl hr (if_neg (by rw [fmtNew, hbad]; exact Bool.false_ne_true))
  case reads =>
    intro v hv
    refine writes_of (exec_csrr x s) hq (verdict_go _ s rfl rfl (if_neg (by simp [hv])) rfl) rfl _ ?_ (fun c => c.keeps_wS _ _)
    simp only [csrrOp, Op.plain, begin_csrValue hq.1, hv, Option.getD_some]
  case unlisted =>
    intro hv
    exact raises_of (exec_csrr x s) rfl rfl (if_pos (by simp [hv]))
  case writes =>
    intro hv h1
    refine writes_of (exec_csrw x s) hq (verdict_go _ s rfl hr (if_neg (by simp [Option.isSome_iff_ne_none.mp hv, h1])) rfl) rfl _ ?_
      (fun c => c.keeps_wCsr _ _)
    simp only [csrwOp, Op.plain, me_begin_rS hq.1]
  case fmt =>
    intro h1
    exact raises_of (exec_csrw x s) rfl hr (if_pos (by simp [h1]))

end Sys2Proof.Machine

/-! The level transition of a loop body (R66, R108). -/

namespace Sys2Proof.Machine

open Sys2Proof

/-! ### The level transition (R108) -/

theorem rLC_wLC_self (c : Context) (m : Nat) (v : Word32) : (c.wLC m v).rLC m = v := Sparse.get_set_self 0 c.lc m v

theorem rLC_wLC_ne (c : Context) {m k : Nat} (v : Word32) (h : k ≠ m) : (c.wLC m v).rLC k = c.rLC k := Sparse.get_set_ne 0 c.lc v h

/-- Strides change address registers, and no counter. -/
theorem lc_applyStrides (c : Context) (r : StrideRec) : (applyStrides c r).lc = c.lc := by
  have step : ∀ (c : Context) k d, (c.stepA k d).lc = c.lc := fun c k d => by unfold Context.stepA; split <;> rfl
  unfold applyStrides
  generalize List.range _ = l
  induction l generalizing c with
  | nil => rfl
  | cons a t ih => exact (ih _).trans (step ..)

/-- Every listed counter takes its trip count. -/
theorem rLC_setTrips (l : List Nat) (c : Context) {m : Nat} (h : m ∈ l ∨ c.rLC m = c.nest.trip.getD m 0) :
    (l.foldl (fun c m => c.wLC m (c.nest.trip.getD m 0)) c).rLC m = c.nest.trip.getD m 0 := by
  induction l generalizing c with
  | nil => exact h.resolve_left List.not_mem_nil
  | cons a t ih =>
    refine ih (c.wLC a (c.nest.trip.getD a 0)) ?_
    by_cases hm : m = a
    · subst hm; exact .inr (rLC_wLC_self ..)
    · refine h.imp (fun h => (List.mem_cons.mp h).resolve_left hm) (fun h => (rLC_wLC_ne c _ hm).trans h)

/-- The context of a level transition once the counter of level `l` has been raised and its strides are made. -/
def levelRaised (l : Nat) (c : Context) : Context :=
  applyStrides (c.wLC l (c.rLC l + 1)) (c.nest.recs.getD l { head := 0, strides := [] })

theorem keeps_levelRaised (l : Nat) (c : Context) : c.Keeps (levelRaised l c) :=
  Context.Keeps.trans (b := c.wLC l (c.rLC l + 1)) ⟨rfl, rfl, rfl, rfl, rfl, rfl⟩ (keeps_applyStrides _ _)

theorem rLC_levelRaised (l : Nat) (c : Context) : (levelRaised l c).rLC l = c.rLC l + 1 := by
  rw [Context.rLC, levelRaised, lc_applyStrides]; exact rLC_wLC_self ..

theorem levelStep_succ (k l : Nat) (c : Context) :
    levelStep (k + 1) l c =
      if (c.rLC l + 1).toNat < (c.nest.trip.getD l 0).toNat then (levelRaised l c, true)
      else if l = c.nest.levels then
        ((List.range (c.nest.levels + 1)).foldl (fun c m => c.wLC m (c.nest.trip.getD m 0)) (levelRaised l c), false)
      else levelStep k (l + 1) ((levelRaised l c).wLC l 0) := by
  obtain ⟨hnest, -⟩ := keeps_levelRaised l c
  rw [← rLC_levelRaised, ← hnest]
  rfl

/-- While the innermost counter stays below its trip count the nest goes on. -/
theorem levelStep_goesOn {c : Context} (k : Nat) (h : (c.rLC 0 + 1).toNat < (c.nest.trip.getD 0 0).toNat) :
    levelStep (k + 1) 0 c = (levelRaised 0 c, true) := by rw [levelStep_succ, if_pos h]

/-- A transition that ends the nest leaves its trip count in every counter. -/
theorem levelStep_ends (k : Nat) : ∀ (l : Nat) (c : Context), l ≤ c.nest.levels → c.nest.levels < l + k →
    (levelStep k l c).2 = false → ∀ m ≤ c.nest.levels, (levelStep k l c).1.rLC m = c.nest.trip.getD m 0 := by
  induction k with
  | zero => intro l c h1 h2; omega
  | succ k ih =>
    intro l c hl hk hend m hm
    obtain ⟨hnest, -⟩ := keeps_levelRaised l c
    rw [levelStep_succ] at hend ⊢
    by_cases hlt : (c.rLC l + 1).toNat < (c.nest.trip.getD l 0).toNat
    · rw [if_pos hlt] at hend; cases hend
    · rw [if_neg hlt] at hend ⊢
      by_cases hlast : l = c.nest.levels
      · rw [if_pos hlast]
        have h := rLC_setTrips (List.range (c.nest.levels + 1)) (levelRaised l c) (.inl (List.mem_range.mpr (Nat.lt_succ_of_le hm)))
        exact h.trans (by rw [hnest])
      · rw [if_neg hlast] at hend ⊢
        have hn : ((levelRaised l c).wLC l 0).nest = c.nest := hnest
        have h := ih (l + 1) ((levelRaised l c).wLC l 0) (by rw [hn]; omega) (by rw [hn]; omega) hend m (by rw [hn]; exact hm)
        exact h.trans (by rw [hn])

/-! ### The last bundle of the body (R66) -/

/-- The context at the end of an issue that has no effect of its own. -/
def bodyCtx (s : State) : Context := (s.me.begin.fillBuffer s.latch.words).tickFmt

theorem bodyCtx_nest (s : State) : (bodyCtx s).nest = { s.me.nest with buf := (bodyCtx s).nest.buf } := by
  simp only [bodyCtx, Context.tickFmt, Context.fillBuffer]
  split <;> rfl

theorem bodyCtx_rep (s : State) : (bodyCtx s).rep = s.me.rep := by
  simp only [bodyCtx, Context.tickFmt, Context.fillBuffer]
  split <;> rfl

theorem bodyCtx_after_st (s : State) : (bodyCtx s).after = s.me.after ∧ (bodyCtx s).st = s.me.st :=
  fillBuffer_same s.me.begin s.latch.words

/-- The context at its next issue point after a level transition that leaves `r`: the first bundle of the body, or the one behind it
without the nest. -/
def bodyEnd (first next : Word64) (r : Context × Bool) : Context :=
  if r.2 then (r.1.withNest { r.1.nest with pos := 0 }).goTo first 0 0 else (r.1.withNest .none).goTo next 0 0

theorem bodyEnd_keeps (first next : Word64) (r : Context × Bool) :
    (bodyEnd first next r).after = r.1.after ∧ (bodyEnd first next r).st = r.1.st := by
  unfold bodyEnd
  split <;> exact ⟨rfl, rfl⟩

theorem bodyEnd_owing (first next : Word64) (r : Context × Bool) :
    (bodyEnd first next r).owing none
      = if r.2 then { r.1 with nest := { r.1.nest with pos := 0 }, pc := first, rep := 0, brSrc := 0, owed := none }
        else { r.1 with nest := .none, pc := next, rep := 0, brSrc := 0, owed := none } := by
  unfold bodyEnd
  split <;> rfl

/-- The last repetition of the last bundle makes the level transition. -/
theorem advance_bodyEnd {e : State} (he : e.latch.eret = false) (ht : e.latch.target = none) (hr : e.latch.repn ≤ e.me.rep)
    (hl : e.latch.enter.active = false) (hx : e.latch.exitNest = false) (hn : e.me.nest.active = true)
    (hp : e.me.nest.pos = e.me.nest.body) (hlbe : e.latch.lbe = true) :
    advance e = (e.updMe (fun _ => bodyEnd e.me.nest.first e.latch.next (levelStep 6 0 e.me)), none) := by
  unfold advance
  simp only [he, ht, hl, hx, hn, hp, hlbe, Nat.not_lt.mpr hr, if_true, if_false, Bool.false_eq_true, and_self]
  rfl

/-- Settles O16: it holds, with the level transition followed level by level for the counters. -/
theorem loopBody : Obligations.LoopBody := by
  refine ⟨fun s hc hact hstep hafter hst hrep hpos hlbe => ?last, fun c hlev => ⟨fun h => ?goesOn, fun h => ?ends⟩⟩
  case last =>
    have A := Arrives.begin' hc
    have hl : (latchBegin s.latch s.me).step = false := by
      simp only [latchBegin, Bool.and_eq_false_imp, beq_iff_eq]; exact hstep
    have B := A.settled hc nopOp
    have hlatch : (settled nopOp (beginIssue s)).latch = latchBegin s.latch s.me := B.2.1
    have hme : (settled nopOp (beginIssue s)).me = bodyCtx s := B.2.2.2
    have hnest := bodyCtx_nest s
    have hadv := advance_bodyEnd (e := settled nopOp (beginIssue s)) (by rw [hlatch]; rfl) (by rw [hlatch]; rfl)
      (by rw [hlatch, hme, bodyCtx_rep]; exact hrep) (by rw [hlatch]; rfl) (by rw [hlatch]; rfl) (by rw [hme, hnest]; exact hact)
      (by rw [hme, hnest]; exact hpos) (by rw [hlatch]; exact hlbe)
    obtain ⟨hA, hS⟩ := bodyEnd_keeps (bodyCtx s).nest.first s.latch.next (levelStep 6 0 (bodyCtx s))
    obtain ⟨-, -, -, hkA, hkS, -⟩ := keeps_levelStep 6 0 (bodyCtx s)
    obtain ⟨hA', hS'⟩ := bodyCtx_after_st s
    rw [hme, hlatch] at hadv
    have R := finish_point (w := fenceWaits (beginIssue s) [nopOp]) (n := s.num) A hc hadv rfl hl rfl rfl
      (hA.trans (hkA.trans (hA'.trans hafter))) (fun h => hst (hS'.symm.trans (hkS.symm.trans (hS.symm.trans h))))
    refine ⟨_, exec_commit (exec_nop s) (verdict_go _ s rfl rfl rfl rfl), R.1, R.2.2.2.trans ?_⟩
    rw [show (bodyCtx s).nest.first = s.me.nest.first by rw [hnest]]
    dsimp only
    rw [show (s.me.begin.fillBuffer s.latch.words).tickFmt = bodyCtx s from rfl, bodyEnd_owing]
    rfl
  case goesOn =>
    rw [levelStep_goesOn 5 h]
    exact ⟨rfl, rLC_levelRaised 0 c⟩
  case ends => exact levelStep_ends 6 0 c (Nat.zero_le _) (by omega) h

end Sys2Proof.Machine

/-! Writebacks, the hard-wired registers and empty sources (R33, R36, R37). -/

namespace Sys2Proof.Machine

open Sys2Proof

/-! ### Registers (R33, R36) -/

/-- `d` holds what the registers of `c` hold, but for register `k` of file `f`, which holds `v` unless it is hard-wired. -/
def StoredIn (c d : Context) (f : RegFile) (k : Nat) (v : VReg) : Prop :=
  (∀ r, d.rS r = if f = .s ∧ r = k ∧ r ≠ 0 then v.setWidth 64 else c.rS r)
  ∧ (∀ r, d.rA r = if f = .a ∧ r = k then v.setWidth 64 else c.rA r)
  ∧ (∀ r, d.rP r = if f = .p ∧ r = k ∧ r ≠ 0 then v.getLsbD 0 else c.rP r)
  ∧ (∀ r, d.rV r = if f = .v ∧ r = k then v else c.rV r)
  ∧ (∀ r, d.rVM r = if f = .vm ∧ r = k ∧ r ≠ 0 then v.setWidth 256 else c.rVM r)

/-- A hard-wired register takes nothing; another one takes the value under its own number. -/
theorem storedIn_put (c : Context) (f : RegFile) (k : Nat) (v : VReg) : StoredIn c (c.put f k v) f k v := by
  unfold StoredIn
  unfold Context.put
  split
  · next hw => cases f <;> simp [hardwired] at hw ⊢ <;> omega
  · next hw =>
    cases f <;> simp [hardwired, Context.rS, Context.rA, Context.rP, Context.rV, Context.rVM, Sparse.get_set] at hw ⊢ <;> grind

/-- A completed writeback changes register files and pending writebacks alone. -/
theorem put_files (c : Context) (f : RegFile) (k : Nat) (v : VReg) :
    c.put f k v = { c with
      s := (c.put f k v).s, a := (c.put f k v).a, p := (c.put f k v).p, v := (c.put f k v).v, vm := (c.put f k v).vm } := by
  unfold Context.put
  split
  · rfl
  · cases f <;> rfl

/-- Without its pending writebacks a register is full. -/
theorem pending_filter_self (c : Context) (f : RegFile) (r : Nat) :
    Context.pending { c with pend := c.pend.filter (fun q => !(q.file == f && q.reg == r)) } f r = false := by
  simp only [Context.pending, List.any_filter, List.any_eq_false]
  intro q _
  cases (q.file == f && q.reg == r) <;> decide

/-- The pending writebacks of another register stay. -/
theorem pending_filter_ne (c : Context) {f g : RegFile} {r k : Nat} (h : ¬(f = g ∧ r = k)) :
    Context.pending { c with pend := c.pend.filter (fun q => !(q.file == g && q.reg == k)) } f r = c.pending f r := by
  simp only [Context.pending, List.any_filter]
  congr 1
  funext q
  by_cases hq : q.file = f ∧ q.reg = r
  · obtain ⟨rfl, rfl⟩ := hq
    have hne : (q.file == g && q.reg == k) = false := by simpa using h
    simp [hne]
  · have hne : (q.file == f && q.reg == r) = false := by simpa using hq
    simp [hne]

theorem writeback_discards {c : Context} {i : Nat} {p : Pending} (hp : c.pend[i]? = some p)
    (hy : (c.pend.drop (i + 1)).any (fun q => q.file == p.file && q.reg == p.reg) = true) :
    c.writeback i = { c with pend := c.pend.take i ++ c.pend.drop (i + 1) } := by
  simp only [Context.writeback, hp, hy, if_true]

theorem writeback_stores {c : Context} {i : Nat} {p : Pending} (hp : c.pend[i]? = some p)
    (hy : (c.pend.drop (i + 1)).any (fun q => q.file == p.file && q.reg == p.reg) = false) :
    c.writeback i = { c.put p.file p.reg p.val with pend := c.pend.filter (fun q => !(q.file == p.file && q.reg == p.reg)) } := by
  simp only [Context.writeback, hp, hy, Bool.false_eq_true, if_false]

/-! ### Writes of an op (R33, R36) -/

theorem post_hardwired (c : Context) {f : RegFile} {r : Nat} (h : hardwired f r = true) (v : VReg) : c.post f r v = c := if_pos h

/-- A write of an op is pending, and leaves the register files as they are. -/
theorem post_pends (c : Context) {f : RegFile} {r : Nat} (h : hardwired f r = false) (v : VReg) :
    c.post f r v = { c with pend := c.pend ++ [{ file := f, reg := r, val := v }] } := if_neg (by simp [h])

theorem full_post (c : Context) {f : RegFile} {r : Nat} (h : hardwired f r = false) (v : VReg) : (c.post f r v).full f r = false := by
  simp [post_pends c h, Context.full, Context.pending, h]

/-! ### Empty sources (R37, R39) -/

/-- The first empty source of a list, behind full ones, with its position. -/
theorem firstEmptySrc_append {s : State} {cid : Nat} {e : Src} (m : List Src) (he : srcFull s cid e = false) (l : List Src) :
    ∀ n, l.all (srcFull s cid) = true → firstEmptySrc s cid n (l ++ e :: m) = some (n + l.length, e) := by
  induction l with
  | nil => intro n _; simp [firstEmptySrc, he]
  | cons x t ih =>
    intro n h
    obtain ⟨hx, ht⟩ : srcFull s cid x = true ∧ t.all (srcFull s cid) = true := by simpa using h
    rw [List.cons_append, firstEmptySrc, if_pos hx, ih (n + 1) ht, List.length_cons, Nat.add_right_comm, Nat.add_assoc]

theorem emptyExc_register (s : State) (cid pos slot : Nat) (held : Bool) {x : Src} (h : x.file ≠ 5) :
    emptyExc s cid pos slot held x = Exc.mk' 0x20 0 (emptyInfo pos slot held x) := if_neg h

/-! ### The statement -/

/-- Settles O37: it holds. A writeback is an update of its context, hard-wired registers take nothing, and the first empty source decides
an issue before anything else of the op. -/
theorem writebacks : Obligations.Writebacks := by
  refine ⟨fun s n i p hn hp => ⟨fun hy => ?discarded, fun hy => ?stored⟩, fun c => ?registers, fun s i o l m e ho h0 hsrc hl he => ?empty⟩
  case discarded =>
    have h := becomes_updCtx hn (fun c => c.writeback i) (rfl : exec (.writeback n i) s = .next (s.updCtx n (fun c => c.writeback i)))
    rwa [writeback_discards hp hy] at h
  case stored =>
    refine ⟨s.updCtx n (fun c => c.writeback i), rfl, beside_updCtx s hn _, ?_⟩
    dsimp only
    rw [ctx_updCtx_self s hn, writeback_stores hp hy]
    obtain ⟨hS, hA, hP, hV, hVM⟩ := storedIn_put (s.ctx n) p.file p.reg p.val
    refine ⟨?_, ?_, fun f r hfr => ?_, hS, hA, hP, hV, hVM⟩
    · rw [put_files]
    · exact Bool.or_eq_true_iff.mpr (.inr (congrArg (!·) (pending_filter_self (s.ctx n) p.file p.reg)))
    · exact congrArg (fun b => hardwired f r || !b) (pending_filter_ne (s.ctx n) hfr)
  case registers =>
    refine ⟨rfl, rfl, rfl, rfl, rfl, rfl, fun v => post_hardwired c rfl _, fun v => post_hardwired c rfl _,
      fun v => post_hardwired c rfl _, fun f r v hf => ⟨full_post c hf v, ?_⟩⟩
    rw [post_pends c hf]
    exact ⟨rfl, rfl, rfl, rfl, rfl⟩
  case empty =>
    have hfirst : firstEmptySrc s s.cur 0 o.srcs = some (l.length, e) := by
      rw [hsrc, firstEmptySrc_append m he l 0 hl, Nat.zero_add]
    refine ⟨fun ht hf => ?_, fun ht => ?_⟩
    · have hv := verdict_empty_trap o s h0 hfirst ht
      rw [emptyExc_register s s.cur _ _ _ hf] at hv
      rw [Raises, exec_opOf s ho, issueOne, issue_exc o s hv]
      rfl
    · rw [Waits, exec_opOf s ho, issueOne, issue_wait o s (verdict_empty_block o s h0 hfirst ht)]

end Sys2Proof.Machine

/-! The issue of a bundle (R39, R47 to R51, R58, R104, R250, R251): what the next bundle of a context is found to be, what its ops do
together, and the step that runs a decoded word. -/

namespace Sys2Proof.Machine

open Sys2Proof

/-! ### The issue of a core (R250, R251) -/

/-- Where a context holds the width with its quantum not used up, an issue of the core is one of that context. -/
theorem exec_bundleIssue {s : State} {g k : Nat} (hm : MayIssue s g k) :
    exec (.bundleIssue g) s = .next (issueNext { s with cur := g * 4 + k }) := by
  obtain ⟨hg, -, hpause, hhold, hquantum⟩ := hm
  have hexp : expireQuantum g s = s := by simp only [expireQuantum, hhold, hquantum, Bool.not_false, if_true]
  have hissue : bundleIssue g s = issueNext { s with cur := g * 4 + k } := by
    rw [bundleIssue, hpause, if_neg Bool.false_ne_true, hexp, roundabout, hhold]
  exact (if_pos hg).trans (congrArg Host.Outcome.next hissue)

theorem mayIssue_cur {s : State} {g k : Nat} (hm : MayIssue s g k) : g * 4 + k < residents := by
  obtain ⟨hg, hk, -⟩ := hm
  simp only [Config.nCores] at hg
  simp only [residents]
  omega

theorem issueNext_exc {s : State} {e : Exc} (h : tryBundle s = .exc e) : issueNext s = raise s e := by rw [issueNext, h]

theorem issueNext_empty {s : State} {ops : List Op} {p : Nat} (h : tryBundle s = .empty ops p) :
    issueNext s = block (noteBlock ops 2 p s) s.cur 1 := by rw [issueNext, h]

theorem issueNext_skip {s : State} {ws : List Word32} (h : tryBundle s = .skip ws) :
    issueNext s = finish false s.num (beginIssue (latchBundle ws s)) := by rw [issueNext, h]

theorem issueNext_ready {s : State} {ws : List Word32} {ops : List Op} (h : tryBundle s = .ready ws ops) :
    issueNext s = issue ops (latchBundle ws s) := by rw [issueNext, h]

/-! ### What a bundle is found to be (R48 to R51, R55, R104) -/

theorem tryBundle_misaligned {s : State} (h : s.me.pc.toNat % 4 ≠ 0) : tryBundle s = .exc (badBundle s.me.brSrc) := if_pos h

/-- Outside a nest the words come from memory. -/
theorem tryBundle_fetched {s : State} {ws : List Word32} (ha : s.me.pc.toNat % 4 = 0) (hn : s.me.nest.active = false)
    (hf : fetchBundle s (s.jobOf s.cur) s.me.pc = .ok ws) : tryBundle s = tryWords true ws s := by
  simp only [tryBundle, ha, hn, hf, ne_eq, not_true_eq_false, Bool.false_eq_true, if_false]

theorem tryBundle_noHeader {s : State} {h : Word32} (ha : s.me.pc.toNat % 4 = 0) (hn : s.me.nest.active = false)
    (hf : fetchBundle s (s.jobOf s.cur) s.me.pc = .ok [h]) (hecc : codeEcc s (s.jobOf s.cur) s.me.pc 1 = false)
    (hh : headerOk h = false) : tryBundle s = .exc (badBundle s.me.brSrc) := by
  rw [tryBundle_fetched ha hn hf]
  simp only [tryWords, List.length_singleton, hecc, List.headD_cons, hh, Bool.and_false, Bool.false_eq_true, Bool.not_false,
    Bool.true_or, if_false, if_true]

/-- A bundle that stands at the program counter, without REP and without a register named twice, is decided by its slots and its
guard. -/
theorem tryBundle_standing {s : State} {h : Word32} {ws : List Word32} {l : List SlotWords} (hst : Standing s h ws)
    (hrep : bits h.toNat 20 17 = 0) (hl : slotPairs (maskSlots (bits h.toNat 27 21)) ws = l)
    (hdst : repeats (l.flatMap wordDsts) = false)
    (hops : s.me.full .p (bits h.toNat 14 12) = true → guardHolds h.toNat s.me = true →
      repeats ((issueOps l .none).flatMap opDsts) = false ) :
    tryBundle s = match badSlot l with
      | some k => .exc (illegal k 0 0)
      | none =>
        if s.me.full .p (bits h.toNat 14 12) = false then .empty (issueOps l .none) (bits h.toNat 14 12)
        else if guardHolds h.toNat s.me = false then .skip (h :: ws)
        else .ready (h :: ws) (issueOps l .none) := by
  obtain ⟨ha, hn, hheld, hf, hecc, hok, hr⟩ := hst
  rw [hrep] at hr
  have hrep0 : s.me.rep = 0 := Nat.le_zero.mp hr
  rw [tryBundle_fetched ha hn hf]
  simp only [tryWords, List.headD_cons, List.tail_cons, List.length_cons, hecc, hok, hrep, hrep0, hl, hdst, hheld, hn]
  cases hfull : s.me.full .p (bits h.toNat 14 12) with
  | false => cases badSlot l <;> simp
  | true =>
    cases hg : guardHolds h.toNat s.me with
    | false => cases badSlot l <;> simp
    | true =>
      rw [hops hfull hg]
      cases badSlot l <;> simp

/-- A bundle whose guard is true and whose words decode is ready with its ops. -/
theorem tryBundle_ready {s : State} {h : Word32} {ws : List Word32} {l : List SlotWords} (hst : Standing s h ws)
    (hrep : bits h.toNat 20 17 = 0) (hl : slotPairs (maskSlots (bits h.toNat 27 21)) ws = l)
    (hdst : repeats (l.flatMap wordDsts) = false) (hops : repeats ((issueOps l .none).flatMap opDsts) = false)
    (hbad : badSlot l = none) (hfull : s.me.full .p (bits h.toNat 14 12) = true) (hg : guardHolds h.toNat s.me = true) :
    tryBundle s = .ready (h :: ws) (issueOps l .none) := by
  rw [tryBundle_standing hst hrep hl hdst (fun _ _ => hops), hbad, hfull, hg]
  rfl

/-! ### A bundle with a false guard (R51) -/

/-- The issue of a bundle whose guard is false has no op's effect: its close alone. -/
theorem finish_skip {u : State} {ws : List Word32} (hq : Quiet u) (hheld : u.me.held = .none) :
    Elsewhere u (finish false u.num (beginIssue (latchBundle ws u)))
    ∧ (finish false u.num (beginIssue (latchBundle ws u))).me = closing (latchBundle ws u) .none u.me.begin := by
  have hqv : Quiet (latchBundle ws u) := hq
  have L := (Leads.begin hqv).plainEnd hqv (.refl _)
  have hme : (beginIssue (latchBundle ws u)).me = u.me.begin := beginIssue_me _ hqv.1
  have hhold : (beginIssue (latchBundle ws u)).me = (beginIssue (latchBundle ws u)).me.holding .none := by
    rw [hme, ← hheld]; rfl
  obtain ⟨h1, h2⟩ := finish_clear _ _ _ false u.num .none hqv L (.refl _) hhold rfl
  rw [hme] at h2
  exact ⟨(((Elsewhere.refl u).latched _).trans (beginIssue_elsewhere _ hqv.1)).trans h1, h2⟩

/-! ### The ops of a bundle together (R39, R58) -/

/-- An op of a slot other than C whose effect, wherever it comes among those of its bundle, is the change `f` of the issuing context. -/
def ChangesMe (s : State) (o : Op) (f : Context → Context) : Prop :=
  o.mem = none ∧ o.bars (beginIssue s) = [] ∧ o.slot ≠ 0
  ∧ (∀ c : Context, let d := f c
      d.nest = c.nest ∧ d.rep = c.rep ∧ d.pc = c.pc ∧ d.after = c.after ∧ d.st = c.st ∧ d.held = c.held)
  ∧ ∀ e, Elsewhere (beginIssue s) e → e.latch = (beginIssue s).latch → o.eff (beginIssue s) e = e.updMe f

theorem effect_changesMe {s e : State} {o : Op} {f : Context → Context} (h : ChangesMe s o f) (w : Bool)
    (hel : Elsewhere (beginIssue s) e) (hl : e.latch = (beginIssue s).latch) : effect w (beginIssue s) e o = e.updMe f := by
  obtain ⟨hm, hb, -, -, heff⟩ := h
  simp only [effect, hm, hb, postBars, heff e hel hl]

/-- The effects of such ops are their changes, one after the other. -/
theorem effects_changeMe {s : State} (hc : s.cur < residents) (w : Bool) {F : Op → Context → Context} (ops : List Op) :
    ∀ {e : State} {c : Context}, (∀ o ∈ ops, ChangesMe s o (F o)) → Elsewhere (beginIssue s) e → e.latch = (beginIssue s).latch →
      e.me = c →
      Elsewhere (beginIssue s) (effects w (beginIssue s) ops e) ∧ (effects w (beginIssue s) ops e).latch = (beginIssue s).latch
      ∧ (effects w (beginIssue s) ops e).me = ops.foldl (fun c o => F o c) c := by
  induction ops with
  | nil => intro e c _ hel hl hme; exact ⟨hel, hl, hme⟩
  | cons o t ih =>
    intro e c hops hel hl hme
    have hcb : (beginIssue s).cur < residents := by rw [beginIssue_cur]; exact hc
    have hec : e.cur < residents := by rw [hel.cur]; exact hcb
    have hstep : effects w (beginIssue s) (o :: t) e = effects w (beginIssue s) t (e.updMe (F o)) :=
      congrArg (effects w (beginIssue s) t) (effect_changesMe (hops o List.mem_cons_self) w hel hl)
    rw [hstep]
    exact ih (fun p hp => hops p (List.mem_cons_of_mem o hp)) (hel.updMe hcb _) ((updMe_latch e _).trans hl)
      (by rw [me_updMe e hec, hme])

theorem keeps_changes {s : State} {F : Op → Context → Context} (ops : List Op) :
    ∀ {c : Context}, (∀ o ∈ ops, ChangesMe s o (F o)) → c.Keeps (ops.foldl (fun c o => F o c) c) := by
  induction ops with
  | nil => intro c _; exact .refl c
  | cons o t ih =>
    intro c hops
    obtain ⟨-, -, -, hk, -⟩ := hops o List.mem_cons_self
    exact Context.Keeps.trans (hk c) (ih (fun p hp => hops p (List.mem_cons_of_mem o hp)))

/-- Without an op of the C slot no fence holds anything back. -/
theorem fenceWaits_noC {s : State} {ops : List Op} (h : ∀ o ∈ ops, o.slot ≠ 0) : fenceWaits (beginIssue s) ops = false := by
  have hnil : ops.filter (fun o => o.slot == 0) = [] := by
    rw [List.filter_eq_nil_iff]; exact fun o ho => by simpa using h o ho
  simp [fenceWaits, fenceOf, hnil, latchBegin]

theorem issue_changesMe {s : State} {ops : List Op} {F : Op → Context → Context} (hq : Quiet s) (hv : verdict ops s = .go)
    (hops : ∀ o ∈ ops, ChangesMe s o (F o)) :
    Elsewhere s (issue ops s)
    ∧ (issue ops s).me = closing s (ops.foldl Held.after s.me.held) (ops.foldl (fun c o => F o c) s.me.begin) := by
  have hw : fenceWaits (beginIssue s) ops = false := fenceWaits_noC (fun o ho => (hops o ho).2.2.1)
  obtain ⟨hel, hl, hme⟩ := effects_changeMe hq.1 false ops hops (.refl _) rfl (beginIssue_me s hq.1)
  obtain ⟨h1, h2⟩ := finish_ops s _ false s.num ops hq (plainEnd_of hq hel hl hme (keeps_changes ops hops))
  have hissue : issue ops s = finish false s.num (holds ops (effects false (beginIssue s) ops (beginIssue s))) := by
    simp only [issue, hv, commit, hw, beginIssue_num]
  rw [hissue]
  rw [hme] at h2
  exact ⟨((beginIssue_elsewhere s hq.1).trans hel).trans h1, h2⟩

/-- Settles O40: it holds. What the bundle is found to be decides the issue, and the ops of one bundle change the issuing context one
after the other. -/
theorem bundleIssues : Obligations.BundleIssues := by
  refine ⟨fun s g k hm => ?core, fun s ops F hq hv hops => issue_changesMe hq hv hops⟩
  case core =>
    have hi := exec_bundleIssue hm
    refine ⟨fun ha => ?misaligned, fun h ha hn hf he hh => ?noHeader, fun h ws hst hrep hdst =>
      ⟨fun n hbad hoff => ?badSlot, fun hbad hfull => ?guardEmpty, fun hbad hfull hg hq => ?guardFalse, fun hbad hfull hg hops => ?ready⟩⟩
    case misaligned => exact hi.trans (congrArg Host.Outcome.next (issueNext_exc (tryBundle_misaligned ha)))
    case noHeader => exact hi.trans (congrArg Host.Outcome.next (issueNext_exc (tryBundle_noHeader ha hn hf he hh)))
    case badSlot =>
      refine hi.trans (congrArg Host.Outcome.next (issueNext_exc ?_))
      rw [tryBundle_standing hst hrep rfl hdst (fun hf hg => by simp [hf, hg] at hoff), hbad]
    case guardEmpty =>
      refine hi.trans (congrArg Host.Outcome.next (issueNext_empty ?_))
      rw [tryBundle_standing hst hrep rfl hdst (fun hf => by simp [hf] at hfull), hbad]
      exact if_pos hfull
    case guardFalse =>
      have ⟨_, _, hheld, _⟩ := hst
      have htry : tryBundle { s with cur := g * 4 + k } = .skip (h :: ws) := by
        rw [tryBundle_standing hst hrep rfl hdst (fun _ ht => by simp [ht] at hg), hbad, hfull, hg]
        rfl
      exact ⟨_, hi.trans (congrArg Host.Outcome.next (issueNext_skip htry)), finish_skip hq hheld⟩
    case ready => exact hi.trans (congrArg Host.Outcome.next (issueNext_ready (tryBundle_ready hst hrep rfl hdst hops hbad hfull hg)))

/-! ### A step that runs a decoded word -/

/-- An op as an instruction gives it is no held re-issue. -/
theorem opOf_held {k : Nat} {i : Instr} {o : Op} (h : opOf k i = some o) : o.held = false := by
  cases i with
  | amov x => injection h with h; subst h; unfold amovOp; split <;> rfl
  | vmops x => injection h with h; subst h; unfold vmopsOp; split <;> rfl
  | _ => cases h <;> rfl

theorem wordOp_of_decode {w : SlotWords} {i : Instr} (h : decode w.slot w.word w.ext = some i) : wordOp w = opOf w.slot i := by
  rw [wordOp, h]; rfl

theorem rawSlot_of_decode {k : Nat} {w e : Word32} {i : Instr} (h : decode k w e = some i) : rawSlot k w.toNat e = some i := by
  unfold decode at h
  split at h
  · next j hj =>
    split at h
    · exact hj.trans h
    · cases h
  · cases h

theorem slot_of_slotPairs (l : List Nat) : ∀ (ws : List Word32), ∀ w ∈ slotPairs l ws, w.slot ∈ l := by
  induction l with
  | nil => intro ws w h; cases h
  | cons k t ih =>
    intro ws w h
    cases ws with
    | nil => cases h
    | cons x r =>
      simp only [slotPairs] at h
      split at h <;> rcases List.mem_cons.mp h with rfl | h
      · exact List.mem_cons_self
      · exact List.mem_cons_of_mem k (ih _ w h)
      · exact List.mem_cons_self
      · exact List.mem_cons_of_mem k (ih _ w h)

/-- A bundle of one slot whose word is an op has that op. -/
theorem issueOps_singleton {w : SlotWords} {o : Op} (hs : w.slot < 7) (ho : wordOp w = some o) (hheld : o.held = false) :
    issueOps [w] .none = [o] := by
  have hop : ∀ k, (match slotAt [w] .none k with
      | some (b, w) => (wordOp w).map (fun o => { o with held := b })
      | none => none) = if w.slot = k then some o else none := by
    intro k
    by_cases h : w.slot = k
    · simp [slotAt, h, ho, ← hheld]
    · simp [slotAt, h, heldAt, Held.none]
  have hlist : issueOps [w] .none = (List.range 7).filterMap (fun k => if w.slot = k then some o else none) :=
    congrArg (List.filterMap · (List.range 7)) (funext hop)
  rw [hlist]
  clear hlist hop
  generalize w.slot = n at hs
  interval_cases n <;> rfl

/-- Settles O39: it holds. The head of the agenda is the issue of the core, and a bundle of one slot is ready with the op of its
word. -/
theorem stepRunsDecoded : Obligations.StepRunsDecoded := by
  intro s rest dt g k h ws w i hag hclear s' u hmay hst hpairs hfull hg hrep hdec hdst
  obtain ⟨hsome, hslot⟩ := decode_op hdec
  obtain ⟨o, ho⟩ := Option.isSome_iff_exists.mp hsome
  have hword : wordOp w = some o := (wordOp_of_decode hdec).trans ho
  have hmem : w.slot ∈ maskSlots (bits h.toNat 27 21) := slot_of_slotPairs _ ws w (by rw [hpairs]; exact List.mem_singleton_self w)
  have hlt : w.slot < 7 := List.mem_range.mp (List.mem_filter.mp hmem).1
  have hops : issueOps [w] .none = [o] := issueOps_singleton hlt hword (opOf_held ho)
  have hwd : wordDsts w = opDsts o := by simp only [wordDsts, rawSlot_of_decode hdec, Option.bind_some, ho]
  have hbad : badSlot [w] = none := by simp [badSlot, hword]
  have htry : tryBundle u = .ready (h :: ws) [o] := by
    rw [← hops]
    refine tryBundle_ready hst hrep hpairs ?_ ?_ hbad hfull hg
    · simpa using hdst
    · simpa [hops, ← hwd] using hdst
  have hstep : step s = exec (.bundleIssue g) s' := by
    simp only [step, hag, hclear, if_true]
    rfl
  have hrun : step s = .next (issue [o] (latchBundle (h :: ws) u)) :=
    hstep.trans ((exec_bundleIssue hmay).trans (congrArg Host.Outcome.next (issueNext_ready htry)))
  refine ⟨fun hne => ?_, fun he => ⟨o, he ▸ ho, hrun⟩⟩
  rw [hrun, exec_opOf _ ((hslot hne).symm.trans ho)]
  rfl

end Sys2Proof.Machine

/-! # The matrix engine at work (O43)

Without errors in memory a wave records, corrects and heals nothing, so each event of a core's queue is a few updates of
that core and of the entry's context. -/

namespace Sys2Proof.Machine

open Sys2Proof

/-! ### Storage without errors -/

theorem goodLanes_clean {s : State} (h : Clean s) (g : Nat) (p : Nat → Nat → Bool) : s.goodLanes g p = s := by
  obtain ⟨_, hl, _, hs⟩ := h
  cases s
  simp only at hl hs
  subst hl hs
  rfl

theorem goodCodebook_clean {s : State} (h : Clean s) (g : Nat) : s.goodCodebook g = s := by
  obtain ⟨_, _, hc, hs⟩ := h
  cases s
  simp only at hc hs
  subst hc hs
  rfl

theorem badWord_clean {s : State} (h : Clean s) (g : Nat) : badWord s g = fun _ => false := by
  funext o; simp [badWord, h.1]

theorem softWord_clean {s : State} (h : Clean s) (g : Nat) : softWord s g = fun _ => false := by
  funext o; simp [softWord, h.2.2.2]

theorem softLane_clean {s : State} (h : Clean s) (g tile : Nat) : softLane s g tile = fun _ => false := by
  funext o; simp [softLane, h.2.2.2]

theorem softEntry_clean {s : State} (h : Clean s) (g : Nat) : softEntry s g = fun _ => false := by
  funext o; simp [softEntry, h.2.2.2]

theorem eccLane_clean {s : State} (h : Clean s) (q : Nat × Nat × Nat) : s.eccLanes.contains q = false := by simp [h.2.1]

theorem eccEntry_clean {s : State} (h : Clean s) (q : Nat × Nat) : s.eccCb.contains q = false := by simp [h.2.2.1]

theorem laneRead_clean {s : State} (h : Clean s) (g tile i j : Nat) : laneRead s g tile i j = (s.tile g tile).lane i j := by
  simp [laneRead, h.2.1]

theorem Clean.updCore {s : State} (h : Clean s) (g : Nat) (f : Core → Core) : Clean (s.updCore g f) := h

theorem Clean.updTile {s : State} (h : Clean s) (g t : Nat) (f : Tile → Tile) : Clean (s.updTile g t f) := h

theorem Clean.raiseOn {s : State} (h : Clean s) (n : Nat) (f : FlagSet) : Clean (raiseOn s n f) := by
  simpa [Clean, Machine.raiseOn] using h

theorem Clean.onlyMem {s b : State} (h : Clean s) (k : OnlyMem s b) : Clean b := by
  unfold OnlyMem at k
  rw [k]; exact h

/-- Where no lane is bad, the lanes of a rectangle show no error. -/
theorem laneErrs_none (w r nr c nc : Nat) : laneErrs (fun _ => false) w r nr c nc = [] := by
  simp [laneErrs]

/-- A wave meets no error where nothing is bad. -/
theorem waveErrs_none (s : State) (g : Nat) (e : MEntry) (len : Nat) :
    waveErrs s g (fun _ => false) (fun _ => false) (fun _ => false) e len = [] := by
  simp [waveErrs, panelErrs, sideErrs, cbErrs, laneErrs_none]

/-- Without errors nothing is healed. -/
theorem healLanes_clean {s : State} (h : Clean s) (g tile r nr c nc : Nat) : healLanes s g tile r nr c nc = s := by
  have step : ∀ l : List (Nat × Nat), l.foldl (fun s p =>
      let n := 64 * (r + p.1) + c + p.2
      if s.eccLanes.contains (g, tile, n) then
        let v := laneRead s g tile (r + p.1) (c + p.2)
        (s.updTile g tile (fun t => { t with lanes := Sparse.set 0 t.lanes n v })).goodLanes g (fun t m => t == tile && m == n)
      else s) s = s := by
    intro l
    induction l with
    | nil => rfl
    | cons p l ih => rw [List.foldl_cons]; simpa [h.2.1] using ih
  exact step _

/-! ### Tiles and contexts under an update of a core -/

theorem tile_updTile (s : State) (g t i : Nat) (f : Tile → Tile) :
    (s.updTile g t f).tile g i = if i = t then f (s.tile g t) else s.tile g i := by
  rw [State.tile, State.updTile, core_updCore, if_pos rfl]
  by_cases h : i = t
  · subst h; simp [State.tile]
  · simp [State.tile, h, Sparse.get_set_ne _ _ _ h]

/-- A tile is what its core holds. -/
theorem tile_eq_of_tiles {s t : State} {g : Nat} (h : (t.core g).tiles = (s.core g).tiles) (i : Nat) : t.tile g i = s.tile g i := by
  rw [State.tile, State.tile, h]

theorem core_raiseOn (s : State) (n g : Nat) (f : FlagSet) :
    (raiseOn s n f).core g = { s.core g with ctxs := ((raiseOn s n f).core g).ctxs } := core_setCtx s n g _

theorem tile_raiseOn (s : State) (n g i : Nat) (f : FlagSet) : (raiseOn s n f).tile g i = s.tile g i :=
  tile_eq_of_tiles (by rw [core_raiseOn]) i

/-- `t` has the queue, the saved operations and the codebook of core `g`, and the operations that context `n` counts, as `s`
has them. -/
def SameQueue (g n : Nat) (s t : State) : Prop :=
  (t.core g).mq = (s.core g).mq ∧ (t.core g).savedOps = (s.core g).savedOps ∧ (t.ctx n).out = (s.ctx n).out

theorem SameQueue.refl (g n : Nat) (s : State) : SameQueue g n s s := ⟨rfl, rfl, rfl⟩

theorem SameQueue.trans {g n : Nat} {s t u : State} (h : SameQueue g n s t) (k : SameQueue g n t u) : SameQueue g n s u :=
  ⟨k.1.trans h.1, k.2.1.trans h.2.1, k.2.2.trans h.2.2⟩

theorem sameQueue_updTile (g n : Nat) (s : State) (t : Nat) (f : Tile → Tile) : SameQueue g n s (s.updTile g t f) := by
  refine ⟨?_, ?_, ?_⟩
  · rw [State.updTile, core_updCore, if_pos rfl]
  · rw [State.updTile, core_updCore, if_pos rfl]
  · exact congrArg Context.out (ctx_updCore s g
      (fun k => { k with tiles := Sparse.set Tile.zero k.tiles t (f (Sparse.get Tile.zero k.tiles t)) }) (fun _ => rfl) n)

theorem sameQueue_raiseOn (g : Nat) {n : Nat} (hn : n < residents) (s : State) (f : FlagSet) :
    SameQueue g n s (raiseOn s n f) := by
  refine ⟨by rw [core_raiseOn], by rw [core_raiseOn], ?_⟩
  rw [raiseOn, ctx_updCtx_self s hn]

theorem sameQueue_onlyMem (g n : Nat) {s b : State} (h : OnlyMem s b) : SameQueue g n s b := by
  unfold OnlyMem at h
  rw [h]; exact .refl g n s

/-! ### A table written from entry 0 upward -/

theorem get_foldl_set_range {α : Type} [DecidableEq α] (d : α) (f : Nat → α) (n k : Nat) :
    Sparse.get d ((List.range n).foldl (fun l m => Sparse.set d l m (f m)) []) k = if k < n then f k else d := by
  induction n with
  | zero => simp
  | succ n ih =>
    rw [List.range_succ, List.foldl_append, List.foldl_cons, List.foldl_nil, Sparse.get_set, ih]
    by_cases h : k = n
    · simp [h]
    · have : k < n + 1 ↔ k < n := by omega
      simp [h, this]

/-! ### The copies (R194 to R197) -/

theorem onlyMem_trans {s b c : State} (h : OnlyMem s b) (k : OnlyMem b c) : OnlyMem s c := by
  unfold OnlyMem at *
  rw [k, h]

/-- `ACCRD` writes memory alone. -/
theorem accrdLoop_onlyMem (g : Nat) (e : MEntry) (l : List (Nat × Nat)) : ∀ (a : Draw) (s : State),
    OnlyMem s (accrdLoop g e l a s).1 := by
  induction l with
  | nil => exact fun _ s => .refl s
  | cons p l ih =>
    intro a s
    rw [accrdLoop]
    exact onlyMem_trans ((OnlyMem.refl s).wr _ _ _) (ih _ _)

/-- `ACCRD` keeps every byte outside its elements. -/
theorem byte_accrdLoop_out (g : Nat) (e : MEntry) (x : Nat) (l : List (Nat × Nat)) : ∀ (a : Draw) (s : State),
    (∀ p ∈ l, x < spAddr g (rectEa (n64 e.pa) e.pb (elemBytes (ofmtOf e.fmt)) p).toNat
      ∨ spAddr g (rectEa (n64 e.pa) e.pb (elemBytes (ofmtOf e.fmt)) p).toNat + elemBytes (ofmtOf e.fmt) ≤ x) →
    (accrdLoop g e l a s).1.byte x = s.byte x := by
  induction l with
  | nil => exact fun _ _ _ => rfl
  | cons p l ih =>
    intro a s h
    rw [accrdLoop]
    exact (ih _ _ (fun q hq => h q (List.mem_cons_of_mem _ hq))).trans (byte_wr_out _ _ _ _ _ (h p (List.mem_cons_self ..)))

/-- `ACCWR` keeps every lane outside its rectangle. -/
theorem get_accwrLoop_out (s : State) (g : Nat) (e : MEntry) (n : Nat) (l : List (Nat × Nat)) : ∀ (a : Draw) (v : Sparse Word32),
    (∀ p ∈ l, n ≠ 64 * (e.row0 + p.1) + e.col0 + p.2) → Sparse.get 0 (accwrLoop s g e l a v).1 n = Sparse.get 0 v n := by
  induction l with
  | nil => exact fun _ _ _ => rfl
  | cons p l ih =>
    intro a v h
    rw [accwrLoop]
    exact (ih _ _ (fun q hq => h q (List.mem_cons_of_mem _ hq))).trans
      (Sparse.get_set_ne _ _ _ (h p (List.mem_cons_self ..)))

/-- The codebook that `MCBLD` loads from an offset (R194). -/
def loadedBook (s : State) (g pa : Nat) : Sparse Word32 :=
  (List.range 256).foldl (fun l m => Sparse.set 0 l m (BitVec.ofNat 32 (rd s (spAddr g (pa + 4 * m)) 4))) []

theorem get_loadedBook (s : State) (g pa : Nat) {m : Nat} (h : m < 256) :
    Sparse.get 0 (loadedBook s g pa) m = BitVec.ofNat 32 (rd s (spAddr g (pa + 4 * m)) 4) := by
  rw [loadedBook, get_foldl_set_range, if_pos h]

theorem doMcbld_clean {s : State} (h : Clean s) (g : Nat) (e : MEntry) :
    doMcbld s g e = s.updCore g (fun k => { k with codebook := loadedBook s g e.pa }) := by
  simp [doMcbld, badWord_clean h, softWord_clean h, recordErrs, countSoft, goodCodebook_clean (h.updCore _ _), loadedBook]

theorem doAccrd_clean {s : State} (h : Clean s) (g : Nat) (e : MEntry) :
    doAccrd s g e = raiseOn (accrdLoop g e (rectIdx e.nr e.nc) { fl := 0, seed := e.seed } s).1 e.ctx
      (accrdLoop g e (rectIdx e.nr e.nc) { fl := 0, seed := e.seed } s).2.fl := by
  have hc := (h.onlyMem (accrdLoop_onlyMem g e (rectIdx e.nr e.nc) { fl := 0, seed := e.seed } s)).raiseOn e.ctx
    (accrdLoop g e (rectIdx e.nr e.nc) { fl := 0, seed := e.seed } s).2.fl
  simp only [doAccrd, softLane_clean h, eccLane_clean h, laneErrs_none, ite_self, List.length_nil, countSoft, if_true,
    recordErrs, List.foldl_nil, healLanes_clean hc]

/-- The lanes and flags of an `ACCWR`. -/
def written (s : State) (g : Nat) (e : MEntry) : Sparse Word32 × Draw :=
  accwrLoop s g e (rectIdx e.nr e.nc) { fl := 0, seed := e.seed } (s.tile g e.tile).lanes

theorem doAccwr_clean {s : State} (h : Clean s) (g : Nat) (e : MEntry) :
    doAccwr s g e = if e.owned then (raiseOn s e.ctx (written s g e).2.fl).updTile g e.tile
        (fun t => { t with lanes := (written s g e).1, imode := e.int })
      else raiseOn s e.ctx (written s g e).2.fl := by
  have hc := goodLanes_clean ((h.raiseOn e.ctx (written s g e).2.fl).updTile g e.tile
    (fun t => { t with lanes := (written s g e).1, imode := e.int })) g (fun k n =>
      k == e.tile && (rectIdx e.nr e.nc).any (fun p => n == 64 * (e.row0 + p.1) + e.col0 + p.2))
  rw [← hc]
  rfl

theorem zeroTile_clean {s : State} (h : Clean s) (g : Nat) (e : MEntry) :
    zeroTile s g e = if e.owned then s.updTile g e.tile (fun t => { t with lanes := [] }) else s := by
  unfold zeroTile
  rw [goodLanes_clean (h.updTile g e.tile _)]

theorem doAccz_clean {s : State} (h : Clean s) (g : Nat) (e : MEntry) :
    doAccz s g e = if e.owned then (s.updTile g e.tile (fun t => { t with lanes := [] })).updTile g e.tile
      (fun t => { t with imode := e.int }) else s := by
  unfold doAccz
  rw [zeroTile_clean h]
  split <;> rfl

/-! ### What an entry does when it completes -/

theorem perform_mcbld (s : State) (g : Nat) {e : MEntry} (h : e.opc = 3) : perform s g e = doMcbld s g e := by simp [perform, h]

theorem perform_accrd (s : State) (g : Nat) {e : MEntry} (h : e.opc = 4) : perform s g e = doAccrd s g e := by simp [perform, h]

theorem perform_accwr (s : State) (g : Nat) {e : MEntry} (h : e.opc = 5) : perform s g e = doAccwr s g e := by simp [perform, h]

theorem perform_accz (s : State) (g : Nat) {e : MEntry} (h : e.opc = 6) : perform s g e = doAccz s g e := by simp [perform, h]

theorem perform_other (s : State) (g : Nat) {e : MEntry} (h3 : e.opc ≠ 3) (h4 : e.opc ≠ 4) (h5 : e.opc ≠ 5) (h6 : e.opc ≠ 6) :
    perform s g e = s := by
  unfold perform
  split
  · exact absurd ‹e.opc = 3› h3
  · exact absurd ‹e.opc = 4› h4
  · exact absurd ‹e.opc = 5› h5
  · exact absurd ‹e.opc = 6› h6
  · rfl

/-- Whatever an entry does, the queue and the count of its operations stand until it is freed. -/
theorem perform_sameQueue {s : State} (h : Clean s) (g : Nat) {e : MEntry} (hn : e.ctx < residents) :
    SameQueue g e.ctx s (perform s g e) := by
  by_cases h3 : e.opc = 3
  · rw [perform_mcbld s g h3, doMcbld_clean h]
    exact ⟨by simp [core_updCore], by simp [core_updCore],
      congrArg Context.out (ctx_updCore s g (fun k => { k with codebook := loadedBook s g e.pa }) (fun _ => rfl) e.ctx)⟩
  by_cases h4 : e.opc = 4
  · rw [perform_accrd s g h4, doAccrd_clean h]
    exact (sameQueue_onlyMem g e.ctx (accrdLoop_onlyMem ..)).trans (sameQueue_raiseOn g hn _ _)
  by_cases h5 : e.opc = 5
  · rw [perform_accwr s g h5, doAccwr_clean h]
    split
    · exact (sameQueue_raiseOn g hn s _).trans (sameQueue_updTile ..)
    · exact sameQueue_raiseOn g hn s _
  by_cases h6 : e.opc = 6
  · rw [perform_accz s g h6, doAccz_clean h]
    split
    · exact (sameQueue_updTile ..).trans (sameQueue_updTile ..)
    · exact .refl ..
  · rw [perform_other s g h3 h4 h5 h6]; exact .refl ..

/-- Only `ACCRD` writes memory. -/
theorem perform_mem {s : State} (h : Clean s) (g : Nat) {e : MEntry} (h4 : e.opc ≠ 4) : (perform s g e).mem = s.mem := by
  by_cases h3 : e.opc = 3
  · rw [perform_mcbld s g h3, doMcbld_clean h]; rfl
  by_cases h5 : e.opc = 5
  · rw [perform_accwr s g h5, doAccwr_clean h]
    split
    · exact updCtx_mem ..
    · exact updCtx_mem ..
  by_cases h6 : e.opc = 6
  · rw [perform_accz s g h6, doAccz_clean h]
    split <;> rfl
  · rw [perform_other s g h3 h4 h5 h6]

theorem perform_mcbld_codebook {s : State} (h : Clean s) (g : Nat) {e : MEntry} (h3 : e.opc = 3) :
    ((perform s g e).core g).codebook = loadedBook s g e.pa := by
  rw [perform_mcbld s g h3, doMcbld_clean h, core_updCore, if_pos rfl]

/-- Only `MCBLD` loads the codebook. -/
theorem perform_codebook {s : State} (h : Clean s) (g : Nat) {e : MEntry} (h3 : e.opc ≠ 3) :
    ((perform s g e).core g).codebook = (s.core g).codebook := by
  by_cases h4 : e.opc = 4
  · have hm := accrdLoop_onlyMem g e (rectIdx e.nr e.nc) { fl := 0, seed := e.seed } s
    unfold OnlyMem at hm
    rw [perform_accrd s g h4, doAccrd_clean h, core_raiseOn, hm]; rfl
  by_cases h5 : e.opc = 5
  · rw [perform_accwr s g h5, doAccwr_clean h]
    split
    · rw [State.updTile, core_updCore, if_pos rfl, core_raiseOn]
    · rw [core_raiseOn]
  by_cases h6 : e.opc = 6
  · rw [perform_accz s g h6, doAccz_clean h]
    split
    · simp only [State.updTile, core_updCore, if_true]
    · rfl
  · rw [perform_other s g h3 h4 h5 h6]

/-- Only `ACCWR` and `ACCZ` write a tile. -/
theorem perform_tile {s : State} (h : Clean s) (g : Nat) {e : MEntry} (h5 : e.opc ≠ 5) (h6 : e.opc ≠ 6) (i : Nat) :
    (perform s g e).tile g i = s.tile g i := by
  by_cases h3 : e.opc = 3
  · rw [perform_mcbld s g h3, doMcbld_clean h]
    exact tile_eq_of_tiles (by rw [core_updCore, if_pos rfl]) i
  by_cases h4 : e.opc = 4
  · have hm := accrdLoop_onlyMem g e (rectIdx e.nr e.nc) { fl := 0, seed := e.seed } s
    unfold OnlyMem at hm
    rw [perform_accrd s g h4, doAccrd_clean h, tile_raiseOn, hm]; rfl
  · rw [perform_other s g h3 h4 h5 h6]

/-- `ACCWR` writes the entry's tile (R196). -/
theorem perform_accwr_tile {s : State} (h : Clean s) (g : Nat) {e : MEntry} (h5 : e.opc = 5) (i : Nat) :
    (perform s g e).tile g i = if e.owned = true ∧ i = e.tile then
        { s.tile g i with lanes := (written s g e).1, imode := e.int }
      else s.tile g i := by
  rw [perform_accwr s g h5, doAccwr_clean h]
  split
  next ho =>
    rw [tile_updTile, tile_raiseOn, tile_raiseOn]
    by_cases hi : i = e.tile
    · subst hi; simp [ho]
    · simp [hi]
  next ho => simp [ho, tile_raiseOn]

/-- `ACCZ` zeroes the entry's tile (R197). -/
theorem perform_accz_tile {s : State} (h : Clean s) (g : Nat) {e : MEntry} (h6 : e.opc = 6) (i : Nat) :
    (perform s g e).tile g i = if e.owned = true ∧ i = e.tile then { s.tile g i with lanes := [], imode := e.int }
      else s.tile g i := by
  rw [perform_accz s g h6, doAccz_clean h]
  split
  next ho =>
    simp only [tile_updTile, if_true]
    by_cases hi : i = e.tile
    · subst hi; simp [ho]
    · simp [hi]
  next ho => simp [ho]

/-- No entry writes a tile that it does not name, or that its launch does not own. -/
theorem perform_otherTile {s : State} (h : Clean s) (g : Nat) {e : MEntry} {i : Nat} (hi : i ≠ e.tile ∨ e.owned = false) :
    (perform s g e).tile g i = s.tile g i := by
  have hno : ¬ (e.owned = true ∧ i = e.tile) := by rcases hi with hi | hi <;> simp [hi]
  by_cases h5 : e.opc = 5
  · rw [perform_accwr_tile h g h5, if_neg hno]
  by_cases h6 : e.opc = 6
  · rw [perform_accz_tile h g h6, if_neg hno]
  · exact perform_tile h g h5 h6 i

/-! ### The head entry freed (R181, R189) -/

/-- The entry at the head freed, its token complete, and the next saved operation queued. -/
def freed (s : State) (g : Nat) (e : MEntry) : State :=
  requeueSaved ((s.updCore g (fun k => { k with mq := k.mq.drop 1 })).updCtx e.ctx (fun c => { c with out := c.out - 1 })) g

theorem core_requeueSaved {s : State} {g : Nat} (h : (s.core g).savedOps = []) :
    (requeueSaved s g).core g = { s.core g with savedOps := [] } := by
  rw [requeueSaved, core_updCore, if_pos rfl, h]
  rfl

/-- The core afterwards, where no operation waits to be queued. -/
theorem core_freed {s : State} {g : Nat} (e : MEntry) (h : (s.core g).savedOps = []) :
    (freed s g e).core g = { s.core g with
      mq := (s.core g).mq.drop 1, savedOps := [], ctxs := ((freed s g e).core g).ctxs } := by
  have hc := core_setCtx (s.updCore g (fun k => { k with mq := k.mq.drop 1 })) e.ctx g
    { (s.updCore g (fun k => { k with mq := k.mq.drop 1 })).ctx e.ctx with
      out := ((s.updCore g (fun k => { k with mq := k.mq.drop 1 })).ctx e.ctx).out - 1 }
  rw [core_updCore, if_pos rfl] at hc
  rw [freed, core_requeueSaved (by rw [State.updCtx, hc]; exact h), State.updCtx, hc]

theorem freed_mem (s : State) (g : Nat) (e : MEntry) : (freed s g e).mem = s.mem := by
  rw [freed, requeueSaved, updCore_mem, updCtx_mem, updCore_mem]

theorem out_freed (s : State) (g : Nat) {e : MEntry} (hn : e.ctx < residents) :
    ((freed s g e).ctx e.ctx).out = (s.ctx e.ctx).out - 1 := by
  have hk : ∀ u : State, (requeueSaved u g).ctx e.ctx = u.ctx e.ctx := by
    intro u
    refine ctx_updCore u g _ (fun k => ?_) e.ctx
    split
    · rfl
    · split <;> rfl
  rw [freed, hk, ctx_updCtx_self _ hn]
  exact congrArg (fun c => c.out - 1) (ctx_updCore s g (fun k => { k with mq := k.mq.drop 1 }) (fun _ => rfl) e.ctx)

theorem tile_freed {s : State} {g : Nat} (e : MEntry) (h : (s.core g).savedOps = []) (i : Nat) :
    (freed s g e).tile g i = s.tile g i := tile_eq_of_tiles (by rw [core_freed e h]) i

/-! ### The events -/

theorem execEntryStart_ready {s : State} {g : Nat} {e : MEntry} {rest : List MEntry} (hg : g < Config.nCores) (hc : Clean s)
    (hq : (s.core g).mq = e :: rest) (hr : entryReady s g e = true) : exec (.entryStart g) s
      = .next (setHead (if e.opc = 1 ∧ e.wave = 0 ∧ e.owned = true then
          s.updTile g e.tile (fun t => { t with lanes := [] }) else s) g { e with begun := true }) := by
  change execEntryStart g s = _
  rw [execEntryStart, withUnit, if_pos hg, hq]
  simp only [hr, if_true, zeroTile_clean hc]
  by_cases h : e.opc = 1 ∧ e.wave = 0
  · by_cases ho : e.owned = true <;> simp [h, ho]
  · rw [if_neg h, if_neg (fun k => h ⟨k.1, k.2.1⟩)]

theorem core_setHead (s : State) (g : Nat) (e : MEntry) {d : MEntry} {rest : List MEntry} (h : (s.core g).mq = d :: rest) :
    (setHead s g e).core g = { s.core g with mq := e :: rest } := by
  rw [setHead, core_updCore, if_pos rfl, h]

theorem execWave_live {s : State} {g : Nat} {e : MEntry} {rest : List MEntry} (hg : g < Config.nCores)
    (hq : (s.core g).mq = e :: rest) (hb : e.begun = true) (hl : ((s.launchOf e.launch).map (·.halt.isNone)).getD true = true)
    (ho : e.opc ≤ 2) (hw : e.wave < e.waves) : exec (.wave g) s = .next (doWave s g e) := by
  change execWave g s = _
  rw [execWave, withUnit, if_pos hg, hq]
  simp only [hb, hl, ho, hw, decide_true, Bool.and_self, if_true]

theorem execEntryComplete_done {s : State} {g : Nat} {e : MEntry} {rest : List MEntry} (hg : g < Config.nCores)
    (hq : (s.core g).mq = e :: rest) (hb : e.begun = true)
    (hd : 2 < e.opc ∨ (e.wave = e.waves ∧ ((s.launchOf e.launch).map (·.halt.isNone)).getD true = true)) :
    exec (.entryComplete g) s = .next (freed (perform s g e) g e) := by
  change execEntryComplete g s = _
  rw [execEntryComplete, withUnit, if_pos hg, hq]
  have hx : (e.begun && (decide (2 < e.opc) || e.wave == e.waves)
      && (((s.launchOf e.launch).map (fun l => l.halt.isNone)).getD true || decide (2 < e.opc))) = true := by
    rcases hd with hd | ⟨hw, hl⟩
    · simp [hb, hd]
    · simp [hb, hw, hl]
  simp only [hx, if_true]
  rfl

/-! ### A wave (R169) -/

/-- The data of a row of an operand in a wave. -/
def waveRow (s : State) (g : Nat) (e : MEntry) (isB : Bool) (i : Nat) : List Num :=
  (List.range (pairLen e.fmt)).map (fun k => (waveElem s g e isB (pairLen e.fmt) i k).1)

theorem waveRow_eq (s : State) (g : Nat) (e : MEntry) (isB : Bool) {i : Nat} (hi : i < 64) :
    (((List.range 64).map (fun i => (List.range (pairLen e.fmt)).map
      (fun k => waveElem s g e isB (pairLen e.fmt) i k))).getD i []).map
      (·.1) = waveRow s g e isB i := by
  simp [waveRow, List.getD, hi]

/-- A wave gives an owned tile new lanes, each its cell's, and raises flags; of a tile that is not owned it keeps nothing. -/
theorem waveCells_eq {s : State} (h : Clean s) (g : Nat) (e : MEntry) : ∃ (l : Sparse Word32) (f : FlagSet),
    waveCells s g e = raiseOn (if e.owned then s.updTile g e.tile (fun t => { t with lanes := l }) else s) e.ctx f
    ∧ (e.owned = true → ∀ n < 4096, Sparse.get 0 l n = (cell e.int ((s.tile g e.tile).lane (n / 64) (n % 64))
        (waveRow s g e false (n / 64)) (waveRow s g e true (n % 64))).1) := by
  refine ⟨_, _, rfl, fun ho n hn => ?_⟩
  rw [List.foldl_map, get_foldl_set_range, if_pos hn, if_pos ho, laneRead_clean h, waveRow_eq s g e false (by omega),
    waveRow_eq s g e true (by omega)]

/-- A wave without errors. -/
theorem doWave_clean {s : State} (h : Clean s) (g : Nat) (e : MEntry) : doWave s g e =
    (setHead (waveCells s g e) g { e with wave := e.wave + 1 }).tick.updCore g (fun k =>
      { k with waveTot := k.waveTot + 1,
               hist := Sparse.set 0 k.hist (Config.waveBin s.free).val (Sparse.get 0 k.hist (Config.waveBin s.free).val + 1) }) := by
  obtain ⟨l, f, hw, -⟩ := waveCells_eq h g e
  have hc : Clean (waveCells s g e) := by
    rw [hw]
    split
    · exact (h.updTile g e.tile _).raiseOn e.ctx f
    · exact h.raiseOn e.ctx f
  unfold doWave
  simp only [badWord_clean h, softWord_clean h, softEntry_clean h, softLane_clean h, eccEntry_clean h, eccLane_clean h,
    waveErrs_none, List.length_nil, countSoft, if_true, goodLanes_clean hc, ite_self, recordErrs, List.foldl_nil]

/-- The core after a wave. -/
theorem core_doWave {s : State} (h : Clean s) (g : Nat) {e : MEntry} {rest : List MEntry} (hq : (s.core g).mq = e :: rest) :
    ((doWave s g e).core g).mq = { e with wave := e.wave + 1 } :: rest
    ∧ ((doWave s g e).core g).waveTot = (s.core g).waveTot + 1
    ∧ ((doWave s g e).core g).tiles = ((waveCells s g e).core g).tiles := by
  obtain ⟨l, f, hw, -⟩ := waveCells_eq h g e
  have hk : ((waveCells s g e).core g).mq = e :: rest ∧ ((waveCells s g e).core g).waveTot = (s.core g).waveTot := by
    rw [hw, core_raiseOn]
    split
    · rw [State.updTile, core_updCore, if_pos rfl]; exact ⟨hq, rfl⟩
    · exact ⟨hq, rfl⟩
  have ht : ∀ u : State, u.tick.core g = u.core g := fun _ => rfl
  rw [doWave_clean h, core_updCore, if_pos rfl, ht, core_setHead _ g _ hk.1]
  exact ⟨rfl, congrArg (· + 1) hk.2, rfl⟩

theorem doWave_mem {s : State} (h : Clean s) (g : Nat) (e : MEntry) : (doWave s g e).mem = s.mem := by
  obtain ⟨l, f, hw, -⟩ := waveCells_eq h g e
  have hm : (waveCells s g e).mem = s.mem := by
    rw [hw, raiseOn, updCtx_mem]
    split <;> rfl
  rw [doWave_clean h, updCore_mem, ← hm]
  rfl

/-- The tiles after a wave. -/
theorem tile_doWave {s : State} (h : Clean s) (g : Nat) {e : MEntry} {rest : List MEntry} (hq : (s.core g).mq = e :: rest) :
    (∀ i, i ≠ e.tile ∨ e.owned = false → (doWave s g e).tile g i = s.tile g i)
    ∧ (e.owned = true → ((doWave s g e).tile g e.tile).imode = (s.tile g e.tile).imode
      ∧ ∀ n < 4096, ((doWave s g e).tile g e.tile).lane (n / 64) (n % 64)
        = (cell e.int ((s.tile g e.tile).lane (n / 64) (n % 64)) (waveRow s g e false (n / 64)) (waveRow s g e true (n % 64))).1) := by
  obtain ⟨l, f, hw, hl⟩ := waveCells_eq h g e
  have ht : ∀ i,
    (doWave s g e).tile g i = if e.owned = true ∧ i = e.tile then { s.tile g i with lanes := l } else s.tile g i := by
    intro i
    rw [tile_eq_of_tiles (core_doWave h g hq).2.2 i, hw, tile_raiseOn]
    split
    next ho =>
      rw [tile_updTile]
      by_cases hi : i = e.tile
      · subst hi; simp [ho]
      · simp [hi]
    next ho => simp [ho]
  refine ⟨fun i hi => ?_, fun ho => ?_⟩
  · rw [ht, if_neg (by rcases hi with hi | hi <;> simp [hi])]
  · rw [ht, if_pos ⟨ho, rfl⟩]
    refine ⟨rfl, fun n hn => ?_⟩
    rw [← hl ho n hn, Tile.lane, Nat.div_add_mod]

/-- Settles O43: each event is read off its equation under `Clean`; the start and the wave by the core afterwards, the
completion by what its entry performs and then by freeing the entry. -/
theorem matrixEvents : Obligations.MatrixEvents := by
  unfold Obligations.MatrixEvents
  intro s g e rest hg hc hq
  refine ⟨fun hr => ⟨_, execEntryStart_ready hg hc hq hr, ?_⟩,
    fun hb hl ho hw => ⟨_, execWave_live hg hq hb hl ho hw, doWave_mem hc g e, (core_doWave hc g hq).1,
      (core_doWave hc g hq).2.1, tile_doWave hc g hq⟩,
    fun hb hd hs hn => ⟨_, execEntryComplete_done hg hq hb hd, ?_⟩⟩
  · have hz : ∀ u : State, (u.core g).mq = e :: rest → (setHead u g { e with begun := true }).mem = u.mem
        ∧ ((setHead u g { e with begun := true }).core g).mq = { e with begun := true } :: rest
        ∧ ∀ i, (setHead u g { e with begun := true }).tile g i = u.tile g i := fun u hu =>
      ⟨rfl, by rw [core_setHead u g _ hu], tile_eq_of_tiles (by rw [core_setHead u g _ hu])⟩
    split
    next h =>
      obtain ⟨hm, hq', ht⟩ := hz (s.updTile g e.tile (fun t => { t with lanes := [] }))
        ((sameQueue_updTile g 0 s e.tile (fun t => { t with lanes := [] })).1.trans hq)
      refine ⟨hm, hq', fun i => ?_⟩
      rw [ht, tile_updTile]
      by_cases hi : i = e.tile
      · subst hi; simp [h]
      · simp [hi]
    next h =>
      obtain ⟨hm, hq', ht⟩ := hz s hq
      exact ⟨hm, hq', fun i => by rw [ht, if_neg (fun k => h ⟨k.1, k.2.1, k.2.2.1⟩)]⟩
  · obtain ⟨hmq, hsv, hout⟩ := perform_sameQueue hc g hn
    have hs' := hsv.trans hs
    have hcb : ((freed (perform s g e) g e).core g).codebook = ((perform s g e).core g).codebook := by rw [core_freed e hs']
    refine ⟨by rw [core_freed e hs', hmq, hq]; rfl, by rw [out_freed _ g hn, hout],
      fun i hi => by rw [tile_freed e hs', perform_otherTile hc g hi],
      fun h4 => by rw [freed_mem, perform_mem hc g h4],
      fun h5 h6 i => by rw [tile_freed e hs', perform_tile hc g h5 h6],
      fun h3 => by rw [hcb, perform_codebook hc g h3],
      fun h3 m hm => ?_, fun h4 a ha => ?_, fun h5 ho => ?_, fun h6 ho => ?_⟩
    · rw [hcb, perform_mcbld_codebook hc g h3, get_loadedBook s g e.pa hm]
    · rw [State.byte, freed_mem, perform_accrd s g h4, doAccrd_clean hc, raiseOn, updCtx_mem]
      exact byte_accrdLoop_out g e a _ _ s ha
    · rw [tile_freed e hs', perform_accwr_tile hc g h5, if_pos ⟨ho, rfl⟩]
      exact ⟨rfl, fun n hout => get_accwrLoop_out s g e n _ _ _ hout⟩
    · rw [tile_freed e hs', perform_accz_tile hc g h6, if_pos ⟨ho, rfl⟩]

end Sys2Proof.Machine

/-! # Launches checked, placed, loaded and ended (O50)

What a record, a settled packet, a dispatch and the load of a block change; the statement's cases then follow the branches of
the dispatcher's events. -/

namespace Sys2Proof.Machine

open Sys2Proof

/-! ### Queues and their packets (R279, R282) -/

theorem queue_updQueue_self (s : State) (q : Nat) (f : Queue → Queue) : (s.updQueue q f).queue q = f (s.queue q) := by
  simp [State.queue, State.updQueue]

/-- `t` has the launches of `s`, and queue `q` has its head, state and launch there. -/
def SameHead (q : Nat) (s t : State) : Prop :=
  t.launches = s.launches ∧ (t.queue q).head = (s.queue q).head ∧ (t.queue q).st = (s.queue q).st
  ∧ (t.queue q).launch = (s.queue q).launch

theorem sameHead_putRecord (s : State) (q : Nat) (rec : List Byte) (intr : Bool) : SameHead q s (putRecord s q rec intr) := by
  have key : ∀ b, OnlyMem s b → SameHead q s (b.updQueue q (fun x => { x with evtWr := x.evtWr + 1 })) := by
    intro b h
    unfold OnlyMem at h
    unfold SameHead
    rw [queue_updQueue_self, h]
    exact ⟨rfl, rfl, rfl, rfl⟩
  unfold putRecord
  dsimp only
  split
  · exact key _ ((OnlyMem.refl s).quayBytes rec _)
  · exact key _ ((OnlyMem.refl s).quayBytes rec _)

/-- A record written or waiting leaves the queue's head, state and launch. -/
theorem sameHead_postRecord (s : State) (q : Nat) (rec : List Byte) (intr : Bool) : SameHead q s (postRecord s q rec intr) := by
  unfold postRecord
  dsimp only
  split
  · unfold SameHead
    rw [queue_updQueue_self]
    exact ⟨rfl, rfl, rfl, rfl⟩
  · exact sameHead_putRecord ..

/-- A look at the head packet leaves the head and the launch. -/
theorem settleHead_keeps (s : State) (q : Nat) : (settleHead s q).launches = s.launches
    ∧ ((settleHead s q).queue q).head = (s.queue q).head ∧ ((settleHead s q).queue q).launch = (s.queue q).launch := by
  unfold settleHead
  dsimp only
  split <;> exact ⟨rfl, by rw [queue_updQueue_self], by rw [queue_updQueue_self]⟩

/-- The head packet settled: the head moves on by 1. -/
theorem nextPacket_keeps (s : State) (q : Nat) (st : Option QState) : (nextPacket s q st).launches = s.launches
    ∧ ((nextPacket s q st).queue q).head = (s.queue q).head + 1 ∧ ((nextPacket s q st).queue q).launch = (s.queue q).launch := by
  unfold nextPacket
  cases st with
  | none =>
    obtain ⟨hl, hh, hq⟩ := settleHead_keeps (s.updQueue q (fun q => { q with head := q.head + 1, pkt := none, readyAt := 0 })) q
    rw [queue_updQueue_self] at hh hq
    exact ⟨hl, hh, hq⟩
  | some x => exact ⟨rfl, by rw [queue_updQueue_self, queue_updQueue_self], by rw [queue_updQueue_self, queue_updQueue_self]⟩

theorem st_nextPacket_some (s : State) (q : Nat) (x : QState) : ((nextPacket s q (some x)).queue q).st = x := by
  rw [nextPacket, queue_updQueue_self]

/-- The completion of a host queue's packet (R284). -/
theorem postCompletion_host (s : State) (q idx : Nat) (parent : Option Nat) (intr : Bool) (code join : Nat) :
    (postCompletion s q idx none parent intr code join).launches = s.launches
    ∧ ((postCompletion s q idx none parent intr code join).queue q).head = (s.queue q).head + 1
    ∧ ((postCompletion s q idx none parent intr code join).queue q).launch = none
    ∧ ((s.queue q).st = .draining → ((postCompletion s q idx none parent intr code join).queue q).st = .disabled) := by
  obtain ⟨hl, hh, -, -⟩ := sameHead_postRecord s q (evtRecord s 0x10 code idx 0 0) intr
  obtain ⟨nl, nh, nq⟩ := nextPacket_keeps
    ((postRecord s q (evtRecord s 0x10 code idx 0 0) intr).updQueue q (fun q => { q with launch := none })) q
    (if (s.queue q).st == .draining then some .disabled else none)
  rw [queue_updQueue_self] at nh nq
  refine ⟨nl.trans hl, nh.trans (congrArg (· + 1) hh), nq, fun hd => ?_⟩
  have hb : ((s.queue q).st == QState.draining) = true := by simp [hd]
  simp only [postCompletion, hb, if_true]
  exact st_nextPacket_some ..

/-! ### Candidates (R283) -/

theorem leastBy_mem {α : Type} {lt : α → α → Bool} {l : List α} {x : α} (h : leastBy lt l = some x) : x ∈ l := by
  induction l generalizing x with
  | nil => simp [leastBy] at h
  | cons a l ih =>
    rw [leastBy] at h
    split at h
    · cases h; exact List.mem_cons_self ..
    next y hy =>
      split at h
      · cases h; exact List.mem_cons_of_mem _ (ih hy)
      · cases h; exact List.mem_cons_self ..

theorem candidate_mem {s : State} {p : Nat} {c : Cand} (h : candidate s p = some c) :
    c ∈ childCands s p ∨ c ∈ queueCands s p := by
  unfold candidate at h
  dsimp only at h
  split at h
  · exact .inr (leastBy_mem h)
  · exact .inl (leastBy_mem h)
  next hc hq =>
    split at h
    · cases h; exact .inr (leastBy_mem hq)
    · cases h; exact .inl (leastBy_mem hc)

/-- A candidate that is no child has no parent. -/
theorem candidate_parent {s : State} {p : Nat} {c : Cand} (h : candidate s p = some c) (he : c.entry = none) : c.parent = none := by
  rcases candidate_mem h with hm | hm
  · obtain ⟨x, -, hx⟩ := List.mem_filterMap.mp hm
    split at hx
    · split at hx
      · cases hx; cases he
      · cases hx
    · cases hx
  · obtain ⟨x, -, hx⟩ := List.mem_filterMap.mp hm
    split at hx
    · split at hx
      · cases hx; rfl
      · cases hx
    · cases hx

/-! ### Dispatch (R282, R325, R327) -/

/-- The launch of candidate `c` with descriptor `d` stands in `t` as number `n`, with no block loaded, and its queue runs it. -/
def Started (s : State) (c : Cand) (d : KDesc) (t : State) : Prop :=
  (∃ l, t.launchOf s.num = some l ∧ l.kd = d ∧ l.queue = c.queue ∧ l.job = c.job ∧ l.part = c.part
      ∧ l.loaded = 0 ∧ l.retired = 0 ∧ l.halt = none)
  ∧ (t.queue c.queue).st = .running ∧ (t.queue c.queue).launch = some s.num ∧ t.mem = s.mem

theorem foldl_setEntry (f : State → Nat → PoolEntry) (l : List Nat) : ∀ s : State,
    ∃ p, l.foldl (fun s e => s.setEntry e (f s e)) s = { s with pool := p } := by
  induction l with
  | nil => exact fun s => ⟨s.pool, rfl⟩
  | cons e l ih => exact fun s => ⟨(ih _).choose, (ih _).choose_spec⟩

/-- A host queue's reservation changes the pool and the free values alone (R330). -/
theorem reserveQuota_host (s : State) {c : Cand} (d : KDesc) (n : Nat) (h : c.parent = none) :
    ∃ p f, (reserveQuota s c d n).1 = { s with pool := p, free := f } := by
  unfold reserveQuota
  rw [h]
  dsimp only
  obtain ⟨p, hp⟩ := foldl_setEntry (fun s e => { s.entry e with st := .reserved n }) ((freeEntries s).take d.quota)
    (if d.quota = 0 then s else s.tick)
  refine ⟨p, (if d.quota = 0 then s else s.tick).free, hp.trans ?_⟩
  split <;> rfl

/-- The queue of a dispatched candidate runs its launch. -/
theorem noteDispatch_host (s : State) {c : Cand} (n : Nat) (he : c.entry = none) :
    (noteDispatch s c n).launches = s.launches ∧ (noteDispatch s c n).mem = s.mem
    ∧ (noteDispatch s c n).preReqs = s.preReqs ∧ ((noteDispatch s c n).queue c.queue).st = .running
    ∧ ((noteDispatch s c n).queue c.queue).launch = some n := by
  have hq := queue_updQueue_self s c.queue (fun q => { q with st := .running, launch := some n, stopWr := 0, readyAt := 0 })
  simp only [noteDispatch, he]
  exact ⟨rfl, rfl, rfl, congrArg Queue.st hq, congrArg Queue.launch hq⟩

/-- A launch added with a number above all others is found by it. -/
theorem launchOf_append {t : State} {ls : List Launch} {l : Launch} {n : Nat} (h : t.launches = ls ++ [l])
    (hl : ∀ x ∈ ls, x.id < n) (hn : l.id = n) : t.launchOf n = some l := by
  have hf : ls.find? (fun x => x.id == n) = none :=
    List.find?_eq_none.mpr (fun x hx => by simpa using Nat.ne_of_lt (hl x hx))
  rw [State.launchOf, h, List.find?_append, hf]
  simp [hn]

/-- A host queue's candidate without a trace becomes a launch. -/
theorem startLaunch_host {s : State} {c : Cand} {d : KDesc} (hp : c.parent = none) (he : c.entry = none)
    (ht : d.traced = false) (hid : ∀ l ∈ s.launches, l.id < s.num) :
    Started s c d (startLaunch s c d).1 ∧ (startLaunch s c d).1.preReqs = s.preReqs := by
  obtain ⟨p, f, hr⟩ := reserveQuota_host { s with num := s.num + 1 } d s.num hp
  unfold startLaunch
  simp only [ht, Bool.false_eq_true, if_false, hr]
  obtain ⟨hl, hm, hq, hs, hn⟩ := noteDispatch_host _ s.num he
  exact ⟨⟨⟨_, launchOf_append hl hid rfl, rfl, rfl, rfl, rfl, rfl, rfl, rfl⟩, hs, hn, hm⟩, hq⟩

theorem startLaunch_num (s : State) (c : Cand) (d : KDesc) : (startLaunch s c d).2 = s.num := rfl

section Dispatch

variable {s : State} {p : Nat} {c : Cand}

theorem exec_dispatch (hp : p < 32) : exec (.dispatch p) s = .next (dispatchPart p s) := by
  change execDispatch p s = _
  rw [execDispatch, onUnit, if_pos hp]

theorem dispatchPart_code (h : candidate s p = some c) {n : Nat} (hk : checkCand s c = .code n) :
    dispatchPart p s = reject s c n := by
  simp [dispatchPart, h, hk]

theorem dispatchPart_wait (h : candidate s p = some c) (hk : checkCand s c = .wait) : dispatchPart p s = s := by
  simp [dispatchPart, h, hk]

theorem dispatchPart_waitPacket (h : candidate s p = some c) (hk : checkCand s c = .pass) (ht : c.pkt.type = 3) :
    dispatchPart p s = completeWait s c := by
  simp [dispatchPart, h, hk, ht]

theorem dispatchPart_room (h : candidate s p = some c) (hk : checkCand s c = .pass) (ht : c.pkt.type ≠ 3)
    (hr : hasRoom s c (candDesc s c) = true) (hn : (candDesc s c).traced = false) :
    dispatchPart p s = dispatchNow c (candDesc s c) s := by
  simp [dispatchPart, h, hk, ht, hr, withTrace, hn]

theorem dispatchPart_noRoom (h : candidate s p = some c) (hk : checkCand s c = .pass) (ht : c.pkt.type ≠ 3)
    (hr : hasRoom s c (candDesc s c) = false) : dispatchPart p s = noteLack s c := by
  simp [dispatchPart, h, hk, ht, hr]

/-- A rejected host queue is FAULTED, and its head moves on. -/
theorem reject_host (he : c.entry = none) (n : Nat) : ((reject s c n).queue c.queue).st = .faulted
    ∧ ((reject s c n).queue c.queue).head = (s.queue c.queue).head + 1 ∧ (reject s c n).launches = s.launches := by
  obtain ⟨hl, hh, -, -⟩ := sameHead_postRecord s c.queue (evtRecord s 0x12 n c.index 0 0) (bitOf c.pkt.flags 0)
  obtain ⟨nl, nh, -⟩ := nextPacket_keeps (postRecord s c.queue (evtRecord s 0x12 n c.index 0 0) (bitOf c.pkt.flags 0)) c.queue
    (some .faulted)
  simp only [reject, he]
  exact ⟨st_nextPacket_some .., nh.trans (congrArg (· + 1) hh), nl.trans hl⟩

/-- A WAIT packet without a completion counter completes at once (R281). -/
theorem completeWait_host (he : c.entry = none) (hc : c.pkt.cctr = 0) :
    ((completeWait s c).queue c.queue).head = (s.queue c.queue).head + 1 ∧ (completeWait s c).launches = s.launches := by
  obtain ⟨hl, hh, -, -⟩ := postCompletion_host
    { s.updQueue c.queue (fun q => { q with stopWr := 0 }) with
      lastDisp := Sparse.set 8191 s.lastDisp (c.part * 8 + c.prio) c.queue } c.queue c.index c.parent (bitOf c.pkt.flags 0) 0 0
  simp only [completeWait, he, addCompletion, hc, if_true]
  have hs : ((s.updQueue c.queue (fun q => { q with stopWr := 0 })).queue c.queue).head = (s.queue c.queue).head := by
    rw [queue_updQueue_self]
  exact ⟨hh.trans (congrArg (· + 1) hs), hl⟩

/-- A candidate without room keeps its state. -/
theorem noteLack_keeps : (noteLack s c).launches = s.launches ∧ ((noteLack s c).queue c.queue).st = (s.queue c.queue).st := by
  unfold noteLack
  split
  · exact ⟨rfl, rfl⟩
  · exact ⟨rfl, by rw [queue_updQueue_self]⟩

end Dispatch

/-- Every request for a context that makes way is the scheduler's, for a block of the launch. -/
theorem nameVictims_mem (s : State) (l : Launch) (vs : List Nat) : ∀ (named : List Nat), ∀ r ∈ nameVictims s l vs named,
    r.host = false ∧ ∃ b, r.inc = some (.block l.id b) := by
  induction vs with
  | nil => simp [nameVictims]
  | cons x vs ih =>
    intro named r hr
    rw [nameVictims] at hr
    split at hr
    next b hb =>
      split at hr
      · rcases List.mem_cons.mp hr with rfl | hr
        · exact ⟨rfl, b, rfl⟩
        · exact ih _ r hr
      · exact ih _ r hr
    · exact ih _ r hr

/-- A candidate that has lacked room for `PREDELAY` cycles is dispatched with requests (R285). -/
theorem exec_predelay {s : State} {p : Nat} {c : Cand} (hp : p < 32) (h : candidate s p = some c) (he : c.entry = none)
    (hk : checkCand s c = .pass) (ht : c.pkt.type ≠ 3) (hf : bitOf c.pkt.flags 1 = true) (hd : s.preDelay ≠ 0)
    (ha : (s.queue c.queue).readyAt ≠ 0) (hc : (s.queue c.queue).readyAt + s.preDelay.toNat ≤ s.cyc.toNat + 1)
    (hn : (candDesc s c).traced = false) (hr : hasRoom s c (candDesc s c) = false)
    (hq : quotaFree s c (candDesc s c) = true) (hg : roundFree s c (candDesc s c) = true) {l : Launch}
    (hl : (startLaunch s c (candDesc s c)).1.launchOf s.num = some l) :
    exec (.predelay p) s = .next { (startLaunch s c (candDesc s c)).1 with
      preReqs := (startLaunch s c (candDesc s c)).1.preReqs
        ++ nameVictims (startLaunch s c (candDesc s c)).1 l (victims s c (candDesc s c)) [] } := by
  have hd' : (s.preDelay == 0) = false := beq_eq_false_iff_ne.mpr hd
  have hw : (c.entry.isSome || checkCand s c != .pass || c.pkt.type == 3 || !bitOf c.pkt.flags 1 || s.preDelay == 0
      || (s.queue c.queue).readyAt == 0 || decide (s.cyc.toNat + 1 < (s.queue c.queue).readyAt + s.preDelay.toNat)) = false := by
    simp only [he, hk, hf, hd', Option.isSome_none, bne_self_eq_false, beq_eq_false_iff_ne.mpr ht,
      beq_eq_false_iff_ne.mpr ha, Bool.not_true, Bool.or_self, decide_eq_false (Nat.not_lt.mpr hc)]
  change execPredelay p s = _
  rw [execPredelay, onUnit, if_pos hp]
  simp only [predelay, h, hw, Bool.false_eq_true, if_false, hr, hq, hg, Bool.not_true, Bool.or_self, withTrace, hn,
    startLaunch_num, hl]

/-! ### Loading a block (R34, R323, R324) -/

theorem foldl_zero (g : Nat) (ts : List Nat) : ∀ s : State,
    (ts.foldl (fun s t => s.updTile g t (fun _ => Tile.zero)) s).mem = s.mem
    ∧ (ts.foldl (fun s t => s.updTile g t (fun _ => Tile.zero)) s).launches = s.launches
    ∧ ∀ i, (ts.foldl (fun s t => s.updTile g t (fun _ => Tile.zero)) s).tile g i
      = if i ∈ ts then Tile.zero else s.tile g i := by
  induction ts with
  | nil => simp
  | cons x ts ih =>
    intro s
    obtain ⟨hm, hl, ht⟩ := ih (s.updTile g x (fun _ => Tile.zero))
    refine ⟨hm, hl, fun i => ?_⟩
    rw [List.foldl_cons, ht, tile_updTile]
    by_cases h1 : i ∈ ts <;> by_cases h2 : i = x <;> simp [h1, h2]

theorem zeroTiles_keeps (s : State) (g : Nat) (ts : List Nat) : (zeroTiles s g ts).mem = s.mem
    ∧ (zeroTiles s g ts).launches = s.launches := ⟨(foldl_zero g ts s).1, (foldl_zero g ts s).2.1⟩

theorem tile_setCtx (s : State) (n g i : Nat) (c : Context) : (s.setCtx n c).tile g i = s.tile g i :=
  tile_eq_of_tiles (by rw [core_setCtx]) i

/-- The tiles of the slot are zero. -/
theorem tile_zeroTiles (s : State) (g : Nat) {ts : List Nat} {i : Nat} (h : i ∈ ts) : (zeroTiles s g ts).tile g i = Tile.zero := by
  refine (tile_eq_of_tiles ?_ i).trans (((foldl_zero g ts s).2.2 i).trans (if_pos h))
  refine (congrArg Core.tiles (core_updCore (ts.foldl (fun s t => s.updTile g t (fun _ => Tile.zero)) s) g g
    (fun c => { c with mews := { c.mews with fill := c.mews.fill.filter (fun p => !ts.contains p.1) } }))).trans ?_
  rw [if_pos rfl]

/-- The launch counts a loaded block. -/
theorem loaded_noteLoaded {s : State} {k : Nat} {l : Launch} (h : s.launchOf k = some l) (b : Nat) :
    ((noteLoaded s k b).launchOf k).map (·.loaded) = some (l.loaded + 1) := by
  rw [noteLoaded, find_updLaunch s k l h]
  · rw [Option.map_some]
    dsimp only
    split
    · rfl
    · split <;> rfl
  · intro x
    dsimp only
    split
    · rfl
    · split <;> rfl

/-- The block in its place: its frame, its tiles and its context. -/
def placed (s : State) (l : Launch) (b g k : Nat) : State :=
  (zeroTiles (wrBytes s (spAddr g (k * l.kd.spba)) (frameOf s l)) g (slotTiles l.kd k)).setCtx (g * 4 + k) (newCtx s l b)

/-- A load puts the block in its place; besides that the launch takes note, and a request for the block falls away. -/
theorem loadBlock_eq (s : State) (l : Launch) (b g k : Nat) :
    loadBlock s l b g k = dropRequest (noteLoaded (placed s l b g k) l.id b) l.id b := rfl

theorem loadBlock_cores (s : State) (l : Launch) (b g k : Nat) : (loadBlock s l b g k).cores = (placed s l b g k).cores
    ∧ (loadBlock s l b g k).saved = (placed s l b g k).saved := ⟨rfl, rfl⟩

theorem loadBlock_ctx (s : State) (l : Launch) (b : Nat) {g k : Nat} (hg : g < Config.nCores) (hk : k < 4) :
    (loadBlock s l b g k).ctx (g * 4 + k) = newCtx s l b := by
  have hn : g * 4 + k < residents := by
    have hc : Config.nCores = 768 := rfl
    have hr : residents = 3072 := rfl
    omega
  obtain ⟨hc, hs⟩ := loadBlock_cores s l b g k
  rw [ctx_congr hc hs, placed, ctx_setCtx_self _ hn]

theorem loadBlock_mem (s : State) (l : Launch) (b g k : Nat) :
    (loadBlock s l b g k).mem = (wrBytes s (spAddr g (k * l.kd.spba)) (frameOf s l)).mem :=
  (setCtx_mem ..).trans (zeroTiles_keeps ..).1

theorem loadBlock_tile (s : State) (l : Launch) (b g k : Nat) {i : Nat} (h : i ∈ slotTiles l.kd k) :
    (loadBlock s l b g k).tile g i = Tile.zero := by
  have hp : (placed s l b g k).tile g i = Tile.zero := by
    rw [placed, tile_setCtx, tile_zeroTiles _ g h]
  rw [← hp, State.tile, State.tile, State.core, State.core, (loadBlock_cores s l b g k).1]

theorem loadBlock_loaded {s : State} {l : Launch} (h : s.launchOf l.id = some l) (b g k : Nat) :
    ((loadBlock s l b g k).launchOf l.id).map (·.loaded) = some (l.loaded + 1) := by
  have hw := (OnlyMem.refl s).wrBytes (frameOf s l) (spAddr g (k * l.kd.spba))
  unfold OnlyMem at hw
  have hp : (placed s l b g k).launches = s.launches := by
    rw [placed, setCtx_launches, (zeroTiles_keeps ..).2, hw]
  exact loaded_noteLoaded (s := placed s l b g k) (by rw [State.launchOf, hp]; exact h) b

theorem id_of_launchOf {s : State} {k : Nat} {l : Launch} (h : s.launchOf k = some l) : l.id = k := by
  simpa using List.find?_some h

theorem exec_blockLoad {s : State} {k b g j : Nat} {l : Launch} (h : s.launchOf k = some l) (hh : l.halt = none)
    (hm : l.kd.mode ≠ 2) (hp : placeable s l = some (b, g, j)) : exec (.blockLoad k) s = .next (loadBlock s l b g j) := by
  change execBlockLoad k s = _
  simp [execBlockLoad, h, hm, loadNext, hh, hp]

/-! ### The end of a launch (R329) -/

theorem foldl_freePool (l : List Nat) : ∀ s : State, ∃ p, l.foldl freePool s = { s with pool := p } :=
  foldl_setEntry (fun s e => { s.entry e with st := .free }) l

theorem dropLaunch_keeps (s : State) (k : Nat) : (dropLaunch s k).launchOf k = none ∧ (dropLaunch s k).queues = s.queues := by
  obtain ⟨p, hp⟩ := foldl_freePool (((s.launchOf k).map (·.left)).getD []) s
  refine ⟨?_, ?_⟩
  · exact List.find?_eq_none.mpr (fun l hl => by simpa using (List.mem_filter.mp hl).2)
  · rw [dropLaunch, freeReserve]
    simp only [hp]
    rfl

/-- A host queue's launch without trace and counter, its work done, leaves. -/
theorem exec_launchCompletion {s : State} {k : Nat} {l : Launch} (h : s.launchOf k = some l) (hw : workDone s l = true)
    (hc : l.pkt.cctr = 0) (ht : l.kd.traced = false) : exec (.launchCompletion k) s
      = .next (postCompletion (dropLaunch s l.id) l.queue l.index l.entry l.parent (bitOf l.pkt.flags 0)
          (if l.lost then 0x51 else 0) (if l.lost then 0x51 else 0)) := by
  change execLaunchCompletion k s = _
  simp [execLaunchCompletion, h, hw, completeLaunch, addCompletion, hc, ht]

/-! ### The statement -/

/-- Settles O50: the branches of the dispatcher's events, each by the lemma about what it leaves. -/
theorem Dispatch.launchEvents : Obligations.LaunchEvents := by
  unfold Obligations.LaunchEvents
  refine ⟨fun s p c hp h he => ?_, fun s k l h hh => ?_⟩
  · have hpar := candidate_parent h he
    refine ⟨fun n hk => ⟨_, exec_dispatch hp, ?_⟩, fun hk => ?_, fun hk => ⟨fun ht hc => ⟨_, exec_dispatch hp, ?_⟩,
      fun ht hn hid => ⟨fun hr => ⟨fun hm => ⟨_, exec_dispatch hp, ?_⟩, fun hm => ⟨_, exec_dispatch hp, ?_⟩⟩,
        fun hr => ⟨⟨_, exec_dispatch hp, ?_⟩, fun hf hd ha hc hq hg => ?_⟩⟩⟩⟩
    · rw [dispatchPart_code h hk]; exact reject_host he n
    · rw [exec_dispatch hp, dispatchPart_wait h hk]
    · rw [dispatchPart_waitPacket h hk ht]; exact completeWait_host he hc
    · rw [dispatchPart_room h hk ht hr hn, dispatchNow, if_neg hm]
      exact (startLaunch_host hpar he hn hid).1
    · rw [dispatchPart_room h hk ht hr hn, dispatchNow, if_pos hm]
      exact ⟨_, (startLaunch_host hpar he hn hid).1, rfl⟩
    · rw [dispatchPart_noRoom h hk ht hr]; exact noteLack_keeps
    · obtain ⟨⟨⟨l, hl, hx⟩, hs⟩, hreq⟩ := startLaunch_host hpar he hn hid
      refine ⟨_, exec_predelay hp h he hk ht hf hd ha hc hn hr hq hg hl, ⟨⟨l, hl, hx⟩, hs⟩, _, congrArg (· ++ _) hreq,
        fun r hr => ?_⟩
      rw [← id_of_launchOf hl]
      exact nameVictims_mem _ l _ [] r hr
  · have hid := id_of_launchOf h
    subst hid
    refine ⟨fun b g j hm hp hg hj => ⟨_, exec_blockLoad h hh hm hp, loadBlock_ctx s l b hg hj, loadBlock_mem s l b g j,
      fun i hi => loadBlock_tile s l b g j hi, loadBlock_loaded h b g j⟩, fun hf hr hw he hc ht => ?_⟩
    have hdone : workDone s l = true := by simp [workDone, hh, hf, hr, hw]
    have hq : (dropLaunch s l.id).queue l.queue = s.queue l.queue := by rw [State.queue, (dropLaunch_keeps s l.id).2]; rfl
    refine ⟨_, exec_launchCompletion h hdone hc ht, ?_⟩
    rw [he]
    obtain ⟨hl, hh', hq', hd⟩ := postCompletion_host (dropLaunch s l.id) l.queue l.index l.parent (bitOf l.pkt.flags 0)
      (if l.lost then 0x51 else 0) (if l.lost then 0x51 else 0)
    rw [hq] at hh' hd
    exact ⟨by rw [State.launchOf, hl]; exact (dropLaunch_keeps s l.id).1, hq', hh', hd⟩

end Sys2Proof.Machine

/-! # Dot products, reductions and scans (O30)

Each op has one result: a number in a vector register, a scalar, or a pair of scalars, taken with its draws from the state
before the bundle (R87, R161 to R164). One lemma for each of these shapes gives what the op does when it issues alone. -/

namespace Sys2Proof.Machine

open Sys2Proof

/-! ### Ops with one result -/

/-- An op with one vector result. -/
theorem opVV_result {s : State} {i : Instr} {x : ArgV} {srcs : List Src} {f : Context → Draw → Nat × Draw}
    (hi : exec i s = issueOne (opVV x i srcs f) s) (hq : Quiet s) (hr : Ready s srcs) : VectorResult s i x f := by
  refine writes_of hi hq (verdict_go _ s rfl hr rfl rfl) rfl _ ?_ (fun c => (c.keeps_wV _ _).trans (Context.keeps_drawn _ _))
  simp only [opVV, opV, Op.plain, beginIssue_me s hq.1]

/-- An op with one scalar result. -/
theorem opVS_result {s : State} {i : Instr} {x : ArgV} {srcs : List Src} {f : Context → Draw → Word64 × Draw}
    (hi : exec i s = issueOne (opVS x i srcs f) s) (hq : Quiet s) (hr : Ready s srcs) : LaneScalar s i x f := by
  refine writes_of hi hq (verdict_go _ s rfl hr rfl rfl) rfl _ ?_ (fun c => (c.keeps_wS _ _).trans (Context.keeps_drawn _ _))
  simp only [opVS, opV, Op.plain, beginIssue_me s hq.1]

/-! ### The index forms (R163) -/

theorem pairErr_even {x : ArgV} (h : x.dst.val % 2 = 0) : pairErr x = none := if_neg (by omega)

theorem pairErr_odd {x : ArgV} (h : x.dst.val % 2 = 1) : pairErr x = some (illegal 4 0x20 0) := if_pos h

/-- With an even destination the value and the index are written. -/
theorem opIdx_writes {s : State} {i : Instr} {x : ArgV} {mx : Bool} (hi : exec i s = issueOne (opIdx x i mx) s) (hq : Quiet s)
    (hr : Ready s (opIdx x i mx).srcs) (hd : x.dst.val % 2 = 0) : Writes s i (heldV s x.hold i) (fun c =>
      let r := idxVal x mx s.me.begin c.draw
      ((c.wS x.dst r.1.1).wS (x.dst + 1) r.1.2).drawn r.2) := by
  refine writes_of hi hq (verdict_go _ s rfl hr (pairErr_even hd) rfl) rfl _ ?_
    (fun c => ((c.keeps_wS _ _).trans (Context.keeps_wS _ _ _)).trans (Context.keeps_drawn _ _))
  simp only [opIdx, opV, Op.plain, beginIssue_me s hq.1]

/-- An odd destination is trap 0x02. -/
theorem opIdx_raises {s : State} {i : Instr} {x : ArgV} {mx : Bool} (hi : exec i s = issueOne (opIdx x i mx) s)
    (hr : Ready s (opIdx x i mx).srcs) (hd : x.dst.val % 2 = 1) : Raises s i (illegal 4 0x20 0) :=
  raises_of hi rfl hr (pairErr_odd hd)

/-! ### The statement -/

/-- Settles O30: it holds. Each op is one of the three shapes with the value function of its rule, and only the index forms
have a check of their own. -/
theorem reductions : Obligations.Reductions := by
  intro s x hq
  refine ⟨fun hr => ?dot, fun hr => ⟨?sum, ?max, ?min⟩, fun hr => ⟨fun hd => ⟨?maxIndex, ?minIndex⟩,
    fun hd => ⟨?oddMax, ?oddMin⟩⟩, fun hr => ?scan⟩
  case dot => exact opVS_result (exec_vdot x s) hq hr
  case sum => exact opVS_result (exec_vrsum x s) hq hr
  case max => exact opVS_result (exec_vrmax x s) hq hr
  case min => exact opVS_result (exec_vrmin x s) hq hr
  case maxIndex => exact opIdx_writes (exec_vrmaxi x s) hq hr hd
  case minIndex => exact opIdx_writes (exec_vrmini x s) hq hr hd
  case oddMax => exact opIdx_raises (exec_vrmaxi x s) hr hd
  case oddMin => exact opIdx_raises (exec_vrmini x s) hr hd
  case scan => exact opVV_result (exec_vscan x s) hq hr

end Sys2Proof.Machine

/-! The scalar ops (R113 to R124): integers, immediates, fields, compares, predicate logic and floating point. -/

namespace Sys2Proof.Machine

open Sys2Proof

/-! ### Integer ops (R113 to R116, R119) -/

/-- A two-source integer op gives its exact value as R113 narrows it. -/
theorem int2_result {s : State} {i : Instr} {x : ArgA} {ov : Bool} {f : ITy → Nat → Nat → Int}
    (hi : exec i s = issueOne (int2 1 x ov f) s) (hq : Quiet s) (hr : Ready s (src2A x)) :
    ScalarResult s i x.dst (intRes (intTy x.mod) ov (f (intTy x.mod) (s.me.rS x.src1).toNat (s.me.rS x.src2).toNat)) := by
  have h := opS_result hi hq hr
  simp only [begin_rS] at h
  exact h

/-- A one-source integer op does too. -/
theorem int1_result {s : State} {i : Instr} {x : ArgA} {ov : Bool} {f : ITy → Nat → Int}
    (hi : exec i s = issueOne (int1 1 x ov f) s) (hq : Quiet s) (hr : Ready s [srcS x.src1 x.b1]) :
    ScalarResult s i x.dst (intRes (intTy x.mod) ov (f (intTy x.mod) (s.me.rS x.src1).toNat)) := by
  have h := opS_result hi hq hr
  simp only [begin_rS] at h
  exact h

/-- A division by another number than 0 gives its quotient or remainder. -/
theorem quot_result {s : State} {i : Instr} {x : ArgA} {ov : Bool} {f : Int → Int → Int}
    (hi : exec i s = issueOne (quotOp 1 x ov f) s) (hq : Quiet s) (hr : Ready s (src2A x))
    (hb : (intTy x.mod).read (s.me.rS x.src2).toNat ≠ 0) :
    ScalarResult s i x.dst (intRes (intTy x.mod) ov
      (f ((intTy x.mod).read (s.me.rS x.src1).toNat) ((intTy x.mod).read (s.me.rS x.src2).toNat))) := by
  have h := opS_chk_result hi hq hr (if_neg hb)
  simp only [begin_rS] at h
  exact h

/-- A division by 0 names its divisor in trap 0x10. -/
theorem quot_raises {s : State} {i : Instr} {x : ArgA} {ov : Bool} {f : Int → Int → Int}
    (hi : exec i s = issueOne (quotOp 1 x ov f) s) (hr : Ready s (src2A x))
    (hb : (intTy x.mod).read (s.me.rS x.src2).toNat = 0) :
    Raises s i (Exc.mk' 0x10 0 (emptyInfo 1 1 false (srcS x.src2 x.b2))) :=
  raises_of hi rfl hr (if_pos hb)

/-- Settles O1: it holds. Every op is one of two shapes, a value of the two sources or a division, and the shape says what an issue
writes. -/
theorem integerOps : Obligations.IntegerOps := by
  refine ⟨fun s x hq hr => ?values, fun s x hq hr => ⟨fun hb => ?quotients, fun hb => ?zero⟩⟩
  case values =>
    exact ⟨(int2_result (exec_add x s) hq hr :), (int2_result (exec_sub x s) hq hr :), (int2_result (exec_mul x s) hq hr :),
      (int2_result (exec_mulhi x s) hq hr :), (int2_result (exec_mulhn x s) hq hr :), (int2_result (exec_min x s) hq hr :),
      (int2_result (exec_minn x s) hq hr :), (int2_result (exec_max x s) hq hr :), (int2_result (exec_maxn x s) hq hr :),
      (int2_result (exec_and x s) hq hr :), (int2_result (exec_or x s) hq hr :), (int2_result (exec_xor x s) hq hr :),
      (int2_result (exec_andn x s) hq hr :), (int2_result (exec_shl x s) hq hr :), (int2_result (exec_shr x s) hq hr :),
      (int2_result (exec_sra x s) hq hr :), (int2_result (exec_rotl x s) hq hr :)⟩
  case quotients =>
    exact ⟨quot_result (exec_div x s) hq hr hb, quot_result (exec_divn x s) hq hr hb, quot_result (exec_rem x s) hq hr hb,
      quot_result (exec_remn x s) hq hr hb⟩
  case zero =>
    exact ⟨quot_raises (exec_div x s) hr hb, quot_raises (exec_divn x s) hr hb, quot_raises (exec_rem x s) hr hb,
      quot_raises (exec_remn x s) hr hb⟩

/-- A 64-bit immediate op is a function of its source and of the immediate. -/
theorem imm64_result {s : State} {i : Instr} {x : ArgI} {f : Word64 → Int → Word64 × FlagSet}
    (hi : exec i s = issueOne (imm64 1 x f) s) (hq : Quiet s) (hr : Ready s [srcS x.src1 x.b1]) :
    ScalarResult s i x.dst (f (s.me.rS x.src1) (match x.ext with
      | none => x.imm.toInt
      | some e => e.toInt)) := by
  have h := opS_result hi hq hr
  rwa [begin_rS] at h

/-- Settles O2: it holds. An immediate op is a function of its source and the immediate, and a one-source op of its source. -/
theorem immediateOps : Obligations.ImmediateOps := by
  refine ⟨fun s x hq hr => ?immediate, fun s x hq hr => ?oneSource⟩
  case immediate =>
    exact ⟨(imm64_result (exec_addi x s) hq hr :), (imm64_result (exec_andi x s) hq hr :), (imm64_result (exec_ori x s) hq hr :),
      (imm64_result (exec_xori x s) hq hr :), (imm64_result (exec_shli x s) hq hr :), (imm64_result (exec_shri x s) hq hr :),
      (imm64_result (exec_srai x s) hq hr :)⟩
  case oneSource =>
    exact ⟨(int1_result (exec_clz x s) hq hr :), (int1_result (exec_ctz x s) hq hr :), (int1_result (exec_popc x s) hq hr :),
      (int1_result (exec_sext x s) hq hr :), (int1_result (exec_zext x s) hq hr :), (int1_result (exec_abs x s) hq hr :),
      (int1_result (exec_neg x s) hq hr :), opS_result (exec_mov x s) hq hr⟩

/-! ### Fields, moves and compares (R117, R118, R120, R123) -/

/-- A scalar op whose result is known from the registers as the issue begins. -/
theorem opS_gives {s : State} {i : Instr} {srcs : List Src} {d : Fin 64} {f : Context → Word64 × FlagSet} {r : Word64 × FlagSet}
    (hi : exec i s = issueOne (opS 1 srcs d f) s) (hq : Quiet s) (hr : Ready s srcs) (hf : f s.me.begin = r) :
    ScalarResult s i d r := hf ▸ opS_result hi hq hr

/-- A predicate op whose result is known from the registers as the issue begins. -/
theorem opP_gives {s : State} {i : Instr} {srcs : List Src} {d : Fin 8} {f : Context → Bool × FlagSet} {r : Bool × FlagSet}
    (hi : exec i s = issueOne (opP 1 srcs d f) s) (hq : Quiet s) (hr : Ready s srcs) (hf : f s.me.begin = r) :
    PredicateResult s i d r := hf ▸ opP_result hi hq hr

/-- Settles O3: it holds. Each op is a function of the sources that it names, its destination among them for `BFI` and `MOVHI`, and
the predicate of mod for `SEL`. -/
theorem fieldsAndMoves : Obligations.FieldsAndMoves := by
  refine ⟨⟨fun s x hq hr => ⟨?bfx, ?bfxs, fun hd => ?bfi, fun hp => ?sel⟩, fun s x hq => ⟨?movi, fun hd => ?movhi⟩⟩,
    fun s x hq hr => ⟨?cmp, ?fcmps⟩, fun s x hq hr => ?cmpi⟩
  case bfx => exact opS_gives (exec_bfx x s) hq hr (by simp only [begin_rS])
  case bfxs => exact opS_gives (exec_bfxs x s) hq hr (by simp only [begin_rS])
  case bfi => exact opS_gives (exec_bfi x s) hq (ready_append hr hd) (by simp only [begin_rS])
  case sel => exact opS_gives (exec_sel x s) hq (ready_append hr hp) (by simp only [begin_rS, begin_rP]; rfl)
  case movi => exact opS_result (exec_movi x s) hq rfl
  case movhi => exact opS_gives (exec_movhi x s) hq hd rfl
  case cmp => exact opP_gives (exec_cmp x s) hq hr (by simp only [begin_rS])
  case fcmps => exact opP_gives (exec_fcmps x s) hq hr (by simp only [begin_rS])
  case cmpi => exact opP_gives (exec_cmpi x s) hq hr rfl

/-! ### Predicate logic (R121) -/

/-- A predicate logic op is a function of its predicates. -/
theorem logicP_result {s : State} {i : Instr} {x : ArgPL} {l : List Src} {f : Bool → Bool → Bool}
    (hi : exec i s = issueOne (logicP 1 x l f) s) (hq : Quiet s) (hr : Ready s l) :
    PredicateResult s i x.pd (f (s.me.rP x.pa) (s.me.rP x.pb), 0) := opP_gives hi hq hr (by simp only [begin_rP])

/-- A scalar-slot op whose first empty source blocks waits for it, and notes no barrier claim. -/
theorem waits_empty {s : State} {i : Instr} {o : Op} {n : Nat} {x : Src} (hi : exec i s = issueOne o s) (h0 : o.early s = none)
    (hslot : o.slot ≠ 3) (hx : x.trap = false) (hfirst : firstEmptySrc s s.cur 0 o.srcs = some (n, x)) :
    Waits s i 1 (fun s => s.updMe (fun c => { c with waitSrc := some (x.file, x.reg) })) := by
  have hnote : noteBlock [o] x.file x.reg s = s.updMe (fun c => { c with waitSrc := some (x.file, x.reg) }) := by
    simp [noteBlock, noteClaim, hslot]
  rw [Waits, hi, issueOne, issue_wait o s (verdict_empty_block o s h0 hfirst hx), hnote]

/-- A predicate logic op waits for its first source. -/
theorem logicP_waits_first {s : State} {i : Instr} {x : ArgPL} {l : List Src} {f : Bool → Bool → Bool}
    (hi : exec i s = issueOne (logicP 1 x (srcP x.pa :: l) f) s) (he : srcFull s s.cur (srcP x.pa) = false) :
    Waits s i 1 (fun s => s.updMe (fun c => { c with waitSrc := some (2, x.pa) })) :=
  waits_empty (n := 0) (x := srcP x.pa) hi rfl (by decide : (1 : Nat) ≠ 3) rfl (firstEmptySrc_append l he [] 0 rfl)

/-- With its first source full it waits for the second. -/
theorem logicP_waits_second {s : State} {i : Instr} {x : ArgPL} {f : Bool → Bool → Bool}
    (hi : exec i s = issueOne (logicP 1 x [srcP x.pa, srcP x.pb] f) s) (ha : srcFull s s.cur (srcP x.pa) = true)
    (hb : srcFull s s.cur (srcP x.pb) = false) :
    Waits s i 1 (fun s => s.updMe (fun c => { c with waitSrc := some (2, x.pb) })) :=
  waits_empty (n := 1) (x := srcP x.pb) hi rfl (by decide : (1 : Nat) ≠ 3) rfl
    (firstEmptySrc_append [] hb [srcP x.pa] 0 (by rw [List.all_cons, ha]; rfl))

/-- A word of a predicate logic opcode decodes to its op, where the op is well formed. -/
theorem decode_logicP (x : ArgPL) (op : Nat) (ctor : ArgPL → Instr) (e : Word32) (hop : op < 128)
    (hraw : ∀ n, n / 2 ^ 23 % 128 = op → rawS n e = (getPL n).map ctor) :
    decode 1 (BitVec.ofNat 32 (op * 2 ^ 23 + (x.pd.val * 2 ^ 20 + x.pa.val * 2 ^ 17 + x.pb.val * 2 ^ 14))) e
      = if (ctor x).wf then some (ctor x) else none := by
  obtain ⟨hlt, hopc, hget⟩ := reads_PL x op _ hop rfl
  have hget : getPL (op * 2 ^ 23 + putPL x) = some x := hget
  have hn : (BitVec.ofNat 32 (op * 2 ^ 23 + putPL x)).toNat = op * 2 ^ 23 + putPL x := by
    rw [BitVec.toNat_ofNat, Nat.mod_eq_of_lt hlt]
  have hraw' : rawSlot 1 (BitVec.ofNat 32 (op * 2 ^ 23 + putPL x)).toNat e = some (ctor x) := by
    rw [hn, rawSlot, hraw _ hopc, hget, Option.map_some]
  rw [← putPL, decode, hraw']

/-- Settles O4: it holds. Each op is a function of its predicates, the first empty one of which blocks, and the opcode leads to the op,
whose well-formedness asks for pb = 0 where there is no second source. -/
theorem predicateLogic : Obligations.PredicateLogic := by
  refine fun x => ⟨fun s hq => ⟨fun ha => ?one, fun hab => ?two, fun ha i hi => ?waitA, fun ha hb i hi => ?waitB⟩, fun e => ?words⟩
  case one =>
    exact ⟨(logicP_result (exec_pnot x s) hq ha :), (logicP_result (exec_pmov x s) hq ha :)⟩
  case two =>
    exact ⟨(logicP_result (exec_pand x s) hq hab :), (logicP_result (exec_por x s) hq hab :),
      (logicP_result (exec_pxor x s) hq hab :)⟩
  case waitA =>
    simp only [List.mem_cons, List.not_mem_nil, or_false] at hi
    rcases hi with rfl | rfl | rfl | rfl | rfl
    · exact logicP_waits_first (exec_pnot x s) ha
    · exact logicP_waits_first (exec_pmov x s) ha
    · exact logicP_waits_first (exec_pand x s) ha
    · exact logicP_waits_first (exec_por x s) ha
    · exact logicP_waits_first (exec_pxor x s) ha
  case waitB =>
    simp only [List.mem_cons, List.not_mem_nil, or_false] at hi
    rcases hi with rfl | rfl | rfl
    · exact logicP_waits_second (exec_pand x s) ha hb
    · exact logicP_waits_second (exec_por x s) ha hb
    · exact logicP_waits_second (exec_pxor x s) ha hb
  case words =>
    refine ⟨decode_logicP x 0x2C .pand e (by decide) fun n h => ?_, decode_logicP x 0x2D .por e (by decide) fun n h => ?_,
      decode_logicP x 0x2E .pxor e (by decide) fun n h => ?_,
      (decode_logicP x 0x2F .pnot e (by decide) fun n h => ?_).trans ?pnot,
      (decode_logicP x 0x30 .pmov e (by decide) fun n h => ?_).trans ?pmov⟩
    case pnot => simp [Instr.wf]
    case pmov => simp [Instr.wf]
    all_goals rw [rawS, h]; rfl

/-! ### Floating point (R122, R124) -/

/-- A two-source floating op rounds a function of its sources under the `FMT` in effect. -/
theorem flt2_result {s : State} {i : Instr} {x : ArgA} {b : Bool} {f : FTy → FEnv → Nat → Nat → Nat → Nat × FlagSet}
    (hi : exec i s = issueOne (flt2 1 x b f) s) (hq : Quiet s) (hr : Ready s (src2A x)) :
    RoundedResult s i x.dst b (f (sFty x.mod) (FEnv.ofFmt s.me.fmtNow) ((s.me.rS x.src1).toNat % 2 ^ (sFty x.mod).w)
      ((s.me.rS x.src2).toNat % 2 ^ (sFty x.mod).w)) := by
  have h := opDraw_result hi hq hr
  rwa [begin_fmt, begin_rS, begin_rS] at h

/-- A rounded op whose value is known from the registers as the issue begins. -/
theorem opDraw_gives {s : State} {i : Instr} {srcs : List Src} {d : Fin 64} {b : Bool} {f : Context → Nat → Nat × FlagSet}
    {r : Nat → Nat × FlagSet} (hi : exec i s = issueOne (opDraw 1 srcs d b f) s) (hq : Quiet s) (hr : Ready s srcs)
    (hf : f s.me.begin = r) : RoundedResult s i d b r := hf ▸ opDraw_result hi hq hr

/-- Settles O5: it holds. Each op rounds a function of its sources under the `FMT` in effect, and its shape says whether it draws. -/
theorem scalarFloatOps : Obligations.ScalarFloatOps := by
  refine ⟨fun s x hq hr => ⟨?fadds, ?fsubs, ?fmuls, ?fmins, ?fmaxs, fun hd => ?ffmas⟩, fun s x hq hr => ?fcvts⟩
  case fadds => exact (flt2_result (exec_fadds x s) hq hr :)
  case fsubs => exact (flt2_result (exec_fsubs x s) hq hr :)
  case fmuls => exact (flt2_result (exec_fmuls x s) hq hr :)
  case fmins => exact (flt2_result (exec_fmins x s) hq hr :)
  case fmaxs => exact (flt2_result (exec_fmaxs x s) hq hr :)
  case ffmas => exact opDraw_gives (exec_ffmas x s) hq (ready_append hr hd) (by simp only [begin_rS, begin_fmt])
  case fcvts => exact opDraw_gives (exec_fcvts x s) hq hr rfl

end Sys2Proof.Machine

/-! Loads and stores of the L slot (R125, R126, R129, R130). -/

namespace Sys2Proof.Machine

open Sys2Proof

/-! ### Addresses as the issue begins -/

theorem eaErr_ok {s : State} {x : ArgM} {n pa : Nat} (hp : reach s s.cur (eaOf s.me x) n = .ok pa) : eaErr x n s = none :=
  reachErr_ok hp

/-- An access within reach has its physical address, before the bundle and as the issue begins. -/
theorem begin_eaPa_ok {s : State} {x : ArgM} {n pa : Nat} (hc : s.cur < residents)
    (hp : reach s s.cur (eaOf s.me x) n = .ok pa) : eaPa x n (beginIssue s) = pa := by
  rw [begin_eaPa s hc, eaPa, reachPa_ok hp]

/-- An element within reach has its physical address as the issue begins. -/
theorem begin_reachPa_ok {s : State} {a : Word64} {n pa : Nat} (hc : s.cur < residents) (hp : reach s s.cur a n = .ok pa) :
    reachPa (beginIssue s) (beginIssue s).cur a n = pa := by
  rw [beginIssue_cur, begin_reachPa s hc, reachPa_ok hp]

theorem begin_strideEa {s : State} (hc : s.cur < residents) (x : ArgM) (i : Nat) :
    strideEa x (beginIssue s).me i = strideEa x s.me i := by
  rw [strideEa, strideEa, begin_eaOf s hc, beginIssue_me s hc, begin_rA]

theorem begin_gathEa {s : State} (hc : s.cur < residents) (x : ArgG) (i : Nat) : gathEa x (beginIssue s).me i = gathEa x s.me i := by
  rw [gathEa, gathEa, beginIssue_me s hc, begin_rA, begin_rV]

theorem begin_gathIdx {s : State} (hc : s.cur < residents) (x : ArgG) : gathIdx x (beginIssue s).me = gathIdx x s.me := by
  rw [gathIdx, gathIdx, beginIssue_me s hc, begin_rVM]

theorem me_begin_rV {s : State} (hc : s.cur < residents) (r : Nat) : (beginIssue s).me.rV r = s.me.rV r := by
  rw [beginIssue_me s hc, begin_rV]

theorem me_begin_rVM {s : State} (hc : s.cur < residents) (r : Nat) : (beginIssue s).me.rVM r = s.me.rVM r := by
  rw [beginIssue_me s hc, begin_rVM]

/-- The elements of a strided access within reach, as the issue begins. -/
theorem begin_strided {s : State} {x : ArgM} {n : Nat} {f : Nat → Nat} (hc : s.cur < residents)
    (hf : ∀ i ∈ strideIdx x, reach s s.cur (strideEa x s.me i) n = .ok (f i)) {i : Nat} (hi : i ∈ strideIdx x) :
    reachPa (beginIssue s) (beginIssue s).cur (strideEa x (beginIssue s).me i) n = f i := by
  rw [begin_strideEa hc, begin_reachPa_ok hc (hf i hi)]

/-- The selected elements of a gather or scatter within reach, as the issue begins. -/
theorem begin_gathered {s : State} {x : ArgG} {n : Nat} {f : Nat → Nat} (hc : s.cur < residents)
    (hf : ∀ i ∈ gathIdx x s.me, reach s s.cur (gathEa x s.me i) n = .ok (f i)) {i : Nat} (hi : i ∈ gathIdx x s.me) :
    reachPa (beginIssue s) (beginIssue s).cur (gathEa x (beginIssue s).me i) n = f i := by
  rw [begin_gathEa hc, begin_reachPa_ok hc (hf i hi)]

/-! ### Short addresses (R126) -/

theorem isShort_of {a : Word64} (h : a.toNat < 2 ^ 20) : isShort a = true := by rw [isShort, Nat.div_eq_of_lt h]; rfl

/-- A short address within the scratchpad names the issuing core's own. -/
theorem reach_short {s : State} {a : Word64} {n : Nat} (hc : s.cur < residents) (ha : a.toNat < 2 ^ 20)
    (hn : a.toNat + n ≤ 2 ^ 20) : reach s s.cur a n = .ok (2 ^ 39 + s.cur / 4 * 2 ^ 20 + a.toNat) := by
  have hsp : ¬Config.spBytes < a.toNat + n := Nat.not_lt.mpr hn
  rw [reach, if_pos (isShort_of ha), if_neg hsp, homeCore_cur s hc]
  rfl

/-- One that passes its end is fault 0x80 at the first byte beyond. -/
theorem reach_short_beyond {s : State} {a : Word64} {n : Nat} (ha : a.toNat < 2 ^ 20) (hn : 2 ^ 20 < a.toNat + n) :
    reach s s.cur a n = .error (Exc.mk' 0x80 0x100000 (n64 (0xFFF * 2 ^ 36))) := by
  have hsp : Config.spBytes < a.toNat + n := hn
  rw [reach, if_pos (isShort_of ha), if_pos hsp]
  rfl

/-! ### Loads (R125, R129, R130) -/

/-- A G-format op that changes the issuing context alone. -/
theorem opG_writes {s : State} {i : Instr} {x : ArgG} {srcs : List Src} {dsts : List (Nat × Nat)} {f : State → State → State}
    {a : Nat → Nat} {G : Context → Context} (hi : exec i s = issueOne (opG x i srcs dsts f none) s) (hq : Quiet s)
    (hr : Ready s (srcA x.abase x.b :: srcs))
    (ha : ∀ k ∈ gathIdx x s.me, reach s s.cur (gathEa x s.me k) (gathW x.ty / 8) = .ok (a k))
    (hf : f (beginIssue s) (beginIssue s) = (beginIssue s).updMe G) (hG : ∀ c : Context, c.Keeps (G c)) :
    Writes s i (heldL s x.hold i) G :=
  writes_of hi hq (verdict_go _ _ rfl hr (firstReach_ok _ ha) rfl) rfl G hf hG

/-- Settles O6: it holds. Each load's change is the write of what it reads, whose addresses are the same as the issue begins; a short
address is settled by the size of the scratchpad alone. -/
theorem loads : Obligations.Loads := by
  refine ⟨⟨fun s x hq hr => ⟨fun pa hp => ?ld, fun pa hp => ?ldv, fun hr' f hf => ?ldvs⟩, fun s x hq hr f hf => ?gath⟩,
    fun s a n hc ha => ⟨reach_short hc ha, reach_short_beyond ha⟩⟩
  case ld =>
    refine opM_writes (exec_ld x s) hq hr (eaErr_ok hp) ?_ (fun c => c.keeps_wS _ _)
    simp only [begin_eaPa_ok hq.1 hp, begin_rd]
  case ldv =>
    refine opM_writes (exec_ldv x s) hq hr (eaErr_ok hp) ?_ (fun c => c.keeps_wV _ _)
    simp only [begin_eaPa_ok hq.1 hp, begin_rd]
  case ldvs =>
    refine opM_writes (exec_ldvs x s) hq (ready_cons hr hr') (firstReach_ok _ hf) ?_ (fun c => c.keeps_wV _ _)
    have hlanes := List.map_congr_left (l := strideIdx x) fun i hi =>
      (congrArg (rd (beginIssue s) · (bytesOf x)) (begin_strided hq.1 hf hi)).trans (begin_rd s (f i) (bytesOf x))
    simp only [hlanes]
  case gath =>
    refine opG_writes (exec_gath x s) hq hr hf ?_ (fun c => c.keeps_wV _ _)
    have hlanes : ∀ i ∈ List.range 64, (if ((beginIssue s).me.rVM x.vm).getLsbD i then
          rd (beginIssue s) (reachPa (beginIssue s) (beginIssue s).cur (gathEa x (beginIssue s).me i) (gathW x.ty / 8)) (gathW x.ty / 8)
        else 0) = if (s.me.rVM x.vm).getLsbD i then rd s (f i) (gathW x.ty / 8) else 0 := by
      intro i hi
      rw [me_begin_rVM hq.1]
      by_cases hm : (s.me.rVM x.vm).getLsbD i
      · rw [if_pos hm, if_pos hm, begin_gathered hq.1 hf (List.mem_filter.mpr ⟨hi, hm⟩), begin_rd]
      · rw [if_neg hm, if_neg hm]
    rw [List.map_congr_left hlanes]

/-! ### Stores (R125, R129, R130) -/

/-- A list of writes of memory on both sides, whose addresses and values agree where the list has them. -/
theorem foldl_wr_same {s e : State} (h : Elsewhere s e) {l : List Nat} {n : Nat} {f g v w : Nat → Nat}
    (hfg : ∀ i ∈ l, g i = f i) (hvw : ∀ i ∈ l, w i = v i) :
    Elsewhere (l.foldl (fun m i => wr m (f i) n (v i)) s) (l.foldl (fun m i => wr m (g i) n (w i)) e)
    ∧ (l.foldl (fun m i => wr m (g i) n (w i)) e).latch = e.latch ∧ (l.foldl (fun m i => wr m (g i) n (w i)) e).cur = e.cur
    ∧ (l.foldl (fun m i => wr m (g i) n (w i)) e).me = e.me := by
  have hfold : l.foldl (fun m i => wr m (g i) n (w i)) e = l.foldl (fun m i => wr m (f i) n (v i)) e :=
    List.foldl_ext _ _ e fun m i hi => by rw [hfg i hi, hvw i hi]
  rw [hfold]
  exact foldl_only h l n f v

/-- A G-format op that stores. -/
theorem opG_rewrites {s b : State} {i : Instr} {x : ArgG} {srcs : List Src} {dsts : List (Nat × Nat)} {w : State → State → State}
    {a : Nat → Nat} (hi : exec i s = issueOne (opG x i srcs dsts (fun _ cur => cur) (some w)) s) (hq : Quiet s)
    (hr : Ready s (srcA x.abase x.b :: srcs))
    (ha : ∀ k ∈ gathIdx x s.me, reach s s.cur (gathEa x s.me k) (gathW x.ty / 8) = .ok (a k))
    (hw : ∀ e, Elsewhere s e → Elsewhere b (w (beginIssue s) e) ∧ (w (beginIssue s) e).latch = e.latch
      ∧ (w (beginIssue s) e).cur = e.cur ∧ (w (beginIssue s) e).me = e.me) :
    Rewrites s i (heldL s x.hold i) b (fun c => c) :=
  op_rewrites (E := fun c => c) (G := fun c => c) hi hq (verdict_go _ _ rfl hr (firstReach_ok _ ha) rfl)
    (by decide : (3 : Nat) ≠ 0) rfl ⟨_, rfl, .refl _, rfl, beginIssue_me s hq.1⟩ hw .refl .refl

/-- Settles O7: it holds. Each store's change of memory is one write, or a list of writes in the order of the elements, and a byte
outside every one of them stays. -/
theorem plainStores : Obligations.PlainStores := by
  refine ⟨fun s x hq hr => ⟨fun hr' pa hp => ?st, fun hr' pa hp => ?stv⟩,
    fun s x hq hr f hf => ⟨?stvs, fun a ha => byte_foldl_wr _ _ f _ a s ha⟩,
    fun s x hq hr f hf => ⟨?scat, fun a ha => byte_foldl_wr _ _ f _ a s ha⟩⟩
  case st =>
    refine (opM_rewrites (G := fun c => c) (exec_st x s) hq (ready_cons hr hr') (eaErr_ok hp) (fun e he => ?_) .refl).stores
    simp only [begin_eaPa_ok hq.1 hp, me_begin_rS hq.1]
    exact only_wr he _ _ _
  case stv =>
    refine (opM_rewrites (G := fun c => c) (exec_stv x s) hq (ready_cons hr hr') (eaErr_ok hp) (fun e he => ?_) .refl).stores
    simp only [begin_eaPa_ok hq.1 hp, me_begin_rV hq.1]
    exact only_wr he _ _ _
  case stvs =>
    refine opM_rewrites (G := fun c => c) (exec_stvs x s) hq hr (firstReach_ok _ hf) (fun e he => ?_) .refl
    exact foldl_wr_same he (fun i hi => begin_strided hq.1 hf hi) (fun i _ => by rw [me_begin_rV hq.1])
  case scat =>
    refine opG_rewrites (exec_scat x s) hq hr hf (fun e he => ?_)
    rw [begin_gathIdx hq.1]
    exact foldl_wr_same he (fun i hi => begin_gathered hq.1 hf hi) (fun i _ => by rw [me_begin_rV hq.1])

end Sys2Proof.Machine

/-! Atomics, locks, the address-register ops and the parameter block (R127, R129, R133 to R139). -/

namespace Sys2Proof.Machine

open Sys2Proof

/-! ### Locks (R133 to R135) -/

/-- The lock of an access within reach. -/
theorem lockOf_ok {s : State} {x : ArgM} {pa : Nat} (hp : reach s s.cur (eaOf s.me x) (bytesOf x) = .ok pa) :
    lockOf x s = lockKey pa := by rw [lockOf, eaPa, reachPa_ok hp]

/-- It is the same as the issue begins. -/
theorem begin_lockOf_ok {s : State} {x : ArgM} {pa : Nat} (hc : s.cur < residents)
    (hp : reach s s.cur (eaOf s.me x) (bytesOf x) = .ok pa) : lockOf x (beginIssue s) = lockKey pa := by
  rw [lockOf, begin_eaPa_ok hc hp]

/-- The slot of lock `k` among the locks of a context. -/
def ownSlot (k : Nat × Nat) (l : LockSlot) : Bool := l.core == k.1 && l.idx == k.2

/-- A free lock is taken: its bit names the context, which gets a slot for it. -/
theorem takeLock_free {s : State} {k : Nat × Nat} (h : lockSlotOf s.me k = none) :
    takeLock s k = (s.setLock k (.held s.cur)).updMe
      (fun c => { c with locks := c.locks ++ [{ core := k.1, idx := k.2, count := 1 }] }) := by rw [takeLock, h]

/-- A lock of the context's own counts once more. -/
theorem takeLock_own {s : State} {k : Nat × Nat} {l : LockSlot} (h : lockSlotOf s.me k = some l) :
    takeLock s k = s.updMe (fun c => { c with locks := c.locks.map (fun l =>
      if ownSlot k l then { l with count := l.count + 1 } else l) }) := by rw [takeLock, h]; rfl

/-- Below the last count a release counts down. -/
theorem dropLock_counts {s : State} {k : Nat × Nat} {l : LockSlot} (h : lockSlotOf s.me k = some l) (hl : 1 < l.count) :
    dropLock s k = s.updMe (fun c => { c with locks := c.locks.map (fun l =>
      if ownSlot k l then { l with count := l.count - 1 } else l) }) := by
  rw [dropLock, h]
  exact if_neg (Nat.not_le.mpr hl)

/-- With the last count the lock leaves the context and clears. -/
theorem dropLock_last {s : State} {k : Nat × Nat} {l : LockSlot} (h : lockSlotOf s.me k = some l) (hl : l.count ≤ 1) :
    dropLock s k = clearLock (s.updMe (fun c => { c with locks := c.locks.filter (fun l => !ownSlot k l) })) s.cur k := by
  rw [dropLock, h]
  exact if_pos hl

/-- The verdict on an `LDL` that finds its lock free, or its own. -/
theorem ldl_goes {s : State} {x : ArgM} {pa : Nat} (hr : Ready s [srcA x.abase x.b]) (ha : (eaOf s.me x).toNat % bytesOf x = 0)
    (hp : reach s s.cur (eaOf s.me x) (bytesOf x) = .ok pa) (hl : ldlLate x s = none) (hw : ldlWait x s = none) :
    verdict [ldlOp x] s = .go := verdict_go _ s rfl hr (alignedErr_ok ha hp) hw hl

/-- The register and the address step of an `LDL`, once the lock is taken. -/
def ldlLoads (x : ArgM) (pa : Nat) (s e : State) : State :=
  (e.updMe (fun c => c.wS x.reg (loaded x (rd s pa (bytesOf x))))).updMe (stepped x (bytesOf x))

theorem ldl_effects {s e : State} {x : ArgM} {pa : Nat} {w : Bool} (hc : s.cur < residents)
    (hp : reach s s.cur (eaOf s.me x) (bytesOf x) = .ok pa) (he : takeLock (beginIssue s) (lockKey pa) = e) :
    effects w (beginIssue s) [ldlOp x] (beginIssue s) = ldlLoads x pa s e := by
  rw [effects_none _ _ _ _ rfl, ← he]
  simp only [ldlOp, opM, Op.plain, begin_lockOf_ok hc hp, begin_eaPa_ok hc hp, begin_rd]
  rfl

/-- What an `LDL` leaves, from what the taking of its lock leaves. -/
theorem ldl_leads {s b e : State} {x : ArgM} {pa : Nat} {F : Context → Context} (hq : Quiet s) (h : Leads s b F e) :
    Leads s b (fun c => stepped x (bytesOf x) ((F c).wS x.reg (loaded x (rd s pa (bytesOf x))))) (ldlLoads x pa s e) :=
  (h.updMe hq _).updMe hq _

theorem keeps_ldl (x : ArgM) (v : Word64) {c d : Context} (h : c.Keeps d) :
    c.Keeps (stepped x (bytesOf x) (d.wS x.reg v)) :=
  (h.trans (d.keeps_wS _ _)).trans (Context.keeps_stepped x _ _)

/-- The address step leaves the locks of a context alone. -/
theorem locks_stepped (x : ArgM) (n : Nat) (c : Context) : (stepped x n c).locks = c.locks := by
  unfold stepped Context.stepA
  split
  · rfl
  · split <;> rfl

/-- The memory write and the address step of an `STUL`, before its lock is released. -/
def stulStores (x : ArgM) (pa : Nat) (s : State) : State :=
  wr ((beginIssue s).updMe (stepped x (bytesOf x))) pa (bytesOf x) (s.me.rS x.reg).toNat

theorem stul_leads {s : State} (x : ArgM) (pa : Nat) (hq : Quiet s) :
    Leads s (wr s pa (bytesOf x) (s.me.rS x.reg).toNat) (stepped x (bytesOf x)) (stulStores x pa s) :=
  ((Leads.begin hq).updMe hq (stepped x (bytesOf x))).wr _ _ _

/-- The store leaves the locks of the context alone. -/
theorem stulStores_lockSlot {s : State} (x : ArgM) (pa : Nat) (hq : Quiet s) (k : Nat × Nat) :
    lockSlotOf (stulStores x pa s).me k = lockSlotOf s.me k := by
  obtain ⟨-, -, -, hme⟩ := stul_leads x pa hq
  rw [lockSlotOf, hme, locks_stepped]
  rfl

theorem stulOp_effects {s : State} {x : ArgM} {pa : Nat} (hc : s.cur < residents)
    (hp : reach s s.cur (eaOf s.me x) (bytesOf x) = .ok pa) :
    effects (fenceWaits (beginIssue s) [stulOp x]) (beginIssue s) [stulOp x] (beginIssue s)
      = dropLock (stulStores x pa s) (lockKey pa) := by
  rw [effects_mem_slot (by decide : (3 : Nat) ≠ 0) rfl]
  simp only [begin_lockOf_ok hc hp, begin_eaPa_ok hc hp, me_begin_rS hc]
  rfl

/-- The verdict on an `STUL` of a lock that the context holds. -/
theorem stul_goes {s : State} {x : ArgM} {pa : Nat} {l : LockSlot} (hr : Ready s [srcA x.abase x.b, srcS x.reg x.b])
    (ha : (eaOf s.me x).toNat % bytesOf x = 0) (hp : reach s s.cur (eaOf s.me x) (bytesOf x) = .ok pa)
    (hk : lockSlotOf s.me (lockKey pa) = some l) : verdict [stulOp x] s = .go := by
  have hlate : stulLate x s = none := by rw [stulLate, lockOf_ok hp, hk]; rfl
  exact verdict_go _ s rfl hr (alignedErr_ok ha hp) rfl hlate

/-- Settles O8: it holds. An atomic is one read and one write of its place; the slot of the lock in the context decides what an `LDL`
and an `STUL` do with it. -/
theorem atomics : Obligations.Atomics := by
  refine ⟨fun s x hq hr => ⟨fun ha pa hp => ⟨?atom, fun hr' => ?cas⟩, fun ha => ⟨?atomOdd, fun hr' => ?casOdd⟩⟩,
    fun s x hq hr ha pa hp => ⟨fun hk hb hl => ?free, fun l hk hl => ?again, fun hk hb => ?busy,
      fun hr' l hk => ⟨fun hl => ?count, fun hl => ?last⟩⟩⟩
  case atom =>
    have h := atom_stores (exec_atom x s) hq hr ha hp
    rwa [begin_rS] at h
  case cas =>
    have h := atom_stores (exec_cas x s) hq (ready_append hr hr') ha hp
    rwa [begin_rS, begin_rS] at h
  case atomOdd => exact raises_of (exec_atom x s) rfl hr (alignedErr_bad ha)
  case casOdd => exact raises_of (exec_cas x s) rfl (ready_append hr hr') (alignedErr_bad ha)
  case free =>
    have hlate : ldlLate x s = none := by
      simp only [ldlLate, lockOf_ok hp, hk, hb, Bool.false_eq_true, if_false]
      exact if_neg (Nat.not_le.mpr hl)
    have hwait : ldlWait x s = none := by
      rw [ldlWait, lockOf_ok hp, hb, Bool.and_false]; rfl
    have htake := takeLock_free (s := beginIssue s) (by rw [begin_lockSlot s hq.1]; exact hk)
    rw [beginIssue_cur] at htake
    exact (ldl_leads hq (((Leads.begin hq).setLock _ _).updMe hq _)).rewrites (exec_ldl x s) hq (ldl_goes hr ha hp hlate hwait)
      (ldl_effects hq.1 hp htake) (keeps_ldl x _ ⟨rfl, rfl, rfl, rfl, rfl, rfl⟩)
  case again =>
    have hlate : ldlLate x s = none := by
      simp only [ldlLate, lockOf_ok hp, hk]
      exact if_neg hl
    have hwait : ldlWait x s = none := by
      rw [ldlWait, lockOf_ok hp, hk]
      simp
    have htake := takeLock_own (s := beginIssue s) (by rw [begin_lockSlot s hq.1]; exact hk)
    exact (ldl_leads hq ((Leads.begin hq).updMe hq _)).writes (exec_ldl x s) hq (ldl_goes hr ha hp hlate hwait)
      (ldl_effects hq.1 hp htake) (keeps_ldl x _ ⟨rfl, rfl, rfl, rfl, rfl, rfl⟩)
  case busy =>
    have hlate : ldlLate x s = none := by
      simp only [ldlLate, lockOf_ok hp, hk, hb, if_true]
    have hwait : ldlWait x s = some (9, fun s => s.updMe (fun c => { c with lockWait := some (lockOf x s) })) := by
      rw [ldlWait, lockOf_ok hp, hk, hb, alignedErr_ok ha hp]; rfl
    have h := waits_of (exec_ldl x s) rfl hr (alignedErr_ok ha hp) hwait hlate
    rwa [Waits, lockOf_ok hp] at h
  case count =>
    have hdrop := dropLock_counts (s := stulStores x pa s) (by rw [stulStores_lockSlot x pa hq]; exact hk) hl
    exact (((stul_leads x pa hq).updMe hq _).rewrites (exec_stul x s) hq (stul_goes (ready_cons hr hr') ha hp hk)
      ((stulOp_effects hq.1 hp).trans hdrop)
      ((Context.keeps_stepped x _ _).trans ⟨rfl, rfl, rfl, rfl, rfl, rfl⟩)).stores
  case last =>
    have hdrop := dropLock_last (s := stulStores x pa s) (by rw [stulStores_lockSlot x pa hq]; exact hk) hl
    obtain ⟨hsame, hmem, hbit⟩ := clearLock_facts ((stulStores x pa s).updMe
      (fun c => { c with locks := c.locks.filter (fun l => !ownSlot (lockKey pa) l) })) (stulStores x pa s).cur (lockKey pa)
    obtain ⟨t, ht, hel, hme⟩ := (((stul_leads x pa hq).updMe hq _).into hsame).rewrites (exec_stul x s) hq
      (stul_goes (ready_cons hr hr') ha hp hk) ((stulOp_effects hq.1 hp).trans hdrop)
      ((Context.keeps_stepped x _ _).trans ⟨rfl, rfl, rfl, rfl, rfl, rfl⟩)
    have hbytes : t.mem = (wr s pa (bytesOf x) (s.me.rS x.reg).toNat).mem := by
      rw [hel.mem, hmem, updMe_mem, (stul_leads x pa hq).1.mem]
    refine ⟨t, ht, hme, ?_, fun a ha => ?_, ?_⟩
    · rw [rd_congr hbytes, rd_wr]
    · rw [State.byte, hbytes]
      exact byte_wr_out s pa _ _ a ha
    · rw [hel.lockBit]
      exact hbit

/-! ### Address registers and the parameter block (R129, R138, R139) -/

theorem me_begin_rA {s : State} (hc : s.cur < residents) (r : Nat) : (beginIssue s).me.rA r = s.me.rA r := by
  rw [beginIssue_me s hc, begin_rA]

theorem me_begin_rLC {s : State} (hc : s.cur < residents) (r : Nat) : (beginIssue s).me.rLC r = s.me.rLC r := by
  rw [beginIssue_me s hc]; rfl

/-- An L-slot op without an access of memory that changes the issuing context alone, and ends the hold of its slot. -/
theorem plainL_writes {s : State} {i : Instr} {srcs : List Src} {dsts : List (Nat × Nat)} {f : State → State → State}
    {F : Context → Context} (hi : exec i s = issueOne (Op.plain 3 srcs dsts f) s) (hq : Quiet s) (hr : Ready s srcs)
    (hf : f (beginIssue s) (beginIssue s) = (beginIssue s).updMe F) (hF : ∀ c : Context, c.Keeps (F c)) :
    Writes s i { s.me.held with l := none } F :=
  writes_of hi hq (verdict_go _ _ rfl hr rfl rfl) rfl F hf hF

/-- A loop counter is written at once, outside a nest. -/
theorem amov_counter {s : State} {x : ArgA} (hm : x.mod = 2) (hq : Quiet s) (hr : Ready s [srcS x.src1 x.b1]) :
    Writes s (.amov x) { s.me.held with l := none } (fun c => c.wLC x.dst ((s.me.rS x.src1).setWidth 32)) := by
  obtain ⟨hc, hn, -⟩ := id hq
  have hi := exec_amov x s
  rw [amovOp, hm] at hi
  refine writes_of hi hq (verdict_go _ _ rfl hr (if_neg (by rw [hn]; exact Bool.false_ne_true)) rfl) rfl _ ?_
    (fun c => ⟨rfl, rfl, rfl, rfl, rfl, rfl⟩)
  simp only [Op.plain, me_begin_rS hc]

/-- Settles O9: it holds. `AMOV`'s mod says which file is read and which is written, and the block's length decides whether an `LDC`
reads it. -/
theorem addressOps : Obligations.AddressOps := by
  refine ⟨fun s x hq => ⟨fun hr => ?aadd, fun hm hr => ?toA, fun hm hr => ?fromA, fun hm hr => amov_counter hm hq hr, fun hm => ?fromLC,
    fun hm hr => ?between⟩, fun s x hq hr => ⟨fun hn => ?within, fun hn => ?beyond⟩⟩
  case aadd =>
    refine plainL_writes (exec_aadd x s) hq hr ?_ (fun c => c.keeps_wA _ _)
    simp only [me_begin_rA hq.1, me_begin_rS hq.1]
  case within =>
    refine opM_writes (exec_ldc x s) hq hr (if_neg (Nat.not_lt.mpr hn)) ?_ (fun c => c.keeps_wS _ _)
    simp only [beginIssue_me s hq.1]
    rfl
  case beyond => exact raises_of (exec_ldc x s) rfl hr (if_pos hn)
  all_goals
    have hi := exec_amov x s
    rw [amovOp, hm] at hi
  case toA =>
    refine plainL_writes hi hq hr ?_ (fun c => c.keeps_wA _ _)
    simp only [me_begin_rS hq.1]
  case fromA =>
    refine plainL_writes hi hq hr ?_ (fun c => c.keeps_wS _ _)
    simp only [me_begin_rA hq.1]
  case fromLC =>
    refine plainL_writes hi hq rfl ?_ (fun c => c.keeps_wS _ _)
    simp only [me_begin_rLC hq.1]
  case between =>
    refine plainL_writes hi hq hr ?_ (fun c => c.keeps_wA _ _)
    simp only [me_begin_rA hq.1]

end Sys2Proof.Machine

/-! Loops: entry, exit and branches (R66, R105 to R107, R109). -/

namespace Sys2Proof.Machine

open Sys2Proof

/-! ### The next issue point (R50, R66, R107, R109) -/

/-- An issue that notes neither a transfer nor a return, at its last repetition: the next issue point is the nest's to say. -/
def LastIssue (e : State) : Prop := e.latch.eret = false ∧ e.latch.target = none ∧ e.latch.repn ≤ e.me.rep

/-- A nest is entered. -/
theorem advance_enters {e : State} (h : LastIssue e) (hl : e.latch.enter.active = true) (hx : e.latch.exitNest = false) :
    advance e = (e.updMe (fun c => (c.withNest e.latch.enter).goTo e.latch.next 0 0), none) := by
  obtain ⟨he, ht, hr⟩ := h
  unfold advance
  simp only [he, ht, hl, hx, Nat.not_lt.mpr hr, if_true, if_false, Bool.false_eq_true]

/-- A nest is skipped. -/
theorem advance_skips {e : State} {q : Word64} (h : LastIssue e) (hl : e.latch.enter.active = true) (hx : e.latch.exitNest = true)
    (hq : exitPoint e (e.jobOf e.cur) e.latch.enter = .ok q) :
    advance e = (e.updMe (fun c => (c.withNest .none).goTo q 0 0), none) := by
  obtain ⟨he, ht, hr⟩ := h
  unfold advance
  simp only [he, ht, hl, hx, hq, Nat.not_lt.mpr hr, if_true, if_false, Bool.false_eq_true]

/-- The active nest is left for its exit point. -/
theorem advance_leaves {e : State} {q : Word64} (h : LastIssue e) (hl : e.latch.enter.active = false) (hx : e.latch.exitNest = true)
    (hn : e.me.nest.active = true) (hq : exitPoint e (e.jobOf e.cur) e.me.nest = .ok q) :
    advance e = (e.updMe (fun c => (c.withNest .none).goTo q 0 0), none) := by
  obtain ⟨he, ht, hr⟩ := h
  unfold advance
  simp only [he, ht, hl, hx, hn, hq, Nat.not_lt.mpr hr, if_true, if_false, Bool.false_eq_true]

/-- Without a nest the bundle behind is next. -/
theorem advance_onward {e : State} (h : LastIssue e) (hl : e.latch.enter.active = false) (hn : e.me.nest.active = false) :
    advance e = (e.updMe (fun c => c.goTo e.latch.next 0 0), none) := by
  obtain ⟨he, ht, hr⟩ := h
  unfold advance
  simp only [he, ht, hl, hn, Nat.not_lt.mpr hr, if_false, Bool.false_eq_true]

/-- The nest after a taken branch of a body (R66): kept at the position of the target, or ended. -/
def branchNest (s : State) (j : Nat) (n : Nest) (t : Word64) : Nest :=
  match bodyPos s j n t 33 0 n.first with
  | some p => { n with pos := p }
  | none => Nest.none

/-- A taken branch within a nest. -/
theorem advance_branches {e : State} {t : Word64} (he : e.latch.eret = false) (ht : e.latch.target = some t)
    (hn : e.me.nest.active = true) :
    advance e = (e.updMe (fun c => (c.withNest (branchNest e (e.jobOf e.cur) e.me.nest t)).goTo t 0 e.me.pc), none) := by
  unfold advance
  simp only [he, ht, if_pos hn, if_false, Bool.false_eq_true]
  rfl

/-! ### What the end of an issue reads of the program -/

theorem settled_jobOf {s e : State} {F : Context → Context} {l : Latch} (A : Arrives s s F l e) (hc : s.cur < residents)
    (hF : (F s.me.begin).launch = s.me.launch) (o : Op) :
    (settled o e).jobOf (settled o e).cur = s.jobOf s.cur := by
  obtain ⟨hel, -, hcur, -⟩ := A.settled hc o
  rw [hcur, hel.jobOf (settled_launch A hc hF)]

theorem rep_fillBuffer (c : Context) (ws : List Word32) : (c.fillBuffer ws).rep = c.rep := by
  unfold Context.fillBuffer
  split <;> rfl

/-- The last repetition of a bundle whose effect notes neither a transfer nor a return. -/
theorem settled_last {s e : State} {F : Context → Context} {l : Latch} (A : Arrives s s F l e) (hc : s.cur < residents) (o : Op)
    (he : l.eret = false) (ht : l.target = none) (hr : l.repn ≤ s.me.rep) (hF : (F s.me.begin).rep = s.me.rep) :
    LastIssue (settled o e) := by
  obtain ⟨-, hlatch, -, hme⟩ := A.settled hc o
  have hrep : (settled o e).me.rep = s.me.rep := by
    rw [hme]; exact (rep_fillBuffer ((F s.me.begin).holding (Held.after (F s.me.begin).held o)) l.words).trans hF
  rw [LastIssue, hlatch, hrep]
  exact ⟨he, ht, hr⟩

theorem settled_exitPoint {s e : State} {F : Context → Context} {l : Latch} (A : Arrives s s F l e) (hc : s.cur < residents)
    (hF : (F s.me.begin).launch = s.me.launch) (o : Op) (n : Nest) :
    exitPoint (settled o e) ((settled o e).jobOf (settled o e).cur) n = exitPoint s (s.jobOf s.cur) n := by
  rw [settled_jobOf A hc hF, (A.settled hc o).1.exitPoint]

theorem settled_branchNest {s e : State} {F : Context → Context} {l : Latch} (A : Arrives s s F l e) (hc : s.cur < residents)
    (hF : (F s.me.begin).launch = s.me.launch) (o : Op) (n : Nest) (t : Word64) :
    branchNest (settled o e) ((settled o e).jobOf (settled o e).cur) n t = branchNest s (s.jobOf s.cur) n t := by
  rw [settled_jobOf A hc hF, branchNest, (A.settled hc o).1.bodyPos, branchNest]

/-! ### Entry (R105 to R107) -/

/-- The context once its issue has ended at `q` with the nest `n`, from one outside a nest with the hold state of the issue's
beginning. -/
theorem closing_at {s : State} {c : Context} {o : Op} (hn : c.nest.active = false) (hh : c.held = s.me.held)
    (ho : ∀ h : Held, Held.after h o = h) (hr : s.latch.repn ≤ s.me.rep) (ws : List Word32) (n : Nest) (q : Word64) :
    ((((((c.holding (Held.after c.held o)).fillBuffer ws).tickFmt).withNest n).goTo q 0 0).owing none)
      = { closing s s.me.held c with pc := q, nest := n } := by
  have hfill : (c.holding c.held).fillBuffer ws = c.holding c.held := fill_off (c := c.holding c.held) hn ws
  rw [ho, hfill, ← hh]
  simp only [closing, Context.tickFmt, Context.holding, Context.withNest, Context.goTo, Context.owing, if_neg (Nat.not_lt.mpr hr)]

/-- The table of a `LOOPN` is in order. -/
theorem loopnChk_ok {s : State} {x : ArgLP} (hq : Quiet s) (hlev : x.levels.val ≤ 5) (ha : (s.me.rA x.abase).toNat % 8 = 0)
    (hend : (s.me.rA x.abase).toNat + 64 * (x.levels.val + 1) ≤ 2 ^ 20)
    (hbad : firstBad s (s.cur / 4) (s.me.rA x.abase).toNat (List.range (x.levels.val + 1)) = none) : loopnChk x s = none := by
  have hhome : s.homeCore s.cur = s.cur / 4 := homeCore_cur s hq.1
  have hbase : ¬((s.me.rA x.abase).toNat / 2 ^ 20 ≠ 0 ∨ (s.me.rA x.abase).toNat % 8 ≠ 0
      ∨ 2 ^ 20 < (s.me.rA x.abase).toNat + 64 * (x.levels.val + 1)) := by omega
  rw [loopnChk, inNest_quiet hq]
  simp only [if_neg (Nat.not_lt.mpr hlev), if_neg hbase, hhome, hbad]

/-- A misaligned base is trap 0x02, REASON 0x04. -/
theorem loopnChk_misaligned {s : State} {x : ArgLP} (hq : Quiet s) (hlev : x.levels.val ≤ 5)
    (ha : (s.me.rA x.abase).toNat % 8 ≠ 0) : loopnChk x s = some (illegal 0 4 (s.me.rA x.abase)) := by
  rw [loopnChk, inNest_quiet hq]
  simp only [if_neg (Nat.not_lt.mpr hlev)]
  exact if_pos (.inr (.inl ha))

/-- The nest that a `LOOPN` enters is read the same as the issue begins. -/
theorem begin_loopNest {s : State} (hc : s.cur < residents) (x : ArgLP) : loopNest x (beginIssue s) = loopNest x s := by
  have hrec : ∀ g b, strideRec (beginIssue s) g b = strideRec s g b := fun g b => by
    funext l; simp only [strideRec, begin_rd]
  have hlc : (beginIssue s).me.rLC = s.me.rLC := by rw [beginIssue_me s hc]; rfl
  have hra : (beginIssue s).me.rA x.abase = s.me.rA x.abase := by rw [beginIssue_me s hc, begin_rA]
  simp only [loopNest, hrec, hlc, hra, beginIssue_cur, begin_homeCore s hc, beginIssue_latch]
  rfl

/-- The counters that a `LOOPN` clears. -/
def countersClear (x : ArgLP) (c : Context) : Context := (List.range (x.levels.val + 1)).foldl (fun c l => c.wLC l 0) c

/-- What a `LOOPN` that enters its nest leaves. -/
theorem loopn_enters {s : State} {x : ArgLP} (hc : s.cur < residents) (h : (loopNest x s).trip.contains 0 = false) :
    (loopnOp x).eff (beginIssue s) (beginIssue s)
      = ((beginIssue s).updMe (countersClear x)).latched (fun l => { l with enter := loopNest x s }) := by
  simp only [loopnOp, Op.plain, begin_loopNest hc, h, Bool.false_eq_true, if_false]
  rfl

/-- What one that skips it leaves. -/
theorem loopn_skips {s : State} {x : ArgLP} (hc : s.cur < residents) (h : (loopNest x s).trip.contains 0 = true) :
    (loopnOp x).eff (beginIssue s) (beginIssue s)
      = (beginIssue s).latched (fun l => { l with enter := loopNest x s, exitNest := true }) := by
  simp only [loopnOp, Op.plain, begin_loopNest hc, h, if_true]

/-- Settles O15: it holds. The trip counts decide whether the nest or its exit point is next, and the checks of the table come before
either. -/
theorem loopEntry : Obligations.LoopEntry := by
  refine fun s x hq hr hlev hrep => ⟨fun ha hend hbad => ⟨fun htrip => ?enters, fun htrip q hexit => ?skips⟩, fun ha => ?misaligned⟩
  case misaligned => exact raises_of (exec_loopn x s) rfl hr (loopnChk_misaligned hq hlev ha)
  all_goals
    obtain ⟨hc, hn, -, hafter, hst⟩ := id hq
    have hv : verdict [loopnOp x] s = .go := verdict_go _ s rfl hr (loopnChk_ok hq hlev ha hend hbad) rfl
  case enters =>
    have A := ((Arrives.begin hq).updMe hc (countersClear x)).latched (fun l => { l with enter := loopNest x s })
    have hk : s.me.begin.Keeps (countersClear x s.me.begin) := keeps_wLCs _ _
    obtain ⟨hknest, hkrep, -, -, -, hkheld⟩ := id hk
    obtain ⟨-, hlatch, -⟩ := A.settled hc (loopnOp x)
    have hadv := advance_enters (settled_last A hc (loopnOp x) rfl rfl hrep hkrep) (by rw [hlatch]; rfl) (by rw [hlatch]; rfl)
    rw [hlatch] at hadv
    obtain ⟨hel, -, -, hme⟩ := finish_plain (w := fenceWaits (beginIssue s) [loopnOp x]) (n := s.num) A hc hadv rfl (step_off hq)
      rfl rfl (fun _ => rfl) (fun _ h => h) hk hafter hst
    have hexec := (exec_commit (exec_loopn x s) hv).trans (by rw [effects_none _ _ _ _ rfl, loopn_enters hc htrip])
    refine ⟨_, hexec, hel, hme.trans ?_⟩
    have hcn : (countersClear x s.me.begin).nest.active = false := by rw [hknest]; exact hn
    have hpc : s.latch.next = (closing s s.me.held (countersClear x s.me.begin)).pc := (if_neg (Nat.not_lt.mpr hrep)).symm
    have hclose := closing_at (o := loopnOp x) hcn hkheld (fun _ => rfl) hrep s.latch.words (loopNest x s) s.latch.next
    exact hclose.trans (by rw [hpc]; rfl)
  case skips =>
    have A := (Arrives.begin hq).latched (fun l => { l with enter := loopNest x s, exitNest := true })
    obtain ⟨-, hlatch, -⟩ := A.settled hc (loopnOp x)
    have hadv := advance_skips (settled_last A hc (loopnOp x) rfl rfl hrep rfl) (by rw [hlatch]; rfl) (by rw [hlatch])
      (by rw [settled_exitPoint A hc rfl, hlatch]; exact hexit)
    obtain ⟨hel, -, -, hme⟩ := finish_plain (w := fenceWaits (beginIssue s) [loopnOp x]) (n := s.num) A hc hadv rfl (step_off hq)
      rfl rfl (fun _ => rfl) (fun _ h => h) (.refl _) hafter hst
    have hexec := (exec_commit (exec_loopn x s) hv).trans (by rw [effects_none _ _ _ _ rfl, loopn_skips hc htrip])
    refine ⟨_, hexec, hel, hme.trans ?_⟩
    exact closing_at (c := s.me.begin) (o := loopnOp x) hn rfl (fun _ => rfl) hrep s.latch.words .none q

/-! ### Exit, and branches of a body (R66, R109) -/

/-- The context at the end of an issue whose effect only notes something in the latch. -/
theorem settled_bodyCtx {s e : State} {l : Latch} {o : Op} (A : Arrives s s (fun c => c) l e) (hc : s.cur < residents)
    (ho : Held.after s.me.held o = s.me.held) (hw : l.words = s.latch.words) : (settled o e).me = bodyCtx s := by
  obtain ⟨-, -, -, hme⟩ := A.settled hc o
  have hheld : Held.after s.me.begin.held o = s.me.begin.held := ho
  simp only [hme, hw, hheld]
  rfl

/-- What such an issue leaves, where `G` leads to its next issue point. -/
theorem finish_noted {s e : State} {l : Latch} {o : Op} {w : Bool} {n : Nat} {G : Context → Context}
    (A : Arrives s s (fun c => c) l e) (hc : s.cur < residents) (ho : Held.after s.me.held o = s.me.held)
    (hl : l.words = s.latch.words ∧ l.post = none ∧ l.step = false ∧ l.fence = none ∧ l.yielded = false)
    (ha : advance (settled o e) = ((settled o e).updMe G, none)) (hG : ∀ c, (G c).after = c.after ∧ (G c).st = c.st)
    (hafter : s.me.after = .none) (hst : s.me.st ≠ .sleeping) :
    Elsewhere s (finish w n (holds [o] e)) ∧ (finish w n (holds [o] e)).me = (G (bodyCtx s)).owing none := by
  obtain ⟨hwords, hpost, hstep, hfence, hyield⟩ := hl
  obtain ⟨hel, -, -, hme⟩ := finish_plain (w := w) (n := n) A hc ha hpost hstep hfence hyield (fun c => (hG c).1)
    (fun c h => (hG c).2.symm.trans h) (.refl _) hafter hst
  have hheld : Held.after s.me.begin.held o = s.me.begin.held := ho
  simp only [hwords, hheld] at hme
  exact ⟨hel, hme⟩

/-- The effect of `LEXIT`. -/
theorem lexit_arrives {s : State} (hc : s.cur < residents) :
    Arrives s s (fun c => c) { latchBegin s.latch s.me with exitNest := true } (lexitOp.eff (beginIssue s) (beginIssue s)) :=
  (Arrives.begin' hc).latched (fun l => { l with exitNest := true })

/-- The effect of `BR`. -/
theorem br_arrives {s : State} (hc : s.cur < residents) (x : ArgB) :
    Arrives s s (fun c => c) { latchBegin s.latch s.me with target := some (relTarget s x) }
      ((brOp x).eff (beginIssue s) (beginIssue s)) := by
  have he : (brOp x).eff (beginIssue s) (beginIssue s) = (beginIssue s).goto (relTarget s x) :=
    congrArg (beginIssue s).goto (begin_relTarget hc x)
  rw [he]
  exact (Arrives.begin' hc).latched _

theorem exec_lexit_commit (s : State) :
    exec .lexit s
      = .next (finish (fenceWaits (beginIssue s) [lexitOp]) s.num (holds [lexitOp] (lexitOp.eff (beginIssue s) (beginIssue s)))) :=
  (exec_commit (exec_lexit s) (verdict_go _ s rfl rfl rfl rfl)).trans (by rw [effects_none _ _ _ _ rfl])

theorem exec_br_commit (x : ArgB) (s : State) :
    exec (.br x) s
      = .next (finish (fenceWaits (beginIssue s) [brOp x]) s.num (holds [brOp x] ((brOp x).eff (beginIssue s) (beginIssue s)))) :=
  (exec_commit (exec_br x s) (verdict_go _ s rfl rfl rfl rfl)).trans (by rw [effects_none _ _ _ _ rfl])

theorem lc_bodyCtx (s : State) : (bodyCtx s).lc = s.me.lc := by
  simp only [bodyCtx, Context.tickFmt, Context.fillBuffer]
  split <;> rfl

theorem pc_bodyCtx (s : State) : (bodyCtx s).pc = s.me.pc := by
  simp only [bodyCtx, Context.tickFmt, Context.fillBuffer]
  split <;> rfl

/-- Settles O17: it holds. Without a nest the note to exit is not read; within one it leads to the exit point, and a taken branch to its
target, whose position in the body says whether the nest stays. -/
theorem loopExit : Obligations.LoopExit := by
  refine ⟨fun s hq hrep => ?idle, fun s hc hact hstep hafter hst hrep => ⟨lc_bodyCtx s, fun q hexit => ?exit, fun x => ?branch⟩⟩
  case idle =>
    obtain ⟨hc, hn, -, hafter, hst⟩ := id hq
    have A := lexit_arrives hc
    obtain ⟨-, hlatch, -⟩ := A.settled hc lexitOp
    have hbody : bodyCtx s = s.me.begin.tickFmt := congrArg Context.tickFmt (fill_off (c := s.me.begin) hn s.latch.words)
    have hadv := advance_onward (settled_last A hc lexitOp rfl rfl hrep rfl) (by rw [hlatch]; rfl)
      (by rw [settled_bodyCtx A hc rfl rfl, hbody]; exact hn)
    obtain ⟨hel, hme⟩ := finish_noted A hc rfl ⟨rfl, rfl, step_off hq, rfl, rfl⟩ hadv (fun _ => ⟨rfl, rfl⟩) hafter hst
    refine ⟨_, exec_lexit_commit s, hel, hme.trans ?_⟩
    rw [hbody, hlatch]
    simp only [closing, if_neg (Nat.not_lt.mpr hrep)]
    rfl
  all_goals
    have hstep' : (latchBegin s.latch s.me).step = false := by
      simp only [latchBegin, Bool.and_eq_false_imp, beq_iff_eq]; exact hstep
    have hnest : (bodyCtx s).nest.active = true := by rw [bodyCtx_nest]; exact hact
  case exit =>
    have A := lexit_arrives hc
    obtain ⟨-, hlatch, -⟩ := A.settled hc lexitOp
    have hset := settled_bodyCtx A hc (o := lexitOp) rfl rfl
    have hadv := advance_leaves (settled_last A hc lexitOp rfl rfl hrep rfl) (by rw [hlatch]; rfl) (by rw [hlatch])
      (by rw [hset]; exact hnest) (by rw [settled_exitPoint A hc rfl, hset]; exact hexit)
    obtain ⟨hel, hme⟩ := finish_noted A hc rfl ⟨rfl, rfl, hstep', rfl, rfl⟩ hadv (fun _ => ⟨rfl, rfl⟩) hafter hst
    exact ⟨_, exec_lexit_commit s, hel, hme⟩
  case branch =>
    have A := br_arrives hc x
    obtain ⟨-, hlatch, -⟩ := A.settled hc (brOp x)
    have hset := settled_bodyCtx A hc (o := brOp x) rfl rfl
    have hadv := advance_branches (by rw [hlatch]; rfl) (by rw [hlatch]) (by rw [hset]; exact hnest)
    rw [settled_branchNest A hc rfl, hset] at hadv
    obtain ⟨hel, hme⟩ := finish_noted A hc rfl ⟨rfl, rfl, hstep', rfl, rfl⟩ hadv (fun _ => ⟨rfl, rfl⟩) hafter hst
    exact ⟨_, exec_br_commit x s, hel, hme.trans (by rw [pc_bodyCtx]; rfl)⟩

end Sys2Proof.Machine

/-! The events of a waiting or running context (R248 to R251, R257, R265, R268, R275, R293, R328). -/

namespace Sys2Proof.Machine

open Sys2Proof

theorem happens_of {s t u : State} {i : Instr} {P : State → Prop} (hi : exec i s = .next u) (hu : u = t) (hP : P t) :
    Happens s i P := ⟨t, hi.trans (congrArg _ hu), hP⟩

/-! ### A context goes on (R248, R249, R275, R293) -/

theorem reasonCleared_wakes {s : State} {n : Nat} (hn : n < residents) (hst : (s.ctx n).st = .blocked) (ha : (s.ctx n).after = .none)
    (hr : relocking s (coreOf n) = false) (hg : reasonGone s n = true) : reasonCleared n s = wake s n := by
  have hgo : ¬((s.ctx n).st ≠ .blocked ∨ residents ≤ n ∨ relocking s (coreOf n) = true) := by
    rw [hst, hr]; simp [hn]
  simp only [reasonCleared, if_neg hgo, ha, if_pos hg]

theorem settleStep_none {s : State} {n : Nat} (h : (s.ctx n).owed = none) : settleStep s n = s := by rw [settleStep, h]

theorem sleepWake_wakes {s : State} {n : Nat} (hn : n < residents) (hst : (s.ctx n).st = .sleeping)
    (hto : (s.ctx n).sleepTo ≤ s.cyc.toNat) (hr : relocking s (coreOf n) = false) (ho : (s.ctx n).owed = none) :
    sleepWake n s = wake s n := by
  have howed : ((wake s n).ctx n).owed = none := by rw [wake, ctx_updCtx_self s hn]; exact ho
  rw [sleepWake, if_pos ⟨hst, hto, hn, hr⟩, settleStep_none howed]

/-! ### Step stops and pending traps (R257, R265, R268) -/

/-- The context as it leaves a wait in which the watchdog did not count: `past` says that the limit has passed. -/
def unwatched (past : Bool) (c : Context) : Context :=
  { c with after := .none, spared := c.spared || (decide (c.blockedAt ≠ 0) && past) }

/-- The state in which a context leaves reason 11 or 14. -/
theorem spare_frees {s : State} {n : Nat} (hn : n < residents) :
    let t := (spare s n).updCtx n (fun c => { c with after := .none })
    Beside n s t ∧ relocking t (coreOf n) = relocking s (coreOf n)
    ∧ t.ctx n = unwatched (pastLimit (s.watchLimit n) (s.cyc.toNat + 1 - (s.ctx n).blockedAt)) (s.ctx n) := by
  refine ⟨(beside_updCtx s hn _).trans (beside_updCtx _ hn _), ?_, ?_⟩
  · simp only [relocking, spare, updCtx_sorric]
  · rw [ctx_updCtx_self _ hn, spare, ctx_updCtx_self s hn]
    rfl

theorem steprel_wakes {s : State} {n : Nat} (hn : n < residents) (hst : (s.ctx n).st = .blocked) (hr : (s.ctx n).reason = 14)
    (ha : (s.ctx n).after = .step) (hrel : relocking s (coreOf n) = false) :
    steprel n s = wake ((spare s n).updCtx n (fun c => { c with after := .none })) n := by
  obtain ⟨-, hkeep, -⟩ := spare_frees (s := s) hn
  have hmod : n % 4096 = n := Nat.mod_eq_of_lt (by unfold residents at hn; omega)
  simp only [steprel, hmod, if_pos (⟨hst, hr, ha⟩ : (s.ctx n).st = .blocked ∧ (s.ctx n).reason = 14 ∧ (s.ctx n).after = .step)]
  rw [hkeep, hrel]
  rfl

theorem trapEntry_enters {s : State} {n : Nat} {i : TrapInfo} (hn : n < residents) (ha : (s.ctx n).after = .trapEntry i)
    (hst : (s.ctx n).st = .blocked) (hp : (s.ctx n).pend = []) (hrel : relocking s (coreOf n) = false) :
    trapEntry n s = enterTrap ((spare s n).updCtx n (fun c => { c with after := .none })) n i := by
  rw [trapEntry, ha]
  exact if_pos ⟨hst, hp, hn, hrel⟩

/-- A trap at level 0 is taken at level 1. -/
theorem enterTrap_first {t : State} {n : Nat} (i : TrapInfo) (hl : (t.ctx n).tlevel = 0) :
    enterTrap t n i = t.updCtx n (fun c => entered c (t.ctxid n) i) := by
  have h2 : ¬(t.ctx n).tlevel = 2 := by rw [hl]; decide
  have h1 : ¬((t.ctx n).tlevel = 1 ∧ (t.ctx n).mask = true) := fun h => absurd (hl.symm.trans h.1) (by decide)
  simp only [enterTrap, if_neg h2, if_neg h1]
  rfl

/-- What a trap at level 1 says of the context that took it does not depend on the watchdog's measure. -/
theorem trapped_unwatched {c d : Context} {past : Bool} {code : Nat} {ret eva einfo : Word64}
    (h : Trapped (unwatched past c) d code ret eva einfo) : Trapped c d code ret eva einfo := h

/-! ### The watchdog (R265) -/

theorem pastLimit_of {s : State} {n : Nat} {p : Partition} (hp : s.part (s.partOf n) = some p) (hw : p.watchdog ≠ 0)
    (hlim : (s.ctx n).blockedAt + p.watchdog.toNat * 1024 ≤ s.cyc.toNat) :
    pastLimit (s.watchLimit n) (s.cyc.toNat + 1 - (s.ctx n).blockedAt) = true := by
  have hlimit : s.watchLimit n = p.watchdog.toNat * 1024 := by rw [State.watchLimit, hp]; rfl
  have hpos : p.watchdog.toNat ≠ 0 := fun h => hw (BitVec.eq_of_toNat_eq h)
  rw [pastLimit, hlimit, Bool.and_eq_true, decide_eq_true_eq, decide_eq_true_eq]
  omega

/-! ### Retirement (R328) -/

/-- A context that holds no lock and waits for none. -/
def lockless (c : Context) : Context := { c with locks := [], lockWait := none }

/-- A context without a lock or a grant releases nothing. -/
theorem releaseLocks_none {s : State} {n : Nat} (hl : (s.ctx n).locks = []) (hg : grantsOf s n = []) :
    releaseLocks s n = s.updCtx n lockless := by
  simp only [releaseLocks, hl, hg]
  rfl

/-- Renaming a context in the engines leaves every context and every byte as it was. -/
theorem ctx_renameCtx {s : State} (hw : Sparse.wf Core.cold s.cores = true) {n : Nat} (hn : n < residents) (old new : Nat) :
    (renameCtx old new s).ctx n = s.ctx n := by
  simp only [State.ctx, if_pos hn, State.core, renameCtx]
  rw [get_mapV Core.cold _ (fun _ => rfl) s.cores (coreOf n) 0 hw]

/-- A resident context ends with the context that the cores hold, whatever else of the package has changed. -/
theorem ctx_setGone {s t : State} (hc : t.cores = s.cores) (hw : Sparse.wf Core.cold s.cores = true) {n : Nat} (hn : n < residents) :
    (setGone t n).ctx n = s.ctx n := by
  have h := ctx_renameCtx (s := { t with num := t.num + 1 }) (by rw [← hc] at hw; exact hw) hn n (gone + t.num * 4096 + t.ctxid n)
  refine h.trans ?_
  simp only [State.ctx, if_pos hn, State.core, hc]

theorem wf_updCtx {s : State} (hw : Sparse.wf Core.cold s.cores = true) (n : Nat) (f : Context → Context) :
    Sparse.wf Core.cold (s.updCtx n f).cores = true := by
  unfold State.updCtx State.setCtx
  split
  · exact Sparse.wf_set Core.cold s.cores _ _ hw
  · exact hw

/-- The retirement of a context that records no trace and holds no lock. -/
theorem retireCtx_facts {s : State} {n : Nat} (l : Launch) (hn : n < residents) (ht : (s.ctx n).trec = none)
    (hl : (s.ctx n).locks = []) (hg : grantsOf s n = []) (hw : Sparse.wf Core.cold s.cores = true) :
    (retireCtx s n l).ctx n = (lockless (s.ctx n)).retire ∧ (retireCtx s n l).mem = s.mem := by
  have hfree := ctx_updCtx_self s hn lockless
  have hwf := wf_updCtx hw n lockless
  have hmem : (s.updCtx n lockless).mem = s.mem := updCtx_mem s n _
  simp only [retireCtx, ht, releaseLocks_none hl hg]
  generalize s.updCtx n lockless = u at hfree hwf hmem
  refine ⟨?_, (updCtx_mem _ n _).trans hmem⟩
  exact (ctx_updCtx_self _ hn _).trans (congrArg Context.retire ((ctx_setGone rfl hwf hn).trans hfree))

/-- A context that has issued `HALTB` and has nothing outstanding retires. -/
theorem retirement_retires {s : State} {n : Nat} {l : Launch} (hn : n < residents) (hl : s.ctxLaunch n = some l)
    (hh : l.halt = none) (hst : (s.ctx n).st = .blocked) (ha : (s.ctx n).after = .haltb) (ho : (s.ctx n).out = 0)
    (hp : (s.ctx n).pend = []) (ht : (s.ctx n).trec = none) (hr : relocking s (coreOf n) = false) :
    retirement n s = retireCtx s n l := by
  have hgo : ¬(residents ≤ n ∨ (s.ctx n).st ≠ .blocked ∨ (s.ctx n).after ≠ .haltb ∨ (s.ctx n).out ≠ 0 ∨ (s.ctx n).pend ≠ []
      ∨ l.halt.isSome = true ∨ relocking s (coreOf n) = true) := by
    simp [hn, hst, ha, ho, hp, hh, hr]
  simp only [retirement, hl, if_neg hgo, ht]
  rfl

/-! ### The quantum (R251) -/

theorem holder_of {s : State} {g k : Nat} (h : holderOf s g = some k) : (s.core g).holder = some k := by
  unfold holderOf at h
  split at h
  · next j hj =>
    split at h
    · rw [hj]; exact h
    · cases h
  · cases h

theorem slot_lt {g k : Nat} (hg : g < Config.nCores) (hk : k < 4) : g * 4 + k < residents := by
  have hcores : Config.nCores = 768 := rfl
  unfold residents
  omega

theorem coreOf_slot {g k : Nat} (hk : k < 4) : coreOf (g * 4 + k) = g := by unfold coreOf; omega

theorem slotOf_slot {g k : Nat} (hk : k < 4) : slotOf (g * 4 + k) = k := by unfold slotOf; omega

/-- The holder of a core's width goes to the back of the rotation. -/
theorem passWidth_facts {s : State} {g k : Nat} (hg : g < Config.nCores) (hk : k < 4) (hh : (s.core g).holder = some k) :
    let t := passWidth s (g * 4 + k)
    Beside (g * 4 + k) s t ∧ (t.core g).holder = none ∧ (t.core g).lastHolder = k
    ∧ t.ctx (g * 4 + k) = { s.ctx (g * 4 + k) with
        st := if (s.ctx (g * 4 + k)).st = .running then .ready else (s.ctx (g * 4 + k)).st } := by
  have hn := slot_lt hg hk
  obtain ⟨u, hu⟩ : ∃ u, u = s.updCtx (g * 4 + k) (fun c => { c with st := if c.st = .running then .ready else c.st }) := ⟨_, rfl⟩
  have hbeside : Beside (g * 4 + k) s u := hu ▸ beside_updCtx s hn _
  have hctx : u.ctx (g * 4 + k) = _ := hu ▸ ctx_updCtx_self s hn _
  have hholder : (u.core g).holder = some k := by
    rw [hu, State.updCtx, core_setCtx]; exact hh
  have hrelease : releaseWidth u (g * 4 + k) = u.updCore g (fun c => { c with holder := none, lastHolder := k }) := by
    rw [releaseWidth, coreOf_slot hk, slotOf_slot hk, if_pos ⟨hn, hholder⟩]
  have hcore : (releaseWidth u (g * 4 + k)).core g = { u.core g with holder := none, lastHolder := k } := by
    rw [hrelease, core_updCore, if_pos rfl]
  show Beside _ s (releaseWidth _ _) ∧ _
  rw [passWidth, ← hu, hcore, ctx_releaseWidth, hctx]
  exact ⟨hbeside.trans (beside_releaseWidth _ _ u), rfl, rfl, rfl⟩

/-- A quantum that is used up expires outside a relock pause. -/
theorem quantum_expires {s : State} {g k : Nat} (hh : holderOf s g = some k) (ho : quantumOver s g = true)
    (hr : relocking s g = false) :
    quantum g s = if otherReady s (g * 4 + k) then passWidth s (g * 4 + k) else freshQuantum s g := by
  simp only [quantum, hr, expireQuantum, hh, ho, Bool.not_true, Bool.false_eq_true, if_false]

/-- Settles O38: it holds. Each event is one update of its context, or the fault, the retirement or the pass of the width that its
conditions lead to. -/
theorem contextEvents : Obligations.ContextEvents := by
  refine ⟨fun s n hn => ⟨fun hst ha hr hg => ?cleared, fun hst hto hr ho => ?sleep, fun hst hre hr hp => ?promise,
    fun hst hre ha hr => ?step, fun i ha hst hp hl hr => ?trap, fun p k l hp hk hl hh hst h11 h14 hsp hw hb hr hlim => ?watch,
    fun l hl hh hst ha ho hp ht hlk hg hr hwf => ?retire⟩,
    fun s g k hg hk hh hover hr => ⟨fun hother => ?passes, fun hother => ?keeps⟩⟩
  case cleared => exact becomes_wake hn (congrArg _ (reasonCleared_wakes hn hst ha hr hg))
  case sleep => exact becomes_wake hn (congrArg _ (sleepWake_wakes hn hst hto hr ho))
  case promise => exact becomes_wake hn (congrArg _ (if_pos ⟨hst, hre, hn, hp, hr⟩))
  case step =>
    obtain ⟨hel, -, hctx⟩ := spare_frees (s := s) hn
    refine happens_of rfl (steprel_wakes hn hst hre ha hr) ⟨hel.trans (beside_updCtx _ hn _), ?_⟩
    rw [wake, ctx_updCtx_self _ hn, hctx]
    rfl
  case trap =>
    obtain ⟨hel, -, hctx⟩ := spare_frees (s := s) hn
    have hl' : (((spare s n).updCtx n (fun c => { c with after := .none })).ctx n).tlevel = 0 := by rw [hctx]; exact hl
    refine happens_of rfl ((trapEntry_enters hn ha hst hp hr).trans (enterTrap_first i hl')) ⟨hel.trans (beside_updCtx _ hn _), ?_⟩
    rw [ctx_updCtx_self _ hn]
    have h := trapped_entered i (((spare s n).updCtx n (fun c => { c with after := .none })).ctxid n) hl'
    rw [hctx] at h ⊢
    exact trapped_unwatched h
  case watch =>
    obtain ⟨hctx, hmem, -, hraise⟩ := faultCtx_facts s hn 0x86 0 0 0 (s.ctx n).point
    obtain ⟨z, hz, hu, hc, -⟩ := hraise k l hk hl hh
    exact happens_of rfl (if_pos ⟨hst, hn, h11, h14, hsp, hb, hr, pastLimit_of hp hw hlim⟩) ⟨hctx, hmem, z, hz, hu, hc⟩
  case retire =>
    obtain ⟨hctx, hmem⟩ := retireCtx_facts l hn ht hlk hg hwf
    refine happens_of rfl (retirement_retires hn hl hh hst ha ho hp ht hr) ⟨?_, ?_, ?_, hmem⟩
    all_goals rw [hctx]
    · rfl
    · exact ⟨rfl, rfl, rfl, rfl, rfl, rfl, rfl, rfl, rfl, rfl⟩
    · rfl
  case passes =>
    have hq := (quantum_expires hh hover hr).trans (if_pos hother)
    exact happens_of (if_pos hg) hq (passWidth_facts hg hk (holder_of hh))
  case keeps =>
    have hq := (quantum_expires hh hover hr).trans (if_neg (by rw [hother]; exact Bool.false_ne_true))
    refine happens_of (if_pos hg) hq ⟨?_, fun h hne => ?_, rfl⟩
    · rw [freshQuantum, core_updCore, if_pos rfl]
    · rw [freshQuantum, core_updCore, if_neg hne]

end Sys2Proof.Machine

/-! Lanes, fields and mask bits as numbers (R140, R151, R167), and what the lanes of an element-wise op draw (R87, R142). -/

namespace Sys2Proof.Machine

open Sys2Proof

/-! ### The lanes of a type (R140) -/

theorem laneBits_cases (tyc : Nat) : laneBits tyc = 8 ∨ laneBits tyc = 16 ∨ laneBits tyc = 32 ∨ laneBits tyc = 64 := by
  unfold laneBits tyOf
  split <;> decide

/-- The lanes of an op fill a register. -/
theorem lanes_fill (x : ArgV) : vW x * vN x = 2048 ∧ 0 < vN x := by
  unfold vN
  rcases laneBits_cases (vTyc x) with h | h | h | h <;> rw [vW, h] <;> decide

theorem lane_lt (w k : Nat) (v : VReg) : lane w k v < 2 ^ w := Nat.mod_lt _ (Nat.two_pow_pos w)

/-! ### Packed lanes (R151) -/

theorem packLanes_lt (w : Nat) (l : List Nat) : packLanes w l < 2 ^ (w * l.length) := by
  induction l with
  | nil => simp [packLanes]
  | cons x t ih =>
    have hx := Nat.mod_lt x (Nat.two_pow_pos w)
    calc x % 2 ^ w + 2 ^ w * packLanes w t < 2 ^ w * (packLanes w t + 1) := by rw [Nat.mul_add]; omega
      _ ≤ 2 ^ w * 2 ^ (w * t.length) := Nat.mul_le_mul_left _ ih
      _ = 2 ^ (w * (t.length + 1)) := by rw [← Nat.pow_add, Nat.mul_add, Nat.mul_one, Nat.add_comm]

/-- Field `k` of a packed list is its element `k`, and zero beyond its end. -/
theorem packLanes_field (w : Nat) (l : List Nat) (k : Nat) : packLanes w l / 2 ^ (w * k) % 2 ^ w = l.getD k 0 % 2 ^ w := by
  induction l generalizing k with
  | nil => simp [packLanes]
  | cons x t ih =>
    cases k with
    | zero => simp [packLanes]
    | succ k =>
      have hx := Nat.mod_lt x (Nat.two_pow_pos w)
      rw [packLanes, Nat.mul_add, Nat.mul_one, Nat.add_comm (w * k), Nat.pow_add, ← Nat.div_div_eq_div_mul,
        Nat.add_mul_div_left _ _ (Nat.two_pow_pos w), Nat.div_eq_of_lt hx, Nat.zero_add, ih, List.getD_cons_succ]

/-- Lane `k` of a register of packed lanes. -/
theorem lane_packLanes {w : Nat} {l : List Nat} (h : w * l.length ≤ 2048) (k : Nat) :
    lane w k (BitVec.ofNat 2048 (packLanes w l)) = l.getD k 0 % 2 ^ w := by
  have hl := (packLanes_lt w l).trans_le (Nat.pow_le_pow_right Nat.two_pos h)
  rw [lane, BitVec.toNat_ofNat, Nat.mod_eq_of_lt hl, packLanes_field]

/-- Bit `k` of a mask of packed bits. -/
theorem getLsbD_packLanes (l : List Nat) {k : Nat} (hk : k < 256) :
    (BitVec.ofNat 256 (packLanes 1 l)).getLsbD k = decide (l.getD k 0 % 2 = 1) := by
  have h := packLanes_field 1 l k
  rw [Nat.one_mul, Nat.pow_one] at h
  rw [BitVec.getLsbD_ofNat, decide_eq_true hk, Bool.true_and, Nat.testBit_eq_decide_div_mod_eq, h]

/-- The element `k` of a list made over a range. -/
theorem getD_map_range (f : Nat → Nat) {n k : Nat} (hk : k < n) : ((List.range n).map f).getD k 0 = f k := by
  simp [List.getD_eq_getElem?_getD, hk]

/-- Lane `k` of the lanes of an op, packed. -/
theorem lane_packed (x : ArgV) (f : Nat → Nat) {k : Nat} (hk : k < vN x) :
    lane (vW x) k (BitVec.ofNat 2048 (packLanes (vW x) ((List.range (vN x)).map f))) = f k % 2 ^ vW x := by
  rw [lane_packLanes (by simp [(lanes_fill x).1]), getD_map_range f hk]

/-- Lane `k` of masked lanes, packed: selected ones are cut to their width, others are zero with Z and kept without. -/
theorem lane_masked (x : ArgV) (c : Context) (on : Nat → Bool) (v : Nat → Nat) {k : Nat} (hk : k < vN x) :
    lane (vW x) k (BitVec.ofNat 2048 (packLanes (vW x) ((List.range (vN x)).map (fun k =>
      if on k then v k else if vZ x then 0 else vD x c k))))
      = if on k then v k % 2 ^ vW x else if vZ x then 0 else vD x c k := by
  rw [lane_packed x _ hk]
  split
  · rfl
  · split
    · exact Nat.zero_mod _
    · exact Nat.mod_eq_of_lt (lane_lt ..)

/-! ### One field written (R154, R167) -/

/-- The bits of a number with one field of it written. -/
theorem testBit_putFields (w n v old j : Nat) : (putFields w n [v] old).testBit j =
    if w * n ≤ j ∧ j < w * n + w then v.testBit (j - w * n) else old.testBit j := by
  have hlow := Nat.mod_lt old (Nat.two_pow_pos (w * n))
  have hmid := Nat.mod_lt v (Nat.two_pow_pos w)
  have hshape : putFields w n [v] old
      = 2 ^ (w * n) * (2 ^ w * (old / 2 ^ (w * n + w)) + v % 2 ^ w) + old % 2 ^ (w * n) := by
    simp only [putFields, packLanes, List.length_singleton, Nat.mul_add, Nat.mul_one, Nat.pow_add, Nat.mul_zero, Nat.add_zero,
      Nat.mul_assoc]
    omega
  rw [hshape, Nat.testBit_two_pow_mul_add _ hlow, Nat.testBit_two_pow_mul_add _ hmid, Nat.testBit_mod_two_pow,
    Nat.testBit_mod_two_pow, Nat.testBit_div_two_pow]
  by_cases h1 : j < w * n
  · simp [h1, show ¬ w * n ≤ j by omega]
  by_cases h2 : j < w * n + w
  · simp [h1, h2, show j - w * n < w by omega, show w * n ≤ j by omega]
  · simp [h1, h2, show ¬ j - w * n < w by omega, show j - w * n - w + (w * n + w) = j by omega]

/-- Bit `j` of lane `k`. -/
theorem testBit_lane (w k j : Nat) (v : VReg) : (lane w k v).testBit j = (decide (j < w) && v.getLsbD (w * k + j)) := by
  rw [lane, Nat.testBit_mod_two_pow, Nat.testBit_div_two_pow, BitVec.getLsbD, Nat.add_comm j]

/-- Lane `k` of a register with its lane `n` written. -/
theorem lane_putFields {w n k : Nat} (v : Nat) (r : VReg) (hk : w * k + w ≤ 2048) :
    lane w k (BitVec.ofNat 2048 (putFields w n [v] r.toNat)) = if k = n then v % 2 ^ w else lane w k r := by
  refine Nat.eq_of_testBit_eq fun j => ?_
  rw [testBit_lane, BitVec.getLsbD_ofNat, testBit_putFields]
  by_cases hj : j < w
  · rcases Nat.lt_trichotomy k n with h | rfl | h
    · have hle : w * k + w ≤ w * n := Nat.mul_le_mul_left w h
      rw [if_neg (by omega), if_neg (by omega), testBit_lane]
      simp [hj, show w * k + j < 2048 by omega, BitVec.getLsbD]
    · rw [if_pos (by omega), if_pos rfl, Nat.testBit_mod_two_pow]
      simp [hj, show w * k + j < 2048 by omega]
    · have hle : w * n + w ≤ w * k := Nat.mul_le_mul_left w h
      rw [if_neg (by omega), if_neg (by omega), testBit_lane]
      simp [hj, show w * k + j < 2048 by omega, BitVec.getLsbD]
  · have hout : (if k = n then v % 2 ^ w else lane w k r).testBit j = false := by
      split <;> simp [hj, testBit_lane, Nat.testBit_mod_two_pow]
    simp [hj, hout]

/-- Bits `lo` to `hi - 1` of a mask are ones, the others zeros. -/
theorem testBit_maskRange (lo hi k : Nat) : (maskRange lo hi).testBit k = (decide (lo ≤ k) && decide (k < hi)) := by
  unfold maskRange
  split
  · next h =>
    have hshape : 2 ^ hi - 2 ^ lo = 2 ^ lo * (2 ^ (hi - lo) - 1) := by
      rw [Nat.mul_sub, ← Nat.pow_add, Nat.add_sub_cancel' h.le, Nat.mul_one]
    rw [hshape, Nat.testBit_two_pow_mul, Nat.testBit_two_pow_sub_one]
    by_cases hk : lo ≤ k
    · simp only [hk, decide_true, Bool.true_and, decide_eq_decide]; omega
    · simp [hk]
  · rw [Nat.zero_testBit]; symm; simp only [Bool.and_eq_false_iff, decide_eq_false_iff_not]; omega

/-! ### Values that fit their lane (R152) -/

theorem popcount_le (n x : Nat) : popcount n x ≤ n := by
  induction n generalizing x with
  | zero => exact Nat.le_refl 0
  | succ n ih => rw [popcount]; have := ih (x / 2); omega

theorem clz_le (w x : Nat) : clz w x ≤ w := by unfold clz; split <;> omega

/-! ### What the lanes of an op draw (R87, R142) -/

/-- `SEED` after the selected lanes among the first `n`: one step for each when the op draws under SR. -/
def seedOver (on : Nat → Bool) (draws : Bool) (rnd : Nat) (seed : BitVec 16) (n : Nat) : BitVec 16 :=
  Nat.repeat lfsr (if draws && rnd == 4 then ((List.range n).filter on).length else 0) seed

/-- The flags that the selected lanes among the first `n` gather on top of `fl`, each from its own draw. -/
def flagsOver (on : Nat → Bool) (g : Nat → Nat → Nat × FlagSet) (draw : Nat → Nat) (fl : FlagSet) (n : Nat) : FlagSet :=
  ((List.range n).filter on).foldl (fun f k => f ||| (g k (draw k)).2) fl

theorem filter_range_succ (on : Nat → Bool) (n : Nat) :
    (List.range (n + 1)).filter on = (List.range n).filter on ++ if on n then [n] else [] := by
  rw [List.range_succ, List.filter_append]
  by_cases h : on n <;> simp [h]

/-- A selected lane steps `SEED` when the op draws under SR. -/
theorem seedOver_on {on : Nat → Bool} {n : Nat} (h : on n = true) (draws : Bool) (rnd : Nat) (seed : BitVec 16) :
    seedOver on draws rnd seed (n + 1)
      = if draws && rnd == 4 then lfsr (seedOver on draws rnd seed n) else seedOver on draws rnd seed n := by
  unfold seedOver
  rw [filter_range_succ, if_pos h, List.length_append, List.length_singleton]
  split <;> rfl

/-- Another lane leaves it. -/
theorem seedOver_off {on : Nat → Bool} {n : Nat} (h : on n = false) (draws : Bool) (rnd : Nat) (seed : BitVec 16) :
    seedOver on draws rnd seed (n + 1) = seedOver on draws rnd seed n := by
  unfold seedOver
  rw [filter_range_succ, h, if_neg Bool.false_ne_true, List.append_nil]

theorem flagsOver_on {on : Nat → Bool} {n : Nat} (h : on n = true) (g : Nat → Nat → Nat × FlagSet) (draw : Nat → Nat)
    (fl : FlagSet) : flagsOver on g draw fl (n + 1) = flagsOver on g draw fl n ||| (g n (draw n)).2 := by
  rw [flagsOver, filter_range_succ, if_pos h, List.foldl_append]; rfl

theorem flagsOver_off {on : Nat → Bool} {n : Nat} (h : on n = false) (g : Nat → Nat → Nat × FlagSet) (draw : Nat → Nat)
    (fl : FlagSet) : flagsOver on g draw fl (n + 1) = flagsOver on g draw fl n := by
  rw [flagsOver, filter_range_succ, h, if_neg Bool.false_ne_true, List.append_nil, flagsOver]

/-- The draw of lane `k`: the low bits of `SEED` after the selected lanes up to it. -/
def drawOver (on : Nat → Bool) (draws : Bool) (rnd : Nat) (seed : BitVec 16) (k : Nat) : Nat :=
  (seedOver on draws rnd seed (k + 1)).toNat

/-- Flags gathered on top of others are those gathered from none, beside the others. -/
theorem flagsOver_eq_or (on : Nat → Bool) (g : Nat → Nat → Nat × FlagSet) (draw : Nat → Nat) (fl : FlagSet) (n : Nat) :
    flagsOver on g draw fl n = fl ||| flagsOver on g draw 0 n := by
  induction n with
  | zero => simp [flagsOver]
  | succ n ih =>
    cases h : on n with
    | true => rw [flagsOver_on h, flagsOver_on h, ih, BitVec.or_assoc]
    | false => rw [flagsOver_off h, flagsOver_off h, ih]

/-- Lanes without flags gather none. -/
theorem flagsOver_none (on : Nat → Bool) (f : Nat → Nat) (draw : Nat → Nat) (fl : FlagSet) (n : Nat) :
    flagsOver on (fun k _ => (f k, 0)) draw fl n = fl := by
  induction n with
  | zero => rfl
  | succ n ih =>
    cases h : on n with
    | true => rw [flagsOver_on h, ih]; exact BitVec.or_zero
    | false => rw [flagsOver_off h, ih]

theorem Draw.map_append (f : Nat → Draw → Nat × Draw) (l m : List Nat) (a : Draw) :
    Draw.map f (l ++ m) a = ((Draw.map f l a).1 ++ (Draw.map f m (Draw.map f l a).2).1, (Draw.map f m (Draw.map f l a).2).2) := by
  induction l generalizing a with
  | nil => rfl
  | cons i t ih => rw [List.cons_append, Draw.map, ih, Draw.map, List.cons_append]

/-- An element that the mask `on` selects is its function of its draw, another is zero with Z and `old` without. -/
def maskedVal (x : ArgV) (on : Nat → Bool) (old : Nat → Nat) (g : Nat → Nat → Nat × FlagSet) (draw : Nat → Nat) (k : Nat) : Nat :=
  if on k then (g k (draw k)).1 else if vZ x then 0 else old k

/-- Masked elements rounded in increasing order: the elements, the flags gathered and the `SEED` left. -/
theorem map_masked_run (x : ArgV) (on : Nat → Bool) (old : Nat → Nat) (draws : Bool) (rnd : Nat) (g : Nat → Nat → Nat × FlagSet)
    (a : Draw) (n : Nat) :
    Draw.map (fun k => masked x (on k) (old k) (fun a => a.run draws rnd (g k))) (List.range n) a
      = ((List.range n).map (maskedVal x on old g (drawOver on draws rnd a.seed)),
         { fl := flagsOver on g (drawOver on draws rnd a.seed) a.fl n, seed := seedOver on draws rnd a.seed n }) := by
  induction n with
  | zero => simp [Draw.map, flagsOver, seedOver, Nat.repeat]
  | succ n ih =>
    rw [List.range_succ, Draw.map_append, ih, List.map_append]
    cases h : on n with
    | true => simp [Draw.map, masked, maskedVal, Draw.run, h, flagsOver_on h, seedOver_on h, drawOver]
    | false => simp [Draw.map, masked, maskedVal, h, flagsOver_off h, seedOver_off h]

/-- The lanes of an element-wise op, its flags and its draws. -/
theorem vEach_run (x : ArgV) (c : Context) (a : Draw) (draws : Bool) (rnd : Nat) (g : Nat → Nat → Nat × FlagSet) :
    let on := fun k => (vMask x c).getLsbD k
    vEach x (fun _ i a => a.run draws rnd (g i)) c a
      = (packLanes (vW x) ((List.range (vN x)).map (maskedVal x on (vD x c) g (drawOver on draws rnd a.seed))),
         { fl := flagsOver on g (drawOver on draws rnd a.seed) a.fl (vN x), seed := seedOver on draws rnd a.seed (vN x) }) := by
  intro on
  rw [vEach, map_masked_run x on (vD x c)]

/-- A lane function without flags or draws, as a rounding that draws nothing. -/
theorem still_eq_run (f : Context → Nat → Nat) (c : Context) :
    still f c = fun i a => a.run false 0 (fun _ => (f c i, 0)) := by
  funext i a
  simp [still, Draw.run]

/-- The lanes of an element-wise op without flags or draws. -/
theorem vEach_still (x : ArgV) (f : Context → Nat → Nat) (c : Context) (a : Draw) :
    vEach x (still f) c a = (packLanes (vW x) ((List.range (vN x)).map (fun k =>
      if (vMask x c).getLsbD k then f c k else if vZ x then 0 else vD x c k)), a) := by
  have h := vEach_run x c a false 0 (fun k _ => (f c k, 0))
  dsimp only at h
  rw [flagsOver_none] at h
  rw [vEach, still_eq_run f c]
  exact h

end Sys2Proof.Machine

/-! The element-wise ops of the V slot (R142, R144, R151, R152, R154, R155, R165). An op under the mask gives a register of lanes:
one lemma says so for the ops that round or raise flags, and one for those that do neither. -/

namespace Sys2Proof.Machine

open Sys2Proof

/-! ### Sources (R147) -/

theorem v1_append_vs2 (x : ArgV) : v1 x ++ vs2 x = twoSrcs x := by
  unfold v1 vs2 twoSrcs s2 v2
  split <;> rfl

/-! ### Operands as the issue begins -/

@[simp] theorem begin_vMask (x : ArgV) (c : Context) : vMask x c.begin = vMask x c := rfl

@[simp] theorem begin_vD (x : ArgV) (c : Context) : vD x c.begin = vD x c := rfl

/-- A register result leaves `FLAGS` and `SEED`. -/
theorem drawn_post (c : Context) (f : RegFile) (r : Nat) (v : VReg) : (c.post f r v).drawn c.draw = c.post f r v := by
  unfold Context.post
  split <;> rfl

theorem drawn_wV (c : Context) (r : Nat) (v : VReg) : (c.wV r v).drawn c.draw = c.wV r v := drawn_post ..

theorem drawn_wVM (c : Context) (r : Nat) (v : VMask) : (c.wVM r v).drawn c.draw = c.wVM r v := drawn_post ..

theorem drawn_wS (c : Context) (r : Nat) (v : Word64) : (c.wS r v).drawn c.draw = c.wS r v := drawn_post ..

/-! ### The shapes -/

/-- An element-wise op with its sources full. -/
theorem opEach_result {s : State} {i : Instr} {x : ArgV} {srcs : List Src} {old : Bool} {f : Context → Nat → Draw → Nat × Draw}
    (hi : exec i s = issueOne (opEach x i srcs old f) s) (hq : Quiet s) (hr : Ready s (laneSrcs x srcs old)) :
    VectorResult s i x (vEach x f) := opVV_result hi hq hr

/-- The same of an op with two operands. -/
theorem opEach_result_two {s : State} {i : Instr} {x : ArgV} {old : Bool} {f : Context → Nat → Draw → Nat × Draw}
    (hi : exec i s = issueOne (opEach x i (v1 x ++ vs2 x) old f) s) (hq : Quiet s)
    (hr : Ready s (laneSrcs x (twoSrcs x) old)) : VectorResult s i x (vEach x f) :=
  opEach_result hi hq (v1_append_vs2 x ▸ hr)

/-- An op whose vector result neither draws nor raises flags writes it, and nothing else. -/
theorem opVV_writes {s : State} {i : Instr} {x : ArgV} {srcs : List Src} {f : Context → Draw → Nat × Draw} {v : Nat}
    (hi : exec i s = issueOne (opVV x i srcs f) s) (hq : Quiet s) (hr : Ready s srcs) (hf : ∀ a, f s.me.begin a = (v, a)) :
    Writes s i (heldV s x.hold i) (fun c => c.wV x.dst (BitVec.ofNat 2048 v)) := by
  have h := opVV_result hi hq hr
  simp only [VectorResult, hf, drawn_wV] at h
  exact h

/-- An element-wise op without flags or draws, its values `g` those of its lanes' width. -/
theorem opEach_lanes {s : State} {i : Instr} {x : ArgV} {srcs : List Src} {f : Context → Nat → Nat} {g : Nat → Nat}
    (hi : exec i s = issueOne (opEach x i srcs false (still f)) s) (hq : Quiet s) (hr : Ready s (laneSrcs x srcs false))
    (hf : f s.me.begin = g) (hg : ∀ k, g k < 2 ^ vW x) : LaneResult s i x g := by
  refine ⟨_, opVV_writes hi hq hr (fun a => vEach_still x f s.me.begin a), fun k hk => ?_⟩
  rw [lane_masked x _ _ _ hk, hf, Nat.mod_eq_of_lt (hg k), begin_vMask, begin_vD, vD]

/-- The same of an op with two operands. -/
theorem opEach_lanes_two {s : State} {i : Instr} {x : ArgV} {f : Context → Nat → Nat} {g : Nat → Nat}
    (hi : exec i s = issueOne (opEach x i (v1 x ++ vs2 x) false (still f)) s) (hq : Quiet s)
    (hr : Ready s (laneSrcs x (twoSrcs x) false)) (hf : f s.me.begin = g) (hg : ∀ k, g k < 2 ^ vW x) : LaneResult s i x g :=
  opEach_lanes hi hq (v1_append_vs2 x ▸ hr) hf hg

/-! ### Lane values fit their lane (R152) -/

theorem vX_lt (x : ArgV) (c : Context) (k : Nat) : vX x c k < 2 ^ vW x := lane_lt ..

theorem vY_lt (x : ArgV) (c : Context) (k : Nat) : vY x c k < 2 ^ vW x := by
  unfold vY
  split
  · exact Nat.mod_lt _ (Nat.two_pow_pos _)
  · exact lane_lt ..

/-- A lane of the register or zero fits too. -/
theorem ite_vX_lt (x : ArgV) (c : Context) (p : Prop) [Decidable p] (j : Nat) : (if p then vX x c j else 0) < 2 ^ vW x := by
  split
  · exact vX_lt x c j
  · exact Nat.two_pow_pos _

theorem mod_lane_lt (x : ArgV) (v : Nat) : v % 2 ^ vW x < 2 ^ vW x := Nat.mod_lt _ (Nat.two_pow_pos _)

/-- A count of a lane's bits fits the lane. -/
theorem lt_lane_of_le {x : ArgV} {v : Nat} (h : v ≤ vW x) : v < 2 ^ vW x := h.trans_lt Nat.lt_two_pow_self

/-! ### The statements -/

/-- Settles O26: it holds. Each op is an element-wise op of its lane function; the fused forms read their destination too. -/
theorem vectorArithmetic : Obligations.VectorArithmetic := by
  refine fun s x hq => ⟨fun hr => ?twoOperands, fun hr => ?fused, fun hr => ?oneOperand⟩
  case twoOperands =>
    exact ⟨opEach_result_two (exec_vadd x s) hq hr, opEach_result_two (exec_vsub x s) hq hr,
      opEach_result_two (exec_vmul x s) hq hr, opEach_result_two (exec_vmin x s) hq hr, opEach_result_two (exec_vmax x s) hq hr⟩
  case fused =>
    exact ⟨opEach_result_two (exec_vfma x s) hq hr, opEach_result_two (exec_vfms x s) hq hr⟩
  case oneOperand =>
    exact ⟨opEach_result (exec_vabs x s) hq hr, opEach_result (exec_vneg x s) hq hr, opEach_result (exec_vrcp x s) hq hr,
      opEach_result (exec_vrsq x s) hq hr, opEach_result (exec_vexp2 x s) hq hr, opEach_result (exec_vlog2 x s) hq hr,
      opEach_result (exec_vtanh x s) hq hr⟩

/-- Settles O27: it holds. Each op is a lane function whose values fit the lane; the lanes, flags and draws of any element-wise op
are those of an induction over its lanes (`map_masked_run`). -/
theorem laneOps : Obligations.LaneOps := by
  refine ⟨fun s x hq => ⟨fun hr => ⟨?and, ?or, ?xor, ?shl, ?shr, ?sra⟩, fun hr => ⟨?not, ?mov, ?popc, ?clz⟩, fun hr => ?movs,
    fun hr => ?perm, fun hr => ?slide, fun hr => ?iota⟩, fun x c a draws rnd g => ⟨fun k hk => ?lanes, ?flags, ?seed⟩⟩
  case and => exact opEach_lanes_two (exec_vand x s) hq hr rfl fun k => Nat.and_lt_two_pow _ (vY_lt x _ k)
  case or => exact opEach_lanes_two (exec_vor x s) hq hr rfl fun k => Nat.or_lt_two_pow (vX_lt x _ k) (vY_lt x _ k)
  case xor => exact opEach_lanes_two (exec_vxor x s) hq hr rfl fun k => Nat.xor_lt_two_pow (vX_lt x _ k) (vY_lt x _ k)
  case shl => exact opEach_lanes_two (exec_vshl x s) hq hr rfl fun k => mod_lane_lt x _
  case shr => exact opEach_lanes_two (exec_vshr x s) hq hr rfl fun k => (Nat.div_le_self _ _).trans_lt (vX_lt x _ k)
  case sra => exact opEach_lanes_two (exec_vsra x s) hq hr rfl fun k => bitsInt_lt _ _
  case not =>
    exact opEach_lanes (exec_vnot x s) hq hr rfl fun k => (Nat.sub_le _ _).trans_lt (Nat.pred_lt (Nat.two_pow_pos _).ne')
  case mov => exact opEach_lanes (exec_vmov x s) hq hr rfl fun k => vX_lt x _ k
  case popc => exact opEach_lanes (exec_vpopc x s) hq hr rfl fun k => lt_lane_of_le (popcount_le _ _)
  case clz => exact opEach_lanes (exec_vclz x s) hq hr rfl fun k => lt_lane_of_le (clz_le _ _)
  case movs => exact opEach_lanes (exec_vmovs x s) hq hr rfl fun k => mod_lane_lt x _
  case perm => exact opEach_lanes (exec_vperm x s) hq hr rfl fun k => ite_vX_lt x _ _ _
  case slide => exact opEach_lanes (exec_vslide x s) hq hr rfl fun k => ite_vX_lt x _ _ _
  case iota => exact opEach_lanes (exec_viota x s) hq hr rfl fun k => mod_lane_lt x _
  case lanes => rw [vEach_run]; exact lane_masked x c _ _ hk
  case flags => rw [vEach_run]; rfl
  case seed =>
    have hn : vN x - 1 + 1 = vN x := Nat.sub_add_cancel (lanes_fill x).2
    rw [vEach_run]
    dsimp only
    rw [hn, seedOver]

end Sys2Proof.Machine

/-! Vector compares, the ops on masks, selects, moves between lanes and scalars, and compression (R153 to R155, R167, R168). -/

namespace Sys2Proof.Machine

open Sys2Proof

/-! ### The shapes -/

/-- An op with one mask result. -/
theorem opVM_result {s : State} {i : Instr} {x : ArgV} {srcs : List Src} {f : Context → Draw → Nat × Draw}
    (hi : exec i s = issueOne (opVM x i srcs f) s) (hq : Quiet s) (hr : Ready s srcs) : MaskResult s i x f := by
  refine writes_of hi hq (verdict_go _ s rfl hr rfl rfl) rfl _ ?_ (fun c => (c.keeps_wVM _ _).trans (Context.keeps_drawn _ _))
  simp only [opVM, opV, Op.plain, beginIssue_me s hq.1]

/-- An op whose mask result neither draws nor raises flags writes it, and nothing else. -/
theorem opVM_writes {s : State} {i : Instr} {x : ArgV} {srcs : List Src} {f : Context → Draw → Nat × Draw} {v : Nat}
    (hi : exec i s = issueOne (opVM x i srcs f) s) (hq : Quiet s) (hr : Ready s srcs) (hf : ∀ a, f s.me.begin a = (v, a)) :
    Writes s i (heldV s x.hold i) (fun c => c.wVM x.dst (BitVec.ofNat 256 v)) := by
  have h := opVM_result hi hq hr
  simp only [MaskResult, hf, drawn_wVM] at h
  exact h

/-- An op whose scalar result neither draws nor raises flags writes it, and nothing else. -/
theorem opVS_writes {s : State} {i : Instr} {x : ArgV} {srcs : List Src} {f : Context → Draw → Word64 × Draw} {v : Word64}
    (hi : exec i s = issueOne (opVS x i srcs f) s) (hq : Quiet s) (hr : Ready s srcs) (hf : ∀ a, f s.me.begin a = (v, a)) :
    Writes s i (heldV s x.hold i) (fun c => c.wS x.dst v) := by
  have h := opVS_result hi hq hr
  simp only [LaneScalar, hf, drawn_wS] at h
  exact h

/-! ### Compares (R153) -/

/-- The mask of a compare as a number: the condition of a selected lane, zero with Z and the old bit without (R153). -/
def vcmpBits (x : ArgV) (c : Context) : Nat :=
  packLanes 1 ((List.range (vN x)).map (fun k =>
    if (vMask x c).getLsbD k then b2n (vCond x c k).1 else if vZ x then 0 else b2n ((c.rVM x.dst).getLsbD k)))

/-- The flags of a compare's selected lanes. -/
def vcmpFlags (x : ArgV) (c : Context) : FlagSet :=
  ((List.range (vN x)).filter (fun k => (vMask x c).getLsbD k)).foldl (fun f k => f ||| (vCond x c k).2) 0

/-- A compare draws nothing: its flags gather beside those that stand. -/
theorem exec_vcmp_bits (x : ArgV) (s : State) : exec (.vcmp x) s = issueOne (opVM x (.vcmp x)
    (v1 x ++ vs2 x ++ mk x ++ (if keeps x then [srcVM x.dst false] else []))
    (fun c a => (vcmpBits x c, { a with fl := a.fl ||| vcmpFlags x c }))) s := by
  rw [exec_vcmp, vcmpOp]
  congr 2
  funext c a
  rw [map_masked_run x (fun k => (vMask x c).getLsbD k) (fun k => b2n ((c.rVM x.dst).getLsbD k)) false 0
    (fun k _ => (b2n (vCond x c k).1, (vCond x c k).2)), flagsOver_eq_or]
  rfl

/-- Flags on top of those that stand are raised. -/
theorem drawn_wVM_raiseFl (c : Context) (r : Nat) (m : VMask) (f : FlagSet) :
    (c.wVM r m).drawn { c.draw with fl := c.draw.fl ||| f } = (c.wVM r m).raiseFl f := by
  unfold Context.wVM Context.post
  split <;> rfl

/-- A compare writes its mask and raises the flags of its selected lanes. -/
theorem vcmp_writes {s : State} {x : ArgV} (hq : Quiet s)
    (hr : Ready s (twoSrcs x ++ mk x ++ if keeps x then [srcVM x.dst false] else [])) :
    Writes s (.vcmp x) (heldV s x.hold (.vcmp x))
      (fun c => (c.wVM x.dst (BitVec.ofNat 256 (vcmpBits x s.me))).raiseFl (vcmpFlags x s.me)) := by
  have h := opVM_result (exec_vcmp_bits x s) hq (v1_append_vs2 x ▸ hr)
  simp only [MaskResult, drawn_wVM_raiseFl] at h
  exact h

theorem b2n_bit (b : Bool) : decide (b2n b % 2 = 1) = b := by cases b <;> rfl

/-- The bits of a compare's mask. -/
theorem getLsbD_vcmpBits (x : ArgV) (c : Context) {k : Nat} (hk : k < 256) :
    (BitVec.ofNat 256 (vcmpBits x c)).getLsbD k = (decide (k < vN x) && if (vMask x c).getLsbD k then (vCond x c k).1
      else (!vZ x && (c.rVM x.dst).getLsbD k)) := by
  rw [vcmpBits, getLsbD_packLanes _ hk]
  by_cases hn : k < vN x
  · rw [getD_map_range _ hn, decide_eq_true hn, Bool.true_and]
    split
    · exact b2n_bit _
    · cases vZ x
      · exact b2n_bit _
      · rfl
  · simp [hn]

/-! ### Selects and moves between lanes (R154, R155) -/

/-- The lanes of a select. -/
theorem lane_vsel (x : ArgV) (c : Context) {k : Nat} (hk : k < vN x) :
    lane (vW x) k (BitVec.ofNat 2048 (packLanes (vW x) ((List.range (vN x)).map (fun i =>
      if (vMask x c).getLsbD i then vX x c i else vY x c i)))) = if (vMask x c).getLsbD k then vX x c k else vY x c k := by
  rw [lane_packed x _ hk]
  split
  · exact Nat.mod_eq_of_lt (vX_lt x c k)
  · exact Nat.mod_eq_of_lt (vY_lt x c k)

/-- `VINS` writes the lane that src2 names, if there is one. -/
theorem lane_vins (x : ArgV) (c : Context) {k : Nat} (hk : k < vN x) :
    lane (vW x) k (BitVec.ofNat 2048 (if (c.rS x.src2).toNat < vN x then
        putFields (vW x) (c.rS x.src2).toNat [(c.rS x.src1).toNat] (c.rV x.dst).toNat else (c.rV x.dst).toNat))
      = if k = (c.rS x.src2).toNat then (c.rS x.src1).toNat % 2 ^ vW x else lane (vW x) k (c.rV x.dst) := by
  split
  · refine lane_putFields _ _ ?_
    calc vW x * k + vW x = vW x * (k + 1) := (Nat.mul_succ _ _).symm
      _ ≤ vW x * vN x := Nat.mul_le_mul_left _ hk
      _ = 2048 := (lanes_fill x).1
  · rw [if_neg (by omega), BitVec.ofNat_toNat, BitVec.setWidth_eq]

/-- The lanes of a compression: the selected ones in order, then zeros. -/
theorem lane_vcompr (x : ArgV) (c : Context) (k : Nat) :
    lane (vW x) k (BitVec.ofNat 2048 (packLanes (vW x) ((vLive x c).map (vX x c)))) = ((vLive x c).map (vX x c)).getD k 0 := by
  have hlen : vW x * ((vLive x c).map (vX x c)).length ≤ 2048 := by
    rw [← (lanes_fill x).1, List.length_map]
    exact Nat.mul_le_mul_left _ ((List.length_filter_le _ _).trans_eq List.length_range)
  rw [lane_packLanes hlen]
  refine Nat.mod_eq_of_lt ?_
  rw [List.getD_eq_getElem?_getD, List.getElem?_map]
  cases (vLive x c)[k]? with
  | none => exact Nat.two_pow_pos _
  | some j => exact vX_lt x c j

/-! ### Mask ops (R167, R168) -/

/-- A mask made of a range of ones. -/
theorem getLsbD_maskRange (lo hi : Nat) {k : Nat} (hk : k < 256) :
    (BitVec.ofNat 256 (maskRange lo (min hi 256))).getLsbD k = (decide (lo ≤ k) && decide (k < hi)) := by
  rw [BitVec.getLsbD_ofNat, testBit_maskRange, decide_eq_true hk, Bool.true_and]
  congr 2
  exact propext ⟨fun h => by omega, fun h => by omega⟩

/-- A mask with one of its four words written. -/
theorem getLsbD_putWord (n : Nat) (v : Word64) (m : VMask) {k : Nat} (hk : k < 256) :
    (BitVec.ofNat 256 (putFields 64 n [v.toNat] m.toNat)).getLsbD k
      = if k / 64 = n then v.getLsbD (k % 64) else m.getLsbD k := by
  rw [BitVec.getLsbD_ofNat, testBit_putFields, decide_eq_true hk, Bool.true_and]
  by_cases h : k / 64 = n
  · rw [if_pos (by omega), if_pos h, show k - 64 * n = k % 64 by omega, BitVec.getLsbD]
  · rw [if_neg (by omega), if_neg h, BitVec.getLsbD]

theorem vmsetVal_low {x : ArgV} (h : x.mod = 0) (c : Context) : vmsetVal x c = maskRange 0 (min (c.rS x.src1).toNat 256) := by
  rw [vmsetVal, h]; rfl

theorem vmsetVal_range {x : ArgV} (h : x.mod = 1) (c : Context) :
    vmsetVal x c = maskRange (c.rS x.src1).toNat (min (c.rS x.src2).toNat 256) := by
  rw [vmsetVal, h]; rfl

theorem vmsetVal_word {x : ArgV} (h : x.mod = 2) (c : Context) :
    vmsetVal x c = putFields 64 ((c.rS x.src2).toNat % 4) [(c.rS x.src1).toNat] (c.rVM x.dst).toNat := by
  rw [vmsetVal, h]; rfl

/-- `VMSET` writes its mask. -/
theorem vmset_writes {s : State} {x : ArgV} (hq : Quiet s)
    (hr : Ready s (s1 x ++ (if x.mod = 0 then [] else s2 x) ++ (if x.mod.val = 2 then [srcVM x.dst false] else []))) :
    Writes s (.vmset x) (heldV s x.hold (.vmset x)) (fun c => c.wVM x.dst (BitVec.ofNat 256 (vmsetVal x s.me))) :=
  opVM_writes (exec_vmset x s) hq hr fun _ => rfl

/-- `VMOPS` with `mod` below 5 writes a mask. -/
theorem vmops_writes_mask {s : State} {x : ArgV} (hq : Quiet s) (hm : x.mod.val < 5)
    (hr : Ready s (srcVM x.src1 x.b1 :: if x.mod.val < 4 then [srcVM x.src2 x.b2] else [])) :
    Writes s (.vmops x) (heldV s x.hold (.vmops x)) (fun c => c.wVM x.dst (vmopsMask x s.me)) := by
  have hi := exec_vmops x s
  rw [vmopsOp, if_pos hm] at hi
  have h := opVM_writes hi hq hr fun _ => rfl
  rwa [BitVec.ofNat_toNat, BitVec.setWidth_eq] at h

/-- `VMOPS` with another `mod` reads a mask into a scalar. -/
theorem vmops_writes_scalar {s : State} {x : ArgV} (hq : Quiet s) (hm : 5 ≤ x.mod.val) (hr : Ready s [srcVM x.src1 x.b1]) :
    Writes s (.vmops x) (heldV s x.hold (.vmops x)) (fun c => c.wS x.dst (vmopsRead x s.me)) := by
  have hi := exec_vmops x s
  rw [vmopsOp, if_neg (by omega)] at hi
  exact opVS_writes hi hq hr fun _ => rfl

/-! ### The statement -/

/-- Settles O28: it holds. Each op writes one register, whose lanes or bits are read off the packed result. -/
theorem masksAndLanes : Obligations.MasksAndLanes := by
  refine fun s x hq => ⟨fun hr => ?compare, fun hr => ?select, fun hr => ?extract, fun hr => ?insert, fun hr => ?compress,
    ⟨fun hm hr => ?setLow, fun hm hr => ?setRange, fun hm hr => ?setWord⟩,
    ⟨fun hm hr => ?binary, fun hm hr => ?complement, fun hm hr => ?read⟩⟩
  case compare => exact ⟨_, vcmp_writes hq hr, fun k hk => getLsbD_vcmpBits x s.me hk⟩
  case select => exact ⟨_, opVV_writes (exec_vsel x s) hq hr fun _ => rfl, fun k hk => lane_vsel x s.me hk⟩
  case extract => exact opVS_writes (exec_vextr x s) hq hr fun _ => rfl
  case insert => exact ⟨_, opVV_writes (exec_vins x s) hq hr fun _ => rfl, fun k hk => lane_vins x s.me hk⟩
  case compress => exact ⟨_, opVV_writes (exec_vcompr x s) hq hr fun _ => rfl, fun k _ => lane_vcompr x s.me k⟩
  case setLow =>
    refine ⟨_, vmset_writes hq (by rw [hm]; exact hr), fun k hk => ?_⟩
    rw [vmsetVal_low hm, getLsbD_maskRange _ _ hk, decide_eq_true (Nat.zero_le k), Bool.true_and]
  case setRange =>
    refine ⟨_, vmset_writes hq (by rw [hm]; exact hr), fun k hk => ?_⟩
    rw [vmsetVal_range hm, getLsbD_maskRange _ _ hk]
  case setWord =>
    refine ⟨_, vmset_writes hq (by rw [hm]; exact hr), fun k hk => ?_⟩
    rw [vmsetVal_word hm, getLsbD_putWord _ _ _ hk]
  case binary => exact vmops_writes_mask hq (by omega) (by rw [if_pos hm]; exact hr)
  case complement =>
    have hmask : vmopsMask x s.me = ~~~ s.me.rVM x.src1 := by rw [vmopsMask, hm]; rfl
    exact hmask ▸ vmops_writes_mask hq (by rw [hm]; decide) (by rw [hm]; exact hr)
  case read => exact vmops_writes_scalar hq hm hr

end Sys2Proof.Machine

/-! Conversions and block quantisation (R149, R156 to R160). -/

namespace Sys2Proof.Machine

open Sys2Proof

/-! ### Checks that come before the sources (R9) -/

/-- An exception that comes before the full and empty checks is raised whether the sources are full or not. -/
theorem raises_early {s : State} {i : Instr} {o : Op} {e : Exc} (hi : exec i s = issueOne o s) (h : o.early s = some e) :
    Raises s i e := by
  have hv : verdict [o] s = .exc e := by
    cases hf : firstEmptySrc s s.cur 0 o.srcs with
    | none => simp [verdict, firstEmpty, hf, ownExc, firstExc, Op.own, h]
    | some p => simp [verdict, firstEmpty, hf, emptyVerdict, h]
  rw [Raises, hi, issueOne, issue_exc o s hv]

/-- A register group at a multiple of its size that ends within the file. -/
theorem groupErr_none {r n : Nat} (ha : r % n = 0) (he : r + n ≤ 32) : groupErr r n = none := if_neg (by omega)

theorem groupErr_or_none {r n q m : Nat} (hr : r % n = 0) (hre : r + n ≤ 32) (hq : q % m = 0) (hqe : q + m ≤ 32) :
    (groupErr r n).or (groupErr q m) = none := by
  rw [groupErr_none hr hre, groupErr_none hq hqe]; rfl

theorem groupErr_misaligned {r n : Nat} (h : r % n ≠ 0) : groupErr r n = some (illegal 4 0x20 0) := if_pos (.inl h)

/-- Of two register groups a misaligned one is trap 0x02 (R143). -/
theorem groupErr_or {r n q m : Nat} (h : r % n ≠ 0 ∨ q % m ≠ 0) :
    (groupErr r n).or (groupErr q m) = some (illegal 4 0x20 0) := by
  rcases h with h | h
  · rw [groupErr_misaligned h, Option.some_or]
  · rw [groupErr_misaligned h]
    unfold groupErr
    split <;> rfl

/-! ### Conversion (R156) -/

theorem cvtChk_none {x : ArgV} (h : vPart x < max (laneBits (vOty x)) (vW x) / min (laneBits (vOty x)) (vW x)) :
    cvtChk x = none := if_neg (Nat.not_le.mpr h)

theorem cvtChk_part {x : ArgV} (h : max (laneBits (vOty x)) (vW x) / min (laneBits (vOty x)) (vW x) ≤ vPart x) :
    cvtChk x = some (illegal 4 0x21 0) := if_pos h

/-- A conversion whose PART lies within the width ratio. -/
theorem vcvt_result {s : State} {x : ArgV} (hq : Quiet s) (hc : cvtChk x = none)
    (hr : Ready s (laneSrcs x [srcV x.src1 x.b1] (cvtNarrows x || (vPk x && subByte (vTyc x))))) :
    VectorResult s (.vcvt x) x (cvtVal x) := by
  have hs : (vcvtOp x).srcs = laneSrcs x [srcV x.src1 x.b1] (cvtNarrows x || (vPk x && subByte (vTyc x))) := by
    rw [laneSrcs, Bool.or_comm (cvtNarrows x || _), ← Bool.or_assoc]; rfl
  refine writes_of (exec_vcvt x s) hq (verdict_go _ s hc (hs ▸ hr) rfl rfl) rfl _ ?_
    (fun c => (c.keeps_wV _ _).trans (Context.keeps_drawn _ _))
  simp only [vcvtOp, opVV, opV, Op.plain, beginIssue_me s hq.1]

/-! ### Quantisation (R157, R158) -/

theorem ssmErr_none {s : State} (h : bits s.me.fmtNow.toNat 23 22 = 1 ∨ bits s.me.fmtNow.toNat 23 22 = 2) : ssmErr s = none :=
  if_neg (by omega)

theorem ssmErr_mode {s : State} (h : bits s.me.fmtNow.toNat 23 22 = 0 ∨ bits s.me.fmtNow.toNat 23 22 = 3) :
    ssmErr s = some (illegal 4 0x22 0) := if_pos h

/-- A quantisation of aligned groups under a scale mode of 1 or 2 writes its pair of registers. -/
theorem vquant_writes {s : State} {x : ArgV} (hq : Quiet s) (he : (vquantOp x).early s = none)
    (hr : Ready s (vquantOp x).srcs) (hc : ssmErr s = none) :
    Writes s (.vquant x) (heldV s x.hold (.vquant x)) (fun c =>
      let r := quantVal x s.me.begin c.draw
      ((c.wV x.dst (BitVec.ofNat 2048 r.1)).wV (x.dst + 1) (BitVec.ofNat 2048 r.2.1)).drawn r.2.2) := by
  refine writes_of (exec_vquant x s) hq (verdict_go _ s he hr hc rfl) rfl _ ?_
    (fun c => ((c.keeps_wV _ _).trans (Context.keeps_wV _ _ _)).trans (Context.keeps_drawn _ _))
  simp only [vquantOp, opV, Op.plain, beginIssue_me s hq.1]

/-! ### Dequantisation (R159) -/

/-- The registers of a group written from a wide number, one after the other. -/
def Context.wGroup (d v : Nat) (l : List Nat) (c : Context) : Context :=
  l.foldl (fun c k => c.wV (d + k) (BitVec.ofNat 2048 (v / 2 ^ (2048 * k)))) c

theorem Context.keeps_wGroup (d v : Nat) (l : List Nat) (c : Context) : c.Keeps (c.wGroup d v l) := by
  induction l generalizing c with
  | nil => exact .refl c
  | cons k t ih => exact (c.keeps_wV _ _).trans (ih _)

theorem begin_codebook (s : State) (h : s.cur < residents) (g : Nat) :
    ((beginIssue s).core g).codebook = (s.core g).codebook := by
  rw [(beginIssue_elsewhere s h).2.1 g]

theorem begin_eccCb (s : State) (h : s.cur < residents) : (beginIssue s).eccCb = s.eccCb := by rw [begin_fields s h]

/-- A dequantisation by the codebook waits for its context's own `MCBLD`, and for nothing else. -/
theorem vdeq_wait_none {s : State} {x : ArgV} (h : bitOf (vExt x) 14 = true → ownMcbld s = false) : (vdeqOp x).wait s = none :=
  if_neg (by simpa using h)

theorem vdeq_wait_codebook {s : State} {x : ArgV} (hc : bitOf (vExt x) 14 = true) (h : ownMcbld s = true) :
    (vdeqOp x).wait s = some (5, id) := if_pos (by rw [hc, h]; rfl)

/-- A dequantisation reads its codebook and the bad entries of the core's own. -/
theorem vdeq_writes {s : State} {x : ArgV} (hq : Quiet s) (he : (vdeqOp x).early s = none)
    (hr : Ready s (vdeqOp x).srcs) (hw : (vdeqOp x).wait s = none) :
    Writes s (.vdeq x) (heldV s x.hold (.vdeq x)) (fun c =>
      let bad := (s.eccCb.filter (fun q => q.1 == s.cur / 4)).map (·.2)
      let r := deqVals x (s.core (s.cur / 4)).codebook bad s.me.begin c.draw
      (c.wGroup x.dst (packLanes (vW x) r.1) (List.range (groupRegs (vTyc x)))).drawn r.2) := by
  have hcore : (beginIssue s).homeCore (beginIssue s).cur = s.cur / 4 := by
    rw [beginIssue_cur, begin_homeCore s hq.1, homeCore_cur s hq.1]; rfl
  refine writes_of (exec_vdeq x s) hq (verdict_go _ s he hr rfl hw) rfl _ ?_
    (fun c => (Context.keeps_wGroup _ _ _ c).trans (Context.keeps_drawn _ _))
  simp only [vdeqOp, opV, Op.plain, hcore, begin_codebook s hq.1, begin_eccCb s hq.1, beginIssue_me s hq.1]
  rfl

/-! ### The statement -/

/-- Settles O29: it holds. A misplaced part or group is found before the sources, a scale mode after them; otherwise each op
writes the registers of its value. -/
theorem conversions : Obligations.Conversions := by
  refine fun s x hq => ⟨fun hp hr => ?convert, fun hp => ?part,
    ⟨fun ha hae hd hde hr => ⟨fun hm => ?quantise, fun hm => ?scaleMode⟩, fun h => ?quantGroups⟩, fun h => ?deqGroups,
    fun hr => ⟨fun ha hae hd hde hb => ?dequantise, fun ha hae hd hde hcb hb => ?codebookWait⟩⟩
  case convert => exact vcvt_result hq (cvtChk_none hp) hr
  case part => exact raises_early (exec_vcvt x s) (cvtChk_part hp)
  case quantise => exact vquant_writes hq (groupErr_or_none ha hae hd hde) hr (ssmErr_none hm)
  case scaleMode => exact raises_of (exec_vquant x s) (groupErr_or_none ha hae hd hde) hr (ssmErr_mode hm)
  case quantGroups => exact raises_early (exec_vquant x s) (groupErr_or h)
  case deqGroups => exact raises_early (exec_vdeq x s) (groupErr_or h)
  case dequantise => exact vdeq_writes hq (groupErr_or_none ha hae hd hde) hr (vdeq_wait_none hb)
  case codebookWait =>
    exact waits_of (exec_vdeq x s) (groupErr_or_none ha hae hd hde) hr rfl (vdeq_wait_codebook hcb hb)

end Sys2Proof.Machine

/-! # The M-slot ops at issue (O31)

An M op that is accepted ends in one queueing: a token for the issuing context, an entry for its core (R179, R180). What stands in the
entry is read off the state before the bundle; before that an `MMA` fixes its tile's mode and a rounding copy draws. -/

namespace Sys2Proof.Machine

open Sys2Proof

/-! ### The queue takes an operation (R179, R180) -/

/-- The issuing context as an operation is queued: its token is in a register at once and counts as outstanding. -/
def Context.queues (r : Nat) (token : Nat) (c : Context) : Context :=
  { c.wSnow r (n64 token) with iseq := c.iseq + 1, out := c.out + 1 }

-- Elaborated in its turn: what stands above is checked by then, and the proofs below do not wait for it side by side.
set_option Elab.async false in
theorem Context.keeps_queues (r token : Nat) (c : Context) : c.Keeps (c.queues r token) :=
  (c.keeps_wSnow r _).trans ⟨rfl, rfl, rfl, rfl, rfl, rfl⟩

/-- An entry that the issuing context queues now, none of it performed. -/
def FreshEntry (s : State) (m : MEntry) : Prop :=
  m.ctx = s.cur ∧ m.token = s.me.iseq.toNat ∧ m.fmt = s.me.fmtNow ∧ m.bundle = s.me.point ∧ m.wave = 0 ∧ m.begun = false

theorem blankEntry_fresh {s : State} (hc : s.cur < residents) (opc tile : Nat) :
    FreshEntry s (blankEntry (beginIssue s) (beginIssue s) opc tile) := by
  unfold FreshEntry blankEntry
  rw [beginIssue_cur, beginIssue_me s hc]
  exact ⟨rfl, rfl, rfl, rfl, rfl, rfl⟩

/-- The state with an issue number taken and a token noted for the step information. -/
def tokenNoted (token : Nat) (s : State) : State := noteToken token { s with num := s.num + 1 }

/-- The queueing of an entry is a token for the issuing context and an entry for its core. -/
theorem enqueue_eq (r : Nat) (m : MEntry) {s : State} (h : s.cur < residents) : enqueue r m s
    = ((tokenNoted m.token s).updMe (Context.queues r m.token)).updCore (coreOf s.cur) (fun k => { k with mq := k.mq ++ [m] }) := by
  have hcur : ((tokenNoted m.token s).updMe (Context.queues r m.token)).cur = s.cur := updMe_cur _ _
  have hhome : ((tokenNoted m.token s).updMe (Context.queues r m.token)).homeCore
      ((tokenNoted m.token s).updMe (Context.queues r m.token)).cur = coreOf s.cur := by
    rw [homeCore_cur _ (by rw [hcur]; exact h), hcur]
  exact congrArg (fun g => ((tokenNoted m.token s).updMe (Context.queues r m.token)).updCore g
    (fun k => { k with mq := k.mq ++ [m] })) hhome

/-- The queueing of an operation as the end of an op's effect. -/
theorem enqueue_leads {s b e : State} {F : Context → Context} (hq : Quiet s) (L : Leads s b F e) (r : Nat) (m : MEntry) :
    Leads s (enqueue r m e) (fun c => (F c).queues r m.token) (enqueue r m e) := by
  have hn : Leads s { e with num := e.num + 1 } F { e with num := e.num + 1 } := L.apart ⟨rfl, rfl, rfl, rfl, rfl⟩
  have ht : Leads s (tokenNoted m.token e) F (tokenNoted m.token e) := (hn.noted _ e.latch.promise).self
  rw [enqueue_eq r m (by rw [L.2.2.1]; exact hq.1)]
  exact ((ht.updMe hq (Context.queues r m.token)).updCore _ (fun k => { k with mq := k.mq ++ [m] }) (fun _ _ _ _ => rfl)).self

/-- An entry joins the queue of the issuing core, whose tiles stand. -/
theorem core_enqueue (r : Nat) (m : MEntry) {s : State} (h : s.cur < residents) :
    ((enqueue r m s).core (coreOf s.cur)).mq = (s.core (coreOf s.cur)).mq ++ [m]
    ∧ ((enqueue r m s).core (coreOf s.cur)).tiles = (s.core (coreOf s.cur)).tiles := by
  have hcore : ((tokenNoted m.token s).updMe (Context.queues r m.token)).core (coreOf s.cur)
      = { s.core (coreOf s.cur) with
          ctxs := (((tokenNoted m.token s).updMe (Context.queues r m.token)).core (coreOf s.cur)).ctxs } :=
    core_setCtx (tokenNoted m.token s) s.cur (coreOf s.cur) _
  rw [enqueue_eq r m h, core_updCore, if_pos rfl, hcore]
  exact ⟨rfl, rfl⟩

theorem mem_enqueue (r : Nat) (m : MEntry) {s : State} (h : s.cur < residents) : (enqueue r m s).mem = s.mem := by
  rw [enqueue_eq r m h, updCore_mem, updMe_mem]
  rfl

/-- The queueing changes no context but the issuing one. -/
theorem ctx_enqueue_ne (r : Nat) (m : MEntry) {s : State} (h : s.cur < residents) {n : Nat} (hn : n ≠ s.cur) :
    (enqueue r m s).ctx n = s.ctx n := by
  rw [enqueue_eq r m h, ctx_updCore _ _ (fun k => { k with mq := k.mq ++ [m] }) (fun _ => rfl)]
  exact ctx_updCtx_ne (tokenNoted m.token s) h (Context.queues r m.token) hn

/-- `t` has the memory, the queue of core `g` and, beside the issuing one, the contexts that `s` has. -/
def SameBeside (g : Nat) (s t : State) : Prop :=
  t.mem = s.mem ∧ (t.core g).mq = (s.core g).mq ∧ ∀ n, n ≠ s.cur → t.ctx n = s.ctx n

theorem SameBeside.refl (g : Nat) (s : State) : SameBeside g s s := ⟨rfl, rfl, fun _ _ => rfl⟩

theorem Elsewhere.sameBeside {s t : State} (h : Elsewhere s t) (g : Nat) : SameBeside g s t :=
  ⟨h.mem, by rw [h.2.1 g], h.2.2⟩

theorem Elsewhere.tile {s t : State} (h : Elsewhere s t) (g i : Nat) : t.tile g i = s.tile g i :=
  tile_eq_of_tiles (by rw [h.2.1 g]) i

theorem sameBeside_updTile (s : State) (g i : Nat) (f : Tile → Tile) : SameBeside g s (s.updTile g i f) :=
  ⟨rfl, (sameQueue_updTile g 0 s i f).1, fun n _ =>
    ctx_updCore s g (fun k => { k with tiles := Sparse.set Tile.zero k.tiles i (f (Sparse.get Tile.zero k.tiles i)) }) (fun _ => rfl) n⟩

/-- The issue of an op whose effect ends by queueing the entry `m`, after the change `F` of the issuing context. -/
theorem enqueues_of {s b e : State} {i : Instr} {o : Op} {r : Fin 64} {F : Context → Context} {P : State → MEntry → Prop}
    {m : MEntry} (hq : Quiet s) (hi : exec i s = issueOne o s) (hv : verdict [o] s = .go)
    (he : o.eff (beginIssue s) (beginIssue s) = enqueue r m e) (L : Leads s b F e) (hb : SameBeside (s.cur / 4) s b)
    (hF : s.me.begin.Keeps (F s.me.begin)) (hseq : (F s.me.begin).iseq = s.me.iseq) (hout : (F s.me.begin).out = s.me.out)
    (hm : FreshEntry s m) (hP : ∀ t, (∀ k, t.tile (s.cur / 4) k = b.tile (s.cur / 4) k) → P t m)
    (hmem : o.mem = none := by rfl) (hbars : o.bars (beginIssue s) = [] := by rfl) (hs : o.slot = 5 := by rfl) :
    Enqueues s i (Held.after s.me.held o) r F P := by
  obtain ⟨bmem, bmq, bctx⟩ := hb
  obtain ⟨mctx, mtok, mfmt, mbun, mwave, mbegun⟩ := hm
  have hcur : e.cur = s.cur := L.2.2.1
  have hec : e.cur < residents := by rw [hcur]; exact hq.1
  have hbc : b.cur = s.cur := L.1.cur.symm.trans hcur
  have M := enqueue_leads hq L r m
  obtain ⟨t, ht, hel, hme⟩ := M.issues hi hq hv
    (by rw [fenceWaits_slot s o (by rw [hs]; decide), effects_none _ _ o _ hmem hbars, he]) (hF.trans (Context.keeps_queues ..))
  obtain ⟨tmem, tmq, tctx⟩ := hel.sameBeside (s.cur / 4)
  obtain ⟨emem, emq, ectx⟩ := L.1.sameBeside (s.cur / 4)
  obtain ⟨qmq, qtiles⟩ := core_enqueue r m hec
  rw [hcur] at qmq qtiles
  refine ⟨t, m, ht, hP t (fun k => ?_), ?_, mctx, mtok, mfmt, mbun, mwave, mbegun, ?_, fun n hn => ?_, ?_⟩
  · exact (hel.tile _ k).trans ((tile_eq_of_tiles qtiles k).trans (L.1.tile _ k))
  · rw [tmq, ← bmq, ← emq]; exact qmq
  · rw [tmem, mem_enqueue r m hec, emem, bmem]
  · rw [tctx n (by rw [M.2.2.1]; exact hn), ctx_enqueue_ne r m hec (by rw [hcur]; exact hn), ectx n (by rw [hbc]; exact hn), bctx n hn]
  · rw [hme, M.2.2.2]
    simp only [Context.queues, mtok, hseq, hout]

theorem Enqueues.imp {s : State} {i : Instr} {h : Held} {r : Fin 64} {F : Context → Context} {P Q : State → MEntry → Prop}
    (k : Enqueues s i h r F P) (hP : ∀ t m, P t m → Q t m) : Enqueues s i h r F Q := by
  obtain ⟨t, m, ht, hp, hrest⟩ := k
  exact ⟨t, m, ht, hP t m hp, hrest⟩

/-! ### The wait for the queue (R179, R189) -/

theorem mqWait_room {s : State} (hq : Quiet s) (hm : (s.core (s.cur / 4)).mq.length < 16)
    (hs : (s.core (s.cur / 4)).savedOps = []) : mqWait s = none := by
  have hn : ¬(16 ≤ (s.core (coreOf s.cur)).mq.length ∨ (s.core (coreOf s.cur)).savedOps ≠ []) :=
    not_or.mpr ⟨Nat.not_le.mpr hm, not_not.mpr hs⟩
  simp only [mqWait, homeCore_cur s hq.1, if_neg hn]

theorem mqWait_full {s : State} (hq : Quiet s) (hm : 16 ≤ (s.core (s.cur / 4)).mq.length) : mqWait s = some (2, id) := by
  have hn : 16 ≤ (s.core (coreOf s.cur)).mq.length ∨ (s.core (coreOf s.cur)).savedOps ≠ [] := .inl hm
  simp only [mqWait, homeCore_cur s hq.1, if_pos hn]

/-! ### `MMA`, `MMAZ` and `MMAS` (R192, R193) -/

/-- The entry of a product: its panels' addresses, its waves and its mode; that of an `MMAS` names its side areas too. -/
def IsProduct (s : State) (x : ArgMX) (k : Nat) (t : State) (m : MEntry) : Prop :=
  m.opc = k ∧ m.tile = x.acc ∧ m.pa = (s.me.rA x.aa).toNat ∧ m.pb = s.me.rA x.ab ∧ m.waves = wavesOf x
  ∧ m.int = int8Mode s.me.fmtNow ∧ (m.owned = true → (t.tile (s.cur / 4) x.acc).imode = m.int)

/-- The sources of an `MMAS` are the sides' addresses beside the panels'. -/
theorem ready_scaled {s : State} {a b c d : Src} (h : Ready s [a, b]) (k : Ready s [c, d]) : Ready s [a, c, b, d] := by
  simp only [Ready, List.all_cons, List.all_nil, Bool.and_true, Bool.and_eq_true] at *
  exact ⟨h.1, k.1, h.2, k.2⟩

/-- The bytes that a product reads, as the hazard unit sees them. -/
def productReads (x : ArgMX) (kind : Nat) (pre : State) : List (Int × Int) :=
  let r := mmaRegions x (kind == 2) pre.me pre.me.fmt
  (r.1 ++ r.2).map (fun p => spRange pre p.1.toNat p.2)

/-- The entry that an `MMA`, `MMAZ` or `MMAS` queues. -/
def productEntry (x : ArgMX) (kind : Nat) (pre cur : State) : MEntry :=
  { blankEntry pre cur kind x.acc with
    pa := (pre.me.rA x.aa).toNat, pb := pre.me.rA x.ab, waves := wavesOf x, int := int8Mode pre.me.fmt,
    sa := if kind = 2 then (pre.me.rA (x.aa + 1)).toNat else 0, sb := if kind = 2 then (pre.me.rA (x.ab + 1)).toNat else 0,
    foot := { rd := productReads x kind pre, wr := [] } }

theorem mmaIssue_eq (x : ArgMX) (kind : Nat) (pre cur : State) : mmaIssue x kind pre cur
    = enqueue x.sreg (productEntry x kind pre cur) (if (productEntry x kind pre cur).owned
        then cur.updTile (cur.homeCore cur.cur) x.acc (fun t => { t with imode := (productEntry x kind pre cur).int })
        else cur) := rfl

theorem Leads.updTile {s b e : State} {F : Context → Context} (h : Leads s b F e) (g i : Nat) (f : Tile → Tile) :
    Leads s (b.updTile g i f) F (e.updTile g i f) := h.updCore g _ (fun _ _ _ _ => rfl)

/-- A product is queued, and an owned tile takes its mode. -/
theorem mma_enqueues {s : State} {x : ArgMX} {i : Instr} {kind : Nat} (hq : Quiet s)
    (hi : exec i s = issueOne (mmaShape x i kind) s) (hr : Ready s (mmaShape x i kind).srcs) (hc : mmaChk x kind s = none)
    (hw : mqWait s = none) : Enqueues s i (heldM s x.hold i) x.sreg (fun c => c) (fun t m => IsProduct s x kind t m
      ∧ (kind = 2 → m.sa = (s.me.rA (x.aa + 1)).toNat ∧ m.sb = (s.me.rA (x.ab + 1)).toNat)) := by
  have hv := verdict_go (mmaShape x i kind) s rfl hr hc hw
  have hm : FreshEntry s (productEntry x kind (beginIssue s) (beginIssue s)) := blankEntry_fresh hq.1 kind x.acc
  have hmode : (productEntry x kind (beginIssue s) (beginIssue s)).int = int8Mode s.me.fmtNow := by
    rw [productEntry, beginIssue_me s hq.1, begin_fmt]
  have hP : ∀ t, ((productEntry x kind (beginIssue s) (beginIssue s)).owned = true →
      (t.tile (s.cur / 4) x.acc).imode = int8Mode s.me.fmtNow) →
      IsProduct s x kind t (productEntry x kind (beginIssue s) (beginIssue s))
      ∧ (kind = 2 → (productEntry x kind (beginIssue s) (beginIssue s)).sa = (s.me.rA (x.aa + 1)).toNat
        ∧ (productEntry x kind (beginIssue s) (beginIssue s)).sb = (s.me.rA (x.ab + 1)).toNat) := by
    intro t ht
    unfold IsProduct
    rw [hmode]
    unfold productEntry
    rw [beginIssue_me s hq.1]
    exact ⟨⟨rfl, rfl, rfl, rfl, rfl, rfl, ht⟩, fun hk => ⟨if_pos hk, if_pos hk⟩⟩
  have hhome : (beginIssue s).homeCore (beginIssue s).cur = s.cur / 4 := by
    rw [beginIssue_cur, begin_homeCore s hq.1, homeCore_cur s hq.1]; rfl
  have he := mmaIssue_eq x kind (beginIssue s) (beginIssue s)
  rw [hhome] at he
  by_cases ho : (productEntry x kind (beginIssue s) (beginIssue s)).owned = true
  · rw [if_pos ho] at he
    refine enqueues_of (F := fun c => c) hq hi hv he ((Leads.begin hq).updTile _ _ _)
      (sameBeside_updTile s (s.cur / 4) x.acc _) (.refl _) rfl rfl hm (fun t ht => hP t (fun _ => ?_))
    rw [ht, tile_updTile, if_pos rfl]
    exact hmode
  · rw [if_neg ho] at he
    exact enqueues_of (F := fun c => c) hq hi hv he (Leads.begin hq) (.refl _ s) (.refl _) rfl rfl hm
      (fun t _ => hP t (fun h => absurd h ho))

/-! ### `ACCRD`, `ACCWR`, `ACCZ` and `MCBLD` (R194 to R197) -/

/-- The draws of a rectangle's elements (R87). -/
def rectDraws (x : ArgMX) : Nat := ((rectOf x).2.1 + 1) * ((rectOf x).2.2.2 + 1)

/-- The entry of a copy between a tile and the scratchpad: its rectangle, and its elements' address and pitch. -/
def IsRect (s : State) (x : ArgMX) (opc : Nat) (m : MEntry) : Prop :=
  m.opc = opc ∧ m.tile = x.acc ∧ m.pa = (s.me.rA x.aa).toNat ∧ m.pb = s.me.rA x.ab
  ∧ m.row0 = (rectOf x).1 ∧ m.nr = (rectOf x).2.1 ∧ m.col0 = (rectOf x).2.2.1 ∧ m.nc = (rectOf x).2.2.2

/-- The bytes that a copy's rectangle spans, as the hazard unit sees them. -/
def rectRange (x : ArgMX) (pre : State) : Int × Int :=
  rectFoot pre (pre.me.rA x.aa) (pre.me.rA x.ab) (elemBytes (ofmtOf pre.me.fmt)) (rectOf x).2.1 (rectOf x).2.2.2

/-- The entry that an `ACCRD` or `ACCWR` queues. -/
def rectEntry (x : ArgMX) (opc : Nat) (int : Bool) (pre cur : State) : MEntry :=
  { blankEntry pre cur opc x.acc with
    pa := (pre.me.rA x.aa).toNat, pb := pre.me.rA x.ab, row0 := (rectOf x).1, nr := (rectOf x).2.1, col0 := (rectOf x).2.2.1,
    nc := (rectOf x).2.2.2, int := int,
    foot := if opc = 4 then { rd := [], wr := [rectRange x pre] } else { rd := [rectRange x pre], wr := [] } }

/-- The context after `n` draws of `SEED`, where the rounding mode draws. -/
def Context.draws (fmt : Word64) (n : Nat) (c : Context) : Context :=
  { c with seed := stepSeed (if (FEnv.ofFmt fmt).rnd == 4 then n else 0) c.seed }

theorem rectIssue_eq (x : ArgMX) (opc : Nat) (int rounds : Bool) (pre cur : State) : rectIssue x opc int rounds pre cur
    = enqueue x.sreg (rectEntry x opc int pre cur)
        (cur.updMe (Context.draws pre.me.fmt (if rounds then rectDraws x else 0))) := by
  have hn : (if rounds && (FEnv.ofFmt pre.me.fmt).rnd == 4 then rectDraws x else 0)
      = if (FEnv.ofFmt pre.me.fmt).rnd == 4 then (if rounds then rectDraws x else 0) else 0 := by
    cases rounds <;> simp
  exact congrArg (fun n => enqueue x.sreg (rectEntry x opc int pre cur)
    (cur.updMe (fun c => { c with seed := stepSeed n c.seed }))) hn

/-- A copy between a tile and the scratchpad is queued, with its draws made. -/
theorem rect_enqueues {s : State} {x : ArgMX} {i : Instr} {o : Op} {opc : Nat} {int rounds : Bool} (hq : Quiet s)
    (hi : exec i s = issueOne o s) (hv : verdict [o] s = .go)
    (he : o.eff (beginIssue s) (beginIssue s) = rectIssue x opc int rounds (beginIssue s) (beginIssue s))
    (hmem : o.mem = none := by rfl) (hbars : o.bars (beginIssue s) = [] := by rfl) (hs : o.slot = 5 := by rfl) :
    Enqueues s i (Held.after s.me.held o) x.sreg (Context.draws s.me.fmtNow (if rounds then rectDraws x else 0))
      (fun _ m => IsRect s x opc m ∧ m.int = int ∧ m.owned = ownTile (beginIssue s) x.acc) := by
  have hme := beginIssue_me s hq.1
  rw [rectIssue_eq, hme, begin_fmt] at he
  have hm : FreshEntry s (rectEntry x opc int (beginIssue s) (beginIssue s)) := blankEntry_fresh hq.1 opc x.acc
  refine enqueues_of hq hi hv he ((Leads.begin hq).updMe hq _) (.refl _ s) ⟨rfl, rfl, rfl, rfl, rfl, rfl⟩ rfl rfl hm
    (fun t _ => ?_) hmem hbars hs
  unfold IsRect rectEntry
  rw [hme]
  exact ⟨⟨rfl, rfl, rfl, rfl, rfl, rfl, rfl, rfl⟩, rfl, rfl⟩

/-- The mode that an `ACCRD` takes at its issue is that of an owned tile (R195). -/
theorem begin_tileInt {s : State} (hq : Quiet s) (tile : Nat) :
    tileInt (beginIssue s) tile = (ownTile (beginIssue s) tile && (s.tile (s.cur / 4) tile).imode) := by
  rw [tileInt, beginIssue_cur, begin_homeCore s hq.1, homeCore_cur s hq.1, (beginIssue_elsewhere s hq.1).tile]
  rfl

theorem accwr_enqueues {s : State} {x : ArgMX} (hq : Quiet s) (hr : Ready s [srcA x.aa x.b, srcA x.ab x.b])
    (hc : rectChk x true s = none) (hw : mqWait s = none) : Enqueues s (.accwr x) (heldM s false (.accwr x)) x.sreg
      (Context.draws s.me.fmtNow (if x.opt = 1 then 0 else rectDraws x))
      (fun _ m => IsRect s x 5 m ∧ m.int = decide (x.opt = 1)) := by
  have hn : (if x.opt = 1 then 0 else rectDraws x) = if (x.opt != 1) = true then rectDraws x else 0 := by
    by_cases h : x.opt = 1 <;> simp [h]
  obtain ⟨t, m, ht, ⟨hm, hint, -⟩, hrest⟩ := rect_enqueues (x := x) (opc := 5) (int := x.opt == 1) (rounds := x.opt != 1) hq
    (exec_accwr x s) (verdict_go (accwrOp x) s rfl hr hc hw) rfl
  rw [hn]
  exact ⟨t, m, ht, ⟨hm, hint⟩, hrest⟩

theorem accrd_enqueues {s : State} {x : ArgMX} (hq : Quiet s) (hr : Ready s [srcA x.aa x.b, srcA x.ab x.b, srcAcc x.acc x.b])
    (hc : rectChk x false s = none) (hw : mqWait s = none) : ∃ n, Enqueues s (.accrd x) (heldM s false (.accrd x)) x.sreg
      (Context.draws s.me.fmtNow n) (fun _ m => IsRect s x 4 m ∧ m.int = (m.owned && (s.tile (s.cur / 4) x.acc).imode)
        ∧ n = if m.int = true ∧ 8 ≤ ofmtOf s.me.fmtNow then 0 else rectDraws x) := by
  have hfmt : (beginIssue s).me.fmt = s.me.fmtNow := by rw [beginIssue_me s hq.1, begin_fmt]
  obtain ⟨t, m, ht, ⟨hm, hint, hown⟩, hrest⟩ := rect_enqueues (x := x) (opc := 4) (int := tileInt (beginIssue s) x.acc)
    (rounds := !(tileInt (beginIssue s) x.acc && decide (8 ≤ ofmtOf (beginIssue s).me.fmt))) hq
    (exec_accrd x s) (verdict_go (accrdOp x) s rfl hr hc hw) rfl
  refine ⟨_, t, m, ht, ⟨hm, ?_, ?_⟩, hrest⟩
  · rw [hint, hown, begin_tileInt hq]
  · rw [hint, hfmt]
    by_cases h1 : tileInt (beginIssue s) x.acc = true <;> by_cases h2 : 8 ≤ ofmtOf s.me.fmtNow <;> simp [h1, h2]

theorem accz_enqueues {s : State} {x : ArgMX} (hq : Quiet s) (hw : mqWait s = none) :
    Enqueues s (.accz x) (heldM s false (.accz x)) x.sreg (fun c => c)
      (fun _ m => m.opc = 6 ∧ m.tile = x.acc ∧ m.int = decide (x.opt = 1)) := by
  have hm : FreshEntry s { blankEntry (beginIssue s) (beginIssue s) 6 x.acc with int := x.opt == 1 } :=
    blankEntry_fresh hq.1 6 x.acc
  exact enqueues_of (F := fun c => c) (o := acczOp x) hq (exec_accz x s) (verdict_go (acczOp x) s rfl rfl rfl hw) rfl
    (Leads.begin hq) (.refl _ s) (.refl _) rfl rfl hm (fun _ _ => ⟨rfl, rfl, rfl⟩)

/-- A codebook of 1,024 bytes that begins at a multiple of 64 and ends in the scratchpad passes the checks (R194). -/
theorem mcbld_accepts {a : Word64} (hal : a.toNat % 64 = 0) (hend : a.toNat + 1024 ≤ 2 ^ 20) :
    firstSome [lowBase a, farBase a, longRegion a 1024] = none := by
  have hl : lowBase a = none := if_neg (not_not.mpr hal)
  have hf : farBase a = none := if_pos (by rw [isShort, beq_iff_eq]; exact Nat.div_eq_of_lt (by omega))
  have hg : longRegion a 1024 = none := if_neg (by show ¬1048576 < _; omega)
  rw [hl, hf, hg]
  rfl

theorem mcbld_enqueues {s : State} {x : ArgMX} (hq : Quiet s) (hr : Ready s [srcA x.aa x.b])
    (hal : (s.me.rA x.aa).toNat % 64 = 0) (hend : (s.me.rA x.aa).toNat + 1024 ≤ 2 ^ 20) (hw : mqWait s = none) :
    Enqueues s (.mcbld x) (heldM s false (.mcbld x)) x.sreg (fun c => c)
      (fun _ m => m.opc = 3 ∧ m.pa = (s.me.rA x.aa).toNat) := by
  have hpa : ((beginIssue s).me.rA x.aa).toNat = (s.me.rA x.aa).toNat := by rw [beginIssue_me s hq.1, begin_rA]
  exact enqueues_of (F := fun c => c) (o := mcbldOp x) hq (exec_mcbld x s)
    (verdict_go (mcbldOp x) s rfl hr (mcbld_accepts hal hend) hw) rfl (Leads.begin hq) (.refl _ s) (.refl _) rfl rfl
    (blankEntry_fresh hq.1 3 0) (fun _ _ => ⟨rfl, hpa⟩)

/-! ### Tokens and counters (R198, R199) -/

/-- An op without an effect issues alone. -/
theorem writes_idle {s : State} {i : Instr} {o : Op} (hq : Quiet s) (hi : exec i s = issueOne o s) (hv : verdict [o] s = .go)
    (he : o.eff (beginIssue s) (beginIssue s) = beginIssue s) (hm : o.mem = none := by rfl)
    (hb : o.bars (beginIssue s) = [] := by rfl) : Writes s i (Held.after s.me.held o) (fun c => c) :=
  writes_of' hi hq hv hm _ he (.refl _) rfl (beginIssue_me s hq.1) (fun c => .refl c) hb

theorem mwait_writes {s : State} {x : ArgMX} (hq : Quiet s) (hr : Ready s [srcS x.sreg x.b])
    (ht : tokenDone s.me ((s.me.rS x.sreg).toNat % 256) = true) :
    Writes s (.mwait x) (heldM s false (.mwait x)) (fun c => c) :=
  writes_idle (o := mwaitOp x) hq (exec_mwait x s) (verdict_go (mwaitOp x) s rfl hr rfl (if_pos ht)) rfl

theorem mwait_waits {s : State} {x : ArgMX} (hr : Ready s [srcS x.sreg x.b])
    (ht : tokenDone s.me ((s.me.rS x.sreg).toNat % 256) = false) : Waits s (.mwait x) 5 id :=
  waits_of (o := mwaitOp x) (exec_mwait x s) rfl hr rfl (if_neg (Bool.eq_false_iff.mp ht))

theorem mdrain_writes {s : State} {x : ArgMX} (hq : Quiet s) (h : s.me.out = 0) :
    Writes s (.mdrain x) (heldM s false (.mdrain x)) (fun c => c) :=
  writes_idle (o := mdrainOp) hq (exec_mdrain x s) (verdict_go mdrainOp s rfl rfl rfl (if_pos h)) rfl

theorem mdrain_waits {s : State} {x : ArgMX} (h : s.me.out ≠ 0) : Waits s (.mdrain x) 5 id :=
  waits_of (o := mdrainOp) (exec_mdrain x s) rfl rfl rfl (if_neg h)

/-- The counters read as before the bundle. -/
theorem begin_mstatVal {s : State} (hq : Quiet s) (n : Nat) : mstatVal (beginIssue s) n = mstatVal s n := by
  rw [mstatVal, mstatVal, beginIssue_cur, begin_homeCore s hq.1, beginIssue_me s hq.1,
    (beginIssue_elsewhere s hq.1).2.1]
  rfl

theorem mstat_writes {s : State} {x : ArgMX} (hq : Quiet s) : Writes s (.mstat x) (heldM s false (.mstat x))
    (fun c => c.wS x.sreg (mstatVal s x.opt.toNat)) := by
  refine writes_of (o := mstatOp x) (exec_mstat x s) hq (verdict_go (mstatOp x) s rfl rfl rfl rfl) rfl _ ?_
    (fun c => c.keeps_wS _ _)
  rw [← begin_mstatVal hq]
  rfl

/-! ### Traps (R172, R193, R196) -/

theorem mmaChk_pair {s : State} (x : ArgMX) (kind : Nat) (h : pairLen s.me.fmtNow = 0) :
    mmaChk x kind s = some (illegal 5 0x30 0) := by
  simp [mmaChk, h, firstSome]

theorem rectChk_beyond {s : State} {x : ArgMX} (wr : Bool)
    (h : 63 < (rectOf x).1 + (rectOf x).2.1 ∨ 63 < (rectOf x).2.2.1 + (rectOf x).2.2.2) :
    rectChk x wr s = some (illegal 5 0x34 0) := by
  simp [rectChk, h, firstSome]

theorem mcbldChk_low {a : Word64} (h : a.toNat % 64 ≠ 0) :
    firstSome [lowBase a, farBase a, longRegion a 1024] = some (illegal 5 0x33 0) := by
  have hl : lowBase a = some (illegal 5 0x33 0) := if_pos h
  rw [hl]
  rfl

/-- The tile is the last source of an `ACCRD`. -/
theorem ready_tile {s : State} {a b c : Src} (h : Ready s [a, b]) (k : Ready s [c]) : Ready s [a, b, c] := ready_append h k

/-! ### The statement -/

/-- Settles O31: it holds. An op whose checks pass ends in the queueing of one entry, read off the state before the bundle; a check
that fails, a full queue and an outstanding token decide the verdict. That `ACCRD` takes its mode at issue, and that each element
of a rounding copy draws, are log entry 23's readings. -/
theorem matrixIssue : Obligations.MatrixIssue := by
  unfold Obligations.MatrixIssue
  refine ⟨fun s x hq hlen hsaved => ?_, fun s x hq => ?_⟩
  · have hw := mqWait_room hq hlen hsaved
    refine ⟨fun hr => ⟨fun hc => ?mma, fun hc => ?mmaz, fun hc => ?accwr, fun hacc hc => ?accrd, fun hside hc => ?mmas⟩,
      fun hr hal hend => ?mcbld, ?accz⟩
    case mma => exact (mma_enqueues hq (exec_mma x s) hr hc hw).imp (fun _ _ h => h.1)
    case mmaz => exact (mma_enqueues hq (exec_mmaz x s) hr hc hw).imp (fun _ _ h => h.1)
    case accwr => exact accwr_enqueues hq hr hc hw
    case accrd => exact accrd_enqueues hq (ready_tile hr hacc) hc hw
    case mmas => exact (mma_enqueues hq (exec_mmas x s) (ready_scaled hr hside) hc hw).imp (fun _ _ h => ⟨h.1, h.2 rfl⟩)
    case mcbld => exact mcbld_enqueues hq hr hal hend hw
    case accz => exact accz_enqueues hq hw
  · refine ⟨fun hr => ⟨fun hp => ⟨?mma, ?mmaz, fun hside => ?mmas⟩, fun hb => ⟨?accwr, fun hacc => ?accrd⟩⟩,
      fun hr hal => ?mcbld, fun hf => ⟨?accz, fun hr hc => ?full⟩, fun hr => ⟨fun ht => ?done, fun ht => ?outstanding⟩,
      fun h => ?drained, fun h => ?drains, ?mstat⟩
    case mma => exact raises_of (exec_mma x s) rfl hr (mmaChk_pair x 0 hp)
    case mmaz => exact raises_of (exec_mmaz x s) rfl hr (mmaChk_pair x 1 hp)
    case mmas => exact raises_of (exec_mmas x s) rfl (ready_scaled hr hside) (mmaChk_pair x 2 hp)
    case accwr => exact raises_of (exec_accwr x s) rfl hr (rectChk_beyond true hb)
    case accrd => exact raises_of (exec_accrd x s) rfl (ready_tile hr hacc) (rectChk_beyond false hb)
    case mcbld => exact raises_of (exec_mcbld x s) rfl hr (mcbldChk_low hal)
    case accz => exact waits_of (exec_accz x s) rfl rfl rfl (mqWait_full hq hf)
    case full => exact waits_of (exec_mma x s) rfl hr hc (mqWait_full hq hf)
    case done => exact mwait_writes hq hr ht
    case outstanding => exact mwait_waits hr ht
    case drained => exact mdrain_writes hq h
    case drains => exact mdrain_waits h
    case mstat => exact mstat_writes hq

end Sys2Proof.Machine

/-! # The halt line's events (O41)

Raising the line, its arrival at a unit, and the fault completion (R261 to R263, R282). Every arrival is one shape: the unit gives
up the launch's work, which leaves launches and queues as they are, and then one record is counted and the line is told. -/

namespace Sys2Proof.Machine

open Sys2Proof

/-! ### The halt line as it stands -/

theorem haltIs_iff {t : State} {k : Nat} {h : Halt} : HaltIs t k h ↔ ∃ l, t.launchOf k = some l ∧ l.halt = some h :=
  Option.bind_eq_some_iff

theorem haltIs_congr {s t : State} {k : Nat} {h : Halt} (e : t.launches = s.launches) : HaltIs t k h ↔ HaltIs s k h := by
  rw [HaltIs, HaltIs, State.launchOf, State.launchOf, e]

/-- A change of a launch's halt line. -/
theorem HaltIs.updHalt {t : State} {k : Nat} {h : Halt} (e : HaltIs t k h) (f : Halt → Halt) :
    HaltIs (t.updLaunch k (fun l => { l with halt := l.halt.map f })) k (f h) := by
  obtain ⟨l, hl, hh⟩ := haltIs_iff.mp e
  refine haltIs_iff.mpr ⟨_, find_updLaunch t k l hl (fun l => { l with halt := l.halt.map f }) (fun _ => rfl), ?_⟩
  show l.halt.map f = some (f h)
  rw [hh, Option.map_some]

/-! ### Raising the line (R261) -/

theorem faultCode_of {cause : Nat} (h0 : 0x80 ≤ cause) (h1 : cause ≤ 0x88) : faultCode cause = true := by
  simp only [faultCode, h0, h1, decide_true, Bool.and_self]

theorem haltedL_none {s : State} {k : Nat} {l : Launch} (h : s.launchOf k = some l) (hh : l.halt = none) :
    s.haltedL k = false := by
  rw [State.haltedL, h]
  exact congrArg Option.isSome hh

theorem haltLine_engine {s : State} {k : Nat} {l : Launch} (h : s.launchOf k = some l) (hh : l.halt = none) {cause : Nat}
    (hf : faultCode cause = true) {u : UnitId} (hu : u.kind ≠ 0) : haltLine k u cause s = raiseHalt s k u cause 0 0 := by
  simp only [haltLine, hf, h, haltedL_none h hh, Bool.not_true, Option.isNone_some, Bool.or_self, Bool.false_eq_true, if_false,
    if_neg hu]

theorem haltLine_ctx {s : State} {k : Nat} {l : Launch} (h : s.launchOf k = some l) (hh : l.halt = none) {cause : Nat}
    (hf : faultCode cause = true) {n : Nat} (hn : (s.ctx n).launch = some k) :
    haltLine k { kind := 0, inst := n } cause s = faultCtx s n cause 0 0 0 (s.ctx n).point := by
  simp only [haltLine, hf, h, haltedL_none h hh, Bool.not_true, Option.isNone_some, Bool.or_self, Bool.false_eq_true, if_false,
    if_true, hn]

/-- A line that stands is not raised again. -/
theorem haltLine_again {s : State} {k : Nat} {l : Launch} {h : Halt} (hl : s.launchOf k = some l) (hh : l.halt = some h) (u : UnitId)
    (cause : Nat) : haltLine k u cause s = s := by
  have hr : s.haltedL k = true := by rw [State.haltedL, hl]; exact congrArg Option.isSome hh
  simp only [haltLine, hr, Bool.or_true, if_true]

/-! ### A unit stops (R262, R263) -/

/-- The halt line once unit `u` has stopped, its record at position `pos` of the stop area. -/
def Halt.stops (h : Halt) (u : UnitId) (pos : Nat) : Halt :=
  { h with waiting := h.waiting.filter (· != u), done := u :: h.done, nstop := h.nstop + 1,
           fstop := if h.nstop = 0 then pos else h.fstop }

/-- `t` has the launches and the queues of `s`. -/
def SameLines (s t : State) : Prop := t.launches = s.launches ∧ t.queues = s.queues

theorem SameLines.refl (s : State) : SameLines s s := ⟨rfl, rfl⟩

theorem SameLines.trans {s t u : State} (h : SameLines s t) (k : SameLines t u) : SameLines s u :=
  ⟨k.1.trans h.1, k.2.trans h.2⟩

theorem SameLines.foldl {α : Type} (f : State → α → State) (hf : ∀ s x, SameLines s (f s x)) (l : List α) :
    ∀ s, SameLines s (l.foldl f s) := by
  induction l with
  | nil => exact .refl
  | cons x t ih => exact fun s => (hf s x).trans (ih _)

theorem OnlyMem.sameLines {s t : State} (h : OnlyMem s t) : SameLines s t := by
  unfold OnlyMem at h
  rw [h]
  exact .refl s

theorem SameLines.launchOf {s t : State} (h : SameLines s t) (k : Nat) : t.launchOf k = s.launchOf k := by
  rw [State.launchOf, State.launchOf, h.1]

theorem SameLines.queue {s t : State} (h : SameLines s t) (q : Nat) : t.queue q = s.queue q := by
  rw [State.queue, State.queue, h.2]

/-- A stop record takes its position; beside memory and the queue it changes nothing. -/
theorem putStop_keeps (s : State) (q : Nat) (rec : List Byte) : ((putStop s q rec).queue q).stopWr = (s.queue q).stopWr + 1
    ∧ putStop s q rec = { s with mem := (putStop s q rec).mem, queues := (putStop s q rec).queues } := by
  have hw : ∀ b, OnlyMem (s.updQueue q (fun q => { q with stopWr := q.stopWr + 1 })) b →
      (b.queue q).stopWr = (s.queue q).stopWr + 1 ∧ b = { s with mem := b.mem, queues := b.queues } := by
    intro b h
    rw [h.sameLines.queue, queue_updQueue_self]
    unfold OnlyMem at h
    exact ⟨rfl, h.trans (by rw [h]; rfl)⟩
  unfold putStop
  dsimp only
  split
  · exact hw _ ((OnlyMem.refl _).wrBytes _ _)
  · exact hw _ (.refl _)

/-- The launch once its unit `u` has stopped. -/
def Launch.stops (u : UnitId) (s : State) (l : Launch) : Launch :=
  { l with halt := l.halt.map (fun h => h.stops u (s.queue l.queue).stopWr) }

theorem stopUnit_eq (s : State) (l : Launch) (h : Halt) (u shown : UnitId) (a : Word64) (tail : List Byte) :
    ∃ rec, stopUnit s l h u shown a tail = (putStop s l.queue rec).updLaunch l.id (Launch.stops u s) := ⟨_, rfl⟩

/-- What a unit's stop leaves: its position in the stop area taken, the line told of it, and cores and engines as they were. -/
theorem stopUnit_facts {s : State} {l : Launch} {h : Halt} (hl : s.launchOf l.id = some l) (hh : l.halt = some h) (h' : Halt)
    (u shown : UnitId) (a : Word64) (tail : List Byte) :
    HaltIs (stopUnit s l h' u shown a tail) l.id (h.stops u (s.queue l.queue).stopWr)
    ∧ ((stopUnit s l h' u shown a tail).queue l.queue).stopWr = (s.queue l.queue).stopWr + 1
    ∧ (stopUnit s l h' u shown a tail).cores = s.cores ∧ (stopUnit s l h' u shown a tail).saved = s.saved
    ∧ (stopUnit s l h' u shown a tail).coll = s.coll := by
  obtain ⟨rec, hrec⟩ := stopUnit_eq s l h' u shown a tail
  obtain ⟨hpos, hrest⟩ := putStop_keeps s l.queue rec
  have hput : (putStop s l.queue rec).launchOf l.id = some l := by rw [hrest]; exact hl
  rw [hrec]
  refine ⟨haltIs_iff.mpr ⟨_, find_updLaunch _ _ _ hput (Launch.stops u s) (fun _ => rfl), ?_⟩, hpos, ?_, ?_, ?_⟩
  · exact (congrArg (Option.map _) hh).trans (Option.map_some ..)
  · show (putStop s l.queue rec).cores = _
    rw [hrest]
  · show (putStop s l.queue rec).saved = _
    rw [hrest]
  · show (putStop s l.queue rec).coll = _
    rw [hrest]

/-! ### What each unit gives up (R186, R365, R399, R414, R415) -/

theorem sameLines_freeBusy (s : State) (j : Nat) (l : List Nat) : SameLines s (freeBusy s j l) :=
  SameLines.foldl (fun s i => s.updSeg j i (fun e => { e with busy := e.busy - 1 })) (fun _ _ => ⟨rfl, rfl⟩) l s

theorem sameLines_requeueAll (g : Nat) : ∀ (n : Nat) (s : State), SameLines s (requeueAll g n s)
  | 0, s => .refl s
  | n + 1, s => (show SameLines s (requeueSaved s g) from ⟨rfl, rfl⟩).trans (sameLines_requeueAll g n _)

theorem sameLines_dropEntries (k g : Nat) (s : State) : SameLines s (dropEntries k g s) :=
  (show SameLines s (s.updCore g _) from ⟨rfl, rfl⟩).trans (sameLines_requeueAll g 16 _)

theorem sameLines_endJob (s : State) (g : Nat) (x : CopyJob) : SameLines s (endJob s g x) := by
  have hb : SameLines s (if x.bound then freeBusy s x.job x.segs else s) := by
    split
    · exact sameLines_freeBusy ..
    · exact .refl s
  exact hb.trans ⟨rfl, rfl⟩

theorem sameLines_dropCopies (k g : Nat) (s : State) : SameLines s (dropCopies k g s) :=
  SameLines.foldl _ (fun s x => sameLines_endJob s g x) _ s

theorem sameLines_dropSubs (k q : Nat) (s : State) : SameLines s (dropSubs k q s) := by
  refine SameLines.foldl _ (fun s p => ?_) _ s
  split
  · exact (sameLines_freeBusy s _ _).trans ⟨rfl, rfl⟩
  · exact ⟨rfl, rfl⟩

theorem sameLines_dropRecs (k n : Nat) (s : State) : SameLines s (dropRecs k n s) := by
  have hf := SameLines.foldl (fun (s : State) (r : GRec) => if r.bound then freeBusy s r.job r.segs else s) (fun s r => by
    split
    · exact sameLines_freeBusy ..
    · exact .refl s) (((s.engine n).queue ++ (s.engine n).flying).filter (fun r => r.launch == k)) s
  exact hf.trans ⟨rfl, rfl⟩

/-- What holds of a core's operations holds of them wherever they move between the queue and the saved ones. -/
theorem requeueSaved_all {s : State} {g : Nat} {p : MEntry → Prop} (h : ∀ e ∈ (s.core g).mq ++ (s.core g).savedOps, p e) :
    ∀ e ∈ ((requeueSaved s g).core g).mq ++ ((requeueSaved s g).core g).savedOps, p e := by
  intro e he
  rw [requeueSaved, core_updCore, if_pos rfl] at he
  split at he
  · exact h e (List.mem_append_left _ (by simpa using he))
  next d rest hf =>
    have hsub : ∀ x ∈ d :: rest, x ∈ (s.core g).savedOps := fun x hx => List.mem_of_mem_filter (by rw [hf]; exact hx)
    split at he
    · rcases List.mem_append.mp he with he | he
      · rcases List.mem_append.mp he with he | he
        · exact h e (List.mem_append_left _ he)
        · exact h e (List.mem_append_right _ (hsub e (by simp_all)))
      · exact h e (List.mem_append_right _ (hsub e (List.mem_cons_of_mem _ he)))
    · exact h e he

theorem requeueAll_all {g : Nat} {p : MEntry → Prop} : ∀ (n : Nat) {s : State},
    (∀ e ∈ (s.core g).mq ++ (s.core g).savedOps, p e) →
    ∀ e ∈ ((requeueAll g n s).core g).mq ++ ((requeueAll g n s).core g).savedOps, p e
  | 0, _, h => h
  | n + 1, _, h => requeueAll_all n (requeueSaved_all h)

/-- The matrix engine keeps no entry of the launch (R186). -/
theorem dropEntries_none (k g : Nat) (s : State) :
    ∀ e ∈ ((dropEntries k g s).core g).mq ++ ((dropEntries k g s).core g).savedOps, e.launch ≠ k := by
  refine requeueAll_all 16 (fun e he => ?_)
  rw [core_updCore, if_pos rfl, ← List.filter_append] at he
  simpa using (List.mem_filter.mp he).2

/-- A job leaves its core's time buffer; the jobs with other numbers stay. -/
theorem jobs_endJob (s : State) (g : Nat) (x : CopyJob) :
    ((endJob s g x).core g).jobs = (s.core g).jobs.filter (fun y => y.num != x.num) := by
  have hb : (if x.bound then freeBusy s x.job x.segs else s).core g = s.core g := by
    split
    · exact (apart_freeBusy ..).core g
    · rfl
  unfold endJob
  rw [core_updCore, if_pos rfl, hb]

theorem mem_foldl_endJob {g : Nat} {j : CopyJob} : ∀ (l : List CopyJob) {s : State},
    j ∈ ((l.foldl (fun s x => endJob s g x) s).core g).jobs → j ∈ (s.core g).jobs ∧ ∀ x ∈ l, j.num ≠ x.num
  | [], _, h => ⟨h, by simp⟩
  | x :: l, s, h => by
    obtain ⟨hj, hl⟩ := mem_foldl_endJob l h
    rw [jobs_endJob, List.mem_filter] at hj
    exact ⟨hj.1, List.forall_mem_cons.mpr ⟨by simpa using hj.2, hl⟩⟩

/-- The copy engine keeps no job that the halt abandons (R365, R414). -/
theorem dropCopies_none (k g : Nat) (s : State) : ∀ j ∈ ((dropCopies k g s).core g).jobs, abandons s k j = false := by
  intro j hj
  obtain ⟨hmem, hnum⟩ := mem_foldl_endJob _ hj
  by_contra ha
  have ha : abandons s k j = true := by simpa using ha
  have hk : (j.launch == k) = true := by
    unfold abandons at ha
    simp only [Bool.and_eq_true] at ha
    exact ha.1.1
  exact hnum j (List.mem_filter.mpr ⟨hmem, by rw [hk, ha]; rfl⟩) rfl

/-- A collective engine keeps no record of the launch (R399). -/
theorem dropRecs_none (k n : Nat) (s : State) :
    ∀ r ∈ ((dropRecs k n s).engine n).queue ++ ((dropRecs k n s).engine n).flying, r.launch ≠ k := by
  intro r hr
  simp only [dropRecs, State.updEngine, State.engine, Sparse.get_set_self, ← List.filter_append] at hr
  simpa using (List.mem_filter.mp hr).2

/-! ### A context stops (R262, R264) -/

theorem OnlyMem.pokeByte {s b : State} (h : OnlyMem s b) (j : Nat) (a : Word64) (v : Byte) : OnlyMem s (pokeByte b j a v) := by
  unfold Machine.pokeByte
  split
  · exact (h.markTile _ _).setByte _ v
  · exact h

theorem OnlyMem.poke {s : State} (j : Nat) (l : List Byte) : ∀ {b : State} (a : Word64), OnlyMem s b → OnlyMem s (poke b j a l) := by
  induction l with
  | nil => exact fun _ h => h
  | cons v t ih => exact fun a h => ih (a + 1) (h.pokeByte j a v)

/-- With no store held back, what a context has under way changes memory alone. -/
theorem onlyMem_settleStores {s : State} (n : Nat) (hd : s.deferred = []) : OnlyMem s (settleStores s n) := by
  unfold settleStores
  split
  · unfold snapWrite
    split
    · exact (OnlyMem.refl s).wrBytes _ _
    · exact (OnlyMem.refl s).poke _ _ _
  · have hr : runDeferred s n = { s with deferred := [] } := by
      rw [runDeferred, settleDeferred, hd]
      rfl
    rw [hr, ← hd]
    exact .refl s

/-- The context as it stops: HALTED, or KILLED where it was so already. -/
def Context.halts (c : Context) : Context :=
  { c with st := if c.st = .killed then .killed else .halted, after := .none, owed := none }

/-- The state in which context `n` writes its stop record. -/
def quieted (s : State) (n : Nat) : State :=
  let c := s.ctx n
  let s := (settleStores s n).updCtx n (fun d => { d with st := if c.st = .killed then .killed else .halted, after := .none, owed := none })
  let s := s.updCore (s.homeCore n) (fun k => { k with savedOps := k.savedOps.filter (fun e => e.ctx != n) })
  releaseWidth { s with saved := s.saved.map (fun x => if x.id == n then { x with ops := [] } else x) } n

theorem sameLines_releaseWidth (s : State) (n : Nat) : SameLines s (releaseWidth s n) := by
  unfold releaseWidth
  split <;> exact ⟨rfl, rfl⟩

theorem quieted_facts {s : State} {n : Nat} (hn : n < residents) (hd : s.deferred = []) :
    SameLines s (quieted s n) ∧ (quieted s n).ctx n = (s.ctx n).halts := by
  have ho := onlyMem_settleStores n hd
  have hctx : (settleStores s n).ctx n = s.ctx n := by
    unfold OnlyMem at ho
    rw [ho]
    rfl
  refine ⟨?_, ?_⟩
  · refine (ho.sameLines.trans ?_).trans (sameLines_releaseWidth _ n)
    exact ⟨updCtx_launches .., updCtx_queues ..⟩
  · have hsaved : ∀ (t : State) (x : List Saved), ({ t with saved := x } : State).ctx n = t.ctx n := by
      intro t x
      rw [State.ctx, State.ctx, if_pos hn, if_pos hn]
      rfl
    rw [quieted, ctx_releaseWidth, hsaved, ctx_updCore, ctx_updCtx_self _ hn, hctx]
    · rfl
    · exact fun _ => rfl

/-- A resident context that stops: its record, and the units to which it gave work before. -/
theorem stopCtx_eq {s : State} {n : Nat} (hm : (s.ctx n).st ≠ .mewsIn) (l : Launch) (h : Halt) :
    ∃ a b tail, stopCtx s l h n = lateUnits (stopUnit (quieted s n) l h { kind := 0, inst := n } { kind := 0, inst := b } a tail) l h := by
  unfold stopCtx
  simp only [if_neg hm]
  exact ⟨_, _, _, rfl⟩

/-- Units that the halt line did not find before are waited for. -/
theorem lateUnits_waits {k : Nat} {h : Halt} : ∀ (us : List UnitId) {t : State} {a : Halt}, (∀ u ∈ us, h.done.contains u = false) →
    HaltIs t k a → let e := us.foldl (lateUnit k h) t
      (∃ w, HaltIs e k { a with waiting := a.waiting ++ w }) ∧ e.queues = t.queues ∧ e.cores = t.cores ∧ e.saved = t.saved
  | [], _, a, _, ha => ⟨⟨[], by rw [List.append_nil]; exact ha⟩, rfl, rfl, rfl⟩
  | u :: us, t, a, hd, ha => by
    obtain ⟨hu, hus⟩ := List.forall_mem_cons.mp hd
    have hstep : lateUnit k h t u = t.updLaunch k (fun l => { l with halt := l.halt.map (fun h =>
        { h with waiting := if h.waiting.contains u then h.waiting else h.waiting ++ [u] }) }) := by
      unfold lateUnit
      rw [hu]
      rfl
    obtain ⟨⟨w, hw⟩, hq, hc, hs⟩ := lateUnits_waits us hus (ha.updHalt (fun h =>
        { h with waiting := if h.waiting.contains u then h.waiting else h.waiting ++ [u] }))
    rw [← hstep] at hw hq hc hs
    have hq0 : (lateUnit k h t u).queues = t.queues ∧ (lateUnit k h t u).cores = t.cores ∧ (lateUnit k h t u).saved = t.saved := by
      rw [hstep]
      exact ⟨rfl, rfl, rfl⟩
    refine ⟨?_, hq.trans hq0.1, hc.trans hq0.2.1, hs.trans hq0.2.2⟩
    dsimp only at hw
    split at hw
    · exact ⟨w, hw⟩
    · exact ⟨u :: w, by rw [List.append_assoc] at hw; exact hw⟩

/-! ### The arrival at each unit (R262) -/

section Arrival

variable {s : State} {k : Nat} {l : Launch} {h : Halt}

/-- What a stop leaves, from a state with the launches and queues of `s`. -/
theorem stopUnit_after {t : State} (hl : s.launchOf k = some l) (hh : l.halt = some h) (he : SameLines s t) (h' : Halt)
    (u shown : UnitId) (a : Word64) (tail : List Byte) :
    let e := stopUnit t l h' u shown a tail
    HaltIs e k (h.stops u (s.queue l.queue).stopWr) ∧ (e.queue l.queue).stopWr = (s.queue l.queue).stopWr + 1
    ∧ e.cores = t.cores ∧ e.saved = t.saved ∧ e.coll = t.coll := by
  obtain rfl := id_of_launchOf hl
  rw [← he.queue]
  exact stopUnit_facts ((he.launchOf _).trans hl) hh h' u shown a tail

section Kinds

variable {u : UnitId} (hl : s.launchOf k = some l) (hh : l.halt = some h) (hu : u ∈ h.waiting)

include hl hh hu

theorem haltArrival_ctx (hk : u.kind = 0) (hs : ctxStops s u.inst = true) : haltArrival k u s = stopCtx s l h u.inst := by
  simp [haltArrival, hl, hh, hu, hk, hs]

theorem haltArrival_matrix (hk : u.kind = 1) : haltArrival k u s = stopMatrixUnit s l h u.inst := by
  simp [haltArrival, hl, hh, hu, hk]

theorem haltArrival_copy (hk : u.kind = 2) : haltArrival k u s = stopCopyUnit s l h u.inst := by
  simp [haltArrival, hl, hh, hu, hk]

theorem haltArrival_quay (hk : u.kind = 3) : haltArrival k u s = stopQuayUnit s l h u.inst := by
  simp [haltArrival, hl, hh, hu, hk]

theorem haltArrival_coll (hk : u.kind = 4) (hm : midChunk (s.engine u.inst) k = false) :
    haltArrival k u s = stopCollUnit s l h u.inst := by
  simp [haltArrival, hl, hh, hu, hk, hm]

theorem haltArrival_other (hk : u.kind = 5 ∨ 7 ≤ u.kind) : ∃ tail, haltArrival k u s = stopUnit s l h u u 0 tail := by
  have hc : h.waiting.contains u = true := List.contains_iff_mem.mpr hu
  rcases hk with hk | hk
  · exact ⟨leBytes 8 h.detail.toNat ++ leBytes 8 h.daddr.toNat ++ zeroBytes 16, by
      simp only [haltArrival, hl, hh, hc, hk, Bool.not_true, Bool.false_eq_true, if_false]⟩
  · obtain ⟨m, hm⟩ := Nat.exists_eq_add_of_le' hk
    exact ⟨zeroBytes 32, by
      simp only [haltArrival, hl, hh, hc, hm, Bool.not_true, Bool.false_eq_true, if_false]⟩

end Kinds

/-- A context that stops: its record is counted, later units are waited for, and it keeps its registers. -/
theorem haltArrival_ctx_facts (hl : s.launchOf k = some l) (hh : l.halt = some h) {n : Nat}
    (hu : ({ kind := 0, inst := n } : UnitId) ∈ h.waiting) (hn : n < residents) (hp : (s.ctx n).pend = [])
    (hm : (s.ctx n).st ≠ .mewsIn) (hs : s.savedOf n = none) (hd : s.deferred = []) (hk : ∀ v ∈ h.done, v.kind = 0) :
    let t := haltArrival k { kind := 0, inst := n } s
    (t.queue l.queue).stopWr = (s.queue l.queue).stopWr + 1
    ∧ (∃ w, HaltIs t k { h.stops { kind := 0, inst := n } (s.queue l.queue).stopWr with
          waiting := (h.stops { kind := 0, inst := n } (s.queue l.queue).stopWr).waiting ++ w })
    ∧ t.ctx n = (s.ctx n).halts := by
  have hstop : ctxStops s n = true := by simp [ctxStops, hp, hs]
  obtain ⟨a, b, tail, heq⟩ := stopCtx_eq hm l h
  obtain ⟨hlines, hctx⟩ := quieted_facts hn hd
  obtain ⟨hhalt, hwr, hcores, hsaved, -⟩ := stopUnit_after hl hh hlines h { kind := 0, inst := n } { kind := 0, inst := b } a tail
  have hlate : ∀ u ∈ ((stopUnit (quieted s n) l h { kind := 0, inst := n } { kind := 0, inst := b } a tail).unitsOf l.id).filter
      (fun u => u.kind != 0), h.done.contains u = false := by
    intro u hu
    have h0 : u.kind ≠ 0 := by simpa using (List.mem_filter.mp hu).2
    by_contra hc
    exact h0 (hk u (by simpa using hc))
  obtain ⟨hwait, hq, hc, hsv⟩ := lateUnits_waits _ hlate hhalt
  rw [haltArrival_ctx hl hh hu rfl hstop]
  dsimp only
  rw [heq, lateUnits, id_of_launchOf hl]
  rw [id_of_launchOf hl] at hwait hq hc hsv
  refine ⟨?_, hwait, ?_⟩
  · rw [State.queue, hq]
    exact hwr
  · rw [ctx_congr hc hsv, ctx_congr hcores hsaved]
    exact hctx

/-! ### The fault completion (R262, R284) -/

/-- The launch's reservation and its children's entries freed: the halt line and the queues stay. -/
theorem freeReserve_keeps {t : State} {a : Halt} (ha : HaltIs t k a) :
    HaltIs (freeReserve t k) k a ∧ (freeReserve t k).queues = t.queues := by
  obtain ⟨p, hp⟩ := foldl_freePool (((t.launchOf k).map (·.left)).getD []) t
  obtain ⟨m, hm, hh⟩ := haltIs_iff.mp ha
  have hup := find_updLaunch (({ t with pool := p } : State)) k m hm (fun l => { l with left := [] }) (fun _ => rfl)
  rw [freeReserve]
  simp only [hp]
  exact ⟨haltIs_iff.mpr ⟨_, hup, hh⟩, rfl⟩

/-- The queue of a launch of the host that has faulted: FAULTED, or DISABLED where it was draining, its head moved on. -/
theorem settleFault_host (he : l.entry = none) :
    (settleFault s l h).launches = s.launches
    ∧ ((settleFault s l h).queue l.queue).st = (if (s.queue l.queue).st = .draining then .disabled else .faulted)
    ∧ ((settleFault s l h).queue l.queue).head = (s.queue l.queue).head + 1 := by
  obtain ⟨hl, hhead, -, -⟩ := sameHead_postRecord s l.queue (evtRecord s 0x11 h.cause l.index h.nstop h.fstop) (bitOf l.pkt.flags 0)
  simp only [settleFault, he]
  obtain ⟨hpl, hph, -⟩ := nextPacket_keeps
    (postRecord s l.queue (evtRecord s 0x11 h.cause l.index h.nstop h.fstop) (bitOf l.pkt.flags 0)) l.queue
    (some (if ((s.queue l.queue).st == .draining) = true then QState.disabled else QState.faulted))
  refine ⟨hpl.trans hl, ?_, hph.trans (by rw [hhead])⟩
  rw [st_nextPacket_some]
  simp only [beq_iff_eq]

theorem faultCompletion_facts (hl : s.launchOf k = some l) (hh : l.halt = some h) (hw : h.waiting = []) (hp : h.posted = false)
    (hk : h.killed = false) (he : l.entry = none) (ht : l.kd.traced = false) :
    let t := faultCompletion k s
    HaltIs t k { h with posted := true }
    ∧ (t.queue l.queue).st = (if (s.queue l.queue).st = .draining then .disabled else .faulted)
    ∧ (t.queue l.queue).head = (s.queue l.queue).head + 1 := by
  obtain ⟨hlaunch, hst, hhead⟩ := settleFault_host (s := s) (h := h) he
  have hsettled : HaltIs (settleFault s l h) k h := (haltIs_congr hlaunch).mpr (haltIs_iff.mpr ⟨l, hl, hh⟩)
  obtain ⟨hfree, hq⟩ := freeReserve_keeps hsettled
  have heq : faultCompletion k s = (freeReserve (settleFault s l h) k).updLaunch k (fun l =>
      { l with halt := l.halt.map (fun h => { h with posted := true }) }) := by
    simp only [faultCompletion, hl, hh, hw, hp, hk, ht, List.isEmpty_nil, Bool.not_true, Bool.or_self, Bool.false_eq_true, if_false]
  have hqueue : (faultCompletion k s).queue l.queue = (settleFault s l h).queue l.queue := by
    rw [heq, State.queue, State.queue, ← hq]
    rfl
  refine ⟨?_, (congrArg Queue.st hqueue).trans hst, (congrArg Queue.head hqueue).trans hhead⟩
  rw [heq]
  exact hfree.updHalt _

/-! ### The engines' arrivals -/

/-- The stop of a unit that is no context, from a state that keeps the launches and queues. -/
theorem happens_stop {t : State} {u u' shown : UnitId} {a : Word64} {tail : List Byte} {P : State → Prop} {h' : Halt}
    (hl : s.launchOf k = some l) (hh : l.halt = some h) (he : SameLines s t)
    (ha : haltArrival k u s = stopUnit t l h' u' shown a tail) (hu : u' = u)
    (hp : ∀ e : State, e.cores = t.cores → e.coll = t.coll → P e) :
    Happens s (.haltArrival k u) (fun e => (HaltIs e k (h.stops u (s.queue l.queue).stopWr)
      ∧ (e.queue l.queue).stopWr = (s.queue l.queue).stopWr + 1) ∧ P e) := by
  subst hu
  obtain ⟨hhalt, hwr, hcores, -, hcoll⟩ := stopUnit_after hl hh he h' u' shown a tail
  rw [← ha] at hhalt hwr hcores hcoll
  exact ⟨_, rfl, ⟨hhalt, hwr⟩, hp _ hcores hcoll⟩

end Arrival

/-- Settles O41: each unit's stop is one update of the halt line and of the queue's stop area (`stopUnit_after`), after a
change that leaves launches and queues alone (`SameLines`). -/
theorem haltEvents : Obligations.HaltEvents := by
  intro s k l hl
  refine ⟨fun hh cause h0 h1 => ⟨fun u hu => ?_, fun n hn hk => ?_⟩, fun h hh => ⟨fun u cause => ?_, fun u hu => ?_, ?_⟩⟩
  · obtain ⟨z, hz, hunit, hcause, -⟩ := raiseHalt_up s k u cause 0 0 l hl hh
    obtain ⟨-, hmem, hcores, -⟩ := raiseHalt_calm s k u cause 0 0
    refine ⟨haltLine k u cause s, rfl, ?_⟩
    rw [haltLine_engine hl hh (faultCode_of h0 h1) hu]
    exact ⟨⟨z, hz, hunit, hcause⟩, hmem, hcores⟩
  · obtain ⟨hctx, hmem, -, hup⟩ := faultCtx_facts s hn cause 0 0 0 (s.ctx n).point
    obtain ⟨z, hz, hunit, hcause, -⟩ := hup k l hk hl hh
    refine ⟨haltLine k { kind := 0, inst := n } cause s, rfl, ?_⟩
    rw [haltLine_ctx hl hh (faultCode_of h0 h1) hk]
    exact ⟨⟨z, hz, hunit, hcause⟩, hmem, hctx⟩
  · change Host.Outcome.next (haltLine k u cause s) = _
    rw [haltLine_again hl hh]
  · refine ⟨fun hk hn hp hm hs hd hdone => ?_, fun hk => ?_, fun hk => ?_, fun hk => ?_, fun hk hm => ?_, fun hk => ?_⟩
    · obtain ⟨kind, n⟩ := u
      obtain rfl : kind = 0 := hk
      obtain ⟨hwr, hhalt, hctx⟩ := haltArrival_ctx_facts hl hh hu hn hp hm hs hd hdone
      exact ⟨_, rfl, hwr, hhalt, hctx⟩
    · refine happens_stop hl hh (sameLines_dropEntries l.id u.inst s) (haltArrival_matrix hl hh hu hk) (by rw [← hk]) (fun e hc _ => ?_)
      rw [State.core, hc, ← id_of_launchOf hl]
      exact dropEntries_none l.id u.inst s
    · refine happens_stop hl hh (sameLines_dropCopies l.id u.inst s) (haltArrival_copy hl hh hu hk) (by rw [← hk]) (fun e hc _ => ?_)
      rw [State.core, hc, ← id_of_launchOf hl]
      exact dropCopies_none l.id u.inst s
    · obtain ⟨t, ht, hstop, -⟩ := happens_stop (P := fun _ => True) hl hh (sameLines_dropSubs l.id u.inst s)
        (haltArrival_quay hl hh hu hk) (by rw [← hk]) (fun _ _ _ => trivial)
      exact ⟨t, ht, hstop⟩
    · refine happens_stop hl hh (sameLines_dropRecs l.id u.inst s) (haltArrival_coll hl hh hu hk hm) (by rw [← hk]) (fun e _ hc => ?_)
      rw [State.engine, hc, ← id_of_launchOf hl]
      exact dropRecs_none l.id u.inst s
    · obtain ⟨tail, ha⟩ := haltArrival_other hl hh hu hk
      obtain ⟨t, ht, hstop, -⟩ := happens_stop (P := fun _ => True) hl hh (.refl s) ha rfl (fun _ _ _ => trivial)
      exact ⟨t, ht, hstop⟩
  · exact fun hw hp hkill he ht => ⟨_, rfl, faultCompletion_facts hl hh hw hp hkill he ht⟩

end Sys2Proof.Machine

/-! # Pre-emption through the Mews bank (O42)

The request, the preload, the swap, the spill and the fill (R187, R252 to R254, R285, R404). -/

namespace Sys2Proof.Machine

open Sys2Proof

/-! ### Saved contexts -/

theorem find_map_self (f : Saved → Saved) (id : Nat) (hf : ∀ y, (f y).id = y.id) : ∀ {l : List Saved} {x : Saved},
    l.find? (fun y => y.id == id) = some x →
    (l.map (fun y => if y.id == id then f y else y)).find? (fun y => y.id == id) = some (f x)
  | [], _, h => by simp at h
  | a :: l, x, h => by
    by_cases e : a.id = id
    · have hx : a = x := by simpa [List.find?_cons, e] using h
      simp [e, hf, ← hx]
    · rw [List.find?_cons, show (a.id == id) = false by simpa using e] at h
      rw [List.map_cons, show (a.id == id) = false by simpa using e, List.find?_cons]
      simp only [Bool.false_eq_true, if_false]
      rw [show (a.id == id) = false by simpa using e]
      exact find_map_self f id hf h

/-- A saved context after its update. -/
theorem savedOf_updSaved {s : State} {id : Nat} {x : Saved} (h : s.savedOf id = some x) (f : Saved → Saved)
    (hf : ∀ y, (f y).id = y.id) : (s.updSaved id f).savedOf id = some (f x) :=
  find_map_self f id hf h

/-- A resident context is not a saved one. -/
theorem ctx_updSaved (s : State) (id : Nat) (f : Saved → Saved) {n : Nat} (hn : n < residents) : (s.updSaved id f).ctx n = s.ctx n := by
  rw [State.ctx, State.ctx, if_pos hn, if_pos hn]
  rfl

/-! ### The preload starts (R252, R253) -/

/-- A saved context that is away becomes the incoming one of its core's bank. -/
theorem startPreload_saved {s : State} {g k id : Nat} {x : Saved} (h : s.savedOf id = some x) (hx : x.ctx.st = .mewsOut) :
    let t := startPreload g k (.saved id) s
    ((t.core g).mews = { (s.core g).mews with phase := .preloading, slot := k, inc := some (.saved id) }
      ∧ (t.savedOf id).map (·.ctx.st) = some .mewsIn ∧ t.mem = s.mem ∧ ∀ n, n < residents → t.ctx n = s.ctx n)
    ∧ t.preReqs = s.preReqs := by
  have heq : startPreload g k (.saved id) s
      = beginPreload g k (.saved id) (s.updSaved id (fun x => { x with ctx := { x.ctx with st := .mewsIn } })) := by
    simp only [startPreload, h, if_pos hx]
  have hs := savedOf_updSaved h (fun x => { x with ctx := { x.ctx with st := .mewsIn } }) (fun _ => rfl)
  rw [heq]
  refine ⟨⟨?_, congrArg (Option.map _) hs, rfl, fun n hn => ?_⟩, rfl⟩
  · rw [beginPreload, core_updCore, if_pos rfl]
    rfl
  · rw [beginPreload, ctx_updCore]
    · exact ctx_updSaved s id _ hn
    · exact fun _ => rfl

theorem preemptionRequest_saved {s : State} {i : Nat} {r : PreReq} {id : Nat} (h : s.preReqs[i]? = some r)
    (hp : canPreempt s r.core r.slot = true) (hi : r.inc = some (.saved id)) :
    preemptionRequest i s = startPreload r.core r.slot (.saved id) { s with preReqs := s.preReqs.eraseIdx i } := by
  simp only [preemptionRequest, h, hp, hi, Option.map_some, Option.getD_some, incHeld, Bool.not_true, Bool.or_self,
    Bool.false_eq_true, if_false]

theorem st_of_canRestore {s : State} {x : Saved} (h : canRestore s x = true) : x.ctx.st = .mewsOut := by
  simp only [canRestore, Bool.and_eq_true, beq_iff_eq] at h
  exact h.1.1.1.2

theorem restore_eq {s : State} {x : Saved} (h : s.savedOf x.id = some x)
    (hf : s.saved.find? (fun y => y.core == x.core && canRestore s y) = some x) :
    restore x.id s = startPreload x.core x.slot (.saved x.id) s := by
  simp only [restore, h, hf, if_true]

/-! ### The host's request (R285) -/

/-- With no candidate the host's request is for the saved context of the slot. -/
theorem chooseIncoming_saved {s : State} {g k p : Nat} {x : Saved} (hs : savedAt s g k = some x) (hc : candidate s p = none) :
    chooseIncoming s g k p = (s, some (.saved x.id)) := by
  simp only [chooseIncoming, hs, hc, Option.filter_none]

theorem preempt_now {s : State} {g k p : Nat} {x : Saved} (hg : g < Config.nCores) (hp : partOfCore s g = some p)
    (hs : savedAt s g k = some x) (hc : candidate s p = none) (h : canPreempt s g k = true) :
    preempt g k s = { s with preStat := 0, preReqs := s.preReqs ++ [{ core := g, slot := k, inc := some (.saved x.id), host := true }] } := by
  simp [preempt, hg, hp, hs, h, chooseIncoming_saved hs hc]

theorem preempt_waits {s : State} {g k p : Nat} {x : Saved} (hg : g < Config.nCores) (hp : partOfCore s g = some p)
    (hs : savedAt s g k = some x) (h : canPreempt s g k = false) :
    preempt g k s = { s with preStat := 1, preReqs := s.preReqs ++ [{ core := g, slot := k, inc := none, host := true }] } := by
  simp [preempt, hg, hp, hs, h]

/-! ### The preload ends (R253) -/

theorem inCore_updCore (s : State) (g : Nat) (f : Core → Core) :
    InCore g s (s.updCore g f) ∧ (s.updCore g f).core g = f (s.core g) := by
  refine ⟨⟨rfl, fun h hh => ?_⟩, ?_⟩
  · rw [core_updCore, if_neg hh]
  · rw [core_updCore, if_pos rfl]

theorem preload_eq {s : State} {g : Nat} {x : Saved} (hm : (s.core g).mews.phase = .preloading) (hi : incomingOf s g = some x)
    (hx : x.fresh = true ∨ mewsSlot s (savedPart s x) = true) :
    preload g s = s.updCore g (fun c => { c with mews := { c.mews with phase := .loaded } }) := by
  have h : (x.fresh || mewsSlot s (savedPart s x)) = true := by simpa using hx
  simp only [preload, hm, hi, h, if_true]

/-! ### The swap (R187, R253, R254) -/

/-- `t` has the memory, the saved contexts and the contexts of `s`. -/
def SameBank (s t : State) : Prop := t.mem = s.mem ∧ t.saved = s.saved ∧ ∀ n, t.ctx n = s.ctx n

theorem SameBank.refl (s : State) : SameBank s s := ⟨rfl, rfl, fun _ => rfl⟩

theorem SameBank.trans {s t u : State} (h : SameBank s t) (k : SameBank t u) : SameBank s u :=
  ⟨k.1.trans h.1, k.2.1.trans h.2.1, fun n => (k.2.2 n).trans (h.2.2 n)⟩

theorem sameBank_updCore (s : State) (g : Nat) {f : Core → Core} (hf : ∀ c, (f c).ctxs = c.ctxs) : SameBank s (s.updCore g f) :=
  ⟨rfl, rfl, ctx_updCore s g f hf⟩

theorem sameBank_requeueAll (g : Nat) : ∀ (n : Nat) (s : State), SameBank s (requeueAll g n s)
  | 0, s => .refl s
  | n + 1, s => by
    refine (sameBank_updCore s g (fun k => ?_)).trans (sameBank_requeueAll g n (requeueSaved s g))
    split
    · rfl
    · split <;> rfl

theorem sameBank_markTiles (g : Nat) (data : Sparse Tile) : ∀ (ts : List Nat) (s : State), SameBank s (markTiles g ts data s)
  | [], s => .refl s
  | t :: ts, s => by
    refine SameBank.trans ?_ (sameBank_markTiles g data ts _)
    refine SameBank.trans (t := s.updTile g t _) (sameBank_updCore s g ?_) (sameBank_updCore _ g ?_) <;> exact fun _ => rfl

theorem wf_updCore {s : State} (hw : Sparse.wf Core.cold s.cores = true) (g : Nat) (f : Core → Core) :
    Sparse.wf Core.cold (s.updCore g f).cores = true :=
  Sparse.wf_set Core.cold s.cores _ _ hw

theorem wf_setCtx {s : State} (hw : Sparse.wf Core.cold s.cores = true) (n : Nat) (c : Context) :
    Sparse.wf Core.cold (s.setCtx n c).cores = true := wf_updCtx hw n (fun _ => c)

theorem wf_releaseWidth {s : State} (hw : Sparse.wf Core.cold s.cores = true) (n : Nat) :
    Sparse.wf Core.cold (releaseWidth s n).cores = true := by
  unfold releaseWidth
  split
  · exact wf_updCore hw _ _
  · exact hw

theorem wf_renameCtx {s : State} (hw : Sparse.wf Core.cold s.cores = true) (old new : Nat) :
    Sparse.wf Core.cold (renameCtx old new s).cores = true :=
  Sparse.wf_mapV Core.cold _ s.cores hw

/-- A saved context stays saved as its operations are renamed. -/
theorem mem_saved_renameCtx {s : State} {y : Saved} (h : y ∈ s.saved) (old new : Nat) :
    ∃ ops, { y with ops := ops } ∈ (renameCtx old new s).saved :=
  ⟨_, List.mem_map.mpr ⟨y, h, rfl⟩⟩

theorem saved_setCtx {s : State} {n : Nat} (hn : n < residents) (c : Context) : (s.setCtx n c).saved = s.saved := by
  rw [State.setCtx, if_pos hn]
  rfl

/-- The context that a slot takes from the bank. -/
def Saved.back (x : Saved) (s : State) : Context :=
  { x.ctx with st := x.prevSt, blockedAt := awayTime s.cyc.toNat x.ctx.blockedAt }

/-- The slot with the incoming context in it, its number not yet renamed. -/
def seated (g k : Nat) (x : Saved) (s : State) : State :=
  (({ s with saved := s.saved.filter (fun y => y.id != x.id) } : State).setCtx (g * 4 + k) (x.back s)).updCore g
    (fun k => { k with savedOps := k.savedOps ++ x.ops })

/-- A context that was away before brings no frame: nothing is written. -/
theorem swapIn_eq (s : State) (g k : Nat) {x : Saved} (hx : x.fresh = false) :
    swapIn g k x s = requeueAll g 16 (markTiles g (savedTiles s x) x.tiles (renameCtx x.id (g * 4 + k) (seated g k x s))) := by
  unfold swapIn
  rw [hx]
  cases x.ctx.launch.bind s.launchOf <;> rfl

theorem seated_facts (s : State) {g k : Nat} (x : Saved) (hn : g * 4 + k < residents) :
    (seated g k x s).mem = s.mem ∧ (seated g k x s).ctx (g * 4 + k) = x.back s
    ∧ (seated g k x s).saved = s.saved.filter (fun y => y.id != x.id) := by
  refine ⟨setCtx_mem _ _ _, ?_, saved_setCtx hn _⟩
  rw [seated, ctx_updCore, ctx_setCtx_self _ hn]
  exact fun _ => rfl

theorem wf_seated {s : State} (hw : Sparse.wf Core.cold s.cores = true) (g k : Nat) (x : Saved) :
    Sparse.wf Core.cold (seated g k x s).cores = true := by
  unfold seated
  exact wf_updCore (wf_setCtx (s := { s with saved := s.saved.filter (fun y => y.id != x.id) }) hw _ _) _ _

/-- The incoming context takes its slot as it was saved, and the other saved contexts stay. -/
theorem swapIn_facts {s : State} {g k : Nat} {x : Saved} (hw : Sparse.wf Core.cold s.cores = true) (hn : g * 4 + k < residents)
    (hx : x.fresh = false) :
    (swapIn g k x s).mem = s.mem ∧ (swapIn g k x s).ctx (g * 4 + k) = x.back s
    ∧ ∀ y ∈ s.saved, y.id ≠ x.id → ∃ ops, { y with ops := ops } ∈ (swapIn g k x s).saved := by
  obtain ⟨hmem, hctx, hsaved⟩ := seated_facts s x hn
  obtain ⟨hm, hs, hc⟩ := (sameBank_markTiles g x.tiles (savedTiles s x) (renameCtx x.id (g * 4 + k) (seated g k x s))).trans
    (sameBank_requeueAll g 16 _)
  rw [swapIn_eq s g k hx, hm, hs, hc, ctx_renameCtx (wf_seated hw g k x) hn]
  refine ⟨hmem, hctx, fun y hy hne => mem_saved_renameCtx ?_ _ _⟩
  rw [hsaved]
  exact List.mem_filter.mpr ⟨hy, by simpa using hne⟩

/-- `y` holds the context that has left slot `k` of core `g` and is to be spilled. -/
def Leaving (s : State) (g k : Nat) (y : Saved) : Prop :=
  y.id = newSavedId s ∧ y.core = g ∧ y.slot = k ∧ y.spilled = false ∧ y.ctx.st = .mewsOut
  ∧ SameRegs (s.ctx (g * 4 + k)) y.ctx ∧ y.ctx.pc = (s.ctx (g * 4 + k)).pc

/-- The saved context that the outgoing one becomes. -/
def outgoing (s : State) (g k : Nat) : Saved :=
  let c := s.ctx (g * 4 + k)
  { id := newSavedId s, core := g, slot := k,
    ctx := { c with st := .mewsOut, blockedAt := awayTime s.cyc.toNat c.blockedAt, nest := { c.nest with buf := [] } },
    tiles := modesOf s g (ctxTiles s (g * 4 + k)), ops := (settleEntries (g * 4 + k) (s.core g)).2, spilled := false,
    prevSt := if c.st = .running then .ready else c.st, fresh := false }

theorem leaving_outgoing (s : State) (g k : Nat) (ops : List MEntry) : Leaving s g k { outgoing s g k with ops := ops } :=
  ⟨rfl, rfl, rfl, rfl, rfl, ⟨rfl, rfl, rfl, rfl, rfl, rfl, rfl, rfl, rfl, rfl⟩, rfl⟩

/-- The core with its outgoing context settled and without the width. -/
def unseated (g k : Nat) (s : State) : State :=
  releaseWidth (s.setCore g (settleEntries (g * 4 + k) (s.core g)).1) (g * 4 + k)

theorem swapOut_eq (s : State) (g k : Nat) : swapOut g k s = renameCtx (g * 4 + k) (newSavedId s)
    (({ unseated g k s with num := (unseated g k s).num + 1, saved := (unseated g k s).saved ++ [outgoing s g k] } : State).setCtx
      (g * 4 + k) Context.empty) := rfl

theorem unseated_facts (s : State) (g k : Nat) : (unseated g k s).mem = s.mem ∧ (unseated g k s).cyc = s.cyc := by
  unfold unseated releaseWidth
  split <;> exact ⟨rfl, rfl⟩

theorem wf_unseated {s : State} (hw : Sparse.wf Core.cold s.cores = true) (g k : Nat) :
    Sparse.wf Core.cold (unseated g k s).cores = true := by
  have h : Sparse.wf Core.cold (s.setCore g (settleEntries (g * 4 + k) (s.core g)).1).cores = true :=
    Sparse.wf_set Core.cold s.cores _ _ hw
  exact wf_releaseWidth h _

/-- The outgoing context is saved with its registers. -/
theorem swapOut_facts {s : State} {g k : Nat} (hw : Sparse.wf Core.cold s.cores = true) (hn : g * 4 + k < residents) :
    (swapOut g k s).mem = s.mem ∧ (swapOut g k s).cyc = s.cyc ∧ Sparse.wf Core.cold (swapOut g k s).cores = true
    ∧ ∃ y ∈ (swapOut g k s).saved, Leaving s g k y := by
  obtain ⟨hmem, hcyc⟩ := unseated_facts s g k
  have hwf := wf_unseated hw g k
  rw [swapOut_eq]
  generalize unseated g k s = u at hmem hcyc hwf
  have hx : outgoing s g k ∈ (({ u with num := u.num + 1, saved := u.saved ++ [outgoing s g k] } : State).setCtx
      (g * 4 + k) Context.empty).saved := by
    rw [saved_setCtx hn]
    exact List.mem_append_right _ (List.mem_singleton_self _)
  obtain ⟨ops, hy⟩ := mem_saved_renameCtx hx (g * 4 + k) (newSavedId s)
  refine ⟨(setCtx_mem _ _ _).trans hmem, (setCtx_cyc _ _ _).trans hcyc, wf_renameCtx ?_ _ _, _, hy, leaving_outgoing s g k ops⟩
  exact wf_setCtx (s := { u with num := u.num + 1, saved := u.saved ++ [outgoing s g k] }) hwf _ _

theorem slot_resident {g k : Nat} (hg : g < Config.nCores) (hk : k < 4) : g * 4 + k < residents := by
  have h : g < 768 := hg
  show g * 4 + k < 3072
  omega

/-- The bank of core `g` in its phase after a swap. -/
def bankTurns (g : Nat) (p : MewsPhase) (s : State) : State :=
  s.updCore g (fun c => { c with mews := { c.mews with phase := p, inc := none } })

theorem sameBank_bankTurns (g : Nat) (p : MewsPhase) (s : State) : SameBank s (bankTurns g p s) :=
  sameBank_updCore s g (f := fun c => { c with mews := { c.mews with phase := p, inc := none } }) (fun _ => rfl)

theorem phase_bankTurns (g : Nat) (p : MewsPhase) (s : State) : ((bankTurns g p s).core g).mews.phase = p := by
  rw [bankTurns, core_updCore, if_pos rfl]

section Swap

variable {s : State} {g : Nat} {x : Saved} (hm : (s.core g).mews.phase = .loaded) (hi : incomingOf s g = some x)

include hm hi

theorem swap_leaving (hl : mayLeave s (g * 4 + (s.core g).mews.slot) = true) :
    swap g s = bankTurns g .spilling (swapIn g (s.core g).mews.slot x (swapOut g (s.core g).mews.slot s)) := by
  simp only [swap, hm, hi, hl, if_true, bankTurns]

theorem swap_free (hl : mayLeave s (g * 4 + (s.core g).mews.slot) = false) (hf : slotFree (s.ctx (g * 4 + (s.core g).mews.slot)) = true) :
    swap g s = bankTurns g .idle (swapIn g (s.core g).mews.slot x s) := by
  simp only [swap, hm, hi, hl, hf, if_true, Bool.false_eq_true, if_false, bankTurns]

/-- The swap with a context that leaves: the slot holds the incoming context, and the outgoing one is saved. -/
theorem swap_leaving_facts (hk : g * 4 + (s.core g).mews.slot < residents) (hx : x.fresh = false)
    (hw : Sparse.wf Core.cold s.cores = true) (hl : mayLeave s (g * 4 + (s.core g).mews.slot) = true) :
    (swap g s).mem = s.mem ∧ (swap g s).ctx (g * 4 + (s.core g).mews.slot) = x.back s
    ∧ ((swap g s).core g).mews.phase = .spilling
    ∧ (x.id ≠ newSavedId s → ∃ y ∈ (swap g s).saved, Leaving s g (s.core g).mews.slot y) := by
  obtain ⟨hmem, hcyc, hwf, y, hy, hleave⟩ := swapOut_facts hw hk
  obtain ⟨hmem', hctx, hstay⟩ := swapIn_facts hwf hk hx
  obtain ⟨hbmem, hbsaved, hbctx⟩ := sameBank_bankTurns g .spilling (swapIn g (s.core g).mews.slot x (swapOut g (s.core g).mews.slot s))
  have hback : x.back (swapOut g (s.core g).mews.slot s) = x.back s := by rw [Saved.back, Saved.back, hcyc]
  rw [swap_leaving hm hi hl, hbmem, hbsaved, hbctx]
  refine ⟨hmem'.trans hmem, hctx.trans hback, phase_bankTurns .., fun hne => ?_⟩
  obtain ⟨ops, hin⟩ := hstay y hy (by rw [hleave.1]; exact hne.symm)
  exact ⟨_, hin, hleave⟩

/-- A slot that has become free is taken without a spill (R404). -/
theorem swap_free_facts (hk : g * 4 + (s.core g).mews.slot < residents) (hx : x.fresh = false)
    (hw : Sparse.wf Core.cold s.cores = true) (hl : mayLeave s (g * 4 + (s.core g).mews.slot) = false)
    (hf : slotFree (s.ctx (g * 4 + (s.core g).mews.slot)) = true) :
    (swap g s).mem = s.mem ∧ (swap g s).ctx (g * 4 + (s.core g).mews.slot) = x.back s
    ∧ ((swap g s).core g).mews.phase = .idle := by
  obtain ⟨hmem, hctx, -⟩ := swapIn_facts hw hk hx
  obtain ⟨hbmem, -, hbctx⟩ := sameBank_bankTurns g .idle (swapIn g (s.core g).mews.slot x s)
  rw [swap_free hm hi hl hf, hbmem, hbctx]
  exact ⟨hmem, hctx, phase_bankTurns ..⟩

end Swap

/-! ### The spill (R187, R253) -/

theorem get_foldl_set {α : Type} [DecidableEq α] (d : α) (f : Nat → α) (i : Nat) : ∀ (ts : List Nat) (l : Sparse α),
    Sparse.get d (ts.foldl (fun l t => Sparse.set d l t (f t)) l) i = if i ∈ ts then f i else Sparse.get d l i
  | [], _ => rfl
  | t :: ts, l => by
    rw [List.foldl_cons, get_foldl_set d f i ts, Sparse.get_set]
    by_cases ht : i = t
    · subst ht
      simp
    · simp [ht]

/-- Tiles without errors are spilled as they stand. -/
theorem spillErrs_clean {s : State} (h : Clean s) (g : Nat) (x : Saved) (t : Nat) : spillErrs g x s t = s := by
  simp only [spillErrs, eccLane_clean h, softLane_clean h, laneErrs_none, healLanes_clean h]
  rfl

theorem foldl_spillErrs_clean {s : State} (h : Clean s) (g : Nat) (x : Saved) (ts : List Nat) : ts.foldl (spillErrs g x) s = s := by
  induction ts with
  | nil => rfl
  | cons t ts ih => rw [List.foldl_cons, spillErrs_clean h, ih]

/-- A tile as the save area takes it: its lanes, and the IMODE that the swap noted. -/
def spilledTile (s : State) (g : Nat) (x : Saved) (t : Nat) : Tile :=
  { s.tile g t with unfilled := false, imode := (Sparse.get Tile.zero x.tiles t).imode }

theorem spill_eq {s : State} {g : Nat} {x : Saved} (hm : (s.core g).mews.phase = .spilling) (ho : outgoingOf s g = some x)
    (hq : quiescent s g x.id = true) (hs : mewsSlot s (savedPart s x) = true) (hc : Clean s) :
    spill g s = (s.updSaved x.id (fun y => { y with
        tiles := (savedTiles s x).foldl (fun d t => Sparse.set Tile.zero d t (spilledTile s g x t)) [], spilled := true })).updCore g
      (fun c => { c with mews := { c.mews with phase := .idle } }) := by
  simp only [spill, hm, ho, hq, hs, foldl_spillErrs_clean hc, Bool.not_true, Bool.or_self, Bool.false_eq_true, if_false]
  rfl

/-! ### The fill (R254) -/

/-- A tile takes its saved contents. -/
def fillTile (g : Nat) (s : State) (t : Nat) : State :=
  (s.updTile g t (fun y => { Sparse.get Tile.zero (s.core g).mews.fill t with unfilled := false, imode := y.imode })).updCore g
    (fun c => { c with mews := { c.mews with fill := Sparse.del t c.mews.fill } })

theorem tile_fillTile (s : State) (g t i : Nat) : (fillTile g s t).tile g i
    = if i = t then { Sparse.get Tile.zero (s.core g).mews.fill t with unfilled := false, imode := (s.tile g t).imode } else s.tile g i := by
  refine Eq.trans (tile_eq_of_tiles ?_ i) (tile_updTile s g t i
    (fun y => { Sparse.get Tile.zero (s.core g).mews.fill t with unfilled := false, imode := y.imode }))
  rw [fillTile, core_updCore, if_pos rfl]

/-- The other tiles' saved contents stay for their fill. -/
theorem fill_fillTile (s : State) (g : Nat) {t i : Nat} (h : i ≠ t) :
    Sparse.get Tile.zero ((fillTile g s t).core g).mews.fill i = Sparse.get Tile.zero (s.core g).mews.fill i := by
  rw [fillTile, core_updCore, if_pos rfl, Sparse.get_del_ne _ _ h, State.updTile, core_updCore, if_pos rfl]

/-- Every tile of a list is filled once. -/
theorem foldl_fillTile (g : Nat) : ∀ (ts : List Nat) (s : State), ts.Nodup →
    (ts.foldl (fillTile g) s).mem = s.mem
    ∧ ∀ i, (ts.foldl (fillTile g) s).tile g i = if i ∈ ts then
        { Sparse.get Tile.zero (s.core g).mews.fill i with unfilled := false, imode := (s.tile g i).imode } else s.tile g i
  | [], _, _ => ⟨rfl, fun _ => rfl⟩
  | t :: ts, s, hn => by
    obtain ⟨ht, hts⟩ := List.nodup_cons.mp hn
    obtain ⟨hmem, htile⟩ := foldl_fillTile g ts (fillTile g s t) hts
    refine ⟨hmem, fun i => ?_⟩
    rw [List.foldl_cons, htile, tile_fillTile]
    by_cases h : i = t
    · subst h
      simp [ht]
    · simp [h, fill_fillTile s g h]

theorem nodup_slotTiles (d : KDesc) (k : Nat) : (slotTiles d k).Nodup :=
  List.nodup_range.map (fun _ _ h => Nat.add_left_cancel h)

theorem tileFill_eq {s : State} {g k : Nat} {l : Launch} (hl : s.ctxLaunch (g * 4 + k) = some l)
    (hne : (slotTiles l.kd k).filter (fun i => (s.tile g i).unfilled) ≠ [])
    (hs : ∀ y ∈ s.saved, y.core = g → y.spilled = true) (hm : mewsSlot s l.part = true) :
    tileFill g k s = (((slotTiles l.kd k).filter (fun i => (s.tile g i).unfilled)).foldl (fillTile g) s).goodLanes g
      (fun t _ => ((slotTiles l.kd k).filter (fun i => (s.tile g i).unfilled)).contains t) := by
  have hbusy : s.saved.any (fun x => x.core == g && !x.spilled && (savedTiles s x).any (fun t =>
      ((slotTiles l.kd k).filter (fun i => (s.tile g i).unfilled)).contains t)) = false := by
    refine List.any_eq_false.mpr (fun y hy => ?_)
    by_cases hg : y.core = g
    · simp [hg, hs y hy hg]
    · simp [hg]
  simp only [tileFill, hl, List.isEmpty_eq_false_iff.mpr hne, hbusy, hm, Bool.not_true, Bool.and_false, Bool.or_self,
    Bool.false_eq_true, if_false]
  rfl

/-- Settles O42: a swap is an exchange of one slot (`swapOut_facts`, `swapIn_facts`) around which matrix work moves without
touching contexts or memory (`SameBank`); a spill and a fill are one pass over the slot's tiles. The context that a host's request
names is the one `savedAt` finds, the oldest saved one of the slot (R285, log entries 53 and 62). -/
theorem mewEvents : Obligations.MewEvents := by
  intro s
  refine ⟨fun i r id x hr hp hi hx hst => ?_, fun x hx hr hf => ?_, fun g k p x hg hk hp hs hc => ?_, fun g hg => ?_⟩
  · obtain ⟨hstart, hreqs⟩ := startPreload_saved (s := { s with preReqs := s.preReqs.eraseIdx i }) (g := r.core) (k := r.slot) hx hst
    exact ⟨_, congrArg Host.Outcome.next (preemptionRequest_saved hr hp hi), hstart, hreqs⟩
  · exact ⟨_, congrArg Host.Outcome.next (restore_eq hx hf), (startPreload_saved hx (st_of_canRestore hr)).1⟩
  · have hexec : exec (.preempt g k) s = .next (preempt g k s) :=
      congrArg (fun j => Host.Outcome.next (preempt g j s)) (Nat.mod_eq_of_lt hk)
    refine ⟨_, hexec, ?_⟩
    cases h : canPreempt s g k with
    | true =>
      rw [preempt_now hg hp hs hc h]
      exact ⟨rfl, fun _ => ⟨rfl, rfl⟩, fun h => absurd h (by decide)⟩
    | false =>
      rw [preempt_waits hg hp hs h]
      exact ⟨rfl, fun h => absurd h (by decide), fun _ => ⟨rfl, rfl⟩⟩
  · refine ⟨fun x hm hi hx => ?_, fun x hm hslot hi hx hw => ⟨fun hl => ?_, fun hl hf => ?_⟩, fun x hm ho hq hs hx hc => ?_,
      fun k l hk hl hne hs hm => ?_⟩
    · exact ⟨_, (if_pos hg).trans (congrArg Host.Outcome.next (preload_eq hm hi hx)), inCore_updCore s g _⟩
    · obtain ⟨hmem, hctx, hphase, hleave⟩ := swap_leaving_facts hm hi (slot_resident hg hslot) hx hw hl
      exact ⟨_, if_pos hg, ⟨hmem, hctx⟩, hphase, hleave⟩
    · obtain ⟨hmem, hctx, hphase⟩ := swap_free_facts hm hi (slot_resident hg hslot) hx hw hl hf
      exact ⟨_, if_pos hg, ⟨hmem, hctx⟩, hphase⟩
    · refine ⟨_, (if_pos hg).trans (congrArg Host.Outcome.next (spill_eq hm ho hq hs hc)), ?_, rfl, _,
        savedOf_updSaved hx _ (fun _ => rfl), rfl, rfl, fun i hi => ?_⟩
      · rw [core_updCore, if_pos rfl]
      · exact (get_foldl_set Tile.zero (spilledTile s g x) i _ _).trans (if_pos hi)
    · have hexec : exec (.tileFill g k) s = .next (tileFill g k s) := by
        refine (if_pos hg).trans ?_
        rw [Nat.mod_eq_of_lt hk]
      obtain ⟨hmem, htile⟩ := foldl_fillTile g _ s ((nodup_slotTiles l.kd k).filter (fun i => (s.tile g i).unfilled))
      exact ⟨_, hexec.trans (congrArg Host.Outcome.next (tileFill_eq hl hne hs hm)), hmem, htile⟩

end Sys2Proof.Machine

/-! # Fences (O22)

A fence's effect is the scope in the latch; the end of its issue then either ends the fence, or leaves it to be waited for. -/

namespace Sys2Proof.Machine

open Sys2Proof

/-! ### The issue of a fence (R216) -/

/-- The latch as a fence's effect leaves it. -/
def fenceLatch (s : State) (x : ArgA) : Latch := { latchBegin s.latch s.me with fence := some x.mod.val }

theorem fenceWaits_fence (s : State) (x : ArgA) :
    fenceWaits (beginIssue s) [fenceOp x] = !fenceDone (beginIssue s) s.cur x.mod s.num := by
  have hscope : fenceOf (beginIssue s) [fenceOp x] = some x.mod.val := rfl
  simp only [fenceWaits, hscope, beginIssue_cur, beginIssue_num]

theorem arrives_fence {s : State} (x : ArgA) (hq : Quiet s) :
    Arrives s s (fun c => c) (fenceLatch s x) ((beginIssue s).latched (fun l => { l with fence := some x.mod.val })) :=
  (Arrives.begin hq).latched (fun l => { l with fence := some x.mod.val })

/-- A fence issues like any op, to a state `t` at its next issue point: there it ends, or its context waits for it. -/
theorem exec_fence_from {s : State} (x : ArgA) (hq : Quiet s) :
    ∃ t, Arrives s s (fun _ => closing s s.me.held s.me.begin) (fenceLatch s x) t
      ∧ exec (.fence x) s = .next (if fenceDone (beginIssue s) s.cur x.mod s.num then fenceEnd t s.cur
          else block (t.updMe (fun c => c.awaits (.fence x.mod s.num))) s.cur 6) := by
  obtain ⟨m, hm, hfin⟩ := finish_straight (fenceOp x) (fenceWaits (beginIssue s) [fenceOp x]) s.num hq (arrives_fence x hq)
    ⟨rfl, rfl, rfl, rfl, rfl, rfl⟩ (step_off hq) ⟨rfl, rfl, rfl, rfl⟩
  have hexec := exec_commit (exec_fence x s) (verdict_go (fenceOp x) s rfl rfl rfl rfl)
  rw [effects_none _ _ _ _ rfl] at hexec
  refine ⟨m.updMe (fun c => c.owing none), hm.updMe hq.1 (fun c => c.owing none), hexec.trans (congrArg Host.Outcome.next ?_)⟩
  refine hfin.trans ?_
  simp only [fenceWaits_fence, fenceLatch, latchBegin]
  cases fenceDone (beginIssue s) s.cur x.mod s.num <;> rfl

/-! ### The end of a fence (R217) -/

/-- Without losses, and with no step stop owed, nothing follows a fence. -/
theorem fenceEnd_clean {t : State} {n : Nat} (hl : (t.ctx n).loss = 0) (ho : (t.ctx n).owed = none) : fenceEnd t n = t := by
  simp [fenceEnd, hl, settleStep, ho]

/-- Losses are cleared, and raise trap 0x51. -/
theorem fenceEnd_lossy {t : State} (hc : t.cur < residents) (hl : 0 < t.me.loss) (h0 : t.me.tlevel = 0) (hp : t.me.pend = []) :
    Elsewhere t (fenceEnd t t.cur) ∧ (fenceEnd t t.cur).me.loss = 0
    ∧ Trapped t.me (fenceEnd t t.cur).me 0x51 t.me.point 0 (lossInfo t.me) := by
  have hend : fenceEnd t t.cur
      = raisePost (t.updMe (fun c => { c with loss := 0, owed := none })) t.cur 0x51 0 (lossInfo t.me) := if_pos hl
  have hel := (Elsewhere.refl t).updMe hc (fun c => { c with loss := 0, owed := none })
  have hme : (t.updMe (fun c => { c with loss := 0, owed := none })).ctx t.cur = { t.me with loss := 0, owed := none } :=
    ctx_updCtx_self t hc _
  obtain ⟨hrest, htrap, hloss⟩ := raisePost_trapped (t.updMe (fun c => { c with loss := 0, owed := none })) hc
    (by rw [hme]; exact h0) (by rw [hme]; exact hp) (updMe_cur t _).symm 0x51 0 (lossInfo t.me)
  rw [← hend] at hrest htrap hloss
  have hcur : (fenceEnd t t.cur).me = (fenceEnd t t.cur).ctx t.cur := congrArg _ (hel.trans hrest).cur
  rw [hme] at htrap hloss
  rw [hcur]
  exact ⟨hel.trans hrest, hloss, htrap⟩

/-- Settles O22: it holds. The issue of a fence is followed to its next issue point (`exec_fence_from`); there nothing follows, the
losses raise their trap (`fenceEnd_lossy`), or the context blocks. -/
theorem fences : Obligations.Fences := by
  intro s x hq n
  obtain ⟨t, ⟨hel, -, hcur, hme⟩, hexec⟩ := exec_fence_from x hq
  have hc : t.cur < residents := hcur ▸ hq.1
  refine ⟨fun hd hl => ?_, fun hd hl h0 hp => ?_, fun hd => ?_⟩
  · rw [hd, if_pos rfl, ← hcur, fenceEnd_clean (t := t) (by rw [← State.me, hme]; exact hl) (by rw [← State.me, hme]; rfl)] at hexec
    exact ⟨t, hexec, hel, hme⟩
  · rw [hd, if_pos rfl, ← hcur] at hexec
    obtain ⟨hend, hloss, htrap⟩ := fenceEnd_lossy hc (hme ▸ hl) (hme ▸ h0) (hme ▸ hp)
    rw [hme] at htrap
    exact ⟨_, hexec, hel.trans hend, hloss, htrap⟩
  · rw [hd, if_neg Bool.false_ne_true] at hexec
    have hw := hel.updMe hq.1 (fun c => c.awaits (.fence x.mod s.num))
    have hblock := block_elsewhere (s := t.updMe (fun c => c.awaits (.fence x.mod s.num))) (by rw [updMe_cur]; exact hc) 6
    rw [updMe_cur, hcur, me_updMe t hc, hme] at hblock
    obtain ⟨hrest, hblocked⟩ := hblock
    refine ⟨_, hexec, hw.trans hrest, ?_⟩
    rw [hblocked]
    exact ⟨rfl, rfl, rfl, ⟨rfl, rfl, rfl, rfl, rfl, rfl, rfl, rfl, rfl, rfl⟩, rfl, rfl⟩

end Sys2Proof.Machine

/-! # What the host writes (O48)

A posted write or tail is performed, ends in an error, or is held back; a BAR0 write does what the command of its register does. -/

namespace Sys2Proof.Machine

open Sys2Proof

/-! ### What the host posts (R220, R280) -/

/-- Behind a write that is held back, whatever the host posts is held back too. -/
theorem postHost_behind {s : State} (o : HostOp) (h : s.hostHeld ≠ []) :
    postHost o s = { s with hostHeld := s.hostHeld ++ [o] } := by
  simp [postHost, h]

theorem postHost_done {s t : State} {o : HostOp} (h : s.hostHeld = []) (ht : tryHost s o = (t, true)) : postHost o s = t := by
  simp [postHost, h, ht]

theorem postHost_waits {s t : State} {o : HostOp} (h : s.hostHeld = []) (ht : tryHost s o = (t, false)) :
    postHost o s = { t with hostHeld := t.hostHeld ++ [o] } := by
  simp [postHost, h, ht]

/-- The wait for an absent page changes the fill requests alone. -/
theorem wantPage_fills (s : State) (j i p : Nat) : wantPage s j i p = { s with fills := (wantPage s j i p).fills } := by
  unfold wantPage
  split <;> rfl

/-! ### A write into the segments of a job (R220, R225, R230) -/

theorem hostMiss_of_ok {s : State} {j pa id : Nat} {b : Word64} (h : hostXlat s j b = .ok pa id) : hostMiss s j b = false := by
  simp [hostMiss, h]

theorem hostAbsent_of_ok {s : State} {j pa id : Nat} {b : Word64} (h : hostXlat s j b = .ok pa id) : hostAbsent s j b = none := by
  simp [hostAbsent, h]

section
variable {s : State} {j : Nat} {a : Word64} {d : List Byte} (hj : j < 32) (hp : s.place j a = .here) (hd : d ≠ [])
include hj hp hd

/-- A byte that misses ends the write with no effect but on the failures kept for it. -/
theorem tryWrite_missed (h : ∃ b ∈ addrs a d.length, hostMiss s j b = true) :
    ∃ f, tryWrite j a d s = ({ s with fillFail := f }, true) := by
  have hany : (addrs a d.length).any (hostMiss s j) = true := List.any_eq_true.mpr h
  exact ⟨_, (if_neg (Nat.not_le.mpr hj)).trans ((if_neg (by simp [hd, hp])).trans (if_pos hany))⟩

/-- Without a miss, the first absent page is waited for, then ZEROING and resets. -/
theorem tryWrite_unmissed (h : ∀ b ∈ addrs a d.length, hostMiss s j b = false) :
    tryWrite j a d s = match ((addrs a d.length).filterMap (hostAbsent s j)).head? with
      | some (id, p) => (wantPage s j id p, false)
      | none => if (addrs a d.length).any (hostHolds s j) then (s, false) else (poke s j a d, true) := by
  have hnone : ¬ (addrs a d.length).any (hostMiss s j) = true := by
    simpa only [List.any_eq_true, not_exists, not_and, Bool.not_eq_true] using h
  exact (if_neg (Nat.not_le.mpr hj)).trans ((if_neg (by simp [hd, hp])).trans (if_neg hnone))

theorem tryWrite_absent (h : ∀ b ∈ addrs a d.length, hostMiss s j b = false)
    (hb : ∃ b ∈ addrs a d.length, (hostAbsent s j b).isSome = true) :
    ∃ i p, tryWrite j a d s = (wantPage s j i p, false) := by
  obtain ⟨b, hb, ho⟩ := hb
  obtain ⟨r, hr⟩ := Option.isSome_iff_exists.mp ho
  have hne : (addrs a d.length).filterMap (hostAbsent s j) ≠ [] := List.ne_nil_of_mem (List.mem_filterMap.mpr ⟨b, hb, hr⟩)
  obtain ⟨q, t, hq⟩ := List.exists_cons_of_ne_nil hne
  rw [tryWrite_unmissed hj hp hd h, hq]
  exact ⟨q.1, q.2, rfl⟩

theorem tryWrite_present (h : ∀ b ∈ addrs a d.length, hostMiss s j b = false ∧ hostAbsent s j b = none) :
    tryWrite j a d s = if (addrs a d.length).any (hostHolds s j) then (s, false) else (poke s j a d, true) := by
  have hnil : (addrs a d.length).filterMap (hostAbsent s j) = [] := List.filterMap_eq_nil_iff.mpr (fun b hb => (h b hb).2)
  rw [tryWrite_unmissed hj hp hd (fun b hb => (h b hb).1), hnil]
  rfl

end

/-- A write at a device physical address (log entry 51). -/
theorem tryWrite_physical {s : State} {j : Nat} {a : Word64} {d : List Byte} (hj : 32 ≤ j) (h : a.toNat + d.length ≤ 2 ^ 39) :
    tryWrite j a d s = (quayBytes s a.toNat d, true) :=
  (if_pos hj).trans (congrArg (fun t => (t, true)) (if_pos h))

/-! ### Jobs (R223, R357) -/

/-- The job that an image describes. -/
def createdJob (i : JobImage) : Job :=
  { present := true, own := i.own, rglog2 := i.rglog2, keyid := i.keyid, segBase := i.segBase, rsvBase := i.rsvBase,
    rsvSize := i.rsvSize }

/-- An image within its bounds makes a job, once. -/
theorem createJob_bounded {s : State} {j : Nat} {i : JobImage} (h1 : i.own ≤ 2046) (h2 : i.rglog2 ≤ 11)
    (h3 : i.rsvBase % 2 ^ 21 = 0) (h4 : i.rsvSize % 2 ^ 21 = 0) (h5 : i.rsvBase + i.rsvSize ≤ 2 ^ 39) (hj : j < 32) :
    createJob j i s = if (s.job j).present then sorStatus 2 s else
      sorStatus 0 { s with jobs := Sparse.set Job.none s.jobs j (createdJob i) } := by
  have hb : ¬ (32 ≤ j ∨ 2046 < i.own ∨ 11 < i.rglog2 ∨ i.rsvBase % 2 ^ 21 ≠ 0 ∨ i.rsvSize % 2 ^ 21 ≠ 0
      ∨ Config.hbmBytes < i.rsvBase + i.rsvSize) := by
    have h39 : Config.hbmBytes = 2 ^ 39 := rfl
    omega
  exact if_neg hb

/-! ### Registers of BAR0 (R277, R278) -/

theorem queueBecomes_updQueue (s : State) (q : Nat) (f : Queue → Queue) :
    QueueBecomes s (s.updQueue q f) q (f (s.queue q)) :=
  ⟨rfl, queue_updQueue_self s q f, fun _ hp => Sparse.get_set_ne Queue.cold s.queues _ hp⟩

/-- A write to a queue's tail register is a tail write. -/
theorem exec_tailRegister {q : Nat} (hq : q < 8192) (v : Word64) (s : State) :
    exec (.registerWrite (8 * q) v) s = exec (.qtail q (v.setWidth 32)) s := by
  refine (congrArg Host.Outcome.next ?_).trans (if_pos hq).symm
  rw [registerWrite, if_neg (by omega), if_pos (by omega), Nat.mul_div_cancel_left q (by decide)]

/-- A write at offset `o` of the registers of a queue. -/
theorem exec_queueRegister {q o : Nat} (hq : q < 8192) (ho : o < 64) (h8 : o % 8 = 0) (v : Word64) (s : State) :
    exec (.registerWrite (0x10000 + 64 * q + o) v) s = .next (queueWrite q o v s) := by
  refine congrArg Host.Outcome.next ?_
  have hdiv : (0x10000 + 64 * q + o - 0x10000) / 64 = q := by omega
  have hmod : (0x10000 + 64 * q + o - 0x10000) % 64 = o := by omega
  rw [registerWrite, if_neg (by omega), if_neg (by omega), if_pos (by omega), hdiv, hmod]

/-- A write to the control registers of the device. -/
theorem exec_deviceRegister {off : Nat} (h : 0x90000 ≤ off) (h8 : off % 8 = 0) (v : Word64) (s : State) :
    exec (.registerWrite off v) s = .next (deviceWrite off v s) := by
  refine congrArg Host.Outcome.next ?_
  rw [registerWrite, if_neg (by omega), if_neg (by omega), if_neg (by omega)]

/-- While SEGSTAT shows a command at work, a segment command does nothing; else the low bits name it (R227). -/
theorem exec_segRegister (v : Word64) (s : State) :
    let b := bits v.toNat 38 6 * 64
    exec (.registerWrite 0x100000 v) s = .next (if s.segStat = 15 then s else
      match bits v.toNat 2 0 with
      | 0 => bindCmd s b
      | 1 => unbindCmd s b
      | 2 => releaseCmd s b
      | 3 => poolCmd s b
      | _ => s) :=
  exec_deviceRegister (by decide) (by decide) v s

theorem bits_mod_four (x : Nat) : bits x 1 0 % 4 = bits x 1 0 := Nat.mod_mod _ 4

/-! ### The statement -/

section
variable {s : State} {j : Nat} {a : Word64} {d : List Byte} (hh : s.hostHeld = []) (hd : d ≠ [])
include hh hd

/-- A host write into the segments of a job is performed, ends in an error completion, or is held back (R220, R225, R230). -/
theorem hostWrite_job (hj : j < 32) (hp : s.place j a = .here) :
    ((∀ b ∈ addrs a d.length, (∃ pa id, hostXlat s j b = .ok pa id) ∧ hostHolds s j b = false) →
        exec (.hostWrite j a d) s = .next (poke s j a d))
    ∧ ((∃ b ∈ addrs a d.length, hostMiss s j b = true) →
        Happens s (.hostWrite j a d) (fun t => t = { s with fillFail := t.fillFail }))
    ∧ ((∀ b ∈ addrs a d.length, hostMiss s j b = false) → (∃ b ∈ addrs a d.length, (hostAbsent s j b).isSome = true) →
        Happens s (.hostWrite j a d) (fun t => t = { s with hostHeld := [.write j a d], fills := t.fills }))
    ∧ ((∀ b ∈ addrs a d.length, hostMiss s j b = false ∧ hostAbsent s j b = none) →
        (∃ b ∈ addrs a d.length, hostHolds s j b = true) →
        exec (.hostWrite j a d) s = .next { s with hostHeld := [.write j a d] }) := by
  refine ⟨fun h => ?_, fun h => ?_, fun h hb => ?_, fun h hb => ?_⟩
  · have hfree : ¬ (addrs a d.length).any (hostHolds s j) = true := by
      simpa only [List.any_eq_true, not_exists, not_and, Bool.not_eq_true] using fun b hb => (h b hb).2
    have hpresent : ∀ b ∈ addrs a d.length, hostMiss s j b = false ∧ hostAbsent s j b = none := by
      intro b hb
      obtain ⟨⟨pa, id, hok⟩, -⟩ := h b hb
      exact ⟨hostMiss_of_ok hok, hostAbsent_of_ok hok⟩
    exact congrArg Host.Outcome.next (postHost_done hh ((tryWrite_present hj hp hd hpresent).trans (if_neg hfree)))
  · obtain ⟨f, hw⟩ := tryWrite_missed hj hp hd h
    exact ⟨_, congrArg Host.Outcome.next (postHost_done hh hw), rfl⟩
  · obtain ⟨i, p, hw⟩ := tryWrite_absent hj hp hd h hb
    refine ⟨_, congrArg Host.Outcome.next (postHost_waits hh hw), ?_⟩
    rw [wantPage_fills, hh]
    rfl
  · have hw := (tryWrite_present hj hp hd h).trans (if_pos (List.any_eq_true.mpr hb))
    refine congrArg Host.Outcome.next ((postHost_waits (o := .write j a d) hh hw).trans ?_)
    rw [hh]
    rfl

end

/-- Settles O48: it holds. What becomes of a host write is read off its bytes (`hostWrite_job`), and a BAR0 write is the command of the
register that its offset names. The status numbers of `CREATE_JOB` are the model's choice (log entry 49), the write at a physical
address that of log entry 51. -/
theorem hostAccess : Obligations.HostAccess := by
  intro s
  refine ⟨fun j a d hh hd => ⟨hostWrite_job hh hd, fun hj hb => ?_⟩, fun hh => ⟨fun j a d => ?_, fun q v hq => ?_⟩,
    fun j i h1 h2 h3 h4 h5 hj => ⟨fun hp => ?_, fun hp => ?_⟩, fun q hq v => ?_, fun v => ?_⟩
  · exact congrArg Host.Outcome.next (postHost_done hh (tryWrite_physical hj hb))
  · exact congrArg Host.Outcome.next (postHost_behind _ hh)
  · exact (if_pos hq).trans (congrArg Host.Outcome.next (postHost_behind _ hh))
  · exact congrArg Host.Outcome.next ((createJob_bounded h1 h2 h3 h4 h5 hj).trans (if_pos hp))
  · have hnew := (createJob_bounded (s := s) h1 h2 h3 h4 h5 hj).trans (if_neg (by simp [hp]))
    exact ⟨_, congrArg Host.Outcome.next hnew, rfl, rfl, fun k hk => Sparse.get_set_ne Job.none s.jobs (createdJob i) hk,
      Sparse.get_set_self Job.none s.jobs j (createdJob i)⟩
  · have hreg := fun o (ho : o < 64) (h8 : o % 8 = 0) => exec_queueRegister hq ho h8 v s
    have hbase := hreg 0x00 (by decide) rfl
    have hctl := hreg 0x08 (by decide) rfl
    have hevtHd := hreg 0x20 (by decide) rfl
    have hcmd := hreg 0x30 (by decide) rfl
    refine ⟨exec_tailRegister hq v s,
      fun hv => by subst hv; exact hcmd.trans (if_pos hq).symm, fun hv => by subst hv; exact hcmd.trans (if_pos hq).symm,
      fun hv => by subst hv; exact hcmd.trans (if_pos hq).symm, fun hv => by subst hv; exact hcmd.trans (if_pos hq).symm,
      ⟨_, hevtHd, queueBecomes_updQueue s q (fun x => { x with evtHd := v })⟩, fun hst => ⟨?_, ?_⟩, fun hst => ⟨?_, ?_⟩⟩
    · exact ⟨_, hbase.trans (congrArg Host.Outcome.next (if_pos hst)),
        queueBecomes_updQueue s q (fun x => { x with base := v })⟩
    · exact ⟨_, hctl.trans (congrArg Host.Outcome.next (if_pos hst)),
        queueBecomes_updQueue s q (fun x => { x with ctl := v &&& 0x1F1FFF })⟩
    · exact hbase.trans (congrArg Host.Outcome.next (if_neg hst))
    · exact hctl.trans (congrArg Host.Outcome.next (if_neg hst))
  · have hdev := fun off (h : 0x90000 ≤ off) (h8 : off % 8 = 0) => exec_deviceRegister h h8 v s
    have hseg := exec_segRegister v s
    have hpre : exec (.preempt (bits v.toNat 11 2) (bits v.toNat 1 0)) s
        = .next (preempt (bits v.toNat 11 2) (bits v.toNat 1 0) s) :=
      congrArg (fun k => Host.Outcome.next (preempt (bits v.toNat 11 2) k s)) (bits_mod_four v.toNat)
    exact ⟨fun hv => by rw [hv] at hseg; exact hseg, fun hv => by rw [hv] at hseg; exact hseg,
      fun hv => by rw [hv] at hseg; exact hseg, fun hv => by rw [hv] at hseg; exact hseg,
      hdev 0x100010 (by decide) rfl, hdev 0x100018 (by decide) rfl, (hdev 0x100020 (by decide) rfl).trans hpre.symm⟩

end Sys2Proof.Machine

/-! # Bulk changes of memory and of segment tables

What a cleared range, a copied range and an updated segment entry read as: the rules that the statements about pages, segment
commands and migrations share. -/

namespace Sys2Proof.Machine

open Sys2Proof

/-! ### Ranges cleared and copied -/

/-- Thinning a table out by its keys leaves the keys kept as they read. -/
theorem get_filter_keys {α : Type} (d : α) (p : Nat → Bool) (t : Sparse α) (k : Nat) :
    Sparse.get d (t.filter (fun c => p c.1)) k = if p k = true then Sparse.get d t k else d := by
  induction t with
  | nil => simp
  | cons c t ih =>
    obtain ⟨j, v⟩ := c
    by_cases hk : k = j
    · subst hk
      by_cases hp : p k = true
      · simp [Sparse.get, hp]
      · simpa [hp] using ih
    · by_cases hp : p j = true <;> simp [Sparse.get, hp, hk, ih]

theorem byte_clearRange (s : State) (pa n a : Nat) :
    (s.clearRange pa n).byte a = if pa ≤ a ∧ a < pa + n then 0 else s.byte a := by
  refine (get_filter_keys 0 (fun k => !(decide (pa ≤ k) && decide (k < pa + n))) s.mem a).trans ?_
  by_cases hin : pa ≤ a ∧ a < pa + n
  · rw [if_pos hin, if_neg (by simpa using hin)]
  · rw [if_neg hin, if_pos (by simp; omega), State.byte]

theorem onlyMem_clearRange (s : State) (pa n : Nat) : OnlyMem s (s.clearRange pa n) := rfl

/-- A canonical table reads as unlisted below its first key. -/
theorem get_below {α : Type} [DecidableEq α] (d : α) {k : Nat} : ∀ {t : Sparse α} {lo : Nat},
    Sparse.wfFrom d lo t = true → k < lo → Sparse.get d t k = d
  | [], _, _, _ => rfl
  | (j, v) :: t, lo, h, hk => by
    simp only [Sparse.wfFrom, Bool.and_eq_true, decide_eq_true_eq] at h
    obtain ⟨⟨hlo, -⟩, ht⟩ := h
    rw [Sparse.get, if_neg (by omega), get_below d ht (by omega)]

/-- One listed byte of a copied range put in its new place. -/
def moveCell (src dst : Nat) (s : State) (c : Host.Cell) : State := s.setByte (c.1 - src + dst) c.2

theorem onlyMem_moveCells (src dst : Nat) (l : List Host.Cell) (s : State) : OnlyMem s (l.foldl (moveCell src dst) s) :=
  OnlyMem.foldl _ (fun _ _ h => h.setByte _ _) l (.refl s)

/-- Each listed byte lands in its own new place, and a place that none lands in keeps its byte. -/
theorem byte_moveCells {src dst : Nat} (a : Nat) : ∀ (l : List Host.Cell) (s : State) {lo : Nat}, (∀ c ∈ l, src ≤ c.1) →
    Sparse.wfFrom 0 lo l = true → (l.foldl (moveCell src dst) s).byte a
      = if dst ≤ a ∧ Sparse.get 0 l (a - dst + src) ≠ 0 then Sparse.get 0 l (a - dst + src) else s.byte a
  | [], s, lo, _, _ => by simp
  | (j, v) :: t, s, lo, hsrc, h => by
    simp only [Sparse.wfFrom, Bool.and_eq_true, decide_eq_true_eq, Bool.not_eq_true', decide_eq_false_iff_not] at h
    obtain ⟨⟨-, hv⟩, ht⟩ := h
    have hj : src ≤ j := hsrc _ (List.mem_cons_self ..)
    rw [List.foldl_cons, byte_moveCells a t _ (fun c hc => hsrc c (List.mem_cons_of_mem _ hc)) ht, moveCell]
    by_cases ha : a = j - src + dst
    · have hold : a - dst + src = j := by omega
      have hread : ((s.setByte (j - src + dst) v)).byte a = v := ha ▸ byte_setByte_self s a v
      have hnew := get_below 0 ht (Nat.lt_succ_self j)
      rw [hold, Sparse.get, if_pos rfl, hnew, hread, if_neg (by simp), if_pos ⟨by omega, hv⟩]
    · rw [byte_setByte_ne _ _ ha]
      by_cases hda : dst ≤ a
      · have hne : a - dst + src ≠ j := by omega
        simp [Sparse.get, hne]
      · simp [hda]

/-- A copied range reads in its new place as it did in the old one, and every other byte is as it was. -/
theorem byte_copyRange {s : State} (hw : Memory.wf s.mem = true) (src dst n a : Nat) :
    (s.copyRange src dst n).byte a = if dst ≤ a ∧ a < dst + n then s.byte (a - dst + src) else s.byte a := by
  let inside : Nat → Bool := fun k => decide (src ≤ k) && decide (k < src + n)
  have hsrc : ∀ c ∈ s.mem.filter (fun c => inside c.1), src ≤ c.1 := by
    intro c hc
    simp only [inside, List.mem_filter, Bool.and_eq_true, decide_eq_true_eq] at hc
    exact hc.2.1
  have hmoved := byte_moveCells (dst := dst) a _ (s.clearRange dst n) hsrc (Sparse.wfFrom_filter 0 (fun c => inside c.1) s.mem 0 hw)
  refine hmoved.trans ?_
  rw [get_filter_keys 0 inside s.mem, byte_clearRange]
  by_cases hin : dst ≤ a ∧ a < dst + n
  · have hread : inside (a - dst + src) = true := by simp [inside]; omega
    by_cases hz : s.byte (a - dst + src) = 0
    · rw [if_pos hread, if_neg (fun h => h.2 hz), if_pos hin, if_pos hin, hz]
    · rw [if_pos hread, if_pos ⟨hin.1, hz⟩, if_pos hin, State.byte]
  · have hout : ¬ (dst ≤ a ∧ inside (a - dst + src) = true) := by simp [inside]; omega
    rw [if_neg hin, if_neg hin, if_neg]
    rintro ⟨hda, hne⟩
    exact hne (if_neg (fun h => hout ⟨hda, h⟩))

theorem onlyMem_copyRange (s : State) (src dst n : Nat) : OnlyMem s (s.copyRange src dst n) :=
  onlyMem_trans (onlyMem_clearRange s dst n) (onlyMem_moveCells src dst _ _)

/-! ### Segment entries -/

theorem OnlyMem.segs {s t : State} (h : OnlyMem s t) : t.segs = s.segs := by rw [h]

theorem seg_updSeg_self (s : State) (j i : Nat) (f : Seg → Seg) : (s.updSeg j i f).seg j i = f (s.seg j i) :=
  Sparse.get_set_self Seg.free s.segs _ _

/-- A state whose segment table is that of an update of one entry differs in that entry alone. -/
theorem segBecomes_of {s u t : State} {j i : Nat} {d : Seg} (h : t = { u with segs := t.segs }) (hu : u.segs = s.segs)
    (ht : t.segs = Sparse.set Seg.free s.segs (j * 4096 + i) d) : SegBecomes u t j i d := by
  refine ⟨h, ?_, fun k m hkm => ?_⟩ <;> rw [State.seg, ht]
  · exact Sparse.get_set_self ..
  · rw [State.seg, hu]
    exact Sparse.get_set_ne Seg.free s.segs d hkm

end Sys2Proof.Machine

/-! # Segment commands, zeroing and draining (O45)

Each command is an equation per outcome, then the statement. -/

namespace Sys2Proof.Machine

open Sys2Proof

/-! ### The commands while SEGSTAT shows none at work (R227, R277) -/

section
variable {s : State} (h : s.segStat ≠ 15) (b : Nat)
include h

theorem exec_bind : exec (.bind b) s = .next (bindCmd s b) := congrArg Host.Outcome.next (if_neg h)

theorem exec_unbind : exec (.unbind b) s = .next (unbindCmd s b) := congrArg Host.Outcome.next (if_neg h)

theorem exec_release : exec (.release b) s = .next (releaseCmd s b) := congrArg Host.Outcome.next (if_neg h)

theorem exec_pool : exec (.pool b) s = .next (poolCmd s b) := congrArg Host.Outcome.next (if_neg h)

end

/-- A command that updates one entry and gives status 0. -/
theorem happens_segCommand {s : State} {i : Instr} {j g : Nat} {f : Seg → Seg}
    (h : exec i s = .next (segStatus (s.updSeg j g f) 0)) :
    Happens s i (fun t => SegBecomes { s with segStat := 0 } t j g (f (s.seg j g))) :=
  ⟨_, h, segBecomes_of (s := s) rfl rfl rfl⟩

section
variable {s : State} {b : Nat}

theorem bindCmd_malformed (h : badImage s (hbmAddr b + 8) = true ∨ 32 ≤ cmdJob s b ∨ 4096 ≤ cmdSeg s b) :
    bindCmd s b = segStatus s 1 := if_pos (by simpa [or_assoc] using h)

/-- The entry that a BIND of a free entry makes. -/
def boundImage (s : State) (b : Nat) : Seg :=
  { segImage s (hbmAddr b + 8) with st := if (segImage s (hbmAddr b + 8)).tier then .bound else .zeroing, busy := 0 }

/-- A well-formed BIND of a free entry that meets no other makes it; any other is a CONFLICT. -/
theorem bindCmd_wellFormed (hb : badImage s (hbmAddr b + 8) = false) (hj : cmdJob s b < 32) (hi : cmdSeg s b < 4096) :
    bindCmd s b = if (s.seg (cmdJob s b) (cmdSeg s b)).st ≠ .free ∨ overlaps s (cmdJob s b) (segImage s (hbmAddr b + 8)) = true
      then segStatus s 2 else segStatus (s.updSeg (cmdJob s b) (cmdSeg s b) (fun _ => boundImage s b)) 0 := by
  have hok : ¬ (badImage s (hbmAddr b + 8) || decide (32 ≤ cmdJob s b) || decide (4096 ≤ cmdSeg s b)) = true := by
    simp [hb]; omega
  refine (if_neg hok).trans ?_
  simp [boundImage]

theorem unbindCmd_beyond (hi : 4096 ≤ cmdSeg s b) : unbindCmd s b = segStatus s 2 := if_pos hi

/-- What an UNBIND of an entry does, by its state. -/
theorem unbindCmd_entry (hi : cmdSeg s b < 4096) :
    unbindCmd s b = match (s.seg (cmdJob s b) (cmdSeg s b)).st with
      | .bound => segStatus (s.updSeg (cmdJob s b) (cmdSeg s b) (fun e => { e with st := .draining })) 0
      | .zeroing => segStatus s 3
      | .migrating => segStatus s 3
      | _ => segStatus s 2 := if_neg (Nat.not_le.mpr hi)

/-- The fields of a POOL command, which pass the checks of R227. -/
structure PoolFields (s : State) (b first count dir : Nat) : Prop where
  atFirst : first = rd s (hbmAddr b + 8) 8
  atCount : count = rd s (hbmAddr b + 16) 8
  atDir : rd s (hbmAddr b + 24) 1 = dir
  aligned : first % 2 ^ 21 = 0
  nonempty : count ≠ 0
  fits : first + count * 2 ^ 21 ≤ 2 ^ 39
  known : dir ≤ 1
  zeros : rd s (hbmAddr b + 2) 6 = 0 ∧ rd s (hbmAddr b + 25) 39 = 0

/-- A POOL of well-formed fields: a page that lies in a segment is a CONFLICT, and else its direction decides. -/
theorem poolCmd_wellFormed {first count dir : Nat} (h : PoolFields s b first count dir) :
    poolCmd s b = if (poolPages first count).any (pageBound s) then segStatus s 2
      else if dir = 0 then
        if s.sorric.modes.contains 0 || (poolPages first count).any (fun p => s.dzPool.contains p) then segStatus s 2
        else segStatus { s with dzPool := s.dzPool ++ poolPages first count } 0
      else if (poolPages first count).any (fun p => !s.dzPool.contains p) then segStatus s 2
      else segStatus { s with dzPool := s.dzPool.filter (fun p => !(poolPages first count).contains p) } 0 := by
  have hok : ¬ (first % 2 ^ 21 ≠ 0 ∨ count = 0 ∨ 2 ^ 39 < first + count * 2 ^ 21 ∨ 1 < dir
      ∨ rd s (hbmAddr b + 2) 6 ≠ 0 ∨ rd s (hbmAddr b + 25) 39 ≠ 0) := by
    have hal := h.aligned
    have hend := h.fits
    have hdir := h.known
    have hne := h.nonempty
    obtain ⟨hz1, hz2⟩ := h.zeros
    omega
  rw [poolCmd, ← h.atFirst, ← h.atCount, h.atDir]
  exact if_neg hok

/-- An add takes pages that are neither bound nor pooled, all of them or none. -/
theorem poolCmd_add {first count : Nat} (h : PoolFields s b first count 0) (hm : 0 ∉ s.sorric.modes) :
    poolCmd s b = if ∃ p ∈ poolPages first count, pageBound s p = true ∨ p ∈ s.dzPool then segStatus s 2
      else segStatus { s with dzPool := s.dzPool ++ poolPages first count } 0 := by
  rw [poolCmd_wellFormed h, if_pos rfl]
  by_cases hb : ∃ p ∈ poolPages first count, pageBound s p = true
  · rw [if_pos (List.any_eq_true.mpr hb), if_pos (by grind)]
  · rw [if_neg (by simpa using hb)]
    exact if_congr (by simp [hm]; grind) rfl rfl

/-- A removal takes pages that are pooled and not bound, all of them or none. -/
theorem poolCmd_remove {first count : Nat} (h : PoolFields s b first count 1) :
    poolCmd s b = if ∃ p ∈ poolPages first count, pageBound s p = true ∨ p ∉ s.dzPool then segStatus s 2
      else segStatus { s with dzPool := s.dzPool.filter (fun p => !(poolPages first count).contains p) } 0 := by
  rw [poolCmd_wellFormed h, if_neg Nat.one_ne_zero]
  by_cases hb : ∃ p ∈ poolPages first count, pageBound s p = true
  · rw [if_pos (List.any_eq_true.mpr hb), if_pos (by grind)]
  · rw [if_neg (by simpa using hb)]
    exact if_congr (by simp; grind) rfl rfl

end

/-! ### Zeroing (R228) -/

theorem onlyMem_zeroSegment (s : State) (e : Seg) : OnlyMem s (zeroSegment s e) := by
  unfold zeroSegment
  split
  · refine OnlyMem.foldl _ (fun u p hu => ?_) _ (.refl s)
    split
    · exact onlyMem_trans hu (onlyMem_clearRange ..)
    · exact hu
  · exact onlyMem_clearRange ..

theorem byte_zeroSegment (s : State) {e : Seg} (h : e.dz = false) (a : Nat) :
    (zeroSegment s e).byte a = if e.pbase ≤ a ∧ a < e.pbase + e.len then 0 else s.byte a := by
  rw [zeroSegment, h]
  exact byte_clearRange ..

/-- A zeroed segment's entry is all that changes beside memory. -/
theorem zeroed_becomes (s : State) (e : Seg) (j i : Nat) (f : Seg → Seg) :
    let t := (zeroSegment s e).updSeg j i f
    SegBecomes { s with mem := t.mem } t j i (f (s.seg j i)) := by
  have hz := onlyMem_zeroSegment s e
  have hsegs := hz.segs
  refine segBecomes_of (s := zeroSegment s e) ?_ hsegs.symm ?_
  · exact congrArg (fun v : State => { v with segs := ((zeroSegment s e).updSeg j i f).segs }) hz
  · rw [show s.seg j i = (zeroSegment s e).seg j i by rw [State.seg, State.seg, hsegs]]
    rfl

/-! ### The statement -/

/-- Settles O45: it holds. Each command's outcomes are an equation, and a change is that of one entry of the table, or of the
pool. The numbers of the statuses are the model's choice (log entry 49), and that zeroing sets no plane bits is the reading of log
entry 13. -/
theorem segmentCommands : Obligations.SegmentCommands := by
  refine ⟨fun s b hs => ?_, fun s j i => ⟨fun hst => ?_, fun hst hbusy => ?_⟩⟩
  · have hbind := fun t h => (exec_bind hs b).trans (congrArg Host.Outcome.next (show bindCmd s b = t from h))
    have hunbind := fun t h => (exec_unbind hs b).trans (congrArg Host.Outcome.next (show unbindCmd s b = t from h))
    have hrelease := fun t h => (exec_release hs b).trans (congrArg Host.Outcome.next (show releaseCmd s b = t from h))
    have hpool := fun t h => (exec_pool hs b).trans (congrArg Host.Outcome.next (show poolCmd s b = t from h))
    refine ⟨fun hb hj hi => ⟨fun hfree hov => ?_, fun hc => ?_⟩, fun hb => hbind _ (bindCmd_malformed hb), fun hi hst => ?_,
      fun hi hst => ?_, fun h => ?_, fun hi hst => ?_, fun h => ?_, fun first count hf hn hal hc hend hz1 hz2 =>
      ⟨fun hdir hm => ?_, fun hdir => ?_⟩⟩
    · exact happens_segCommand (hbind _ ((bindCmd_wellFormed hb hj hi).trans (if_neg (by simp [hfree, hov]))))
    · exact hbind _ ((bindCmd_wellFormed hb hj hi).trans (if_pos hc))
    · exact happens_segCommand (hunbind _ ((unbindCmd_entry hi).trans (by rw [hst])))
    · rcases hst with hst | hst <;> exact hunbind _ ((unbindCmd_entry hi).trans (by rw [hst]; rfl))
    · by_cases hi : 4096 ≤ cmdSeg s b
      · exact hunbind _ (unbindCmd_beyond hi)
      · have hentry := unbindCmd_entry (Nat.not_le.mp hi)
        rcases h.resolve_left hi with hst | hst | hst <;> exact hunbind _ (hentry.trans (by rw [hst]; rfl))
    · exact happens_segCommand (hrelease _ (if_pos ⟨hi, hst⟩))
    · exact hrelease _ (if_neg (fun hr => h.elim hr.1.not_ge (· hr.2)))
    · have hadd := poolCmd_add ⟨hf, hn, hdir, hal, hc, hend, Nat.zero_le _, ⟨hz1, hz2⟩⟩ hm
      exact ⟨fun hp => hpool _ (hadd.trans (if_neg (by grind))), fun hp => hpool _ (hadd.trans (if_pos hp))⟩
    · have hremove := poolCmd_remove ⟨hf, hn, hdir, hal, hc, hend, le_rfl, ⟨hz1, hz2⟩⟩
      exact ⟨fun hp => hpool _ (hremove.trans (if_neg (by grind))), fun hp => hpool _ (hremove.trans (if_pos hp))⟩
  · exact happens_of rfl (if_pos (by simp [hst]))
      ⟨zeroed_becomes s (s.seg j i) j i _, fun hdz a => byte_zeroSegment s hdz a⟩
  · exact happens_of rfl (if_pos (by simp [hst, hbusy])) (segBecomes_of (s := s) rfl rfl rfl)

end Sys2Proof.Machine

/-! # Migrations (O46)

The migration control's answer, the copy and the rebinding (R242 to R245): an equation per event, then the statement. -/

namespace Sys2Proof.Machine

open Sys2Proof

/-! ### The answer to a request (R243, R245) -/

section
variable {s : State} {n : Nat} {x : ArgX}

/-- A resident context that waits at its `XMIGR` is answered. -/
theorem migrationAccept_asked (hn : n < residents) (hm : (s.ctx n).mgrant = .asked 0) (hr : (s.ctx n).reason = 13)
    (hx : standingXmigr s n = some x) : migrationAccept n s = acceptMig s n x := by
  rw [migrationAccept, if_pos ⟨hm, hr, hn.trans (by decide)⟩, hx]

theorem acceptMig_refused (h : migReasonOf x s (s.ctx n) n ≠ 0) :
    acceptMig s n x = s.updCtx n (fun c => { c with mgrant := .done (migReasonOf x s (s.ctx n) n) }) := if_pos h

/-- The migration that an accepted request starts. -/
def startedMig (s : State) (n : Nat) (x : ArgX) : Migration :=
  let t := s.updCtx n (fun c => { c with mgrant := .done 0 })
  { job := s.jobOf n, seg := migSeg x (s.ctx n), dst := (t.job (s.jobOf n)).rsvBase + ((s.ctx n).rA x.adesc).toNat,
    ctr := (s.ctx n).rA (x.adesc + 1), deadline := (s.ctx n).rS x.sreg, core := t.homeCore n, part := t.partOf n,
    copied := false }

theorem acceptMig_accepted (h : migReasonOf x s (s.ctx n) n = 0) :
    acceptMig s n x = { (s.updCtx n (fun c => { c with mgrant := .done 0 })).updSeg (s.jobOf n) (migSeg x (s.ctx n))
        (fun e => { e with st := .migrating }) with
      migs := s.migs ++ [startedMig s n x] } := by
  unfold acceptMig
  dsimp only
  rw [h, if_neg (by decide), updCtx_migs]
  rfl

end

/-! ### The copy (R243, R244) -/

/-- A migration noted as copied, where it is that of the segment. -/
def markCopied (j i : Nat) (n : Migration) : Migration := if n.job == j && n.seg == i then { n with copied := true } else n

theorem find_markCopied (j i : Nat) : ∀ (l : List Migration), (l.map (markCopied j i)).find? (fun m => m.job == j && m.seg == i)
    = (l.find? (fun m => m.job == j && m.seg == i)).map (fun m => { m with copied := true })
  | [] => rfl
  | n :: l => by
    by_cases h : (n.job == j && n.seg == i) = true
    · simp [markCopied, h]
    · simp [markCopied, h, find_markCopied j i l]

theorem migCopy_copies {s : State} {j i : Nat} {m : Migration} (hm : migOf s j i = some m) (hst : (s.seg j i).st = .migrating)
    (hb : (s.seg j i).busy = 0) (hc : m.copied = false) (ho : s.ownSlot m.part s.cyc.toNat = true) :
    migCopy s j i = { s.copyRange (s.seg j i).pbase m.dst (s.seg j i).len with migs := s.migs.map (markCopied j i) } := by
  rw [migCopy, hm]
  exact if_neg (by simp [hst, hb, hc, ho])

/-! ### The rebinding (R243, R244) -/

/-- The segment is BOUND at its new pages, and its migration is over. -/
def rebound (s : State) (j i : Nat) (m : Migration) : State :=
  { s.updSeg j i (fun e => { e with pbase := m.dst, st := .bound }) with
    migs := s.migs.filter (fun n => !(n.job == j && n.seg == i)) }

/-- Without a counter, all that a rebinding adds is the slip of a deadline that has passed. -/
theorem rebind_copied {s : State} {j i : Nat} {m : Migration} (hm : migOf s j i = some m) (hc : m.copied = true)
    (h0 : m.ctr = 0) : rebind s j i
      = if m.deadline ≠ 0 ∧ m.deadline.toNat < s.cyc.toNat / 1024 then addSlip (rebound s j i m) m.part else rebound s j i m := by
  rw [rebind, hm]
  simp only [hc, h0, Bool.not_true, Bool.false_eq_true, if_false, if_true]
  rfl

theorem seg_updCtx (s : State) (n : Nat) (f : Context → Context) (j i : Nat) : (s.updCtx n f).seg j i = s.seg j i := by
  rw [State.seg, State.seg, updCtx_segs]

/-- A partition's slip counter, one higher unless it is saturated (R244). -/
def slipped (p : Partition) : Partition := { p with slip := if p.slip.toNat = 2 ^ 32 - 1 then p.slip else p.slip + 1 }

theorem addSlip_part {s : State} {k : Nat} {p : Partition} (h : s.part k = some p) :
    addSlip s k = { s with parts := Sparse.set none s.parts k (some (slipped p)) } := by
  rw [addSlip, h]
  rfl

/-- Settles O46: it holds. An answer, a copy and a rebinding are each one equation. -/
theorem migrations : Obligations.Migrations := by
  refine ⟨fun s n x hn hg hr hx => ?_,
    fun s j i m hm => ⟨fun hst hb hc ho => ?_, fun hc h0 => ⟨fun hd => ?_, fun p hd0 hd hp => ?_⟩⟩⟩
  · have hexec : exec (.migrationAccept n) s = .next (acceptMig s n x) := congrArg _ (migrationAccept_asked hn hg hr hx)
    refine ⟨fun h => hexec.trans (congrArg _ (acceptMig_refused h)),
      fun h => ⟨_, hexec.trans (congrArg _ (acceptMig_accepted h)), ?_⟩⟩
    refine ⟨updCtx_mem s n _, ctx_updCtx_self s hn _, ?_, startedMig s n x, rfl, rfl, rfl, rfl, ?_, rfl, rfl⟩
    · exact (Sparse.get_set_self Seg.free _ _ _).trans (by rw [seg_updCtx])
    · rw [startedMig, State.job, updCtx_jobs, State.job]
  · refine ⟨_, congrArg Host.Outcome.next (migCopy_copies hm hst hb hc ho), ?_, ?_, fun hw a => byte_copyRange hw ..⟩
    · exact (find_markCopied j i s.migs).trans (by rw [show s.migs.find? _ = some m from hm]; rfl)
    · exact (onlyMem_copyRange s (s.seg j i).pbase m.dst (s.seg j i).len).segs
  · have hend := (rebind_copied hm hc h0).trans (if_neg (by rcases hd with hd | hd; simp [hd]; omega))
    exact happens_of rfl hend (segBecomes_of (s := s) rfl rfl rfl)
  · have hend := (rebind_copied hm hc h0).trans ((if_pos ⟨hd0, hd⟩).trans (addSlip_part (s := rebound s j i m) hp))
    exact happens_of rfl hend ⟨segBecomes_of (s := s) rfl rfl rfl, (part_of_parts (s := s) (v := some (slipped p)) rfl).1⟩

end Sys2Proof.Machine

/-! # Page requests (O47)

Who is answered when a page arrives, what a fill leaves, what a posted request carries, and the launches that a failed fill halts
(R230, R233, R239, R240). -/

namespace Sys2Proof.Machine

open Sys2Proof

/-! ### The contexts that asked (R239) -/

/-- A context after the answer `g` to the request with tag `t`: one that no longer waits for it keeps what it has. -/
def Context.told (t : Nat) (g : Grant) (c : Context) : Context := if c.grant = .asked t then { c with grant := g } else c

theorem tellAsker_tagged (s : State) {r : FillReq} {t : Nat} (h : r.tag = some t) (g : Grant) :
    tellAsker s r g = s.updCtx r.ctx (Context.told t g) := by
  rw [tellAsker, h]
  rfl

/-- `t` has the memory, the pool, the segments and the requests of `s`. -/
def SamePages (s t : State) : Prop :=
  t.mem = s.mem ∧ t.dzPool = s.dzPool ∧ t.segs = s.segs ∧ t.fills = s.fills ∧ t.cyc = s.cyc

theorem SamePages.refl (s : State) : SamePages s s := ⟨rfl, rfl, rfl, rfl, rfl⟩

theorem SamePages.trans {s t u : State} (h : SamePages s t) (k : SamePages t u) : SamePages s u :=
  ⟨k.1.trans h.1, k.2.1.trans h.2.1, k.2.2.1.trans h.2.2.1, k.2.2.2.1.trans h.2.2.2.1, k.2.2.2.2.trans h.2.2.2.2⟩

theorem samePages_updCtx (s : State) (n : Nat) (f : Context → Context) : SamePages s (s.updCtx n f) := by
  simp [SamePages]

theorem samePages_tellAsker (s : State) (r : FillReq) (g : Grant) : SamePages s (tellAsker s r g) := by
  unfold tellAsker
  split
  · exact samePages_updCtx ..
  · exact .refl s

/-- An update of one context leaves every other resident one alone. -/
theorem ctx_updCtx_other (s : State) {n m : Nat} (hn : n < residents) (h : m ≠ n) (f : Context → Context) :
    (s.updCtx m f).ctx n = s.ctx n := by
  by_cases hm : m < residents
  · exact ctx_updCtx_ne s hm f (Ne.symm h)
  · rw [State.updCtx, State.setCtx, if_neg hm]
    exact (if_pos hn).trans (if_pos hn).symm

theorem ctx_tellAsker_other (s : State) {r : FillReq} {n : Nat} (hn : n < residents) (h : r.ctx ≠ n) (g : Grant) :
    (tellAsker s r g).ctx n = s.ctx n := by
  unfold tellAsker
  split
  · exact ctx_updCtx_other s hn h _
  · rfl

theorem tellAskers_facts (g : Grant) : ∀ (l : List FillReq) (s : State), let t := l.foldl (fun s r => tellAsker s r g) s
    SamePages s t ∧ ∀ n, n < residents → (∀ r ∈ l, r.ctx ≠ n) → t.ctx n = s.ctx n
  | [], s => ⟨.refl s, fun _ _ _ => rfl⟩
  | r :: l, s => by
    obtain ⟨hp, hc⟩ := tellAskers_facts g l (tellAsker s r g)
    refine ⟨(samePages_tellAsker s r g).trans hp, fun n hn h => ?_⟩
    rw [← ctx_tellAsker_other s hn (h r (List.mem_cons_self ..)) g]
    exact hc n hn (fun q hq => h q (List.mem_cons_of_mem _ hq))

/-- Whether a request is for a page. -/
def FillReq.isFor (j seg page : Nat) (r : FillReq) : Bool := r.job == j && r.seg == seg && r.page == page

/-- The answers to a page's requests end them, and change nothing else but the contexts that made them. -/
theorem answerPage_facts (s : State) (j seg page st : Nat) : let t := answerPage s j seg page st
    t.mem = s.mem ∧ t.dzPool = s.dzPool ∧ t.segs = s.segs ∧ t.fills = s.fills.filter (fun r => !r.isFor j seg page)
    ∧ ∀ n, n < residents → (∀ r ∈ s.fills, r.isFor j seg page = true → r.ctx ≠ n) → t.ctx n = s.ctx n := by
  obtain ⟨⟨hm, hp, hs, hf, -⟩, hc⟩ := tellAskers_facts (.done st)
    (s.fills.filter (fun r => r.job == j && r.seg == seg && r.page == page && r.ctx != 0xFFFF)) s
  refine ⟨hm, hp, hs, congrArg (List.filter fun r : FillReq => !r.isFor j seg page) hf, fun n hn h => hc n hn (fun r hr => ?_)⟩
  simp only [List.mem_filter, Bool.and_eq_true] at hr
  exact h r hr.1 (by simpa [FillReq.isFor] using hr.2.1)

/-! ### A page filled from the pool (R233) -/

theorem rd_installPage (s : State) (j seg page pa : Nat) :
    rd (installPage s j seg page pa) (mapAddr (s.seg j seg) page) 8 = (pa / 2 ^ 21 * 2 ^ 21 + 1) % 2 ^ 64 := rd_wr ..

theorem byte_installPage (s : State) (j seg page pa a : Nat) (h : a < mapAddr (s.seg j seg) page ∨ mapAddr (s.seg j seg) page + 8 ≤ a) :
    (installPage s j seg page pa).byte a = if pa ≤ a ∧ a < pa + 2 ^ 21 then 0 else s.byte a :=
  (byte_wr_out _ _ _ _ _ h).trans (byte_clearRange ..)

theorem onlyMem_installPage (s : State) (j seg page pa : Nat) : OnlyMem s (installPage s j seg page pa) :=
  (onlyMem_clearRange s pa (2 ^ 21)).wr _ _ _

/-- Page `page` of segment `seg` is filled: the first page of the pool is zeroed and mapped. -/
def Filled (s t : State) (j seg page pa : Nat) (rest : List Nat) : Prop :=
  let m := mapAddr (s.seg j seg) page
  t.dzPool = rest ∧ rd t m 8 = (pa / 2 ^ 21 * 2 ^ 21 + 1) % 2 ^ 64
  ∧ ∀ a, a < m ∨ m + 8 ≤ a → t.byte a = if pa ≤ a ∧ a < pa + 2 ^ 21 then 0 else s.byte a

theorem fillPage_eq {s : State} {pa : Nat} {rest : List Nat} (h : s.dzPool = pa :: rest) (j seg page : Nat) :
    fillPage s j seg page = answerPage (installPage { s with dzPool := rest } j seg page pa) j seg page 0 := by
  rw [fillPage, h]

theorem fillPage_fills {s : State} {pa : Nat} {rest : List Nat} (h : s.dzPool = pa :: rest) (j seg page : Nat) :
    Filled s (fillPage s j seg page) j seg page pa rest
    ∧ (fillPage s j seg page).fills = s.fills.filter (fun r => !r.isFor j seg page) := by
  have honly := onlyMem_installPage { s with dzPool := rest } j seg page pa
  have hrd := rd_installPage { s with dzPool := rest } j seg page pa
  have hbyte := byte_installPage { s with dzPool := rest } j seg page pa
  rw [fillPage_eq h]
  obtain ⟨hm, hp, -, hf, -⟩ := answerPage_facts (installPage { s with dzPool := rest } j seg page pa) j seg page 0
  refine ⟨⟨hp.trans (by rw [honly]), (rd_congr hm _ _).trans hrd, fun a ha => ?_⟩, hf.trans (by rw [honly])⟩
  exact (congrArg (fun l => Sparse.get 0 l a) hm).trans (hbyte a ha)

/-! ### The fill of a page that a unit waits for (R233, R240) -/

/-- Whether a request is an engine's or a port's for a page. -/
def FillReq.atSite (j seg page : Nat) (r : FillReq) : Bool := r.job == j && r.seg == seg && r.page == page && r.ctx == 0xFFFF

theorem FillReq.atSite_iff {j seg page : Nat} {r : FillReq} :
    r.atSite j seg page = true ↔ r.job = j ∧ r.seg = seg ∧ r.page = page ∧ r.ctx = 0xFFFF := by
  simp [FillReq.atSite, and_assoc]

theorem FillReq.isFor_of_atSite {j seg page : Nat} {r : FillReq} (h : r.atSite j seg page = true) : r.isFor j seg page = true := by
  obtain ⟨hj, hs, hp, -⟩ := FillReq.atSite_iff.mp h
  simp [FillReq.isFor, hj, hs, hp]

section
variable {s : State} {j seg page : Nat}

theorem demandFill_posted (h : ∃ q ∈ s.fills, q.atSite j seg page = true ∧ q.tag.isSome = true) : demandFill s j seg page = s := by
  obtain ⟨q, hq, hat, ht⟩ := h
  have hany : s.fills.any (fun r => r.atSite j seg page && r.tag.isSome) = true := List.any_eq_true.mpr ⟨q, hq, by simp [hat, ht]⟩
  unfold demandFill
  split
  · rfl
  · exact if_pos hany

/-- A request posted with its tag, at the cycle `now`. -/
def FillReq.posted (j seg page tag now : Nat) (r : FillReq) : FillReq :=
  if r.atSite j seg page then { r with tag := some tag, since := now } else r

/-- Without a request posted, a site's page is filled from the pool, or asked for. -/
theorem demandFill_unposted (hr : ∃ q ∈ s.fills, q.atSite j seg page = true)
    (h : ∀ q ∈ s.fills, q.atSite j seg page = true → q.tag = none) :
    demandFill s j seg page = if s.dzPool.isEmpty then
        let t := freeTag s 65536 (Config.pick s.free)
        let u := postRequest s.tick j seg page (pageRequest s 0xFFFF seg t (pageVa (s.seg j seg) page))
        { u with fills := u.fills.map (FillReq.posted j seg page t u.cyc.toNat) }
      else fillPage s j seg page := by
  have hsite : s.fills.any (FillReq.atSite j seg page) = true := List.any_eq_true.mpr hr
  have hnone : ¬ s.fills.any (fun r => r.atSite j seg page && r.tag.isSome) = true := by
    simpa [Option.isSome_iff_ne_none] using h
  exact (if_neg (by rw [Bool.not_eq_true', Bool.not_eq_false]; exact hsite)).trans (if_neg hnone)

end

/-! ### A request posted (R240, R284) -/

theorem OnlyMem.samePages {s t : State} (h : OnlyMem s t) : t.dzPool = s.dzPool ∧ t.fills = s.fills ∧ t.cyc = s.cyc := by
  rw [h]; exact ⟨rfl, rfl, rfl⟩

theorem putRecord_pages (s : State) (q : Nat) (rec : List Byte) (intr : Bool) :
    (putRecord s q rec intr).dzPool = s.dzPool ∧ (putRecord s q rec intr).fills = s.fills ∧ (putRecord s q rec intr).cyc = s.cyc := by
  have hb := fun pa => ((OnlyMem.refl s).quayBytes rec pa).samePages
  unfold putRecord
  split <;> exact hb _

theorem postRecord_pages (s : State) (q : Nat) (rec : List Byte) (intr : Bool) :
    (postRecord s q rec intr).dzPool = s.dzPool ∧ (postRecord s q rec intr).fills = s.fills ∧ (postRecord s q rec intr).cyc = s.cyc := by
  unfold postRecord
  dsimp only
  split
  · exact ⟨rfl, rfl, rfl⟩
  · exact putRecord_pages ..

theorem postRequest_pages (s : State) (j seg page : Nat) (rec : List Byte) :
    (postRequest s j seg page rec).dzPool = s.dzPool ∧ (postRequest s j seg page rec).fills = s.fills
    ∧ (postRequest s j seg page rec).cyc = s.cyc := by
  unfold postRequest
  dsimp only
  split
  · exact postRecord_pages ..
  · unfold postFor
    split
    · exact postRecord_pages ..
    · exact ⟨rfl, rfl, rfl⟩

/-! ### The host's answer (R233, R239) -/

section
variable {s : State} {tag : BitVec 16} {r : FillReq} (h : s.fills.find? (fun q => q.tag == some tag.toNat) = some r)
include h

theorem tag_of_find : r.tag = some tag.toNat := by simpa using List.find?_some h

theorem pageresp_found (b : Bool) : pageresp tag b s = if b then refusePage s r else grantPage s r := by
  rw [pageresp, h]

theorem refusePage_context (hr : r.ctx < residents) : refusePage s r
    = ({ s with fills := s.fills.filter (fun q => q.tag != r.tag) } : State).updCtx r.ctx (Context.told tag.toNat .refused) :=
  (if_neg (by have : residents < 0xFFFF := by decide
              omega)).trans (tellAsker_tagged _ (tag_of_find h) _)

/-- A granted page is zeroed, its request ends, and the context that asked has its answer. -/
theorem grantPage_facts {pa : Nat} (hpa : s.dzPage (s.seg r.job r.seg) r.page = some pa)
    (honly : ∀ q ∈ s.fills, q.ctx = r.ctx → q.tag = r.tag) : let t := grantPage s r
    (∀ q ∈ t.fills, q.tag ≠ r.tag)
    ∧ (r.ctx < residents → t.ctx r.ctx = Context.told tag.toNat (.done 2) (s.ctx r.ctx))
    ∧ ∀ a, t.byte a = if pa ≤ a ∧ a < pa + 2 ^ 21 then 0 else s.byte a := by
  let u : State := { s.clearRange pa (2 ^ 21) with fills := s.fills.filter (fun q => q.tag != r.tag) }
  let v : State := if r.ctx = 0xFFFF then u else tellAsker u r (.done 2)
  have hv : SamePages u v := by
    unfold v
    split
    · exact .refl u
    · exact samePages_tellAsker ..
  obtain ⟨hvmem, -, -, hvfills, -⟩ := hv
  have hkept : ∀ q ∈ v.fills, q ∈ s.fills ∧ q.tag ≠ r.tag := by
    intro q hq
    rw [hvfills] at hq
    simpa [u] using hq
  have heq : grantPage s r = answerPage v r.job r.seg r.page 0 := by
    unfold grantPage
    rw [hpa]
    rfl
  obtain ⟨hmem, -, -, hfills, hctx⟩ := answerPage_facts v r.job r.seg r.page 0
  dsimp only
  rw [heq]
  refine ⟨fun q hq => ?_, fun hr => ?_, fun a => ?_⟩
  · rw [hfills] at hq
    exact (hkept q (List.mem_filter.mp hq).1).2
  · have hcontext : r.ctx ≠ 0xFFFF := by
      have : residents < 0xFFFF := by decide
      omega
    have htold : v = u.updCtx r.ctx (Context.told tag.toNat (.done 2)) :=
      (if_neg hcontext).trans (tellAsker_tagged _ (tag_of_find h) _)
    rw [hctx r.ctx hr fun q hq _ hqr => (hkept q hq).2 (honly q (hkept q hq).1 hqr), htold, ctx_updCtx_self _ hr]
    rfl
  · exact (congrArg (fun l => Sparse.get 0 l a) (hmem.trans hvmem)).trans (byte_clearRange s pa (2 ^ 21) a)

end

/-! ### The launches that a failed fill halts (R230, R261) -/

/-- The halt line of launch `k` is up. -/
def LineUp (s : State) (k : Nat) : Prop := ((s.launchOf k).bind (·.halt)).isSome = true

theorem launchOf_updLaunch (s : State) (k m : Nat) {f : Launch → Launch} (hf : ∀ l, (f l).id = l.id) :
    (s.updLaunch k f).launchOf m = (s.launchOf m).map (fun l => if l.id == k then f l else l) := by
  refine List.find?_map.trans ?_
  congr 2
  funext l
  dsimp only [Function.comp]
  split <;> simp [hf]

/-- A launch with the halt line `h` up. -/
def haltedBy (h : Halt) (l : Launch) : Launch := { l with halt := some h }

/-- Raising a halt line leaves the requests, loses no launch and takes down no line. -/
theorem raiseHalt_keeps (s : State) (k : Nat) (u : UnitId) (c : Nat) (d a : Word64) (m : Nat) : let t := raiseHalt s k u c d a
    t.fills = s.fills ∧ ((s.launchOf m).isSome = true → (t.launchOf m).isSome = true) ∧ (LineUp s m → LineUp t m) := by
  unfold raiseHalt
  split
  · exact ⟨rfl, id, id⟩
  · dsimp only
    split
    · exact ⟨rfl, id, id⟩
    · have hm := fun h => launchOf_updLaunch s k m (f := haltedBy h) fun _ => rfl
      refine ⟨rfl, fun h => (congrArg Option.isSome (hm _)).trans (by simpa using h), fun h => ?_⟩
      refine (congrArg (fun o : Option Launch => (o.bind (·.halt)).isSome) (hm _)).trans ?_
      unfold LineUp at h
      cases hl : s.launchOf m with
      | none => simp [hl] at h
      | some l =>
        rw [hl] at h
        dsimp only [Option.map_some, Option.bind_some] at h ⊢
        split
        · rfl
        · exact h

theorem raiseHalt_lineUp {s : State} {k : Nat} (h : (s.launchOf k).isSome = true) (u : UnitId) (c : Nat) (d a : Word64) :
    LineUp (raiseHalt s k u c d a) k := by
  obtain ⟨l, hl⟩ := Option.isSome_iff_exists.mp h
  cases hh : l.halt with
  | none =>
    obtain ⟨z, hz, -⟩ := raiseHalt_up s k u c d a l hl hh
    rw [LineUp, hz]
    rfl
  | some z =>
    refine (raiseHalt_keeps s k u c d a k).2.2 ?_
    rw [LineUp, hl]
    simp [hh]

theorem raiseHalts_facts (d : Word64) (a : State → Word64) : ∀ (us : List (Nat × UnitId)) (s : State),
    let t := us.foldl (fun s u => raiseHalt s u.1 u.2 0x80 d (a s)) s
    t.fills = s.fills ∧ (∀ m, LineUp s m → LineUp t m) ∧ ∀ u ∈ us, (s.launchOf u.1).isSome = true → LineUp t u.1
  | [], s => ⟨rfl, fun _ h => h, by simp⟩
  | u :: us, s => by
    obtain ⟨hf, hup, hraised⟩ := raiseHalts_facts d a us (raiseHalt s u.1 u.2 0x80 d (a s))
    have hkeep := raiseHalt_keeps s u.1 u.2 0x80 d (a s)
    refine ⟨hf.trans (hkeep 0).1, fun m h => hup m ((hkeep m).2.2 h), fun v hv hl => ?_⟩
    rcases List.mem_cons.mp hv with rfl | hv
    · exact hup _ (raiseHalt_lineUp hl ..)
    · exact hraised v hv ((hkeep v.1).2.1 hl)

/-! ### A fill that times out (R230, R233) -/

/-- The requests left once those of the engines and ports for a page have ended. -/
def fillsBut (s : State) (j seg page : Nat) : List FillReq :=
  s.fills.filter (fun q => !(q.job == j && q.seg == seg && q.page == page && q.ctx == 0xFFFF))

/-- A failed fill that no engine waits for is kept for the access itself. -/
theorem failFill_kept {s : State} {r : FillReq} (h : pageUsers s r.job r.seg r.page = []) : failFill s r
    = { s with fills := fillsBut s r.job r.seg r.page, fillFail := s.fillFail ++ [(r.job, r.seg, r.page)] } := by
  simp only [failFill, h, List.isEmpty_nil, Bool.or_true, if_true]
  rfl

/-- A failed fill ends, and the launches of the engines that waited for it are halted. -/
theorem failFill_halts (s : State) (r : FillReq) : (failFill s r).fills = fillsBut s r.job r.seg r.page
    ∧ ∀ u ∈ pageUsers s r.job r.seg r.page, (s.launchOf u.1).isSome = true → LineUp (failFill s r) u.1 := by
  obtain ⟨hfills, -, hup⟩ := raiseHalts_facts (missInfo 3 r.seg 0) (fun s => pageVa (s.seg r.job r.seg) r.page)
    (pageUsers s r.job r.seg r.page) { s with fills := fillsBut s r.job r.seg r.page }
  unfold failFill
  dsimp only
  split <;> exact ⟨hfills, hup⟩

theorem exec_fillTimeout {s : State} {j i p : Nat} {r : FillReq}
    (h : s.fills.find? (fun q => q.job == j && q.seg == i && q.page == p && q.ctx == 0xFFFF && q.tag.isSome) = some r)
    (hlate : r.since + 20000000 ≤ s.cyc.toNat) :
    exec (.fillTimeout j i p) s = .next (failFill s r) ∧ r.job = j ∧ r.seg = i ∧ r.page = p := by
  have hr := List.find?_some h
  simp only [Bool.and_eq_true, beq_iff_eq] at hr
  obtain ⟨⟨⟨⟨hj, hi⟩, hp⟩, -⟩, -⟩ := hr
  refine ⟨?_, hj, hi, hp⟩
  change execFillTimeout j i p s = _
  rw [execFillTimeout, h]
  exact congrArg _ (if_pos hlate)

/-! ### The statement -/

/-- The fill of a page for an engine or a port: from the pool, or posted with a tag. -/
theorem demandFill_site {s : State} {j seg page : Nat} (hr : ∃ q ∈ s.fills, q.atSite j seg page = true)
    (hnone : ∀ q ∈ s.fills, q.atSite j seg page = true → q.tag = none) : let t := demandFill s j seg page
    (∀ pa rest, s.dzPool = pa :: rest → Filled s t j seg page pa rest ∧ ∀ q ∈ t.fills, ¬ q.atSite j seg page = true)
    ∧ (s.dzPool = [] → t.dzPool = []
      ∧ ∃ tag, ∀ q ∈ t.fills, q.atSite j seg page = true → q.tag = some tag ∧ q.since = s.cyc.toNat) := by
  dsimp only
  rw [demandFill_unposted hr hnone]
  refine ⟨fun pa rest hpool => ?_, fun hpool => ?_⟩
  · obtain ⟨hfilled, hfills⟩ := fillPage_fills hpool j seg page
    rw [if_neg (by simp [hpool]), hfills]
    refine ⟨hfilled, fun q hq hat => ?_⟩
    have := (List.mem_filter.mp hq).2
    simp [FillReq.isFor_of_atSite hat] at this
  · rw [if_pos (by simp [hpool])]
    dsimp only
    obtain ⟨hp, hf, hc⟩ := postRequest_pages s.tick j seg page
      (pageRequest s 0xFFFF seg (freeTag s 65536 (Config.pick s.free)) (pageVa (s.seg j seg) page))
    refine ⟨hp.trans hpool, freeTag s 65536 (Config.pick s.free), fun q hq hat => ?_⟩
    obtain ⟨x, -, rfl⟩ := List.mem_map.mp hq
    by_cases hx : x.atSite j seg page = true
    · rw [FillReq.posted, if_pos hx]
      exact ⟨rfl, congrArg BitVec.toNat hc⟩
    · rw [FillReq.posted, if_neg hx] at hat
      exact absurd hat hx

/-- Settles O47: it holds. A waiting page is filled or posted by `demandFill_site`, an answer reaches the context that asked by
`refusePage_context` and `grantPage_facts`, and a failed fill halts its users' launches by `failFill_halts`. That the host's page is
zeroed is the reading of log entry 21, and whom a failed fill halts that of log entry 36. -/
theorem pageRequests : Obligations.PageRequests := by
  refine ⟨fun s r hr hctx => ?_, fun s tag => ⟨fun hf b => ?_, fun r hf => ⟨fun hr => ?_, fun pa hpa honly => ?_⟩⟩,
    fun s j i p r hf hlate => ?_⟩
  · have hsite : ∃ q ∈ s.fills, q.atSite r.job r.seg r.page = true := ⟨r, hr, FillReq.atSite_iff.mpr ⟨rfl, rfl, rfl, hctx⟩⟩
    simp only [← FillReq.atSite_iff]
    refine ⟨fun hposted => congrArg Host.Outcome.next (demandFill_posted hposted), fun pa rest hpool hnone => ?_,
      fun hpool hnone => ⟨_, rfl, (demandFill_site hsite hnone).2 hpool⟩⟩
    obtain ⟨⟨hp, hrd, hbyte⟩, hfills⟩ := (demandFill_site hsite hnone).1 pa rest hpool
    exact ⟨_, rfl, hp, hfills, hrd, hbyte⟩
  · change Host.Outcome.next (pageresp tag b s) = _
    rw [pageresp, hf]
  · exact congrArg Host.Outcome.next ((pageresp_found hf true).trans (refusePage_context hf hr))
  · exact happens_of rfl (pageresp_found hf false) (grantPage_facts hf hpa honly)
  · obtain ⟨hexec, rfl, rfl, rfl⟩ := exec_fillTimeout hf hlate
    exact ⟨fun hu => hexec.trans (congrArg _ (failFill_kept hu)), fun _ => ⟨_, hexec, failFill_halts s r⟩⟩

end Sys2Proof.Machine

/-! # Probes and PGALLOC (O24)

What a probe's op does for each finding, where `PGALLOC`'s address leads once the issue has begun, and a fill that no context
waits for (R235 to R241). -/

namespace Sys2Proof.Machine

open Sys2Proof

/-! ### Probes (R235, R236) -/

section
variable {s : State} {i : Instr} {x : ArgA} {need : Need} {wr : Bool} {opc : Nat}
  (hi : exec i s = issueOne (probeOp x need wr opc) s) (hr : Ready s (src2A x))
include hi hr

theorem probe_waits_pending (hpend : s.me.pend ≠ []) : Waits s i 7 id := by
  refine waits_of hi rfl hr ?_ ?_
  · simp [probeOp, hpend]
  · simp [probeOp, hpend]

section
variable (hpend : s.me.pend = [])
include hpend

theorem probe_passes (hq : Quiet s) (h : probe s s.cur need wr opc (s.me.rS x.src1) (s.me.rS x.src2).toNat = .pass) :
    Writes s i s.me.held (fun c => c) := by
  refine writes_nothing hi hq (verdict_go _ s rfl hr ?_ ?_) rfl
  · simp [probeOp, hpend, h]
  · simp [probeOp, hpend, h]

theorem probe_waits (h : probe s s.cur need wr opc (s.me.rS x.src1) (s.me.rS x.src2).toNat = .wait) : Waits s i 7 id := by
  refine waits_of hi rfl hr ?_ ?_
  · simp [probeOp, hpend, h]
  · simp [probeOp, hpend, h]

theorem probe_raises {c : Nat} {v e : Word64}
    (h : probe s s.cur need wr opc (s.me.rS x.src1) (s.me.rS x.src2).toNat = .trap c v e) : Raises s i (Exc.mk' c v e) := by
  refine raises_of hi rfl hr ?_
  simp [probeOp, hpend, h]

end

end

/-! ### The target of `PGALLOC` (R239) -/

theorem begin_pgTarget {s : State} (hq : Quiet s) (a : Word64) : pgTarget (beginIssue s) s.cur a = pgTarget s s.cur a := by
  unfold pgTarget
  rw [begin_jobOf s hq.1]
  generalize s.jobOf s.cur = j
  rw [begin_fields s hq.1]
  rfl

theorem begin_grant {s : State} (hq : Quiet s) : (beginIssue s).me.grant = s.me.grant := by rw [beginIssue_me s hq.1]; rfl

/-- The issuing context reads the same where the cores and the saved contexts do. -/
theorem sameMe_of {s t : State} (hcores : t.cores = s.cores) (hsaved : t.saved = s.saved) (hlatch : t.latch = s.latch)
    (hcur : t.cur = s.cur) : SameMe s t :=
  ⟨hlatch, hcur, by rw [State.me, State.me, hcur, ctx_congr hcores hsaved]⟩

/-- Without a context that asked for a page, its answer changes the requests alone. -/
theorem answerPage_unasked {s : State} {j seg page : Nat} (h : ∀ r ∈ s.fills, ¬ r.isFor j seg page = true) (st : Nat) :
    answerPage s j seg page st = { s with fills := s.fills.filter (fun r => !r.isFor j seg page) } := by
  have hasked : s.fills.filter (fun r => r.job == j && r.seg == seg && r.page == page && r.ctx != 0xFFFF) = [] :=
    List.filter_eq_nil_iff.mpr fun r hr hc => h r hr (Bool.and_eq_true_iff.mp hc).1
  unfold answerPage
  rw [hasked]
  rfl

/-- A page that nothing waits for is filled from the pool without an answer to any context. -/
theorem fillPage_unasked {s : State} {j seg page : Nat} (h : filling s j seg page = false) : SameMe s (fillPage s j seg page) := by
  have hnone : ∀ r ∈ s.fills, ¬ r.isFor j seg page = true := by
    simpa only [filling, FillReq.isFor, List.any_eq_false] using h
  cases hpool : s.dzPool with
  | nil =>
    rw [fillPage, hpool]
    exact .refl s
  | cons pa rest =>
    have honly := onlyMem_installPage { s with dzPool := rest } j seg page pa
    have hfills : (installPage { s with dzPool := rest } j seg page pa).fills = s.fills := by rw [honly]
    rw [fillPage_eq hpool, answerPage_unasked (by rwa [hfills])]
    exact sameMe_of (by rw [honly]) (by rw [honly]) (by rw [honly]) (by rw [honly])

/-! ### `PGALLOC` (R239) -/

section
variable {s : State} {x : ArgA} {seg page : Nat} (hr : Ready s [srcS x.src1 x.b1]) (hg : s.me.grant = .none)

include hr

theorem pgalloc_bad {r : Nat} (h : pgTarget s s.cur (s.me.rS x.src1) = .bad r) :
    Raises s (.pgalloc x) (illegal 0 r 0) := by
  refine raises_of (exec_pgalloc x s) rfl hr ?_
  simp [pgallocOp, h]

include hg

theorem pgalloc_present (hq : Quiet s) (h : pgTarget s s.cur (s.me.rS x.src1) = .page seg page true) :
    Writes s (.pgalloc x) s.me.held (fun c => c.wS x.dst 0) := by
  refine writes_of (exec_pgalloc x s) hq (verdict_go (pgallocOp x) s rfl hr ?_ ?_) rfl _ ?_ (fun c => c.keeps_wS _ _)
  · simp [pgallocOp, h, hg]
  · simp [pgallocOp, h, hg]
  · simp [pgallocOp, Op.plain, me_begin_rS hq.1, begin_pgTarget hq, begin_grant hq, h, hg]

section
variable (h : pgTarget s s.cur (s.me.rS x.src1) = .page seg page false) (hh : hostPage x s = false)
  (hf : filling s (s.jobOf s.cur) seg page = false)
include h hh hf

theorem pgalloc_empty (hpool : s.dzPool = []) : Raises s (.pgalloc x) (poolExc s (s.jobOf s.cur) seg page 0x20) := by
  refine raises_of (exec_pgalloc x s) rfl hr ?_
  simp [pgallocOp, h, hg, hh, hf, hpool]

/-- An absent page is filled from the pool. -/
theorem pgalloc_absent (hq : Quiet s) (hpool : s.dzPool ≠ []) : Rewrites s (.pgalloc x) s.me.held
    (fillPage (beginIssue s) (s.jobOf s.cur) seg page) (fun c => c.wS x.dst 1) := by
  have hf' : filling (beginIssue s) (s.jobOf s.cur) seg page = false := by
    rw [begin_fields s hq.1]
    exact hf
  refine ((Leads.start hq).into (fillPage_unasked hf') |>.updMe hq fun c => c.wS x.dst 1).rewrites (exec_pgalloc x s) hq
    (verdict_go (pgallocOp x) s rfl hr ?_ ?_) ((effects_none _ _ _ _ rfl).trans ?_) (Context.keeps_wS _ _ _)
  · simp [pgallocOp, h, hg, hh, hf, hpool]
  · simp [pgallocOp, h, hg, hh, hf]
  · simp [pgallocOp, Op.plain, me_begin_rS hq.1, begin_pgTarget hq, begin_grant hq, begin_jobOf s hq.1, h, hg]

end

end

/-! ### The statement -/

/-- Settles O24: it holds. A probe does what it finds, and `PGALLOC` what its target and the pool leave it to do. -/
theorem pageOps : Obligations.PageOps := by
  intro s x hq hr
  refine ⟨fun hr' => ?_, fun seg page h hg => pgalloc_present hr hg hq h, fun seg page h hg hh hf => ⟨fun pa rest hpool => ?_,
    pgalloc_empty hr hg h hh hf⟩, fun r => pgalloc_bad hr⟩
  · have hsrcs : Ready s (src2A x) := ready_append hr hr'
    have hrp := exec_rprobe x s
    have hwp := exec_wprobe x s
    exact ⟨fun hp => ⟨probe_passes hrp hsrcs hp hq, probe_passes hwp hsrcs hp hq, probe_waits hrp hsrcs hp,
        probe_waits hwp hsrcs hp, fun _ _ _ => probe_raises hrp hsrcs hp, fun _ _ _ => probe_raises hwp hsrcs hp⟩,
      fun hp => ⟨probe_waits_pending hrp hsrcs hp, probe_waits_pending hwp hsrcs hp⟩⟩
  · obtain ⟨t, hexec, helse, hme⟩ := pgalloc_absent hr hg h hh hf hq (by simp [hpool])
    have hpool' : (beginIssue s).dzPool = pa :: rest := by
      rw [begin_fields s hq.1]
      exact hpool
    have hseg : (beginIssue s).seg (s.jobOf s.cur) seg = s.seg (s.jobOf s.cur) seg := by
      rw [begin_fields s hq.1]
      rfl
    obtain ⟨⟨hp, hrd, hbyte⟩, -⟩ := fillPage_fills hpool' (s.jobOf s.cur) seg page
    rw [hseg] at hrd hbyte
    refine ⟨t, hexec, ?_, hme, (rd_congr helse.mem _ _).trans hrd, fun a ha => ?_⟩
    · rw [helse.1]
      exact hp
    · rw [helse.byte, hbyte a ha, (beginIssue_elsewhere s hq.1).byte]

end Sys2Proof.Machine

/-! # Migration requests, membership ops and collectives at issue (O36)

What the ops read once the issue has begun, the record that an issue appends, and the answers of a migration request (R243, R245,
R387, R402, R403). -/

namespace Sys2Proof.Machine

open Sys2Proof

/-! ### What the ops read (R387, R403) -/

section
variable {s : State} (hq : Quiet s)
include hq

theorem begin_myEngine : myEngine (beginIssue s) = myEngine s := by
  rw [myEngine, myEngine, beginIssue_cur, begin_homeCore s hq.1]

theorem begin_job : (beginIssue s).jobOf (beginIssue s).cur = s.jobOf s.cur := by rw [beginIssue_cur, begin_jobOf s hq.1]

theorem begin_grpOf (x : ArgX) : grpOf x (beginIssue s) = grpOf x s := by rw [grpOf, grpOf, me_begin_rS hq.1]

theorem begin_group (j g : Nat) : (beginIssue s).group j g = s.group j g := by rw [begin_fields s hq.1]; rfl

theorem begin_engine (k : Nat) : (beginIssue s).engine k = s.engine k := by rw [begin_fields s hq.1]; rfl

theorem begin_myGroup (x : ArgX) : myGroup x (beginIssue s) = myGroup x s := by
  rw [myGroup, myGroup, begin_job hq, begin_grpOf hq, begin_group hq]

theorem begin_constBuf : (beginIssue s).me.constBuf = s.me.constBuf := by rw [beginIssue_me s hq.1]; rfl

theorem begin_myColl (x : ArgX) : myColl x (beginIssue s) = myColl x s := by
  simp only [myColl, collBytes, me_begin_rA hq.1, begin_constBuf hq, begin_rdBytes, beginIssue_cur, begin_homeCore s hq.1]

theorem begin_instOf (x : ArgX) : instOf x (beginIssue s) = instOf x s := by
  simp only [instOf, begin_engine hq, begin_myEngine hq, begin_job hq, begin_grpOf hq, begin_myColl hq]

theorem begin_queuedOf (k j g : Nat) : queuedOf (beginIssue s) k j g = queuedOf s k j g := by
  rw [queuedOf, queuedOf, begin_engine hq]

theorem begin_groupFull (x : ArgX) : groupFull x (beginIssue s) = groupFull x s := by
  rw [groupFull, groupFull, begin_queuedOf hq, begin_myEngine hq, begin_job hq, begin_grpOf hq]

theorem begin_collHeld (x : ArgX) : collHeld x (beginIssue s) = collHeld x s := by
  simp only [collHeld, begin_groupFull hq, begin_instOf hq, begin_engine hq, begin_myEngine hq, begin_job hq, begin_grpOf hq,
    begin_myColl hq]

end

/-! ### Groups and engines -/

theorem Elsewhere.group {s t : State} (h : Elsewhere s t) (j g : Nat) : t.group j g = s.group j g := by rw [h.1]; rfl

theorem Elsewhere.engine {s t : State} (h : Elsewhere s t) (k : Nat) : t.engine k = s.engine k := by rw [h.1]; rfl

theorem group_updGroup_self (s : State) (j g : Nat) (f : Group → Group) : (s.updGroup j g f).group j g = f (s.group j g) :=
  Sparse.get_set_self Group.unused s.groups _ _

theorem engine_updEngine_self (s : State) (k : Nat) (f : CollEngine → CollEngine) : (s.updEngine k f).engine k = f (s.engine k) :=
  Sparse.get_set_self CollEngine.cold s.coll _ _

theorem apart_updGroup (s : State) (j g : Nat) (f : Group → Group) : Apart s (s.updGroup j g f) := ⟨rfl, rfl, rfl, rfl, rfl⟩

theorem apart_updEngine (s : State) (k : Nat) (f : CollEngine → CollEngine) : Apart s (s.updEngine k f) := ⟨rfl, rfl, rfl, rfl, rfl⟩

theorem wantPages_one (j : Nat) (a : Word64) (s : State) :
    wantPages j [a] s = { s with fills := (wantPages j [a] s).fills } := by
  simp only [wantPages, List.foldl_cons, List.foldl_nil]
  split
  · rfl
  · split
    · exact wantPage_fills ..
    · rfl

/-- A wait for pages changes the fill requests alone. -/
theorem wantPages_fills (j : Nat) : ∀ (l : List Word64) (s : State), wantPages j l s = { s with fills := (wantPages j l s).fills }
  | [], _ => rfl
  | a :: l, s => by
    change wantPages j l (wantPages j [a] s) = { s with fills := (wantPages j l (wantPages j [a] s)).fills }
    rw [wantPages_fills j l (wantPages j [a] s), wantPages_one]

/-- Counting transfers changes the segments alone. -/
theorem bindBusy_segs (j : Nat) : ∀ (l : List Nat) (s : State), bindBusy s j l = { s with segs := (bindBusy s j l).segs }
  | [], _ => rfl
  | i :: l, s => by
    change bindBusy (s.updSeg j i _) j l = { s with segs := (bindBusy (s.updSeg j i _) j l).segs }
    rw [bindBusy_segs j l]
    rfl

/-! ### A record appended (R387, R402) -/

/-- A record of kind `kind` of the op's group joins the queue of the issuing core's engine. -/
def Appends (x : ArgX) (s t : State) (kind : RecKind) : Prop :=
  ∃ r : GRec, (t.engine (myEngine s)).queue = (s.engine (myEngine s)).queue ++ [r]
    ∧ r.kind = kind ∧ r.job = s.jobOf s.cur ∧ r.group = grpOf x s ∧ r.ctx = s.cur ∧ r.started = false

theorem apart_appendRec (x : ArgX) (kind : RecKind) (segs : List Nat) (ok : Bool) (foot : Foot) (pre cur : State) :
    Apart cur (appendRec x kind segs ok foot pre cur) := ⟨rfl, rfl, rfl, rfl, rfl⟩

theorem group_appendRec (x : ArgX) (kind : RecKind) (segs : List Nat) (ok : Bool) (foot : Foot) (pre cur : State) (j g : Nat) :
    (appendRec x kind segs ok foot pre cur).group j g = cur.group j g := rfl

theorem engine_appendRec (x : ArgX) (kind : RecKind) (segs : List Nat) (ok : Bool) (foot : Foot) (pre cur : State) :
    ∃ r : GRec, (appendRec x kind segs ok foot pre cur).engine (myEngine pre)
        = { cur.engine (myEngine pre) with queue := (cur.engine (myEngine pre)).queue ++ [r] }
      ∧ r.kind = kind ∧ r.job = pre.jobOf pre.cur ∧ r.group = grpOf x pre ∧ r.ctx = cur.cur ∧ r.started = false := by
  let r : GRec := ⟨cur.num, pre.jobOf pre.cur, grpOf x pre, kind, cur.cur, pre.me.launch.getD 0, pre.partOf pre.cur,
    pre.homeCore pre.cur, pre.me.point, false, 0, 0, segs, ok, 0, false, foot⟩
  exact ⟨r, engine_updEngine_self cur (myEngine pre) (fun y => { y with queue := y.queue ++ [r] }), rfl, rfl, rfl, rfl, rfl⟩

theorem appendRec_appends {s u t : State} (hq : Quiet s) (x : ArgX) (kind : RecKind) (segs : List Nat) (ok : Bool) (foot : Foot)
    (hcur : u.cur = s.cur) (hqueue : (u.engine (myEngine s)).queue = (s.engine (myEngine s)).queue)
    (ht : Elsewhere (appendRec x kind segs ok foot (beginIssue s) u) t) : Appends x s t kind := by
  obtain ⟨r, hr, hkind, hjob, hgroup, hctx, hstarted⟩ := engine_appendRec x kind segs ok foot (beginIssue s) u
  rw [begin_myEngine hq] at hr
  refine ⟨r, ?_, hkind, hjob.trans (begin_job hq), hgroup.trans (begin_grpOf hq x), hctx.trans hcur, hstarted⟩
  rw [ht.engine, hr, ← hqueue]

/-! ### The issue of an op that gives a scalar -/

/-- The issue closes on a scalar result beside a state that an effect leads to. -/
theorem results_wS {s a : State} {i : Instr} {o : Op} {h : Held} {F : Context → Context} {r : Nat} {v : Word64} {P : State → Prop}
    (hq : Quiet s) (hi : exec i s = issueOne o s) (hv : verdict [o] s = .go)
    (he : o.eff (beginIssue s) (beginIssue s) = a.updMe (fun c => c.wS r v)) (L : Leads s a F a) (hmem : a.mem = s.mem)
    (hP : ∀ t, Elsewhere a t → P t) (hF : F s.me.begin = { s.me.begin with trec := (F s.me.begin).trec })
    (hh : h = Held.after s.me.held o := by rfl) (hm : o.mem = none := by rfl) (hb : o.bars (beginIssue s) = [] := by rfl)
    (hs : o.slot = 6 := by rfl) : Results s i h s.mem (fun c => c.wS r v) P := by
  have ha : a.cur < residents := L.2.2.1 ▸ hq.1
  have hkeeps : s.me.begin.Keeps (F s.me.begin) := by rw [hF]; exact ⟨rfl, rfl, rfl, rfl, rfl, rfl⟩
  refine results_of (F := fun c => (F c).wS r v) hq hi hv hm (by rw [hb]; exact he) (L.updMe hq _).self
    (hkeeps.trans (Context.keeps_wS _ _ _)) hh ((updMe_mem _ _).trans hmem) ?_
    (fun t ht => hP t (((Elsewhere.refl a).updMe ha _).trans ht)) (by omega)
  dsimp only
  rw [hF, wS_trec]

/-! ### A migration request (R243, R245) -/

section
variable {s : State} {x : ArgX} (hr : Ready s [srcA x.adesc x.b, srcA (x.adesc + 1) x.b, srcS x.sreg x.b, srcS x.sarg x.b])
include hr

theorem xmigr_odd (h : x.adesc.val % 2 = 1) : Raises s (.xmigr x) (illegal 6 0x43 0) :=
  raises_of (o := xmigrOp x) (exec_xmigr x s) rfl hr (if_pos h)

section
variable (h : x.adesc.val % 2 = 0)
include h

theorem xmigr_accepted (hq : Quiet s) (hg : s.me.mgrant = .done 0) : Writes s (.xmigr x) (heldX s false (.xmigr x)) (fun c => c) :=
  writes_nothing (o := xmigrOp x) (exec_xmigr x s) hq
    (verdict_go (xmigrOp x) s rfl hr (by simp [xmigrOp, h, hg]) (by simp [xmigrOp, hg])) rfl

theorem xmigr_refused {n : Nat} (hn : n ≠ 0) (hg : s.me.mgrant = .done n) : Raises s (.xmigr x) (illegal 6 n 0) :=
  raises_of (o := xmigrOp x) (exec_xmigr x s) rfl hr (by simp [xmigrOp, h, hg, hn])

theorem xmigr_asks (hg : s.me.mgrant = .none) :
    Waits s (.xmigr x) 13 (fun s => s.updMe (fun c => { c with mgrant := .asked 0 })) :=
  waits_of (o := xmigrOp x) (exec_xmigr x s) rfl hr (by simp [xmigrOp, h, hg]) (by simp [xmigrOp, hg])

end

end

/-! ### Membership ops (R387) -/

section
variable {s : State} {x : ArgX} (hq : Quiet s)
include hq

theorem xgleave_results (hr : Ready s [srcS x.sarg x.b]) (hc : (xgleaveOp x).chk s = none) :
    Results s (.xgleave x) (heldX s false (.xgleave x)) s.mem (fun c => c.wS x.sreg ((myGroup x s).version.setWidth 64)) (fun t =>
      (t.group (s.jobOf s.cur) (grpOf x s)).leavep = (myGroup x s).leavep ++ [myEngine s] ∧ ∀ n, t.engine n = s.engine n) := by
  let leave : Group → Group := fun e => { e with leavep := e.leavep ++ [myEngine s] }
  have hA := apart_updGroup (beginIssue s) (s.jobOf s.cur) (grpOf x s) leave
  refine results_wS (o := xgleaveOp x) hq (exec_xgleave x s) (verdict_go (xgleaveOp x) s rfl hr hc rfl) ?_ ((Leads.start hq).apart hA)
    (hA.2.2.2.2.trans (beginIssue_mem s)) (fun t ht => ⟨?_, fun n => ?_⟩) rfl
  · simp only [xgleaveOp, Op.plain, giveVersion, begin_myGroup hq, begin_job hq, begin_grpOf hq, begin_myEngine hq, leave]
  · rw [ht.group, group_updGroup_self, begin_group hq]
    rfl
  · exact (ht.engine n).trans (begin_engine hq n)

section
variable (hr : Ready s [srcA x.adesc x.b, srcS x.sarg x.b]) (hroom : groupFull x s = false)
include hr hroom

theorem xgjoin_results (hc : (xgjoinOp x).chk s = none) :
    Results s (.xgjoin x) (heldX s false (.xgjoin x)) s.mem (fun c => c.wS x.sreg ((myGroup x s).version.setWidth 64)) (fun t =>
      Appends x s t (.join (s.me.rA x.adesc))
      ∧ (t.group (s.jobOf s.cur) (grpOf x s)).joinp = (myGroup x s).joinp ++ [myEngine s]) := by
  let join : Group → Group := fun e => { e with joinp := e.joinp ++ [myEngine s] }
  let u := (beginIssue s).updGroup (s.jobOf s.cur) (grpOf x s) join
  let v := wantPages (s.jobOf s.cur) [s.me.rA x.adesc] u
  have hv : v = { u with fills := v.fills } := wantPages_fills ..
  have hA : Apart (beginIssue s) v := (apart_updGroup ..).trans (apart_wantPages ..)
  have hB := hA.trans (apart_appendRec x (.join (s.me.rA x.adesc)) [] (resultOk x (beginIssue s)) (resultFoot x (beginIssue s))
    (beginIssue s) v)
  refine results_wS (o := xgjoinOp x) hq (exec_xgjoin x s) (verdict_go (xgjoinOp x) s rfl hr hc (by simp [xgjoinOp, hroom])) ?_
    ((Leads.start hq).apart hB) (hB.2.2.2.2.trans (beginIssue_mem s)) (fun t ht => ⟨?_, ?_⟩) rfl
  · simp only [xgjoinOp, Op.plain, giveVersion, begin_myGroup hq, begin_job hq, begin_grpOf hq, begin_myEngine hq, me_begin_rA hq.1,
      join, u, v]
  · refine appendRec_appends hq x _ _ _ _ (hA.2.2.2.1.trans (beginIssue_cur s)) ?_ ht
    rw [hv]
    exact congrArg CollEngine.queue (begin_engine hq _)
  · rw [ht.group, group_appendRec, hv]
    exact congrArg Group.joinp ((group_updGroup_self ..).trans (congrArg join (begin_group hq ..)))

theorem xgagree_results (hc : (xgagreeOp x).chk s = none) :
    Results s (.xgagree x) (heldX s false (.xgagree x)) s.mem (fun c => c.wS x.sreg ((myGroup x s).version.setWidth 64)) (fun t =>
      Appends x s t (.agree (s.me.rA x.adesc) (BitVec.ofNat 32 (bits (s.me.rS x.sarg).toNat 63 32)))) := by
  let v := wantPages (s.jobOf s.cur) [s.me.rA x.adesc] (beginIssue s)
  have hv : v = { beginIssue s with fills := v.fills } := wantPages_fills ..
  have hA : Apart (beginIssue s) v := apart_wantPages ..
  have hB := hA.trans (apart_appendRec x (.agree (s.me.rA x.adesc) (BitVec.ofNat 32 (bits (s.me.rS x.sarg).toNat 63 32))) []
    (resultOk x (beginIssue s)) (resultFoot x (beginIssue s)) (beginIssue s) v)
  refine results_wS (o := xgagreeOp x) hq (exec_xgagree x s) (verdict_go (xgagreeOp x) s rfl hr hc (by simp [xgagreeOp, hroom])) ?_
    ((Leads.start hq).apart hB) (hB.2.2.2.2.trans (beginIssue_mem s)) (fun t ht => ?_) rfl
  · simp only [xgagreeOp, Op.plain, giveVersion, begin_myGroup hq, begin_job hq, me_begin_rA hq.1, me_begin_rS hq.1, v]
  · refine appendRec_appends hq x _ _ _ _ (hA.2.2.2.1.trans (beginIssue_cur s)) ?_ ht
    rw [hv]
    exact congrArg CollEngine.queue (begin_engine hq _)

end

/-! ### Collectives (R402, R403) -/

/-- A traced block's inputs are untracked from the issue of an `XCOLL` on (R339). -/
def Context.untracked (c : Context) : Context := { c with trec := c.trec.map (fun t => { t with untrk := true }) }

section
variable (hr : Ready s [srcA x.adesc x.b, srcS x.sarg x.b]) (hc : xcollChk x s = none)
include hr hc

omit hq in
theorem xcoll_waits (hh : collHeld x s = true) (ho : x.opt.getLsbD 0 = false) : Waits s (.xcoll x) 2 id :=
  waits_of (o := xcollOp x) (exec_xcoll x s) rfl hr hc (if_pos (by rw [hh, ho]; rfl))

theorem xcoll_tries (hh : collHeld x s = true) (ho : x.opt.getLsbD 0 = true) :
    Writes s (.xcoll x) (heldX s false (.xcoll x)) (fun c : Context => c.untracked.wS x.sreg (BitVec.allOnes 64)) := by
  have L := ((Leads.begin hq).updMe hq Context.untracked).updMe hq (fun c => c.wS x.sreg (BitVec.allOnes 64))
  refine L.writes (o := xcollOp x) (exec_xcoll x s) hq (verdict_go (xcollOp x) s rfl hr hc (if_neg (by rw [hh, ho]; decide)))
    ((effects_none _ _ _ _ rfl).trans (if_pos ((begin_collHeld hq x).trans hh))) ?_
  exact Context.Keeps.trans (b := s.me.begin.untracked) ⟨rfl, rfl, rfl, rfl, rfl, rfl⟩ (Context.keeps_wS _ _ _)

/-- A program's count of issues goes to `n + 1`. -/
def counted (key n : Nat) (y : CollEngine) : CollEngine := { y with count := Sparse.set 0 y.count key (n + 1) }

omit hq hr hc in
theorem xcollIssue_appends {pre : State} (cur : State) (hh : ¬ collHeld x pre = true) : ∃ segs ok foot,
    let u := cur.updMe Context.untracked
    let v := if ok then bindBusy u (pre.jobOf pre.cur) segs else u
    let w := v.updEngine (myEngine pre) (counted (pidKey (pre.jobOf pre.cur) (grpOf x pre) (myColl x pre).pid) (instOf x pre))
    xcollIssue x pre cur = (appendRec x (.coll (myColl x pre) (instOf x pre)) segs ok foot pre w).updMe
      (fun c => c.wS x.sreg (n64 (instOf x pre))) :=
  ⟨_, _, _, if_neg hh⟩

theorem xcoll_results (hh : collHeld x s = false) :
    Results s (.xcoll x) (heldX s false (.xcoll x)) s.mem (fun c => c.wS x.sreg (n64 (instOf x s))) (fun t =>
      Appends x s t (.coll (myColl x s) (instOf x s))
      ∧ Sparse.get 0 (t.engine (myEngine s)).count (pidKey (s.jobOf s.cur) (grpOf x s) (myColl x s).pid) = instOf x s + 1) := by
  obtain ⟨segs, ok, foot, he⟩ := xcollIssue_appends (x := x) (beginIssue s) (by rw [begin_collHeld hq, hh]; decide)
  simp only [begin_instOf hq, begin_myColl hq, begin_grpOf hq, begin_job hq, begin_myEngine hq] at he
  let u := (beginIssue s).updMe Context.untracked
  let v := if ok then bindBusy u (s.jobOf s.cur) segs else u
  let count := counted (pidKey (s.jobOf s.cur) (grpOf x s) (myColl x s).pid) (instOf x s)
  have hbegin : (beginIssue s).cur < residents := by rw [beginIssue_cur]; exact hq.1
  have hu : Elsewhere (beginIssue s) u := (Elsewhere.refl _).updMe hbegin _
  have hv : Apart u v ∧ ∀ k, v.engine k = u.engine k := by
    unfold v
    split
    · exact ⟨apart_bindBusy .., fun k => by rw [bindBusy_segs]; rfl⟩
    · exact ⟨.refl u, fun _ => rfl⟩
  let w := v.updEngine (myEngine s) count
  have hw : Apart u w ∧ w.engine (myEngine s) = count (s.engine (myEngine s)) :=
    ⟨hv.1.trans (apart_updEngine ..), by rw [engine_updEngine_self, hv.2, hu.engine, begin_engine hq]⟩
  change _ = (appendRec x _ segs ok foot (beginIssue s) w).updMe _ at he
  clear_value w
  obtain ⟨hapart, hengine⟩ := hw
  have hA := hapart.trans (apart_appendRec x (.coll (myColl x s) (instOf x s)) segs ok foot (beginIssue s) w)
  refine results_wS (o := xcollOp x) hq (exec_xcoll x s) (verdict_go (xcollOp x) s rfl hr hc (if_neg (by simp [hh]))) he
    (((Leads.start hq).updMe hq _).apart hA) (hA.2.2.2.2.trans (hu.mem.trans (beginIssue_mem s))) (fun t ht => ⟨?_, ?_⟩) rfl
  · refine appendRec_appends hq x _ _ _ _ (hapart.2.2.2.1.trans (hu.cur.trans (beginIssue_cur s))) ?_ ht
    rw [hengine]
    rfl
  · obtain ⟨r, hr, -⟩ := engine_appendRec x (.coll (myColl x s) (instOf x s)) segs ok foot (beginIssue s) w
    rw [begin_myEngine hq] at hr
    rw [ht.engine, hr, hengine]
    exact Sparse.get_set_self 0 (s.engine (myEngine s)).count (pidKey (s.jobOf s.cur) (grpOf x s) (myColl x s).pid) (instOf x s + 1)

end

end

/-! ### The statement -/

/-- Settles O36: it holds. The ops read at the issue what the state before holds, and each effect is a record appended beside the
scalar that it gives, or an answer. -/
theorem groupRecords : Obligations.GroupRecords := by
  intro s x hq
  refine ⟨fun hr => ⟨xmigr_odd hr, fun h => ⟨xmigr_accepted hr h hq, fun _ => xmigr_refused hr h, xmigr_asks hr h⟩⟩,
    fun hr hroom => ⟨xgjoin_results hq hr hroom, xgagree_results hq hr hroom⟩, xgleave_results hq,
    fun hr hc => ⟨xcoll_results hq hr hc, xcoll_tries hq hr hc, xcoll_waits hr hc⟩⟩

end Sys2Proof.Machine

/-! # Trap entry, software traps and the return (O19, O20)

What a trap does at each level, the ops that raise one of their own, and the level that an `ERET` leaves (R257, R259, R271, R272). -/

namespace Sys2Proof.Machine

open Sys2Proof

/-! ### Trap entry (R257, R259) -/

/-- With a writeback pending the trap waits for it, reason 11. -/
theorem takeTrap_waits {s : State} {n : Nat} (i : TrapInfo) (hp : (s.ctx n).pend ≠ []) :
    takeTrap s n i = block (s.updCtx n (fun c => { c with after := .trapEntry i })) n 11 :=
  if_neg (by simpa using hp)

theorem takeTrap_enters {s : State} {n : Nat} (i : TrapInfo) (hp : (s.ctx n).pend = []) : takeTrap s n i = enterTrap s n i :=
  if_pos (by simp [hp])

/-- A trap at level 1 with the mask off is taken with a copy, as one at level 0 is. -/
theorem enterTrap_second {s : State} {n : Nat} (i : TrapInfo) (hl : (s.ctx n).tlevel = 1) (hm : (s.ctx n).mask = false) :
    enterTrap s n i = s.updCtx n (fun c => entered c (s.ctxid n) i) := by
  have h2 : ¬(s.ctx n).tlevel = 2 := by rw [hl]; decide
  have h1 : ¬((s.ctx n).tlevel = 1 ∧ (s.ctx n).mask = true) := fun h => absurd (hm.symm.trans h.2) (by decide)
  simp only [enterTrap, if_neg h2, if_neg h1]
  rfl

/-- The context that takes the 0x40 of a `SNAPST` at level 2: it keeps its copy. -/
def enteredKeeping (c : Context) (i : TrapInfo) : Context :=
  { Context.enter { c with fmt := c.fmtPend.foldl (fun _ p => p.2) c.fmt, fmtPend := [] } 2 i with l2snap := true }

theorem enterTrap_snapst {s : State} {n : Nat} {i : TrapInfo} (hl : (s.ctx n).tlevel = 1) (hm : (s.ctx n).mask = true)
    (hi : i.code = 0x40 ∧ i.snapst = true) : enterTrap s n i = s.updCtx n (fun c => enteredKeeping c i) := by
  have h2 : ¬(s.ctx n).tlevel = 2 := by rw [hl]; decide
  simp only [enterTrap, if_neg h2, if_pos (⟨hl, hm⟩ : (s.ctx n).tlevel = 1 ∧ (s.ctx n).mask = true), if_pos hi]
  rfl

/-- The bundle that the stop record of a fault in place of a trap names (R259). -/
def trapPlace (c : Context) (i : TrapInfo) : Word64 := if postCause i.code then c.lastPoint else i.ret

theorem enterTrap_masked {s : State} {n : Nat} {i : TrapInfo} (hl : (s.ctx n).tlevel = 1) (hm : (s.ctx n).mask = true)
    (hi : ¬(i.code = 0x40 ∧ i.snapst = true)) :
    enterTrap s n i = faultCtx s n 0x83 i.code i.einfo i.eva (trapPlace (s.ctx n) i) := by
  have h2 : ¬(s.ctx n).tlevel = 2 := by rw [hl]; decide
  simp only [enterTrap, if_neg h2, if_pos (⟨hl, hm⟩ : (s.ctx n).tlevel = 1 ∧ (s.ctx n).mask = true), if_neg hi]
  rfl

theorem enterTrap_double {s : State} {n : Nat} {i : TrapInfo} (hl : (s.ctx n).tlevel = 2) :
    enterTrap s n i = faultCtx s n 0x84 i.code i.einfo i.eva (trapPlace (s.ctx n) i) := if_pos hl

/-- A fault in place of a trap kills the context. -/
theorem faultCtx_kills (s : State) {n : Nat} (hn : n < residents) {code : Nat} (hc : code = 0x83 ∨ code = 0x84) (tc : Nat)
    (a b pc : Word64) : ((faultCtx s n code tc a b pc).ctx n).st = .killed := by
  rw [(faultCtx_facts s hn code tc a b pc).1]
  exact if_pos hc

/-- Settles O19: it holds. The level, the mask and the pending writebacks decide the branch of the trap's entry; an entry is one
update of the context, and a fault is that of `faultCtx`. -/
theorem Levels.trapEntry : Obligations.TrapEntry := by
  intro s n i hn c
  refine ⟨takeTrap_waits i, fun hp => ?_⟩
  rw [takeTrap_enters i hp]
  refine ⟨fun hl m hm => ?first, fun hl hm => ?second, fun hl hm hcode hsnap => ?snapst, fun hl hm hi => ?masked, fun hl => ?double⟩
  case first =>
    rw [enterTrap_first i hl, ctx_updCtx_self s hn]
    exact ⟨ctx_updCtx_ne s hn _ hm, updCtx_mem s n _, trapped_entered i _ hl⟩
  case second =>
    rw [enterTrap_second i hl hm, ctx_updCtx_self s hn]
    unfold entered
    rw [hl]
    exact ⟨rfl, rfl, rfl, rfl, rfl, rfl, rfl, rfl, rfl, rfl, rfl, rfl, hl, rfl, rfl, rfl, rfl, rfl, rfl, rfl, rfl, rfl, rfl, rfl⟩
  case snapst =>
    rw [enterTrap_snapst hl hm ⟨hcode, hsnap⟩, ctx_updCtx_self s hn]
    refine ⟨rfl, rfl, rfl, rfl, ?_, rfl, rfl, rfl, rfl, rfl, rfl, rfl, rfl, rfl, rfl, rfl, rfl⟩
    exact congrArg (BitVec.ofNat 8) hcode
  case masked =>
    rw [enterTrap_masked hl hm hi]
    exact ⟨rfl, faultCtx_kills s hn (.inl rfl) ..⟩
  case double =>
    rw [enterTrap_double hl]
    exact ⟨rfl, faultCtx_kills s hn (.inr rfl) ..⟩

/-! ### Traps and faults of an op (R271) -/

/-- An op of the C slot that notes a trap issues, and the trap is taken with the next issue point to return to. -/
theorem traps_noted {s : State} {i : Instr} {o : Op} {code : Nat} {einfo : Word64} (hi : exec i s = issueOne o s) (hq : Quiet s)
    (hv : verdict [o] s = .go) (hl : s.me.tlevel = 0) (hp : s.me.pend = [])
    (he : o.eff (beginIssue s) (beginIssue s) = (beginIssue s).latched (fun l => { l with post := some (code, einfo) }))
    (hh : ∀ h, Held.after h o = h := by intro; rfl) (hm : o.mem = none := by rfl) (hb : o.bars (beginIssue s) = [] := by rfl) :
    let n := closing s s.me.held s.me.begin
    ∃ t, exec i s = .next t ∧ Elsewhere s t ∧ Trapped n t.me code n.point 0 einfo := by
  have hA := (Arrives.begin hq).latched (fun l => { l with post := some (code, einfo) })
  have hend := post_trap o (fenceWaits (beginIssue s) [o]) s.num hq hA ⟨rfl, rfl, rfl, rfl, rfl, rfl⟩ (step_off hq)
    ⟨rfl, rfl, rfl, rfl⟩ rfl hl hp
  rw [hh, ← he] at hend
  exact ⟨_, (exec_commit hi hv).trans (by rw [effects_none _ _ _ _ hm hb]), hend⟩

theorem bkptOp_eff {s : State} (hc : s.cur < residents) (x : ArgW) :
    (bkptOp x).eff (beginIssue s) (beginIssue s) = if bitOf s.me.stepctl.toNat 2 then beginIssue s
      else (beginIssue s).latched (fun l => { l with post := some (0x61, immW x) }) := by
  simp only [bkptOp, Op.plain, beginIssue_me s hc]
  rfl

/-! ### The return (R272) -/

/-- The context after an `ERET` outside a nest. -/
def returned (c : Context) : Context :=
  (c.begin.tickFmt.leave.goTo (epcPc c.epcNow) (bits c.epcNow.toNat 63 60) c.pc).owing none

theorem eretChk_copy {s : State} (h0 : s.me.tlevel ≠ 0) (hv : s.me.snapv = true)
    (h : ¬(s.me.tlevel = 2 ∧ s.me.l2snap = true) → bitOf s.me.epcNow.toNat 54 = true →
      s.me.snap.nest.active = true ∧ bits s.me.epcNow.toNat 59 55 ≤ s.me.snap.nest.body) : eretChk s = none := by
  simp only [eretChk, if_neg h0, hv, Bool.not_true, Bool.false_eq_true, if_false]
  refine if_neg fun hbad => ?_
  simp only [Bool.and_eq_true, Bool.or_eq_true, Bool.not_eq_true', Bool.and_eq_false_iff, decide_eq_false_iff_not,
    decide_eq_true_eq] at hbad
  obtain ⟨⟨hkeep, hact⟩, hnest⟩ := hbad
  obtain ⟨ha, hpos⟩ := h (fun hk => hkeep.elim (absurd hk.1) (fun hl => by rw [hk.2] at hl; cases hl)) hact
  rcases hnest with hn | hn
  · rw [ha] at hn; cases hn
  · omega

theorem advance_returns {e : State} (he : e.latch.eret = true) :
    advance e = (e.updMe (fun c => c.leave.goTo (e.latch.target.getD 0) e.latch.tgtRep e.me.pc), none) := by
  simp only [advance, he, if_true]

/-- A level is left to its handler's level or to the running of the block, with no event of its own to follow. -/
theorem leave_goesOn (c : Context) : c.leave.after = c.after ∧ c.leave.st ≠ .sleeping := by
  unfold Context.leave
  dsimp only
  split
  · exact ⟨rfl, by simp⟩
  · exact ⟨rfl, by dsimp only; split <;> simp⟩

/-- The latch of an `ERET`. -/
def eretLatch (s : State) : Latch := { latchBegin s.latch s.me with
  eret := true, target := some (epcPc s.me.epcNow), tgtRep := bits s.me.epcNow.toNat 63 60 }

theorem eretOp_arrives {s : State} (hq : Quiet s) :
    Arrives s s (fun c => c) (eretLatch s) (eretOp.eff (beginIssue s) (beginIssue s)) := by
  have heff : eretOp.eff (beginIssue s) (beginIssue s) = (beginIssue s).latched (fun l => { l with
      eret := true, target := some (epcPc s.me.epcNow), tgtRep := bits s.me.epcNow.toNat 63 60 }) := by
    simp only [eretOp, Op.plain, beginIssue_me s hq.1]
    rfl
  rw [heff]
  exact (Arrives.begin hq).latched _

/-- A level is left once its bundle has issued. -/
theorem eret_returns {s : State} (hq : Quiet s) (hchk : eretChk s = none) :
    ∃ t, exec .eret s = .next t ∧ Elsewhere s t ∧ t.me = returned s.me := by
  have hA := eretOp_arrives hq
  have hfill : ∀ ws, (s.me.begin.holding (Held.after s.me.begin.held eretOp)).fillBuffer ws = s.me.begin :=
    fun ws => fill_off (c := s.me.begin) hq.2.1 ws
  obtain ⟨-, hlatch, -, hme⟩ := hA.settled hq.1 eretOp
  dsimp only at hme
  rw [hfill] at hme
  have hadv := advance_returns (congrArg Latch.eret hlatch)
  rw [hlatch, hme] at hadv
  obtain ⟨hafter, hst⟩ := leave_goesOn s.me.begin.tickFmt
  have hend := finish_point (G := fun c => c.leave.goTo (epcPc s.me.epcNow) (bits s.me.epcNow.toNat 63 60) s.me.pc)
    (w := fenceWaits (beginIssue s) [eretOp]) (n := s.num) hA hq.1 hadv rfl (step_off hq) rfl rfl
    (by rw [hfill]; exact hafter.trans hq.2.2.2.1) (by rw [hfill]; exact hst)
  obtain ⟨hel, -, -, hret⟩ := hend
  dsimp only at hret
  rw [hfill] at hret
  refine ⟨_, (exec_commit (exec_eret s) (verdict_go _ s rfl rfl hchk rfl)).trans ?_, hel, hret⟩
  rw [effects_none _ _ _ _ rfl]

/-- A return from a level whose copy is whole restores hold state, `FMT` and the nest from it. -/
theorem returned_restored {c : Context} (h : ¬(c.tlevel = 2 ∧ c.l2snap = true)) :
    returned c = (({ c.begin.tickFmt with
      held := c.snap.held, fmt := c.snap.fmtCur, fmtPend := c.snap.fmtPend,
      nest := if bitOf c.epcNow.toNat 54 then { c.snap.nest with active := true, pos := bits c.epcNow.toNat 59 55, buf := [] } else .none,
      snapv := false, mask := false, tlevel := c.tlevel - 1, st := if c.tlevel = 2 then .trap1 else .running } : Context).goTo
        (epcPc c.epcNow) (bits c.epcNow.toNat 63 60) c.pc).owing none :=
  congrArg (fun d => (Context.goTo d (epcPc c.epcNow) (bits c.epcNow.toNat 63 60) c.pc).owing none) (if_neg h)

/-- A return from a level 2 that a `SNAPST` entered keeps the copy and the mask. -/
theorem returned_kept {c : Context} (h : c.tlevel = 2 ∧ c.l2snap = true) :
    returned c = (({ c.begin.tickFmt with tlevel := 1, l2snap := false, st := .trap1 } : Context).goTo
        (epcPc c.epcNow) (bits c.epcNow.toNat 63 60) c.pc).owing none :=
  congrArg (fun d => (Context.goTo d (epcPc c.epcNow) (bits c.epcNow.toNat 63 60) c.pc).owing none) (if_pos h)

/-- Settles O20: it holds. `TRAP` and `BKPT` note a trap that follows the issue, `ABORT` faults before it, and `ERET` leaves its level
by `Context.leave`. That `SEED` is as the handler left it is the model's choice (log entry 72) beside R87. -/
theorem softwareTraps : Obligations.SoftwareTraps := by
  refine ⟨fun s x hq => ⟨fun hl hp => ⟨?trap, fun hoff => ?bkpt⟩, fun hoff => ?silent, ?abort⟩,
    fun s hq => ⟨fun hl hv hkeep hnest => ?restores, fun hl hv hkeep => ?keeps, fun hl => ?outside, fun hl hv => ?noCopy⟩⟩
  case trap => exact traps_noted (exec_trap x s) hq (verdict_go _ s rfl rfl rfl rfl) hl hp rfl
  case bkpt =>
    refine traps_noted (exec_bkpt x s) hq (verdict_go _ s rfl rfl rfl rfl) hl hp ?_
    rw [bkptOp_eff hq.1, if_neg (by rw [hoff]; exact Bool.false_ne_true)]
  case silent =>
    refine writes_nothing (exec_bkpt x s) hq (verdict_go _ s rfl rfl rfl rfl) ?_
    rw [bkptOp_eff hq.1, if_pos hoff]
  case abort =>
    obtain ⟨hctx, hmem, hcur, hline⟩ := faultCtx_facts s hq.1 0x88 0 (immW x) 0 s.me.point
    refine ⟨_, raises_of (exec_abort x s) rfl rfl rfl, ?_, hmem, fun k l hk hl hh => ?_⟩
    · exact (congrArg _ hcur).trans hctx
    · obtain ⟨z, hz, -, hcause, hdetail, -⟩ := hline k l hk hl hh
      exact ⟨z, hz, hcause, hdetail⟩
  case restores =>
    have h2 : ¬(s.me.tlevel = 2 ∧ s.me.l2snap = true) := fun h => absurd (hkeep.symm.trans h.2) (by decide)
    obtain ⟨t, hexec, hel, hme⟩ := eret_returns hq (eretChk_copy (by omega) hv (fun _ => hnest))
    rw [returned_restored h2] at hme
    refine ⟨t, hexec, hel, ?_⟩
    rw [hme]
    refine ⟨⟨⟨rfl, rfl, rfl, rfl, rfl, rfl, rfl, rfl, rfl, rfl⟩, rfl, rfl⟩, rfl, rfl, rfl, rfl, rfl, rfl, rfl, ?_, fun ha => ?_⟩
    · show Nest.active (if bitOf s.me.epcNow.toNat 54 = true then _ else _) = _
      cases bitOf s.me.epcNow.toNat 54 <;> rfl
    · show Nest.pos (if bitOf s.me.epcNow.toNat 54 = true then _ else _) = _
      rw [if_pos ha]
  case keeps =>
    obtain ⟨t, hexec, hel, hme⟩ := eret_returns hq (eretChk_copy (by omega) hv (fun h => absurd ⟨hl, hkeep⟩ h))
    rw [returned_kept ⟨hl, hkeep⟩] at hme
    refine ⟨t, hexec, hel, ?_⟩
    rw [hme]
    exact ⟨⟨⟨rfl, rfl, rfl, rfl, rfl, rfl, rfl, rfl, rfl, rfl⟩, rfl, rfl⟩, rfl, rfl, hv, rfl, rfl, rfl⟩
  case outside => exact raises_of (exec_eret s) rfl rfl (if_pos hl)
  case noCopy =>
    refine raises_of (exec_eret s) rfl rfl ?_
    simp only [eretOp, eretChk, if_neg hl, hv]
    rfl

end Sys2Proof.Machine

/-! # Yields, sleeps and the block's end (O21)

What follows an issue that has come to its next issue point (R275, R276, R328). -/

namespace Sys2Proof.Machine

open Sys2Proof

/-! ### What follows an issue (R275, R328) -/

/-- An op whose effect changes the issuing context alone and notes neither a transfer, a trap nor a fence comes to its next issue
point, and what follows there is `afterIssue`. -/
theorem exec_afterIssue {s : State} {i : Instr} {o : Op} {F : Context → Context} {l : Latch} (hi : exec i s = issueOne o s)
    (hq : Quiet s) (hv : verdict [o] s = .go) (hA : Arrives s s F l (o.eff (beginIssue s) (beginIssue s))) (hl : Straight s l)
    (hF : Steady s.me.begin (F s.me.begin)) (hs : l.step = false) (hpost : l.post = none) (hfence : l.fence = none)
    (hm : o.mem = none := by rfl) (hb : o.bars (beginIssue s) = [] := by rfl) :
    ∃ t, Arrives s s (fun _ => closing s (Held.after s.me.held o) (F s.me.begin)) l t ∧ exec i s = .next (afterIssue t) := by
  obtain ⟨m, hm', hfin⟩ := finish_straight o (fenceWaits (beginIssue s) [o]) s.num hq hA hl hs hF
  rw [hpost, hfence] at hfin
  exact ⟨_, hm'.updMe hq.1 (fun c => c.owing none),
    (exec_commit hi hv).trans (congrArg Host.Outcome.next ((by rw [effects_none _ _ _ _ hm hb]; exact hfin)))⟩

/-- The same of an op that notes nothing in the latch. -/
theorem exec_afterIssue_updMe {s : State} {i : Instr} {o : Op} {F : Context → Context} (hi : exec i s = issueOne o s) (hq : Quiet s)
    (hv : verdict [o] s = .go) (he : o.eff (beginIssue s) (beginIssue s) = (beginIssue s).updMe F)
    (hF : Steady s.me.begin (F s.me.begin)) (hm : o.mem = none := by rfl) (hb : o.bars (beginIssue s) = [] := by rfl) :
    ∃ t, Arrives s s (fun _ => closing s (Held.after s.me.held o) (F s.me.begin)) (latchBegin s.latch s.me) t
      ∧ exec i s = .next (afterIssue t) :=
  exec_afterIssue hi hq hv (he ▸ (Arrives.begin hq).updMe hq.1 F) ⟨rfl, rfl, rfl, rfl, rfl, rfl⟩ hF (step_off hq) rfl rfl hm hb

/-- A context that goes to sleep gives up the width. -/
theorem afterIssue_sleeps {t : State} (ha : t.me.after = .none) (hst : t.me.st = .sleeping) :
    afterIssue t = releaseWidth t t.cur := by
  simp only [afterIssue, ha, goesOnTo, if_pos hst]

/-- A yield passes the width on where another context can issue. -/
theorem afterIssue_yields {t : State} (ha : t.me.after = .none) (hst : t.me.st ≠ .sleeping) (hs : t.latch.step = false)
    (hy : t.latch.yielded = true) : afterIssue t = if otherReady t t.cur then passWidth t t.cur else t := by
  simp only [afterIssue, ha, goesOnTo, if_neg hst, hs, hy, Bool.true_and, Bool.false_eq_true, if_false]

/-- What another context of the core can do is the same in a state that differs in the issuing context alone. -/
theorem Elsewhere.otherReady {s t : State} (h : Elsewhere s t) : otherReady t s.cur = otherReady s s.cur := by
  have hlaunch : t.launchOf = s.launchOf := by rw [h.1]; rfl
  have hsaved : t.saved = s.saved := by rw [h.1]
  have hable : ∀ k, (k != slotOf s.cur && ableTo t (coreOf s.cur) k) = (k != slotOf s.cur && ableTo s (coreOf s.cur) k) := by
    intro k
    by_cases hk : k = slotOf s.cur
    · simp [hk]
    · have hne : coreOf s.cur * 4 + k ≠ s.cur := fun e => hk (by have := slotOf_coreOf s.cur; omega)
      simp only [ableTo, State.started, State.ctxLaunch, h.2.2 _ hne, hlaunch, hsaved]
  simp only [Machine.otherReady, hable]

/-- The width passed on by the issuing context. -/
theorem passWidth_me {t : State} (hc : t.cur < residents) :
    Elsewhere t (passWidth t t.cur)
    ∧ (passWidth t t.cur).me = { t.me with st := if t.me.st = .running then .ready else t.me.st }
    ∧ ((passWidth t t.cur).core (t.cur / 4)).holder ≠ some (t.cur % 4) := by
  refine ⟨((Elsewhere.refl t).updMe hc _).trans (elsewhere_releaseWidth _ _), ?_, holder_releaseWidth _ hc⟩
  exact (same_releaseWidth _ _).2.2.trans (me_updMe t hc _)

/-- A block that has issued `HALTB` waits for its engine work. -/
theorem afterIssue_ends {t : State} (ha : t.me.after = .haltb) : afterIssue t = block (t.updMe (fun c => c.owing none)) t.cur 5 := by
  simp only [afterIssue, ha]

theorem sleepuOp_eff {s : State} (hc : s.cur < residents) (x : ArgA) :
    (sleepuOp x).eff (beginIssue s) (beginIssue s) = if s.cyc.toNat < (s.me.rS x.src1).toNat then
      (beginIssue s).updMe (fun c => { c with st := .sleeping, sleepTo := (s.me.rS x.src1).toNat }) else beginIssue s := by
  have hcyc : (beginIssue s).cyc = s.cyc := by rw [begin_fields s hc]
  simp only [sleepuOp, Op.plain, me_begin_rS hc, hcyc]

/-- A `YIELD` at its next issue point. -/
theorem yield_point {s : State} (hq : Quiet s) :
    ∃ t, Arrives s s (fun _ => closing s s.me.held s.me.begin) { latchBegin s.latch s.me with yielded := true } t
      ∧ exec .yield s = .next (afterIssue t) :=
  exec_afterIssue (exec_yield s) hq (verdict_go _ s rfl rfl rfl rfl) ((Arrives.begin hq).latched (fun l => { l with yielded := true }))
    ⟨rfl, rfl, rfl, rfl, rfl, rfl⟩ ⟨rfl, rfl, rfl, rfl⟩ (step_off hq) rfl rfl

/-- Settles O21: it holds. Each op comes to its next issue point (`exec_afterIssue`), where it yields, sleeps or ends its block. -/
theorem idling : Obligations.Idling := by
  intro s hq
  obtain ⟨hc, -, -, ha, hst⟩ := id hq
  refine ⟨fun ho => ?stays, fun ho => ?passes, fun x hr => ⟨fun hpast => ?past, fun hcome => ?sleeps⟩,
    fun x hr => ⟨fun hreg => ?full, fun hreg => ?unlisted⟩, ?ends⟩
  case stays =>
    obtain ⟨t, ⟨hel, hl, hcur, hme⟩, hexec⟩ := yield_point hq
    rw [afterIssue_yields (by rw [hme]; exact ha) (by rw [hme]; exact hst) (by rw [hl]; exact step_off hq) (by rw [hl]), hcur,
      hel.otherReady, ho] at hexec
    exact ⟨t, hexec, hel, hme⟩
  case passes =>
    obtain ⟨t, ⟨hel, hl, hcur, hme⟩, hexec⟩ := yield_point hq
    have ho' := hel.otherReady.trans ho
    rw [← hcur] at ho'
    rw [afterIssue_yields (by rw [hme]; exact ha) (by rw [hme]; exact hst) (by rw [hl]; exact step_off hq) (by rw [hl]),
      if_pos ho'] at hexec
    obtain ⟨hrest, hyield, hholder⟩ := passWidth_me (t := t) (hcur ▸ hc)
    rw [hcur] at hexec hrest hyield hholder
    exact ⟨_, hexec, hel.trans hrest, hyield.trans (by rw [hme]; rfl), hholder⟩
  case past =>
    refine writes_nothing (exec_sleepu x s) hq (verdict_go _ s rfl hr rfl rfl) ?_
    rw [sleepuOp_eff hc, if_neg (by omega)]
  case sleeps =>
    obtain ⟨t, ⟨hel, -, hcur, hme⟩, hexec⟩ := exec_afterIssue_updMe (exec_sleepu x s) hq (verdict_go _ s rfl hr rfl rfl)
      ((sleepuOp_eff hc x).trans (if_pos hcome)) ⟨rfl, rfl, rfl, rfl⟩
    rw [afterIssue_sleeps (by rw [hme]; exact ha) (by rw [hme]; rfl), hcur] at hexec
    refine ⟨_, hexec, hel.trans (elsewhere_releaseWidth t s.cur), ?_, holder_releaseWidth t hc⟩
    exact (same_releaseWidth t s.cur).2.2.trans hme
  case full => exact writes_nothing (exec_waitfe x s) hq (verdict_go _ s rfl hr (if_neg (by omega)) rfl) rfl
  case unlisted => exact raises_of (exec_waitfe x s) rfl hr (if_pos hreg)
  case ends =>
    obtain ⟨t, ⟨hel, -, hcur, hme⟩, hexec⟩ := exec_afterIssue_updMe (F := fun c => { c with after := .haltb }) (exec_haltb s) hq
      (verdict_go _ s rfl rfl rfl rfl) rfl ⟨rfl, rfl, rfl, rfl⟩
    have hct : t.cur < residents := hcur ▸ hc
    rw [afterIssue_ends (by rw [hme]; rfl)] at hexec
    have hblock := block_elsewhere (s := t.updMe (fun c => c.owing none)) (by rw [updMe_cur]; exact hct) 5
    rw [updMe_cur, me_updMe t hct, hme] at hblock
    obtain ⟨hrest, hblocked⟩ := hblock
    refine ⟨_, hexec, (hel.updMe hc _).trans hrest, ?_⟩
    rw [hblocked]
    exact ⟨rfl, rfl, rfl, rfl, rfl, rfl, rfl, rfl, rfl, rfl, rfl, rfl, rfl⟩

end Sys2Proof.Machine

/-! # Snapshots (O23)

The save area in the scratchpad, the issue of the snapshot instructions, and the transfer that ends their wait (R258, R273, R274). -/

namespace Sys2Proof.Machine

open Sys2Proof

/-! ### The snapshot's bytes (R258) -/

theorem length_words (c : Snap) : c.words.length = 63 := by
  simp [Snap.words]

theorem length_flatMap_leBytes (l : List Nat) : (l.flatMap (leBytes 8)).length = 8 * l.length := by
  induction l with
  | nil => rfl
  | cons x t ih => rw [List.flatMap_cons, List.length_append, length_leBytes, ih, List.length_cons]; omega

theorem length_bytes (c : Snap) : c.bytes.length = 512 := by
  rw [Snap.bytes, length_flatMap_leBytes, List.length_append, length_words]; rfl

/-! ### Save areas in the scratchpad (R274) -/

theorem areaReason_short {s : State} {n : Nat} {a : Word64} (h64 : a.toNat % 64 = 0) (hs : isShort a = true) :
    areaReason s n a = 0 := by
  rw [areaReason, if_neg (by omega), if_pos hs]

theorem areaReason_misaligned {s : State} {n : Nat} {a : Word64} (h64 : a.toNat % 64 ≠ 0) : areaReason s n a = 0x55 := if_pos h64

theorem areaExc_fits {a : Word64} (h : a.toNat + 512 ≤ 2 ^ 20) : areaExc a = none := by
  have hsp : Config.spBytes = 2 ^ 20 := rfl
  rw [areaExc, if_neg]
  rw [Bool.and_eq_true, decide_eq_true_eq]
  omega

theorem probe_short {s : State} {n : Nat} {need : Need} {wr : Bool} {opc len : Nat} {a : Word64} (hs : isShort a = true)
    (hl : a.toNat + len ≤ 2 ^ 64) : probe s n need wr opc a len = .pass := by
  unfold probe
  dsimp only
  split
  · rfl
  · exact if_neg (Nat.not_lt.mpr hl)

/-- The area of the issuing context's own scratchpad. -/
theorem spAddr_area {s : State} {n : Nat} (hn : n < residents) (a : Nat) :
    spAddr (s.homeCore n) a = 2 ^ 39 + n / 4 * 2 ^ 20 + a := by
  rw [State.homeCore, if_pos hn]
  rfl

/-! ### The issue of the snapshot instructions (R273) -/

/-- A context whose snapshot's transfer is to come waits for it, reason 12. -/
theorem afterIssue_transfers {t : State} (ha : (∃ a, t.me.after = .snapst a) ∨ t.me.after = .snapld) :
    afterIssue t = block t t.cur 12 := by
  rcases ha with ⟨a, ha⟩ | ha <;> simp only [afterIssue, ha]

/-- An op that leaves its context with a snapshot's transfer to come. -/
theorem transfer_blocks {s : State} {i : Instr} {o : Op} {F : Context → Context} (hi : exec i s = issueOne o s) (hq : Quiet s)
    (hv : verdict [o] s = .go) (he : o.eff (beginIssue s) (beginIssue s) = (beginIssue s).updMe F)
    (hF : Steady s.me.begin (F s.me.begin)) (hb0 : (F s.me.begin).blockedAt = 0)
    (ha : (∃ a, (F s.me.begin).after = .snapst a) ∨ (F s.me.begin).after = .snapld)
    (hm : o.mem = none := by rfl) (hb : o.bars (beginIssue s) = [] := by rfl) :
    ∃ t, exec i s = .next t ∧ Elsewhere s t ∧ t.me = { closing s (Held.after s.me.held o) (F s.me.begin) with
      st := .blocked, reason := 12, blockedAt := s.cyc.toNat + 1 } := by
  obtain ⟨t, ⟨hel, -, hcur, hme⟩, hexec⟩ := exec_afterIssue_updMe hi hq hv he hF hm hb
  rw [afterIssue_transfers (by rw [hme]; exact ha)] at hexec
  obtain ⟨hrest, hblocked⟩ := block_elsewhere (s := t) (hcur ▸ hq.1) 12
  have hcyc : t.cyc = s.cyc := by rw [hel.1]
  have h0 : t.me.blockedAt = 0 := by rw [hme]; exact hb0
  rw [if_pos h0, hme, hcyc] at hblocked
  exact ⟨_, hexec, hel.trans hrest, hblocked⟩

theorem snapstOp_go {s : State} {x : ArgA} (hr : Ready s [srcS x.src1 x.b1]) (hl : s.me.tlevel = 1)
    (h64 : (s.me.rS x.src1).toNat % 64 = 0) (hfit : (s.me.rS x.src1).toNat + 512 ≤ 2 ^ 20) (hv : s.me.snapv = true)
    (hp : s.me.pend = []) : verdict [snapstOp x] s = .go := by
  have hs : isShort (s.me.rS x.src1) = true := isShort_of (by omega)
  have hpass : probe s s.cur .write true 0x0F (s.me.rS x.src1) 512 = .pass := probe_short hs (by omega)
  refine verdict_go _ s rfl hr ?_ ?_
  · simp only [snapstOp, hl, hv, hp, areaReason_short h64 hs, areaExc_fits hfit, hpass, ne_eq, not_true_eq_false, if_false, Bool.not_true,
      Bool.false_eq_true, List.isEmpty_nil, if_true]
  · simp only [snapstOp, hp, hpass]
    rfl

/-- What `SNAPLD` reads from a short save area. -/
theorem areaBytes_short {s : State} {n : Nat} {a : Word64} (hn : n < residents) (hs : isShort a = true) :
    areaBytes s n a = rdBytes s (2 ^ 39 + n / 4 * 2 ^ 20 + a.toNat) 512 := by
  rw [areaBytes, if_pos hs, spAddr_area hn]

theorem begin_areaBytes_short {s : State} {a : Word64} (hc : s.cur < residents) (hs : isShort a = true) :
    areaBytes (beginIssue s) s.cur a = areaBytes s s.cur a := by
  rw [areaBytes_short hc hs, areaBytes_short hc hs, begin_rdBytes]

/-- Past its level, copy and address, `SNAPLD` looks at a short save area's image. -/
theorem snapldOp_chk {s : State} {x : ArgA} (hc : s.cur < residents) (hl : s.me.tlevel = 1)
    (h64 : (s.me.rS x.src1).toNat % 64 = 0) (hfit : (s.me.rS x.src1).toNat + 512 ≤ 2 ^ 20) (hv : s.me.snapv = false)
    (hecc : areaEcc s s.cur (s.me.rS x.src1) = false) :
    (snapldOp x).chk s
      = if imageOk s.cur (imageWords (rdBytes s (2 ^ 39 + s.cur / 4 * 2 ^ 20 + (s.me.rS x.src1).toNat) 512)) then none
        else some (illegal 0 0x51 0) := by
  have hs : isShort (s.me.rS x.src1) = true := isShort_of (by omega)
  have hid : s.ctxid s.cur = s.cur := if_pos hc
  simp only [snapldOp, hl, hv, areaReason_short h64 hs, snapldImage, areaExc_fits hfit, hs, hecc, areaBytes_short hc hs, hid, ne_eq,
    not_true_eq_false, if_false, Bool.false_eq_true, if_true]

theorem snapldOp_eff {s : State} {x : ArgA} (hc : s.cur < residents) (hs : isShort (s.me.rS x.src1) = true) :
    (snapldOp x).eff (beginIssue s) (beginIssue s) = (beginIssue s).updMe (fun c => { c with
      snap := imageSnap (imageWords (rdBytes s (2 ^ 39 + s.cur / 4 * 2 ^ 20 + (s.me.rS x.src1).toNat) 512)),
      snapv := true, mask := true, after := .snapld }) := by
  simp only [snapldOp, Op.plain, beginIssue_cur, me_begin_rS hc, begin_areaBytes_short hc hs, areaBytes_short hc hs]

/-! ### The transfer performed (R273) -/

/-- A transfer's end with no step stop owed: its context goes on. -/
theorem free_wakes {u : State} {n : Nat} (hn : n < residents) (ho : (u.ctx n).owed = none) :
    let t := settleStep (wake (u.updCtx n (fun c => { c with after := .none })) n) n
    Beside n u t ∧ t.ctx n = { u.ctx n with st := readyState (u.ctx n).tlevel, reason := 0, after := .none } := by
  have hctx : (wake (u.updCtx n (fun c => { c with after := .none })) n).ctx n
      = { u.ctx n with st := readyState (u.ctx n).tlevel, reason := 0, after := .none } := by
    rw [wake, ctx_updCtx_self _ hn, ctx_updCtx_self _ hn]
  dsimp only
  rw [settleStep_none (by rw [hctx]; exact ho)]
  exact ⟨(beside_updCtx u hn _).trans (beside_updCtx _ hn _), hctx⟩

theorem snapWrite_short {s : State} {n : Nat} {a : Word64} (hn : n < residents) (hs : isShort a = true) :
    snapWrite s n a = wrBytes s (2 ^ 39 + n / 4 * 2 ^ 20 + a.toNat) (s.ctx n).snap.bytes := by
  rw [snapWrite, if_pos hs, spAddr_area hn]

/-- What is written stands, and no other byte is changed, while a context goes on. -/
theorem written_beside {s t : State} {n pa : Nat} {l : List Byte} (h : Beside n (wrBytes s pa l) t) :
    rdBytes t pa l.length = l ∧ ∀ b, b < pa ∨ pa + l.length ≤ b → t.byte b = s.byte b := by
  have hbyte : ∀ b, t.byte b = (wrBytes s pa l).byte b := fun b => by rw [State.byte, State.byte, h.mem]
  refine ⟨(rdBytes_congr t (wrBytes s pa l) l.length pa (fun k _ => hbyte (pa + k))).trans (rdBytes_wrBytes l s pa), fun b hb => ?_⟩
  rw [hbyte, byte_wrBytes_out l s pa b hb]

/-- A write of memory leaves every context. -/
theorem OnlyMem.ctx {s b : State} (h : OnlyMem s b) (n : Nat) : b.ctx n = s.ctx n := by
  unfold OnlyMem at h
  rw [h]
  rfl

theorem reasonCleared_transfers {s : State} {n : Nat} (hn : n < residents) (hst : (s.ctx n).st = .blocked)
    (hr : relocking s (coreOf n) = false) :
    (∀ a, (s.ctx n).after = .snapst a → reasonCleared n s
      = settleStep (wake ((snapWrite s n a).updCtx n (fun c => { c with after := .none })) n) n)
    ∧ ((s.ctx n).after = .snapld → reasonCleared n s = settleStep (wake (s.updCtx n (fun c => { c with after := .none })) n) n) := by
  have hgo : ¬((s.ctx n).st ≠ .blocked ∨ residents ≤ n ∨ relocking s (coreOf n) = true) := by
    rw [hst, hr]; simp [hn]
  exact ⟨fun a ha => by simp only [reasonCleared, if_neg hgo, ha], fun ha => by simp only [reasonCleared, if_neg hgo, ha]⟩

/-- Settles O23: it holds. The checks pass for a save area in the scratchpad and the issue ends in a wait (`transfer_blocks`); the
transfer is one write of the copy's bytes, or none. That `SNAPLD` takes its copy and mask at issue and that each transfer is one step is
the model's reading (log entry 14). -/
theorem snapshots : Obligations.Snapshots := by
  refine ⟨fun s x hq hr => ⟨fun hl => ⟨fun h64 hfit => ⟨fun hv hp => ?snapst, fun hv hecc => ⟨fun hok => ?snapld, fun hbad => ?image⟩⟩,
      fun h64 hv => ?misaligned, fun hv hm => ?snaprel, fun hv hm => ?unmasked⟩, fun hl => ?level⟩,
    fun s n hn hst hrel ho => ⟨fun a ha hs => ?written, fun ha => ?loaded⟩⟩
  case snapst =>
    refine transfer_blocks (F := fun c => { c with after := .snapst (s.me.rS x.src1) }) (exec_snapst x s) hq
      (snapstOp_go hr hl h64 hfit hv hp) ?_ ⟨rfl, rfl, rfl, rfl⟩ rfl (.inl ⟨_, rfl⟩)
    simp only [snapstOp, Op.plain, me_begin_rS hq.1]
  case snapld =>
    have hs : isShort (s.me.rS x.src1) = true := isShort_of (by omega)
    have hchk := (snapldOp_chk hq.1 hl h64 hfit hv hecc).trans (if_pos hok)
    refine transfer_blocks (exec_snapld x s) hq (verdict_go _ s rfl hr hchk ?_) (snapldOp_eff hq.1 hs) ⟨rfl, rfl, rfl, rfl⟩ rfl (.inr rfl)
    simp only [snapldOp, hs, if_true]
  case image =>
    refine raises_of (exec_snapld x s) rfl hr ((snapldOp_chk hq.1 hl h64 hfit hv hecc).trans (if_neg ?_))
    rw [hbad]; exact Bool.false_ne_true
  case misaligned =>
    refine raises_of (exec_snapst x s) rfl hr ?_
    simp only [snapstOp, hl, hv, areaReason_misaligned h64]
    rfl
  case snaprel =>
    refine writes_of (exec_snaprel s) hq (verdict_go _ s rfl rfl ?_ rfl) rfl _ rfl (fun c => ⟨rfl, rfl, rfl, rfl, rfl, rfl⟩)
    simp only [snaprelOp, hl, hv, hm]
    rfl
  case unmasked =>
    refine raises_of (exec_snaprel s) rfl rfl ?_
    simp only [snaprelOp, hl, hv, hm]
    rfl
  case level =>
    exact ⟨raises_of (exec_snapst x s) rfl hr (if_pos hl), raises_of (exec_snapld x s) rfl hr (if_pos hl),
      raises_of (exec_snaprel s) rfl rfl (if_pos hl)⟩
  case written =>
    have hw := (OnlyMem.refl s).wrBytes (s.ctx n).snap.bytes (2 ^ 39 + n / 4 * 2 ^ 20 + a.toNat)
    have heq := (reasonCleared_transfers hn hst hrel).1 a ha
    rw [snapWrite_short hn (isShort_of hs)] at heq
    obtain ⟨hbeside, hctx⟩ := free_wakes (u := wrBytes s (2 ^ 39 + n / 4 * 2 ^ 20 + a.toNat) (s.ctx n).snap.bytes) hn
      (by rw [hw.ctx]; exact ho)
    rw [hw.ctx] at hctx
    obtain ⟨hin, hout⟩ := written_beside hbeside
    rw [length_bytes] at hin hout
    exact happens_of rfl heq ⟨hctx, hin, hout, fun m hm => (hbeside.2.2 m hm).trans (hw.ctx m)⟩
  case loaded =>
    obtain ⟨hbeside, hctx⟩ := free_wakes (u := s) hn ho
    exact happens_of rfl ((reasonCleared_transfers hn hst hrel).2 ha) ⟨hbeside, hctx⟩

end Sys2Proof.Machine

/-! # Queues (O49)

Tails, commands, kills and records of the queues (R266, R278, R280, R282, R284). -/

namespace Sys2Proof.Machine

open Sys2Proof

/-! ### A queue changed (R278, R282) -/

theorem QueueBecomes.trans {s t u : State} {q : Nat} {d e : Queue} (h : QueueBecomes s t q d) (k : QueueBecomes t u q e) :
    QueueBecomes s u q e := by
  obtain ⟨ht, -, hne⟩ := h
  obtain ⟨hu, he, hne'⟩ := k
  exact ⟨by rw [hu, ht], he, fun p hp => (hne' p hp).trans (hne p hp)⟩

/-- A queue whose head has reached its tail is IDLE. -/
theorem settleHead_empty {s : State} {q : Nat} (h : (s.queue q).tail = (s.queue q).head) :
    QueueBecomes s (settleHead s q) q { s.queue q with st := .idle, pkt := none, readyAt := 0 } := by
  rw [settleHead, if_pos h]
  exact queueBecomes_updQueue s q _

/-- A queue with a packet takes it, READY or BLOCKED by its waits. -/
theorem settleHead_packet {s : State} {q : Nat} (h : (s.queue q).tail ≠ (s.queue q).head) :
    QueueBecomes s (settleHead s q) q { s.queue q with
      st := if waitsDone s (s.queue q).job (headPacket s (s.queue q)) then .ready else .blocked,
      pkt := some (headPacket s (s.queue q)), readyAt := 0 } := by
  rw [settleHead, if_neg h]
  exact queueBecomes_updQueue s q _

/-! ### What a packet reads does not depend on the queues (R279, R281) -/

theorem checkRange_updQueue (s : State) (q : Nat) (f : Queue → Queue) (j : Nat) (need : Need) (present : Bool) (k : Nat) :
    ∀ a n, checkRange (s.updQueue q f) j need present k a n = checkRange s j need present k a n := by
  have hxlate : ∀ a, xlate (s.updQueue q f) j need a = xlate s j need a := fun _ => rfl
  induction k with
  | zero => exact fun _ _ => rfl
  | succ k ih =>
    intro a n
    cases n with
    | zero => rfl
    | succ n => simp only [checkRange, hxlate, ih]

theorem peek_updQueue (s : State) (q : Nat) (f : Queue → Queue) (j n : Nat) :
    ∀ a, peek (s.updQueue q f) j a n = peek s j a n := by
  have hbyte : ∀ a, peekByte (s.updQueue q f) j a = peekByte s j a := fun _ => rfl
  induction n with
  | zero => exact fun _ => rfl
  | succ n ih =>
    intro a
    simp only [peek, hbyte, ih]

theorem ctrReachOn_updQueue (s : State) (q : Nat) (f : Queue → Queue) (j : Nat) (a : Word64) :
    ctrReachOn (s.updQueue q f) j a = ctrReachOn s j a := by
  have hplace : (s.updQueue q f).place j a = s.place j a := rfl
  simp only [ctrReachOn, reachOn, rangeOf, checkRange_updQueue, hplace]

theorem waitsDone_updQueue (s : State) (q : Nat) (f : Queue → Queue) (j : Nat) (p : Packet) :
    waitsDone (s.updQueue q f) j p = waitsDone s j p := by
  simp only [waitsDone, ctrReachOn_updQueue, peek_updQueue]

theorem headPacket_tail (s : State) (q : Nat) (f : Queue → Queue) (x : Queue) (v : Word32) :
    headPacket (s.updQueue q f) { x with tail := v } = headPacket s x :=
  congrArg packetOf (rdBytes_congr (s.updQueue q f) s 256 _ (fun _ _ => rfl))

/-! ### Tail writes (R280) -/

section Tail

variable {s : State} {q : Nat} {v : Word32}

theorem exec_qtail (hq : q < 8192) (hh : s.hostHeld = []) : exec (.qtail q v) s = .next (qtail q v s) :=
  (if_pos hq).trans (congrArg Host.Outcome.next (postHost_done hh rfl))

theorem qtail_disabled (h : (s.queue q).st = .disabled) : qtail q v s = s := if_pos h

theorem qtail_beyond (h : (s.queue q).st ≠ .disabled)
    (hv : 2 ^ bits (s.queue q).ctl.toNat 4 0 < (v - (s.queue q).head).toNat) :
    qtail q v s = postRecord s q (evtRecord s 0x13 0 v.toNat 0 0) false := by
  simp only [qtail, if_neg h, if_pos hv]

theorem qtail_within (h : (s.queue q).st ≠ .disabled)
    (hv : (v - (s.queue q).head).toNat ≤ 2 ^ bits (s.queue q).ctl.toNat 4 0) :
    qtail q v s = if (s.queue q).st = .idle then settleHead (s.updQueue q (fun x => { x with tail := v })) q
      else s.updQueue q (fun x => { x with tail := v }) := by
  simp only [qtail, if_neg h, if_neg (Nat.not_lt.mpr hv)]

/-- An IDLE queue whose tail is written without a packet stays IDLE. -/
theorem settleHead_tail_empty (h : v = (s.queue q).head) (hst : (s.queue q).st = .idle) :
    QueueBecomes s (settleHead (s.updQueue q (fun x => { x with tail := v })) q) q
      { s.queue q with tail := v, pkt := none, readyAt := 0 } := by
  have hset := settleHead_empty (s := s.updQueue q (fun x => { x with tail := v })) (q := q)
    (by rw [queue_updQueue_self]; exact h)
  rw [queue_updQueue_self] at hset
  rw [← hst] at hset
  exact (queueBecomes_updQueue s q _).trans hset

/-- An IDLE queue whose tail is written with a packet takes it. -/
theorem settleHead_tail_packet (h : v ≠ (s.queue q).head) :
    QueueBecomes s (settleHead (s.updQueue q (fun x => { x with tail := v })) q) q { s.queue q with
      tail := v, st := if waitsDone s (s.queue q).job (headPacket s (s.queue q)) then .ready else .blocked,
      pkt := some (headPacket s (s.queue q)), readyAt := 0 } := by
  have hset := settleHead_packet (s := s.updQueue q (fun x => { x with tail := v })) (q := q)
    (by rw [queue_updQueue_self]; exact h)
  rw [queue_updQueue_self, headPacket_tail, waitsDone_updQueue] at hset
  exact (queueBecomes_updQueue s q _).trans hset

end Tail

/-! ### Event records (R284) -/

/-- The state with other queues. -/
def State.withQueues (c : Sparse Queue) (s : State) : State := { s with queues := c }

theorem markTile_withQueues (c : Sparse Queue) (s : State) (e : Seg) (o : Nat) :
    markTile (s.withQueues c) e o = (markTile s e o).withQueues c := by
  unfold markTile
  split
  · exact List.foldl_hom (State.withQueues c) (fun _ _ => rfl)
  · rfl

theorem markPhys_withQueues (c : Sparse Queue) (s : State) (pa : Nat) :
    markPhys (s.withQueues c) pa = (markPhys s pa).withQueues c := by
  refine List.foldl_hom (State.withQueues c) (fun t p => ?_)
  have hofs : segOffset (t.withQueues c) p.2 pa = segOffset t p.2 pa := rfl
  rw [hofs]
  cases segOffset t p.2 pa with
  | none => rfl
  | some o => exact markTile_withQueues c t p.2 o

theorem quayBytes_withQueues (c : Sparse Queue) (l : List Byte) : ∀ (s : State) (pa : Nat),
    quayBytes (s.withQueues c) pa l = (quayBytes s pa l).withQueues c := by
  induction l with
  | nil => exact fun _ _ => rfl
  | cons b t ih =>
    intro s pa
    rw [quayBytes, quayBytes, markPhys_withQueues]
    exact ih ((markPhys s pa).setByte pa b) (pa + 1)

/-- What a record's write does to memory does not depend on the queues. -/
theorem mem_quayBytes_updQueue (s : State) (q : Nat) (f : Queue → Queue) (l : List Byte) (pa : Nat) :
    (quayBytes (s.updQueue q f) pa l).mem = (quayBytes s pa l).mem := by
  have h : quayBytes (s.updQueue q f) pa l = (quayBytes s pa l).withQueues (s.updQueue q f).queues :=
    quayBytes_withQueues (s.updQueue q f).queues l s pa
  rw [h]
  rfl

/-- Where a queue's next event record goes. -/
def recordPlace (x : Queue) : Nat := hbmAddr (bits x.evt.toNat 38 6 * 64 + 64 * (x.evtWr % x.evtCount))

/-- A record written: the ring moves on, and the bytes and an interrupt are all that follows elsewhere. -/
theorem putRecord_facts (s : State) (q : Nat) (rec : List Byte) (intr : Bool) :
    (putRecord s q rec intr).queue q = { s.queue q with evtWr := (s.queue q).evtWr + 1 }
    ∧ (putRecord s q rec intr).mem = (quayBytes s (recordPlace (s.queue q)) rec).mem
    ∧ (putRecord s q rec intr).msix = (if intr then s.msix ++ [q % 2048] else s.msix)
    ∧ (putRecord s q rec intr).cores = s.cores ∧ (putRecord s q rec intr).launches = s.launches := by
  have hb : OnlyMem s (quayBytes s (recordPlace (s.queue q)) rec) := (OnlyMem.refl s).quayBytes rec _
  have hput : putRecord s q rec intr = { (quayBytes s (recordPlace (s.queue q)) rec).updQueue q
      (fun x => { x with evtWr := x.evtWr + 1 }) with msix := if intr then s.msix ++ [q % 2048] else s.msix } := by
    have hmsix : (quayBytes s (recordPlace (s.queue q)) rec).msix = s.msix := by rw [hb]
    cases intr
    · rw [← hmsix]; rfl
    · rw [← hmsix]; rfl
  have hqueue := queue_updQueue_self (quayBytes s (recordPlace (s.queue q)) rec) q (fun x => { x with evtWr := x.evtWr + 1 })
  rw [hb.sameLines.queue] at hqueue
  rw [hput]
  exact ⟨hqueue, rfl, rfl, by rw [hb]; rfl, by rw [hb]; rfl⟩

/-- A record posted leaves the queue's tail and state, the cores and the launches. -/
theorem postRecord_keeps (s : State) (q : Nat) (rec : List Byte) (intr : Bool) :
    ((postRecord s q rec intr).queue q).tail = (s.queue q).tail ∧ ((postRecord s q rec intr).queue q).st = (s.queue q).st
    ∧ (postRecord s q rec intr).cores = s.cores ∧ (postRecord s q rec intr).launches = s.launches := by
  unfold postRecord
  dsimp only
  split
  · rw [queue_updQueue_self]; exact ⟨rfl, rfl, rfl, rfl⟩
  · obtain ⟨hqueue, -, -, hcores, hlaunches⟩ := putRecord_facts s q rec intr
    rw [hqueue]
    exact ⟨rfl, rfl, hcores, hlaunches⟩

/-- The oldest waiting record is written. -/
theorem putRecord_waiting (s : State) (q : Nat) (rest : List (List Byte × Bool)) (rec : List Byte) (intr : Bool) :
    let t := putRecord (s.updQueue q (fun x => { x with waiting := rest })) q rec intr
    t.queue q = { s.queue q with waiting := rest, evtWr := (s.queue q).evtWr + 1 }
    ∧ t.mem = (quayBytes s (recordPlace (s.queue q)) rec).mem
    ∧ t.msix = if intr then s.msix ++ [q % 2048] else s.msix := by
  obtain ⟨hqueue, hmem, hmsix, -, -⟩ := putRecord_facts (s.updQueue q (fun x => { x with waiting := rest })) q rec intr
  rw [queue_updQueue_self] at hqueue hmem
  exact ⟨hqueue, hmem.trans (mem_quayBytes_updQueue s q _ rec _), hmsix⟩

/-! ### Kills (R266, R282) -/

/-- `t` has the queues of `s`, and no launch that `s` has not. -/
def Loses (s t : State) : Prop := t.queues = s.queues ∧ ∀ k, s.launchOf k = none → t.launchOf k = none

theorem Loses.refl (s : State) : Loses s s := ⟨rfl, fun _ h => h⟩

theorem Loses.trans {s t u : State} (h : Loses s t) (k : Loses t u) : Loses s u :=
  ⟨k.1.trans h.1, fun n hn => k.2 n (h.2 n hn)⟩

theorem Loses.foldl {α : Type} {f : State → α → State} (hf : ∀ s x, Loses s (f s x)) (l : List α) : ∀ s, Loses s (l.foldl f s) := by
  induction l with
  | nil => exact .refl
  | cons x t ih => exact fun s => (hf s x).trans (ih _)

theorem SameLines.loses {s t : State} (h : SameLines s t) : Loses s t := ⟨h.2, fun k hk => (h.launchOf k).trans hk⟩

theorem launchOf_none_iff {s : State} {k : Nat} : s.launchOf k = none ↔ ∀ l ∈ s.launches, l.id ≠ k := by
  simp only [State.launchOf, List.find?_eq_none, beq_iff_eq]

/-- A change of launches that keeps their numbers. -/
theorem loses_map {s t : State} (hq : t.queues = s.queues) {f : Launch → Launch} (hf : ∀ l, (f l).id = l.id)
    (hl : t.launches = s.launches.map f) : Loses s t := by
  refine ⟨hq, fun k hk => launchOf_none_iff.mpr fun l hm => ?_⟩
  rw [hl] at hm
  obtain ⟨x, hx, rfl⟩ := List.mem_map.mp hm
  rw [hf]
  exact launchOf_none_iff.mp hk x hx

theorem sameLines_clearLock (s : State) (n : Nat) (k : Nat × Nat) : SameLines s (clearLock s n k) := by
  unfold clearLock
  split <;> exact ⟨rfl, rfl⟩

theorem sameLines_setCtx (s : State) (n : Nat) (c : Context) : SameLines s (s.setCtx n c) := ⟨setCtx_launches .., setCtx_queues ..⟩

theorem sameLines_releaseLocks (s : State) (n : Nat) : SameLines s (releaseLocks s n) :=
  (sameLines_setCtx s n _).trans (SameLines.foldl (fun s k => clearLock s n k) (fun s k => sameLines_clearLock s n k) _ _)

/-- A launch with a context renumbered in its halt line. -/
def Launch.renamed (old new : Nat) (l : Launch) : Launch := { l with halt := l.halt.map (fun h => { h with
  unit := renameUnit old new h.unit, waiting := h.waiting.map (renameUnit old new), done := h.done.map (renameUnit old new) }) }

/-- A context's end renames it in the halt lines, and changes neither a launch's number nor a queue. -/
theorem loses_setGone (s : State) (n : Nat) : Loses s (setGone s n) :=
  loses_map (f := Launch.renamed n (gone + s.num * 4096 + s.ctxid n)) rfl (fun _ => rfl) rfl

/-- The engines and the requests without what is a context's. -/
def entriesDropped (n : Nat) (s : State) : State := { s with
  cores := Sparse.mapV Core.cold (fun _ k => { k with
    mq := k.mq.filter (fun e => e.ctx != n), savedOps := k.savedOps.filter (fun e => e.ctx != n) }) s.cores,
  fills := s.fills.filter (fun r => r.ctx != n), deferred := s.deferred.filter (fun d => d.ctx != n) }

theorem killCtx_eq (s : State) (n : Nat) : killCtx s n
    = if n < residents then
        releaseWidth ((setGone (entriesDropped n (releaseLocks s n)) n).setCtx n { Context.empty with st := .killed }) n
      else { setGone (entriesDropped n (releaseLocks s n)) n with
        saved := (setGone (entriesDropped n (releaseLocks s n)) n).saved.filter (fun x => x.id != n) } := rfl

theorem loses_killCtx (s : State) (n : Nat) : Loses s (killCtx s n) := by
  have hdrop : SameLines (releaseLocks s n) (entriesDropped n (releaseLocks s n)) := ⟨rfl, rfl⟩
  have hgone := ((sameLines_releaseLocks s n).trans hdrop).loses.trans (loses_setGone _ n)
  rw [killCtx_eq]
  split
  · exact hgone.trans ((sameLines_setCtx _ n _).trans (sameLines_releaseWidth _ n)).loses
  · exact hgone.trans (SameLines.loses ⟨rfl, rfl⟩)

theorem loses_dropLaunch (s : State) (k : Nat) : Loses s (dropLaunch s k) := by
  obtain ⟨p, hp⟩ := foldl_freePool (((s.launchOf k).map (·.left)).getD []) s
  have hfree : Loses s (freeReserve s k) := by
    refine loses_map (f := fun l => if l.id == k then { l with left := [] } else l) ?_ (fun l => ?_) ?_
    · rw [freeReserve]; simp only [hp]; rfl
    · split <;> rfl
    · rw [freeReserve]; simp only [hp]; rfl
  refine hfree.trans ⟨rfl, fun i hi => launchOf_none_iff.mpr fun l hm => ?_⟩
  exact launchOf_none_iff.mp hi l (List.mem_filter.mp hm).1

/-- A kill ends its launch, and starts none. -/
theorem killLaunch_ends (s : State) (k : Nat) : Loses s (killLaunch s k) ∧ (killLaunch s k).launchOf k = none := by
  unfold killLaunch
  refine ⟨((Loses.foldl loses_killCtx _ s).trans (SameLines.loses ⟨rfl, rfl⟩)).trans (loses_dropLaunch _ k), ?_⟩
  exact (dropLaunch_keeps _ k).1

theorem foldl_killLaunch (l : List Launch) : ∀ s : State,
    Loses s (l.foldl (fun s x => killLaunch s x.id) s) ∧ ∀ x ∈ l, (l.foldl (fun s x => killLaunch s x.id) s).launchOf x.id = none := by
  induction l with
  | nil => exact fun s => ⟨.refl s, fun x hx => absurd hx (List.not_mem_nil)⟩
  | cons a t ih =>
    intro s
    obtain ⟨hlose, hend⟩ := killLaunch_ends s a.id
    obtain ⟨hrest, hends⟩ := ih (killLaunch s a.id)
    refine ⟨hlose.trans hrest, fun x hx => ?_⟩
    rcases List.mem_cons.mp hx with rfl | hx
    · exact hrest.2 _ hend
    · exact hends x hx

/-- Every halted launch of the queue whose fault is posted has ended. -/
def Ended (s : State) (q : Nat) (t : State) : Prop :=
  ∀ l ∈ s.launches, l.queue = q → (l.halt.map (·.posted)).getD false = true → t.launchOf l.id = none

theorem killHalted_ends (s : State) (q : Nat) : (killHalted s q).queue q = s.queue q ∧ Ended s q (killHalted s q) := by
  obtain ⟨⟨hqueues, -⟩, hends⟩ := foldl_killLaunch (s.launches.filter (fun l => l.queue == q && (l.halt.map (·.posted)).getD false)) s
  refine ⟨congrArg (fun t => Sparse.get Queue.cold t q) hqueues, fun l hl hq hp => hends l (List.mem_filter.mpr ⟨hl, ?_⟩)⟩
  rw [hp, Bool.and_true, beq_iff_eq]
  exact hq

/-- Changes of queues alone leave the ended launches ended. -/
theorem Ended.queueBecomes {s t u : State} {q : Nat} {d : Queue} (h : Ended s q t) (k : QueueBecomes t u q d) : Ended s q u := by
  intro l hl hq hp
  rw [k.1]
  exact h l hl hq hp

/-! ### Commands (R266, R282) -/

section Command

variable {s : State} {q : Nat}

theorem enable_wellFormed (hst : (s.queue q).st = .disabled) (h4 : 4 ≤ bits (s.queue q).ctl.toNat 4 0)
    (h16 : bits (s.queue q).ctl.toNat 4 0 ≤ 16) (hb : (s.queue q).base.toNat % 4096 = 0)
    (e4 : 4 ≤ bits (s.queue q).evt.toNat 3 0) (e12 : bits (s.queue q).evt.toNat 3 0 ≤ 12) :
    enable q s = s.updQueue q (fun x => { x with st := .idle, head := x.tail, pkt := none, launch := none, readyAt := 0 }) := by
  refine if_neg ?_
  simp only [hst, hb, ne_eq, not_true_eq_false, false_or]
  omega

theorem disable_running (h : (s.queue q).st = .running) : disable q s = s.updQueue q (fun x => { x with st := .draining }) := by
  simp only [disable, h]

theorem disable_stops (h : (s.queue q).st = .idle ∨ (s.queue q).st = .blocked ∨ (s.queue q).st = .ready) :
    disable q s = s.updQueue q (fun x => { x with st := .disabled, pkt := none }) := by
  rcases h with h | h | h <;> simp only [disable, h]

/-- A resumed queue goes on at its head, its halted launches ended. -/
theorem resume_faulted (h : (s.queue q).st = .faulted) :
    ((resume q s).queue q).launch = none ∧ Ended s q (resume q s)
    ∧ ((s.queue q).tail = (s.queue q).head → ((resume q s).queue q).st = .idle)
    ∧ ((s.queue q).tail ≠ (s.queue q).head → ((resume q s).queue q).st = .ready ∨ ((resume q s).queue q).st = .blocked) := by
  obtain ⟨hqueue, hends⟩ := killHalted_ends s q
  have hfree := queueBecomes_updQueue (killHalted s q) q (fun x => { x with launch := none })
  rw [resume, if_pos h]
  generalize (killHalted s q).updQueue q (fun x => { x with launch := none }) = u at hfree
  have hu : u.queue q = { s.queue q with launch := none } := by rw [hfree.2.1, hqueue]
  have htail : (u.queue q).tail = (s.queue q).tail ∧ (u.queue q).head = (s.queue q).head := by rw [hu]; exact ⟨rfl, rfl⟩
  by_cases he : (s.queue q).tail = (s.queue q).head
  · have hset := settleHead_empty (s := u) (q := q) (by rw [htail.1, htail.2]; exact he)
    refine ⟨?_, (hends.queueBecomes hfree).queueBecomes hset, fun _ => ?_, fun hne => absurd he hne⟩ <;> rw [hset.2.1]
    rw [hu]
  · have hset := settleHead_packet (s := u) (q := q) (by rw [htail.1, htail.2]; exact he)
    refine ⟨?_, (hends.queueBecomes hfree).queueBecomes hset, fun h => absurd h he, fun _ => ?_⟩ <;> rw [hset.2.1]
    · rw [hu]
    · dsimp only
      split
      · exact .inl rfl
      · exact .inr rfl

/-- A kill of a running launch raises its line by the host, unless its completion is due. -/
theorem kill_running {k : Nat} {l : Launch} (h : (s.queue q).st = .running ∨ (s.queue q).st = .draining)
    (hk : (s.queue q).launch = some k) (hl : s.launchOf k = some l) :
    kill q s = if workDone s l then s else (raiseHalt s k { kind := 15, inst := 0 } 0x87 0 0).updLaunch k (fun l =>
      { l with halt := l.halt.map (fun h => { h with killed := true }) }) := by
  have hraise : kill q s = kill.raise s (s.queue q) := by rcases h with h | h <;> simp only [kill, h]
  rw [hraise, kill.raise, hk]
  simp only [hl, Option.map_some, Option.getD_some]

/-- A BLOCKED queue whose waits are satisfied is READY. -/
theorem exec_packetWaits {p : Packet} (hq : q < 8192) (hst : (s.queue q).st = .blocked) (hp : (s.queue q).pkt = some p)
    (hw : waitsDone s (s.queue q).job p = true) : exec (.packetWaits q) s = .next (s.updQueue q (fun x => { x with st := .ready })) :=
  (if_pos hq).trans (by simp only [hst, hp, if_pos hw])

end Command

/-- Settles O49: it holds. Each event's branch is an equation, and what it leaves is one change of the queue (`QueueBecomes`), a record
(`putRecord_facts`), or the end of the queue's halted launches (`killHalted_ends`). -/
theorem queueEvents : Obligations.QueueEvents := by
  intro s q hq
  refine ⟨fun v hh => ⟨fun hst => ?ignored, fun hst => ⟨fun hv => ⟨fun hi => ?busy, fun hi he => ?empty, fun hi he => ?packet⟩, fun hv => ?beyond⟩⟩,
    fun hst h4 h16 hb e4 e12 => ?enable, fun hst => ?drains, fun hst => ?stops, fun hst => ⟨?disable, ?kill, ?resume⟩,
    fun hst k l hk hl hh => ⟨fun hw => ?due, fun hw => ?killed⟩, fun p hst hp hw => ?waits,
    fun rec intr rest hwait => ⟨fun hf => ?full, fun hf => ?written⟩⟩
  case ignored => rw [exec_qtail hq hh, qtail_disabled hst]
  case busy =>
    exact ⟨_, exec_qtail hq hh, by rw [qtail_within hst hv, if_neg hi]; exact queueBecomes_updQueue s q _⟩
  case empty =>
    exact ⟨_, exec_qtail hq hh, by rw [qtail_within hst hv, if_pos hi]; exact settleHead_tail_empty he hi⟩
  case packet =>
    exact ⟨_, exec_qtail hq hh, by rw [qtail_within hst hv, if_pos hi]; exact settleHead_tail_packet he⟩
  case beyond =>
    exact ⟨_, exec_qtail hq hh, by rw [qtail_beyond hst hv]; exact postRecord_keeps s q _ _⟩
  case enable =>
    exact happens_of (if_pos hq) (enable_wellFormed hst h4 h16 hb e4 e12) (queueBecomes_updQueue s q _)
  case drains => exact happens_of (if_pos hq) (disable_running hst) (queueBecomes_updQueue s q _)
  case stops => exact happens_of (if_pos hq) (disable_stops hst) (queueBecomes_updQueue s q _)
  case disable =>
    have hbecomes := queueBecomes_updQueue (killHalted s q) q (fun x => { x with st := .disabled, pkt := none, launch := none })
    refine happens_of (if_pos hq) (by simp only [Machine.disable, hst]) ⟨?_, (killHalted_ends s q).2.queueBecomes hbecomes⟩
    rw [hbecomes.2.1]
  case kill => exact happens_of (if_pos hq) (by simp only [Machine.kill, hst]) (killHalted_ends s q)
  case resume => exact ⟨_, if_pos hq, resume_faulted hst⟩
  case due => exact (if_pos hq).trans (congrArg Host.Outcome.next ((kill_running hst hk hl).trans (if_pos hw)))
  case killed =>
    obtain ⟨-, hmem, hcores, -⟩ := raiseHalt_calm s k { kind := 15, inst := 0 } 0x87 0 0
    obtain ⟨z, hz, -, hcause, -⟩ := raiseHalt_up s k { kind := 15, inst := 0 } 0x87 0 0 l hl hh
    refine happens_of (if_pos hq) ((kill_running hst hk hl).trans (if_neg (by rw [hw]; exact Bool.false_ne_true)))
      ⟨hcores, hmem, _, HaltIs.updHalt hz _, hcause, rfl⟩
  case waits => exact ⟨_, exec_packetWaits hq hst hp hw, queueBecomes_updQueue s q _⟩
  case full => exact (if_pos hq).trans (by simp only [hwait, if_pos hf])
  case written =>
    refine happens_of (if_pos hq) (by simp only [hwait, hf, Bool.false_eq_true, if_false]) (putRecord_waiting s q rest rec intr)

end Sys2Proof.Machine

/-! # The copy engine and the quays at work (O44)

Copies, fills and multicasts (R202, R290, R303, R305, R306, R314) and rings (R286, R307 to R312). -/

namespace Sys2Proof.Machine

open Sys2Proof

/-! ### Translation sites and memory -/

/-- What waits neither for a page nor for a unit in reset goes on at once (R233, R409). -/
theorem withPage_goes {s : State} {j : Nat} {a : Word64} (ha : absentAt s j a = none) (hr : resetHolds s j a = false)
    (f : State → State) : withPage j a f s = f s := by
  simp only [withPage, ha, hr, Bool.false_eq_true, if_false]

theorem OnlyMem.core {s b : State} (h : OnlyMem s b) (g : Nat) : b.core g = s.core g := by rw [h]; rfl

theorem onlyMem_engWrite (s : State) (j g : Nat) (a : Word64) (bs : List Byte) : OnlyMem s (engWrite s j g a bs) := by
  unfold engWrite
  split
  · exact (OnlyMem.refl s).wrBytes _ _
  · exact (OnlyMem.refl s).poke _ _ _

theorem onlyMem_addCtr (s : State) (j g : Nat) (a : Word64) (v : Nat) : OnlyMem s (addCtr s j g a v) := by
  unfold addCtr
  split
  · exact .refl s
  · refine OnlyMem.wr ?_ _ _ _
    split
    · exact .refl s
    · split
      · exact (OnlyMem.refl s).markTile _ _
      · exact .refl s

theorem jobs_countBar (s : State) (g : Nat) (bar : Word64) (n h : Nat) :
    ((countBar s g bar n).core h).jobs = (s.core h).jobs := by
  unfold countBar
  split
  · rfl
  · exact jobs_barUpdate ..

theorem jobs_foldl {α : Type} {g : Nat} {f : State → α → State} (hf : ∀ s x, ((f s x).core g).jobs = (s.core g).jobs) (l : List α) :
    ∀ s, ((l.foldl f s).core g).jobs = (s.core g).jobs := by
  induction l with
  | nil => exact fun _ => rfl
  | cons x t ih => exact fun s => (ih _).trans (hf s x)

/-! ### A job of an engine, found by its number -/

section Job

variable {s t : State} {g n : Nat} {x y : CopyJob}

theorem findJob_congr (h : (t.core g).jobs = (s.core g).jobs) (n : Nat) : findJob t g n = findJob s g n := by
  rw [findJob, findJob, h]

/-- A change of an engine's jobs that keeps their numbers changes the one that is found. -/
theorem findJob_map (h : findJob s g n = some x) {f : CopyJob → CopyJob} (hf : ∀ y, (f y).num = y.num) :
    findJob (s.updCore g (fun k => { k with jobs := k.jobs.map f })) g n = some (f x) := by
  have hnum : (fun y => (f y).num == n) = (fun y : CopyJob => y.num == n) := funext fun y => by rw [hf]
  rw [findJob, core_updCore, if_pos rfl, List.find?_map, Function.comp_def, hnum]
  exact congrArg (Option.map f) h

theorem findJob_num (h : findJob s g n = some x) : x.num = n := by simpa using List.find?_some h

theorem findJob_putJob (h : findJob s g n = some x) (hy : y.num = x.num) : findJob (putJob s g y) g n = some y := by
  have hput := findJob_map h (f := fun z => if z.num = y.num then y else z) (fun z => by
    split
    next e => exact e.symm
    next => rfl)
  rwa [if_pos hy.symm] at hput

theorem findJob_doneElem (h : findJob s g n = some x) (e : Nat) :
    findJob (doneElem s g n e) g n = some { x with done := x.done ++ [e] } := by
  have hdone := findJob_map h (f := fun z => if z.num = n then { z with done := z.done ++ [e] } else z) (fun z => by split <;> rfl)
  rwa [if_pos (findJob_num h)] at hdone

/-! ### The start of a copy (R303, R305) -/

theorem remoteJob_local (hk : x.kind = .copy ∨ x.kind = .fill) (s : State) : remoteJob s x = none := by
  rw [remoteJob, if_neg (by rcases hk with hk | hk <;> rw [hk] <;> decide)]

theorem copyStart_local (hx : findJob s g n = some x) (hs : startable s g x = true) (hk : x.kind = .copy ∨ x.kind = .fill) :
    copyStart g n s = beginJob s g x := by
  have hlocal : ¬(x.kind = .remw ∨ x.kind = .cadd) ∧ x.kind ≠ .mcast := by rcases hk with hk | hk <;> rw [hk] <;> decide
  simp only [copyStart, hx, hs, Bool.not_true, Bool.false_eq_true, if_false, remoteJob_local hk, if_neg hlocal.1, if_neg hlocal.2]

theorem bound_of_startable (h : startable s g x = true) : x.bound = true := by
  simp only [startable, jobReady, Bool.and_eq_true] at h
  tauto

/-! ### The elements of one word (R202, R290) -/

/-- Element `k` of a copy or fill once nothing holds it up: written, counted at the barrier, and done. -/
def performElem (g : Nat) (x : CopyJob) (s : State) (k : Nat) : State :=
  let d := match x.snap with
    | some l => (l.drop (k * x.box.esize)).take x.box.esize
    | none => elemBytesAt s x.job g x.box (x.kind == .fill) k
  doneElem (countBar (engWrite s x.job g (x.box.dstAt k) d) g x.box.bar x.box.esize) g x.num k

theorem moveElem_performs {k : Nat} (hk : k < x.box.count) (hd : k ∉ x.done) (ha : absentAt s x.job (x.box.dstAt k) = none)
    (hr : resetHolds s x.job (x.box.dstAt k) = false) : moveElem s g x k = performElem g x s k := by
  have hdue : ¬(x.box.count ≤ k ∨ x.done.contains k = true) := by
    rw [List.contains_iff_mem]
    exact not_or.mpr ⟨Nat.not_le.mpr hk, hd⟩
  rw [moveElem, if_neg hdue, withPage_goes ha hr]
  rfl

/-- Elements of which none is held up when its turn comes are all performed. -/
theorem foldl_moveElem : ∀ (l : List Nat) (s : State), (∀ k ∈ l, k < x.box.count ∧ k ∉ x.done) →
    (∀ n k, l[n]? = some k → absentAt ((l.take n).foldl (performElem g x) s) x.job (x.box.dstAt k) = none
      ∧ resetHolds ((l.take n).foldl (performElem g x) s) x.job (x.box.dstAt k) = false) →
    l.foldl (fun s k => moveElem s g x k) s = l.foldl (performElem g x) s
  | [], _, _, _ => rfl
  | k :: l, s, hdue, hfree => by
    obtain ⟨hk, hl⟩ := List.forall_mem_cons.mp hdue
    obtain ⟨ha, hr⟩ := hfree 0 k rfl
    have hmoves : moveElem s g x k = performElem g x s k := moveElem_performs hk.1 hk.2 ha hr
    rw [List.foldl_cons, hmoves]
    exact foldl_moveElem l _ hl (fun n m hm => hfree (n + 1) m hm)

theorem wordMates_due {e k : Nat} (h : k ∈ wordMates x e) : k < x.box.count ∧ k ∉ x.done := by
  obtain ⟨hk, hw⟩ := List.mem_filter.mp h
  simp only [Bool.and_eq_true, Bool.not_eq_true', List.contains_eq_mem, decide_eq_false_iff_not] at hw
  exact ⟨List.mem_range.mp hk, hw.2⟩

theorem findJob_performElem {k : Nat} (hy : findJob s g x.num = some y) :
    findJob (performElem g x s k) g x.num = some { y with done := y.done ++ [k] } :=
  findJob_doneElem ((findJob_congr ((jobs_countBar ..).trans (by rw [(onlyMem_engWrite ..).core])) _).trans hy) k

theorem findJob_foldl_performElem : ∀ (l : List Nat) {s : State} {y : CopyJob}, findJob s g x.num = some y →
    findJob (l.foldl (performElem g x) s) g x.num = some { y with done := y.done ++ l }
  | [], _, _, hy => by rw [List.append_nil]; exact hy
  | k :: l, _, y, hy => by
    rw [List.foldl_cons, findJob_foldl_performElem l (findJob_performElem hy), List.append_assoc, List.singleton_append]

theorem byteArrival_word {e : Nat} (hx : findJob s g n = some x) (hb : x.began = true) (hd : x.dead = false)
    (hh : s.haltedL x.launch = false) (hk : x.kind = .copy ∨ x.kind = .fill) (hu : unitSent s x (e * x.box.esize) = true) :
    byteArrival g n e s = moveWord s g x e := by
  rcases hk with hk | hk <;> simp [byteArrival, hx, hb, hd, hh, hk, hu]

/-! ### A multicast's box at one member (R314) -/

/-- The box of a multicast written in the scratchpad of core `m` and counted at its barrier there. -/
def landBox (x : CopyJob) (m : Nat) (s : State) : State :=
  (List.range x.box.count).foldl (fun s e => countBar (wrBytes s (spAddr m (x.box.dstAt e).toNat)
    (((x.snap.getD []).drop (e * x.box.esize)).take x.box.esize)) m x.box.bar x.box.esize) s

theorem jobs_landBox (x : CopyJob) (m g : Nat) (s : State) : ((landBox x m s).core g).jobs = (s.core g).jobs :=
  jobs_foldl (fun s _ => (jobs_countBar ..).trans (by rw [((OnlyMem.refl s).wrBytes _ _).core])) _ s

theorem deliver_lands {i m : Nat} (hx : findJob s g n = some x) (hb : x.began = true) (hd : x.dead = false)
    (hh : s.haltedL x.launch = false) (hk : x.kind = .mcast) (hm : x.members[i]? = some m) (hi : i ∉ x.done)
    (hu : unitSent s x ((i + 1) * x.box.bytes - 1) = true) : deliver g n i s = doneElem (landBox x m s) g n i := by
  simp [deliver, hx, hb, hd, hh, hk, hm, hi, hu, landBox]

/-! ### The end of a copy (R306) -/

theorem mem_endJob (s : State) (g : Nat) (x : CopyJob) : (endJob s g x).mem = s.mem := by
  have hfree : (if x.bound then freeBusy s x.job x.segs else s).mem = s.mem := by
    split
    · obtain ⟨-, -, -, -, hmem⟩ := apart_freeBusy s x.job x.segs
      exact hmem
    · rfl
  exact hfree

theorem copyComplete_finish (hx : findJob s g n = some x) (hb : x.began = true) (hd : x.dead = false)
    (hh : s.haltedL x.launch = false) (hk : x.kind = .copy ∨ x.kind = .fill) (hc : x.done.length = x.box.count) :
    copyComplete g n s = if x.box.ctr = 0 then endJob s g x
      else withPage x.job x.box.ctr (fun s => endJob (addCtr s x.job g x.box.ctr x.box.cval.toNat) g x) s := by
  rcases hk with hk | hk <;> simp [copyComplete, copyComplete.finishCopy, hx, hb, hd, hh, hk, hc]

end Job

/-! ### Subscription entries (R308) -/

section Ring

variable {s t : State} {q i : Nat} {x : Sub}

@[simp] theorem sub_setSub_self (s : State) (q i : Nat) (v : Option Sub) : (s.setSub q i v).sub q i = v := by
  simp only [State.sub, State.quay, State.setSub, Sparse.get_set_self]

theorem sub_setSub_ne (s : State) {q i p k : Nat} (v : Option Sub) (h : (p, k) ≠ (q, i)) : (s.setSub q i v).sub p k = s.sub p k := by
  by_cases hp : p = q
  · have hk : k ≠ i := fun hk => h (by rw [hp, hk])
    subst hp
    simp only [State.sub, State.quay, State.setSub, Sparse.get_set_self, Sparse.get_set_ne _ _ _ hk]
  · simp only [State.sub, State.quay, State.setSub, Sparse.get_set_ne _ _ _ hp]

theorem sub_congr (h : t.quays = s.quays) (p k : Nat) : t.sub p k = s.sub p k := by rw [State.sub, State.sub, State.quay, State.quay, h]

theorem quays_freeBusy (j : Nat) : ∀ (l : List Nat) (s : State), (freeBusy s j l).quays = s.quays
  | [], _ => rfl
  | i :: l, s => quays_freeBusy j l (s.updSeg j i (fun e => { e with busy := e.busy - 1 }))

/-- The state with ring `i` noted as the one that the quay served last (R286). -/
def servedLast (q i : Nat) (s : State) : State :=
  { s with quays := Sparse.set Quay.cold s.quays q { (s.quay q) with rr := i } }

theorem sub_servedLast (q i : Nat) (s : State) : (servedLast q i s).sub q i = s.sub q i := by
  simp only [State.sub, State.quay, servedLast, Sparse.get_set_self]

/-! ### The ring whose turn it is (R286, R309, R310) -/

theorem bound_of_tileStarts (h : tileStarts s x = true) : x.bound = true := by
  simp only [tileStarts, Bool.and_eq_true] at h
  exact h.2

theorem ringUnit_turn {st : Bool} (hx : s.sub q i = some x) (hs : x.ring.storer = st) (ht : ringTurn s q = some i) (n : Nat) :
    ringUnit st q i n s = servedLast q i ((List.range n).foldl (fun s _ => ringElem q i s)
      (if tileStarts s x then startTile s q i x else s)) := by
  have hturn : ¬((x.ring.storer != st || ringTurn s q != some i) = true) := by simp [hs, ht]
  simp only [ringUnit, hx, if_neg hturn]
  rfl

/-- A tile that can start is started. -/
theorem ringUnit_starts {st : Bool} (hx : s.sub q i = some x) (hs : x.ring.storer = st) (ht : ringTurn s q = some i)
    (hst : tileStarts s x = true) : ((ringUnit st q i 0 s).sub q i).map (·.prog) = some (some (x.next, 0))
      ∧ ((ringUnit st q i 0 s).sub q i).map (·.bound) = some true := by
  have hsub : (ringUnit st q i 0 s).sub q i = some { x with prog := some (x.next, 0) } := by
    rw [ringUnit_turn hx hs ht, if_pos hst, sub_servedLast]
    exact sub_setSub_self ..
  rw [hsub, ← bound_of_tileStarts hst]
  exact ⟨rfl, rfl⟩

/-- With a tile in progress, the quay moves one element of it. -/
theorem ringUnit_moves {st : Bool} {p : Nat × Nat} (hx : s.sub q i = some x) (hs : x.ring.storer = st) (ht : ringTurn s q = some i)
    (hp : x.prog = some p) : ringUnit st q i 1 s = servedLast q i (ringElem q i s) := by
  have hbusy : ¬(tileStarts s x = true) := by simp [tileStarts, hp]
  rw [ringUnit_turn hx hs ht, if_neg hbusy]
  rfl

/-- The word of element `e` of tile `t` moved, where `e` is its first element (R202). -/
def ringWord (x : Sub) (t e : Nat) (s : State) : State :=
  if (ringMates x (x.ring.tile t) e).head? = some e then
    (ringMates x (x.ring.tile t) e).foldl (fun s k => ringMove x (x.ring.tile t) t k s) s
  else s

theorem ringWord_alone {t e : Nat} (h : ringMates x (x.ring.tile t) e = [e]) :
    ringWord x t e s = ringMove x (x.ring.tile t) t e s := by
  rw [ringWord, h, List.head?_cons, if_pos rfl, List.foldl_cons, List.foldl_nil]

/-- The entry of a ring that has moved element `e` of tile `t`. -/
def Sub.movedOn (x : Sub) (t e : Nat) : Sub :=
  if e + 1 = (x.ring.tile t).count then { x with prog := none, next := t + 1, tnums := Sparse.del t x.tnums }
  else { x with prog := some (t, e + 1) }

theorem Sub.movedOn_prog (x : Sub) (t e : Nat) :
    (x.movedOn t e).prog = if e + 1 = (x.ring.tile t).count then none else some (t, e + 1) := by
  unfold movedOn
  split <;> rfl

/-- An element that a storer writes in its tensor waits for a page or a unit in reset; without that wait its word is moved. -/
theorem ringElem_moves {t e : Nat} (hx : s.sub q i = some x) (hp : x.prog = some (t, e))
    (hgo : x.ring.storer = true → (x.ring.tile t).inside e = true →
      absentAt s x.job ((x.ring.tile t).srcAt e) = none ∧ resetHolds s x.job ((x.ring.tile t).srcAt e) = false) :
    ringElem q i s = (ringWord x t e s).setSub q i (some (x.movedOn t e)) := by
  simp only [ringElem, hx, hp]
  by_cases hw : (x.ring.storer && (x.ring.tile t).inside e) = true
  · obtain ⟨hs, hin⟩ := Bool.and_eq_true_iff.mp hw
    obtain ⟨ha, hr⟩ := hgo hs hin
    rw [if_pos hw, withPage_goes ha hr]
    rfl
  · rw [if_neg hw]
    rfl

/-- What a quay leaves after one element: the ring has moved on, and memory is that after the word. -/
theorem ringUnit_word {st : Bool} {t e : Nat} (hx : s.sub q i = some x) (hs : x.ring.storer = st) (ht : ringTurn s q = some i)
    (hp : x.prog = some (t, e)) (hgo : x.ring.storer = true → (x.ring.tile t).inside e = true →
      absentAt s x.job ((x.ring.tile t).srcAt e) = none ∧ resetHolds s x.job ((x.ring.tile t).srcAt e) = false) :
    ((ringUnit st q i 1 s).sub q i).map (·.prog) = some (if e + 1 = (x.ring.tile t).count then none else some (t, e + 1))
    ∧ (ringUnit st q i 1 s).mem = (ringWord x t e s).mem := by
  rw [ringUnit_moves hx hs ht hp, sub_servedLast, ringElem_moves hx hp hgo, sub_setSub_self]
  exact ⟨congrArg some (x.movedOn_prog t e), rfl⟩

/-- A loader fills its slot and counts the bytes at the slot's full barrier (R309). -/
theorem ringMove_loader {t e : Nat} (hs : x.ring.storer = false) (hin : (x.ring.tile t).inside e = true) :
    ringMove x (x.ring.tile t) t e s = barUpdate (engWrite s x.job x.core ((x.ring.tile t).dstAt e)
      (peek s x.job ((x.ring.tile t).srcAt e) (x.ring.tile t).esize)) (spAddr x.core (x.ring.fullBar (t % x.ring.nslot)))
      (-((x.ring.tile t).esize : Int)) 0 := by
  simp only [ringMove, hs, hin, if_true, Bool.false_eq_true, if_false]

/-- A storer empties its slot into the tensor and counts the bytes at the slot's empty barrier (R310). -/
theorem ringMove_storer {t e : Nat} (hs : x.ring.storer = true) (hin : (x.ring.tile t).inside e = true) :
    ringMove x (x.ring.tile t) t e s = barUpdate (poke s x.job ((x.ring.tile t).srcAt e)
      (engRead s x.job x.core ((x.ring.tile t).dstAt e) (x.ring.tile t).esize)) (spAddr x.core (x.ring.emptyBar (t % x.ring.nslot)))
      (-((x.ring.tile t).esize : Int)) 0 := by
  simp only [ringMove, hs, hin, if_true]

/-! ### The close of a subscription (R312) -/

theorem subClose_frees (hx : s.sub q i = some x) (hc : closable x = true) (hh : s.haltedL x.launch = false) (h0 : x.ctr = 0) :
    subClose q i s = (if x.bound then freeBusy s x.job x.segs else s).setSub q i none := by
  have hctr : ctrHeld s x.job x.segs 0 = false := rfl
  simp only [subClose, hx, hc, hh, h0, hctr, Bool.not_true, Bool.or_self, Bool.false_eq_true, if_false, if_true]

theorem uncounted_rest (s : State) (x : Sub) :
    (if x.bound then freeBusy s x.job x.segs else s).mem = s.mem ∧ (if x.bound then freeBusy s x.job x.segs else s).quays = s.quays := by
  split
  · obtain ⟨-, -, -, -, hmem⟩ := apart_freeBusy s x.job x.segs
    exact ⟨hmem, quays_freeBusy ..⟩
  · exact ⟨rfl, rfl⟩

end Ring

/-- Settles O44: it holds. A job's event is the equation of its branch, followed element by element through the jobs of its engine
(`findJob_foldl_performElem`); a quay's is one write of the subscription entry around the move of a word (`ringUnit_word`). -/
theorem copyEvents : Obligations.CopyEvents := by
  refine ⟨fun s g x hg hx => ⟨fun hs hk => ?start, fun hb hd hh =>
      ⟨fun e hk hu => ?word, fun i m hk hm hi hu => ?member, fun hk hc => ⟨fun h0 => ?ends, fun h0 ha hr => ?adds⟩⟩⟩,
    fun s q i x hq hx hh => ⟨fun ht => ⟨fun hst => ⟨fun hs => ?fills, fun hs => ?pulls⟩,
      fun t e hp => ⟨fun hs => ?loads, fun hs hgo => ?stores⟩⟩, fun hc h0 => ?closes⟩⟩
  case start =>
    have hbound : x.bound = true := bound_of_startable hs
    exact happens_of (withUnit_next hg _) (copyStart_local hx hs hk)
      ⟨rfl, _, findJob_putJob hx rfl, rfl, hbound, rfl, rfl⟩
  case word =>
    intro word bytes one hfree
    have hmoves : moveWord s g x e = word.foldl one s := foldl_moveElem word s (fun k hk => wordMates_due hk) hfree
    exact happens_of (withUnit_next hg _) ((byteArrival_word hx hb hd hh hk hu).trans hmoves)
      ⟨rfl, findJob_foldl_performElem word hx⟩
  case member =>
    exact happens_of (withUnit_next hg _) (deliver_lands hx hb hd hh hk hm hi hu)
      ⟨findJob_doneElem ((findJob_congr (jobs_landBox x m g s) x.num).trans hx) i, rfl⟩
  case ends =>
    exact happens_of (withUnit_next hg _) ((copyComplete_finish hx hb hd hh hk hc).trans (if_pos h0))
      ⟨jobs_endJob s g x, mem_endJob s g x⟩
  case adds =>
    have hadd := (copyComplete_finish hx hb hd hh hk hc).trans ((if_neg h0).trans (withPage_goes ha hr _))
    exact happens_of (withUnit_next hg _) hadd ⟨(jobs_endJob ..).trans (by rw [(onlyMem_addCtr ..).core]), mem_endJob ..⟩
  case fills => exact happens_of (withUnit_next hq _) rfl (ringUnit_starts hx hs ht hst)
  case pulls => exact happens_of (withUnit_next hq _) rfl (ringUnit_starts hx hs ht hst)
  case loads =>
    obtain ⟨hmoves, hmem⟩ := ringUnit_word hx hs ht hp (fun h => absurd (hs.symm.trans h) Bool.false_ne_true)
    refine happens_of (withUnit_next hq _) rfl ⟨hmoves, hmem, fun hone hin => hmem.trans ?_⟩
    rw [ringWord_alone hone, ringMove_loader hs hin]
  case stores =>
    obtain ⟨hmoves, hmem⟩ := ringUnit_word hx hs ht hp (fun _ hin => hgo.resolve_left (by simp [hin]))
    refine happens_of (withUnit_next hq _) rfl ⟨hmoves, hmem, fun hone hin => hmem.trans ?_⟩
    rw [ringWord_alone hone, ringMove_storer hs hin]
  case closes =>
    obtain ⟨hmem, hquays⟩ := uncounted_rest s x
    exact happens_of (withUnit_next hq _) (subClose_frees hx hc hh h0)
      ⟨sub_setSub_self .., hmem, fun p k hne => (sub_setSub_ne _ _ hne).trans (sub_congr hquays p k)⟩

end Sys2Proof.Machine

/-! # Barriers and counters at issue (O10 to O13)

The update of a barrier as one write of its word, and the L-slot ops on barriers and counters (R287 to R294). -/

namespace Sys2Proof.Machine

open Sys2Proof

/-! ### The update of a barrier (R288) -/

theorem barInit_lt (s : State) (pa : Nat) : barInit s pa < 65536 := Nat.mod_lt _ (by decide)

theorem barGen_lt (s : State) (pa : Nat) : barGen s pa < 2 ^ 32 := Nat.mod_lt _ (by decide)

/-- PEND after an update. -/
def barSum (s : State) (pa : Nat) (dp : Int) : Int :=
  if barPend s pa + dp < -(2 ^ 47 : Int) then -(2 ^ 47 : Int) else barPend s pa + dp

/-- OVF after an update. -/
def barLow (s : State) (pa : Nat) (dp : Int) : Bool := barOvf s pa || decide (barPend s pa + dp < -(2 ^ 47 : Int))

/-- REM after an update that does not complete the barrier. -/
def barLeft (s : State) (pa da : Nat) : Nat := (barRem s pa + 65536 - da) % 65536

/-- The update completes the barrier: PEND and REM are both zero after it, and OVF is not set. -/
structure BarCompletes (s : State) (pa : Nat) (dp : Int) (da : Nat) : Prop where
  sum : barSum s pa dp = 0
  left : barLeft s pa da = 0
  low : barLow s pa dp = false

section
variable {s : State} {pa : Nat} {dp : Int} {da : Nat}

theorem barUpdate_completes (h : BarCompletes s pa dp da) : barUpdate s pa dp da
    = wakeWaiters (putBarrier s pa (!barPhase s pa) false 0 (barInit s pa) (barInit s pa) (barGen s pa + 1)) pa := by
  simp only [barUpdate, decide_eq_true_eq]
  exact if_pos ⟨h.sum, h.left, h.low⟩

theorem barUpdate_stays (h : ¬BarCompletes s pa dp da) : barUpdate s pa dp da
    = putBarrier s pa (barPhase s pa) (barLow s pa dp) (barSum s pa dp) (barInit s pa) (barLeft s pa da) (barGen s pa) := by
  simp only [barUpdate, decide_eq_true_eq]
  exact if_neg fun ⟨hsum, hleft, hlow⟩ => h ⟨hsum, hleft, hlow⟩

theorem barSum_range (h : barPend s pa + dp ≤ 2 ^ 47 - 1) : -(2 ^ 47 : Int) ≤ barSum s pa dp ∧ barSum s pa dp < 2 ^ 47 := by
  unfold barSum
  split <;> omega

end

/-- Settles O10: it holds. The update is one write of the barrier's word, whose fields read back (`bar_congr` carries them over the
wakes of its waiters). -/
theorem barrierUpdate : Obligations.BarrierUpdate := by
  intro s pa dp da _ hover
  by_cases h : BarCompletes s pa dp da
  case pos =>
    have hmem := (congrArg State.mem (barUpdate_completes h)).trans (wakeWaiters_rest _ _).1
    obtain ⟨hphase, hovf, hpend, hinit, hrem, hgen⟩ := bar_congr hmem pa
    refine ⟨fun a ha => ?_, ?_, fun _ _ _ => ⟨?_, ?_, ?_, ?_, ?_⟩, fun hn => absurd ⟨h.sum, h.left, h.low⟩ hn⟩
    · rw [State.byte, hmem]
      exact byte_putBarrier_out s pa _ _ _ _ _ _ a ha
    · rw [hinit, barInit_put, Nat.mod_eq_of_lt (barInit_lt s pa)]
    · rw [hpend, barPend_put _ _ _ _ _ _ _ _ (by decide) (by decide)]
    · rw [hovf, barOvf_put]
    · rw [hphase, barPhase_put]
    · rw [hrem, barRem_put, Nat.mod_eq_of_lt (barInit_lt s pa)]
    · rw [hgen, barGen_put]
  case neg =>
    obtain ⟨hlo, hhi⟩ := barSum_range hover
    rw [barUpdate_stays h]
    refine ⟨fun a ha => byte_putBarrier_out s pa _ _ _ _ _ _ a ha, ?_, fun h0 h1 h2 => absurd ⟨h0, h1, h2⟩ h,
      fun _ => ⟨barPend_put _ _ _ _ _ _ _ _ hlo hhi, barOvf_put .., barPhase_put .., ?_, ?_⟩⟩
    · rw [barInit_put, Nat.mod_eq_of_lt (barInit_lt s pa)]
    · rw [barRem_put]
      exact Nat.mod_mod _ _
    · rw [barGen_put, Nat.mod_eq_of_lt (barGen_lt s pa)]

/-! ### The address of a barrier or counter (R295) -/

section
variable {s : State} {x : ArgM} {n pa : Nat}

theorem wordErr_ok {reason : Nat} (ha : (eaOf s.me x).toNat % n = 0) (hp : reach s s.cur (eaOf s.me x) n = .ok pa) :
    wordErr x n reason s = none := by
  rw [wordErr, if_neg (not_not.mpr ha), eaErr_ok hp]

theorem barPa_ok (hp : reach s s.cur (eaOf s.me x) 16 = .ok pa) : barPa x s = pa := reachPa_ok hp

theorem begin_barPa_ok (hc : s.cur < residents) (hp : reach s s.cur (eaOf s.me x) 16 = .ok pa) : barPa x (beginIssue s) = pa :=
  begin_eaPa_ok hc hp

/-! ### Ops that write a barrier (R291, R292) -/

/-- The state as the memory write of an M-format op finds it: its address register has stepped. -/
def steppedAt (x : ArgM) (n : Nat) (s : State) : State := (beginIssue s).updMe (stepped x n)

theorem steppedAt_leads (hq : Quiet s) (x : ArgM) (n : Nat) : Leads s s (stepped x n) (steppedAt x n s) :=
  (Leads.begin hq).updMe hq _

theorem steppedAt_mem (x : ArgM) (n : Nat) (s : State) : (steppedAt x n s).mem = s.mem :=
  (updMe_mem _ _).trans (beginIssue_mem s)

/-- The address step leaves no claim. -/
theorem claim_stepped (x : ArgM) (n : Nat) (c : Context) : (stepped x n c).claim = c.claim := by
  unfold stepped Context.stepA
  split
  · rfl
  · split <;> rfl

theorem retryWaiters_calm (s : State) (pa : Nat) (hc : s.cur < residents) (hm : s.me.claim = none) :
    SameMe s (retryWaiters s pa) ∧ (retryWaiters s pa).mem = s.mem := by
  refine claims_calm _ (fun s c => ?_) _ s hc hm
  cases h : (s.ctx c).claim with
  | none => exact .inl rfl
  | some k =>
    by_cases hk : k.addr = pa
    · exact .inr ⟨by simp, _, if_pos hk⟩
    · exact .inl (if_neg hk)

/-- An L-slot op that writes memory after its address step issues in the state that its write leaves. -/
theorem writesMem_issues {b e : State} {i : Instr} {o : Op} {F : Context → Context} {w : State → State → State}
    (L : Leads s b F e) (hm : o.mem = some (i, w)) (hw : w (beginIssue s) (steppedAt x n s) = e) (hi : exec i s = issueOne o s)
    (hq : Quiet s) (hv : verdict [o] s = .go) (hF : s.me.begin.Keeps (F s.me.begin)) (hs : o.slot = 3 := by rfl)
    (he : o.eff (beginIssue s) (beginIssue s) = steppedAt x n s := by rfl) :
    Issues s i (Held.after s.me.held o) e :=
  L.issues hi hq hv (by rw [effects_mem_slot (by omega) hm, he]; exact hw) hF

/-- With INIT one less where the op is a `.drop` (R292). -/
def dropped (x : ArgM) (pa : Nat) (s d : State) : State :=
  if x.opt.toNat % 2 = 1 then
    putBarrier d pa (barPhase s pa) (barOvf s pa) (barPend s pa) (barInit s pa - 1) (barRem s pa) (barGen s pa)
  else d

theorem dropped_leads {F : Context → Context} {d : State} (L : Leads s d F d) :
    Leads s (dropped x pa s d) F (dropped x pa s d) := by
  unfold dropped
  split
  · exact L.putBarrier ..
  · exact L

section
variable (ha : (eaOf s.me x).toNat % 16 = 0) (hp : reach s s.cur (eaOf s.me x) 16 = .ok pa)
include ha hp

theorem bexpectChk_eq : (bexpectOp x).chk s
    = if (s.me.rS x.reg).toInt < 0 then some (barTrap 4 (s.me.rS x.reg).toNat (eaOf s.me x))
      else if barOver s pa (s.me.rS x.reg).toInt then some (barTrap 0 (s.me.rS x.reg).toNat (eaOf s.me x)) else none := by
  simp only [bexpectOp, opBar, opM, wordErr_ok ha hp, barPa_ok hp]

theorem barriveChk_eq : (barriveOp x).chk s
    = if barRem s pa = 0 ∨ (x.opt.toNat % 2 = 1 ∧ barInit s pa = 0) then some (barTrap 2 0 (eaOf s.me x)) else none := by
  simp only [barriveOp, opBar, opM, wordErr_ok ha hp, barPa_ok hp]

theorem bexpect_raises (hr : Ready s [srcA x.abase x.b, srcS x.reg x.b]) (hneg : (s.me.rS x.reg).toInt < 0) :
    Raises s (.bexpect x) (barTrap 4 (s.me.rS x.reg).toNat (eaOf s.me x)) :=
  raises_of (o := bexpectOp x) (exec_bexpect x s) rfl hr ((bexpectChk_eq ha hp).trans (if_pos hneg))

theorem barrive_raises (hr : Ready s [srcA x.abase x.b]) (h0 : barRem s pa = 0) :
    Raises s (.barrive x) (barTrap 2 0 (eaOf s.me x)) :=
  raises_of (o := barriveOp x) (exec_barrive x s) rfl hr ((barriveChk_eq ha hp).trans (if_pos (.inl h0)))

section
variable (hq : Quiet s)
include hq

theorem binit_issues (hr : Ready s [srcA x.abase x.b, srcS x.reg x.b]) (hn : (s.me.rS x.reg).toNat ≤ 65535) :
    ∃ t, exec (.binit x) s = .next t ∧ t.me = closing s (heldL s x.hold (.binit x)) (stepped x 0 s.me.begin)
      ∧ t.mem = (putBarrier s pa false false 0 (s.me.rS x.reg).toNat (s.me.rS x.reg).toNat 0).mem := by
  have hchk : binitChk x s = none := by
    rw [binitChk, if_neg (not_not.mpr ha), if_neg (by omega), eaErr_ok hp]
  have L := (steppedAt_leads hq x 0).putBarrier pa false false 0 (s.me.rS x.reg).toNat (s.me.rS x.reg).toNat 0
  have ⟨_, _, hcur, hctx⟩ := L
  have hclaim : (stepped x 0 s.me.begin).claim = none := claim_stepped x 0 _
  obtain ⟨hsame, hmem⟩ := retryWaiters_calm _ pa (hcur ▸ hq.1) (hctx ▸ hclaim)
  have L' := L.into hsame
  obtain ⟨t, ht, hel, hme⟩ := writesMem_issues (o := binitOp x) L' rfl (by rw [begin_barPa_ok hq.1 hp, me_begin_rS hq.1])
    (exec_binit x s) hq (verdict_go _ _ rfl hr hchk rfl) (Context.keeps_stepped x 0 _)
  obtain ⟨-, -, -, hctx'⟩ := L'
  refine ⟨t, ht, by rw [hme, hctx']; rfl, ?_⟩
  rw [hel.mem, hmem]
  exact putBarrier_mem_congr (steppedAt_mem x 0 s) ..

theorem bexpect_issues (hr : Ready s [srcA x.abase x.b, srcS x.reg x.b]) (h0 : 0 ≤ (s.me.rS x.reg).toInt)
    (hov : barOver s pa (s.me.rS x.reg).toInt = false) :
    Issues s (.bexpect x) (heldL s x.hold (.bexpect x))
      (barUpdate (steppedAt x 0 s) pa (s.me.rS x.reg).toInt (x.opt.toNat % 2)) := by
  have hchk : (bexpectOp x).chk s = none := by
    rw [bexpectChk_eq ha hp, if_neg (not_lt.mpr h0), hov, if_neg Bool.false_ne_true]
  have hposts : firstOver s (barPend s) [bexpectOp x] = none := by
    have hle : ¬((2 ^ 47 : Int) - 1 < barPend s pa + (s.me.rS x.reg).toInt) := of_decide_eq_false hov
    simp only [firstOver, bexpectOp, barPa_ok hp, if_neg hle]
  have L := barUpdate_leads hq (steppedAt_leads hq x 0).self (claim_stepped x 0 _) pa (s.me.rS x.reg).toInt (x.opt.toNat % 2)
  exact writesMem_issues (o := bexpectOp x) L rfl (by rw [begin_barPa_ok hq.1 hp, me_begin_rS hq.1])
    (exec_bexpect x s) hq (verdict_go _ _ rfl hr hchk rfl rfl hposts) (Context.keeps_stepped x 0 _)

section
variable (hr : Ready s [srcA x.abase x.b])
include hr

theorem barrive_issues (hrem : barRem s pa ≠ 0) (hini : x.opt.toNat % 2 = 1 → barInit s pa ≠ 0) :
    Issues s (.barrive x) (heldL s x.hold (.barrive x))
      ((barUpdate (dropped x pa s (steppedAt x 0 s)) pa 0 1).updMe (fun c => c.wS x.reg (n64 (b2n (barPhase s pa))))) := by
  have hchk : (barriveOp x).chk s = none :=
    (barriveChk_eq ha hp).trans (if_neg (not_or.mpr ⟨hrem, fun ⟨hodd, h0⟩ => hini hodd h0⟩))
  have hdrop := dropped_leads (pa := pa) (x := x) (steppedAt_leads hq x 0).self
  have L := (barUpdate_leads hq hdrop (claim_stepped x 0 _) pa 0 1).updMe hq
    (fun c => c.wS x.reg (n64 (b2n (barPhase s pa))))
  obtain ⟨hphase, hovf, hpend, hinit, hrem', hgen⟩ := bar_congr (steppedAt_mem x 0 s) pa
  refine writesMem_issues (o := barriveOp x) L rfl ?_ (exec_barrive x s) hq (verdict_go _ _ rfl hr hchk rfl)
    ((Context.keeps_stepped x 0 _).trans (Context.keeps_wS _ _ _))
  simp only [begin_barPa_ok hq.1 hp, hphase, hovf, hpend, hinit, hrem', hgen, dropped]

theorem btest_writes : Writes s (.btest x) (heldL s x.hold (.btest x)) (fun c =>
    stepped x 0 (c.wS x.reg (n64 (rd s (pa + (if x.opt.toNat % 2 = 1 then 8 else 0)) 8)))) := by
  refine opM_writes (exec_btest x s) hq hr (by rw [wordErr_ok ha hp]) ?_ (fun c => c.keeps_wS _ _)
  simp only [begin_barPa_ok hq.1 hp, begin_rd]

end

end

end

end

/-- Settles O11: it holds. Each op's memory write is the one of its barrier's place after the address step, and the fields of the
word read back as `putBarrier` wrote them. -/
theorem barrierOps : Obligations.BarrierOps := by
  refine ⟨fun s x pa hq hr ha hp => ⟨fun hr' hn => ?binit, fun hr' => bexpect_issues ha hp hq (ready_cons hr hr'),
    fun hr' => bexpect_raises ha hp (ready_cons hr hr'), barrive_issues ha hp hq hr, barrive_raises ha hp hr,
    btest_writes ha hp hq hr⟩, fun s pa phase ovf pend ini rem gen hlo hhi => ?fields⟩
  case binit =>
    obtain ⟨t, ht, hme, hmem⟩ := binit_issues ha hp hq (ready_cons hr hr') hn
    obtain ⟨hphase, hovf, hpend, hinit, hrem, hgen⟩ := bar_congr hmem pa
    refine ⟨t, ht, hme, hphase.trans (barPhase_put ..), hovf.trans (barOvf_put ..),
      hpend.trans (barPend_put _ _ _ _ _ _ _ _ (by decide) (by decide)), ?_, ?_, hgen.trans (barGen_put ..), fun a ha => ?_⟩
    · rw [hinit, barInit_put, Nat.mod_eq_of_lt (by omega)]
    · rw [hrem, barRem_put, Nat.mod_eq_of_lt (by omega)]
    · rw [State.byte, hmem]
      exact byte_putBarrier_out s pa _ _ _ _ _ _ a ha
  case fields =>
    exact ⟨barPhase_put .., barOvf_put .., barPend_put _ _ _ _ _ _ _ _ hlo hhi, barInit_put .., barRem_put .., barGen_put ..,
      byte_putBarrier_out s pa _ _ _ _ _ _⟩

/-! ### Waits on a barrier (R293) -/

/-- The phase that a wait names has passed, or a completion since the wait's first try satisfies it. -/
def PhasePassed (s : State) (x : ArgM) (pa : Nat) : Prop :=
  barPhase s pa ≠ (s.me.rS x.reg).getLsbD 0 ∨ claimWoken s.me pa = true

section
variable {s : State} {x : ArgM} {pa : Nat} (hp : reach s s.cur (eaOf s.me x) 16 = .ok pa)
include hp

theorem waitDone_iff : waitDone x s = true ↔ PhasePassed s x pa := by
  rw [PhasePassed, waitDone, barPa_ok hp, Bool.or_eq_true, bne_iff_ne]

theorem barWait_passed (h : PhasePassed s x pa) (p : Option Nat) : barWait x p s = none :=
  if_pos ((waitDone_iff hp).mpr h)

/-- A wait whose phase has not passed takes a claim on the barrier. (`barWait` reads the address in the state that takes the claim,
which is `s` itself.) -/
theorem barWait_claims {i : Instr} {o : Op} {p : Option Nat} (hi : exec i s = issueOne o s) (h0 : o.early s = none)
    (hr : Ready s o.srcs) (hc : o.chk s = none) (h : ¬PhasePassed s x pa) (hw : o.wait s = barWait x p s)
    (hl : o.late s = none := by rfl) (hposts : firstOver s (barPend s) [o] = none := by rfl) :
    Waits s i 3 (fun s => s.updMe (fun c =>
      { c with claim := some { addr := pa, promise := p, woken := false, retry := false } })) := by
  have hwaits := waits_of hi h0 hr hc (hw.trans (if_neg (mt (waitDone_iff hp).mp h))) hl hposts
  rwa [Waits, barPa_ok hp] at hwaits

variable (ha : (eaOf s.me x).toNat % 16 = 0)
include ha

theorem bwaitChk_eq : (bwaitOp x).chk s = if barOvf s pa then some (barTrap 3 0 (eaOf s.me x)) else none := by
  simp only [bwaitOp, opBar, opM, wordErr_ok ha hp, barPa_ok hp]

theorem bwaitpChk_eq : (bwaitpOp x).chk s
    = if barOvf s pa then some (barTrap 3 0 (eaOf s.me x))
      else if !waitDone x s && decide ((promiseOf x s).toNat ≤ s.cyc.toNat) then
        some (Exc.mk' 0x30 (eaOf s.me x) (barInfo 0 3 (promiseOf x s).toNat))
      else none := by
  simp only [bwaitpOp, opBar, opM, wordErr_ok ha hp, barPa_ok hp]

theorem bwaitChk_ok (hov : barOvf s pa = false) : (bwaitOp x).chk s = none := by
  rw [bwaitChk_eq hp ha, hov, if_neg Bool.false_ne_true]

theorem bwaitpChk_ok (hov : barOvf s pa = false) (h : waitDone x s = true ∨ s.cyc.toNat < (promiseOf x s).toNat) :
    (bwaitpOp x).chk s = none := by
  rw [bwaitpChk_eq hp ha, hov, if_neg Bool.false_ne_true, if_neg]
  simpa [or_iff_not_imp_left] using h

theorem bwaitpChk_missed (hov : barOvf s pa = false) (h : waitDone x s = false) (hcyc : (promiseOf x s).toNat ≤ s.cyc.toNat) :
    (bwaitpOp x).chk s = some (Exc.mk' 0x30 (eaOf s.me x) (barInfo 0 3 (promiseOf x s).toNat)) := by
  rw [bwaitpChk_eq hp ha, hov, if_neg Bool.false_ne_true, if_pos]
  simpa using ⟨h, hcyc⟩

end

theorem bwaitpEarly_even {x : ArgM} (heven : x.reg.val % 2 = 0) (h0 : x.reg ≠ 0) (s : State) : (bwaitpOp x).early s = none := by
  refine if_neg (not_or.mpr ⟨by omega, fun h => h0 (Fin.ext h)⟩)

/-- A wait that is over writes nothing but the address step. -/
theorem wait_writes {s : State} {x : ArgM} {i : Instr} {o : Op} (hi : exec i s = issueOne o s) (hq : Quiet s)
    (hv : verdict [o] s = .go) (he : o.eff (beginIssue s) (beginIssue s) = steppedAt x 0 s := by rfl) (hm : o.mem = none := by rfl)
    (hb : o.bars (beginIssue s) = [] := by rfl) : Writes s i (Held.after s.me.held o) (stepped x 0) :=
  (steppedAt_leads hq x 0).writes hi hq hv ((effects_none _ _ _ _ hm hb).trans he) (Context.keeps_stepped x 0 _)

/-- Settles O12: it holds. Whether the phase has passed, the barrier has overflowed or the promise is missed decides the verdict. -/
theorem barrierWaits : Obligations.BarrierWaits := by
  intro s x pa hq hr ha hp
  refine ⟨fun hov h => ?_, fun hov => ?_, fun hov h => ?_, fun hr' heven h0 => ⟨fun hov h => ?_, fun hov h hcyc => ?_,
    fun hov h hcyc => ?_⟩⟩
  · exact wait_writes (o := bwaitOp x) (exec_bwait x s) hq (verdict_go _ _ rfl hr (bwaitChk_ok hp ha hov) (barWait_passed hp h _))
  · exact raises_of (o := bwaitOp x) (exec_bwait x s) rfl hr ((bwaitChk_eq hp ha).trans (if_pos hov))
  · exact barWait_claims (o := bwaitOp x) hp (exec_bwait x s) rfl hr (bwaitChk_ok hp ha hov) h rfl
  · exact wait_writes (o := bwaitpOp x) (exec_bwaitp x s) hq (verdict_go _ _ (bwaitpEarly_even heven h0 s) (ready_append hr hr')
      (bwaitpChk_ok hp ha hov (.inl ((waitDone_iff hp).mpr h))) (barWait_passed hp h _))
  · have hdone : waitDone x s = false := Bool.eq_false_iff.mpr (mt (waitDone_iff hp).mp h)
    exact raises_of (o := bwaitpOp x) (exec_bwaitp x s) (bwaitpEarly_even heven h0 s) (ready_append hr hr')
      (bwaitpChk_missed hp ha hov hdone hcyc)
  · exact barWait_claims (o := bwaitpOp x) hp (exec_bwaitp x s) (bwaitpEarly_even heven h0 s) (ready_append hr hr')
      (bwaitpChk_ok hp ha hov (.inr hcyc)) h rfl

/-! ### Counters (R294) -/

section
variable {s : State} {x : ArgM} {pa : Nat} (ha : (eaOf s.me x).toNat % 8 = 0) (hp : reach s s.cur (eaOf s.me x) 8 = .ok pa)
include ha hp

/-- The check of a `CADD` at an aligned address within reach. -/
theorem caddChk_eq : (caddOp x).chk s
    = if (s.me.rS x.reg).toInt < 0 then some (Exc.mk' 0x32 (eaOf s.me x) (barInfo 0 3 (s.me.rS x.reg).toNat))
      else if 2 ^ 64 ≤ rd s pa 8 + (s.me.rS x.reg).toNat then
        some { Exc.mk' 0x32 (eaOf s.me x) (barInfo 1 3 (s.me.rS x.reg).toNat) with
          pre := fun s => wr s (eaPa x 8 s) 8 (2 ^ 64 - 1) }
      else none := by
  have hpa : eaPa x 8 s = pa := reachPa_ok hp
  simp only [caddOp, opM, wordErr_ok ha hp, hpa]

theorem cadd_stores (hq : Quiet s) (hr : Ready s [srcA x.abase x.b, srcS x.reg x.b]) (h0 : 0 ≤ (s.me.rS x.reg).toInt)
    (hsum : rd s pa 8 + (s.me.rS x.reg).toNat < 2 ^ 64) :
    Stores s (.cadd x) (heldL s x.hold (.cadd x)) pa 8 (rd s pa 8 + (s.me.rS x.reg).toNat) (stepped x 0) := by
  have hchk : (caddOp x).chk s = none := by rw [caddChk_eq ha hp, if_neg (not_lt.mpr h0), if_neg (not_le.mpr hsum)]
  refine (opM_rewrites (G := fun c => c) (exec_cadd x s) hq hr hchk (fun e he => ?_) .refl).stores
  have hadd : addCounter e pa (s.me.rS x.reg).toNat = wr e pa 8 (rd s pa 8 + (s.me.rS x.reg).toNat) := by
    rw [addCounter, he.rd, satAdd, Nat.min_eq_left (by omega)]
  rw [begin_eaPa_ok hq.1 hp, me_begin_rS hq.1, hadd]
  exact only_wr he _ _ _

end

/-- Settles O13: it holds. The sign of the addend and the sum decide what a `CADD` does; a `CWAITGE` compares its counter once. -/
theorem counters : Obligations.Counters := by
  intro s x pa hq hr ha hp
  have hpa : eaPa x 8 s = pa := reachPa_ok hp
  refine ⟨cadd_stores ha hp hq hr, fun hneg => ?_, fun h0 hsum => ?_, fun hge => ?_, fun hlt => ?_⟩
  · exact raises_of (o := caddOp x) (exec_cadd x s) rfl hr ((caddChk_eq ha hp).trans (if_pos hneg))
  · refine ⟨_, raises_of (o := caddOp x) (exec_cadd x s) rfl hr
      ((caddChk_eq ha hp).trans ((if_neg (not_lt.mpr h0)).trans (if_pos hsum))), rfl, rfl, rfl, ?_⟩
    rw [← hpa]
  · exact wait_writes (o := cwaitgeOp x) (exec_cwaitge x s) hq
      (verdict_go _ _ rfl hr (wordErr_ok ha hp) (if_neg (by rw [hpa]; exact not_lt.mpr hge)))
  · exact waits_of (o := cwaitgeOp x) (exec_cwaitge x s) rfl hr (wordErr_ok ha hp) (if_pos (by rw [hpa]; exact hlt))

end Sys2Proof.Machine

/-! # Copies and fills at issue (O32)

The barrier writes of an X-slot op, and jobs that join the copy engine (R289, R290, R303, R317). -/

namespace Sys2Proof.Machine

open Sys2Proof

/-! ### Barrier writes of an op (R290) -/

@[simp] theorem runBar_init (s : State) (pa n : Nat) : runBar s (.init pa n) = putBarrier s pa false false 0 n n 0 := rfl

@[simp] theorem runBar_post (s : State) (pa : Nat) (dp : Int) (eva einfo : Word64) :
    runBar s (.post pa dp eva einfo) = barUpdate s pa dp 0 := rfl

@[simp] theorem runBar_expect (s : State) (pa : Nat) (dp : Int) : runBar s (.expect pa dp) = barExpectMember s pa dp := rfl

@[simp] theorem runBar_update (s : State) (pa : Nat) (dp : Int) (da : Nat) :
    runBar s (.update pa dp da) = barUpdate s pa dp da := rfl

section
variable {s e : State} {F : Context → Context}

theorem runBar_leads (hq : Quiet s) (hcl : (F s.me.begin).claim = none) (h : Leads s e F e) (b : BarOp) :
    Leads s (runBar e b) F (runBar e b) := by
  cases b with
  | init pa n =>
    rw [runBar_init]
    exact h.into (onlyMem_putBarrier ..).same
  | post pa dp eva einfo =>
    rw [runBar_post]
    exact barUpdate_leads hq h hcl pa dp 0
  | expect pa dp =>
    rw [runBar_expect, barExpectMember]
    split
    · exact h.into (onlyMem_putBarrier ..).same
    · exact barUpdate_leads hq h hcl pa dp 0
  | update pa dp da =>
    rw [runBar_update]
    exact barUpdate_leads hq h hcl pa dp da

theorem runBars_leads (hq : Quiet s) (hcl : (F s.me.begin).claim = none) (l : List BarOp) : ∀ e, Leads s e F e →
    Leads s (l.foldl runBar e) F (l.foldl runBar e) := by
  induction l with
  | nil => exact fun _ h => h
  | cons b t ih => exact fun e h => ih _ (runBar_leads hq hcl h b)

end

theorem barExpectMember_mem_congr {s t : State} (h : s.mem = t.mem) (pa : Nat) (dp : Int) :
    (barExpectMember s pa dp).mem = (barExpectMember t pa dp).mem := by
  obtain ⟨hphase, -, hpend, hinit, hrem, hgen⟩ := bar_congr h pa
  have hover : barOver s pa dp = barOver t pa dp := by rw [barOver, barOver, hpend]
  unfold barExpectMember
  rw [hover, hphase, hpend, hinit, hrem, hgen]
  split
  · exact putBarrier_mem_congr h ..
  · exact barUpdate_mem_congr h ..

/-- The memory after a list of barrier writes is a function of the memory before them. -/
theorem runBars_mem_congr (l : List BarOp) : ∀ {s t : State}, s.mem = t.mem →
    (l.foldl runBar s).mem = (l.foldl runBar t).mem := by
  induction l with
  | nil => exact fun h => h
  | cons b l ih =>
    refine fun h => ih ?_
    cases b with
    | init pa n => rw [runBar_init, runBar_init, putBarrier_mem_congr h]
    | post pa dp eva einfo => rw [runBar_post, runBar_post, barUpdate_mem_congr h]
    | expect pa dp => rw [runBar_expect, runBar_expect, barExpectMember_mem_congr h]
    | update pa dp da => rw [runBar_update, runBar_update, barUpdate_mem_congr h]

theorem quays_wakeWaiters (s : State) (pa : Nat) : (wakeWaiters s pa).quays = s.quays := by
  unfold wakeWaiters
  generalize s.liveCtxs = l
  induction l generalizing s with
  | nil => rfl
  | cons c t ih =>
    rw [List.foldl_cons, ih]
    split
    · split
      · exact updCtx_quays ..
      · rfl
    · rfl

theorem quays_putBarrier (s : State) (pa : Nat) (ph ov : Bool) (p : Int) (i r g : Nat) :
    (putBarrier s pa ph ov p i r g).quays = s.quays := by rw [onlyMem_putBarrier s pa ph ov p i r g]

theorem quays_barUpdate (s : State) (pa : Nat) (dp : Int) (da : Nat) : (barUpdate s pa dp da).quays = s.quays := by
  by_cases h : BarCompletes s pa dp da
  · rw [barUpdate_completes h, quays_wakeWaiters, quays_putBarrier]
  · rw [barUpdate_stays h, quays_putBarrier]

/-- A barrier write changes neither the jobs of an engine nor a quay. -/
theorem runBar_rest (s : State) (b : BarOp) :
    (∀ g, ((runBar s b).core g).jobs = (s.core g).jobs) ∧ (runBar s b).quays = s.quays := by
  cases b with
  | init pa n => exact ⟨fun g => by rw [runBar_init, core_putBarrier], by rw [runBar_init, quays_putBarrier]⟩
  | post pa dp eva einfo => exact ⟨fun g => by rw [runBar_post, jobs_barUpdate], by rw [runBar_post, quays_barUpdate]⟩
  | expect pa dp =>
    rw [runBar_expect, barExpectMember]
    split
    · exact ⟨fun g => by rw [core_putBarrier], quays_putBarrier ..⟩
    · exact ⟨jobs_barUpdate s pa dp 0, quays_barUpdate ..⟩
  | update pa dp da => exact ⟨fun g => by rw [runBar_update, jobs_barUpdate], by rw [runBar_update, quays_barUpdate]⟩

theorem runBars_rest (l : List BarOp) : ∀ s : State,
    (∀ g, ((l.foldl runBar s).core g).jobs = (s.core g).jobs) ∧ (l.foldl runBar s).quays = s.quays := by
  induction l with
  | nil => exact fun s => ⟨fun _ => rfl, rfl⟩
  | cons b t ih =>
    intro s
    obtain ⟨hjobs, hquays⟩ := ih (runBar s b)
    obtain ⟨hjobs', hquays'⟩ := runBar_rest s b
    exact ⟨fun g => (hjobs g).trans (hjobs' g), hquays.trans hquays'⟩

/-! ### A job that joins the engine (R303) -/

/-- An op that ends by giving the engine a job and its promise to a register. -/
theorem accepts_of_job {s e : State} {i : Instr} {o : Op} {h : Held} {F : Context → Context} {m : List Host.Cell}
    {P : CopyJob → Prop} {j : CopyJob} {r p : Nat} (hq : Quiet s) (hi : exec i s = issueOne o s) (hv : verdict [o] s = .go)
    (he : o.eff (beginIssue s) ((o.bars (beginIssue s)).foldl runBar (beginIssue s)) = givePromise r p (acceptJob j e))
    (L : Leads s e F e) (hF : F s.me.begin = { s.me.begin with trec := (F s.me.begin).trec }) (hmem : e.mem = m)
    (hjobs : (e.core (s.cur / 4)).jobs = (s.core (s.cur / 4)).jobs)
    (hj : j.promise = p ∧ j.ctx = s.cur ∧ j.bundle = s.me.point ∧ j.began = false ∧ j.done = [])
    (hP : ∀ ok, P { j with bound := ok }) (hh : h = Held.after s.me.held o := by rfl) (hm : o.mem = none := by rfl)
    (hs : o.slot = 6 := by rfl) : Accepts s i h m (fun j c => c.wSnow r (n64 j.promise)) P := by
  obtain ⟨hp, hj⟩ := hj
  obtain ⟨ok, L1, hmem1, hjobs1⟩ := acceptJob_leads hq L j
  obtain ⟨L2, hmem2, hjobs2⟩ := givePromise_leads hq L1 r p
  have hkeeps : s.me.begin.Keeps (F s.me.begin) := by rw [hF]; exact ⟨rfl, rfl, rfl, rfl, rfl, rfl⟩
  refine accept_of (j := { j with bound := ok }) hq hi hv hm he L2 (hkeeps.trans (Context.keeps_wSnow _ _ _)) hh
    (hmem2.trans (hmem1.trans hmem)) ?_ (by rw [hjobs2, hjobs1, hjobs]) (hP ok) hj (by omega)
  dsimp only
  rw [hF, wSnow_trec, hp]

/-- The core of the issuing context, along the issue. -/
theorem homeCore_issuing {s e : State} (hc : s.cur < residents) (h : e.cur = s.cur) : e.homeCore e.cur = s.cur / 4 := by
  rw [h, State.homeCore, if_pos hc]
  rfl

/-! ### Copies and fills (R303, R317) -/

theorem firstSome_none {α : Type} : ∀ {l : List (Option α)}, firstSome l = none → ∀ o ∈ l, o = none
  | [], _, _, h => absurd h List.not_mem_nil
  | none :: l, h, o, ho => by
    rcases List.mem_cons.mp ho with hhead | htail
    · exact hhead
    · exact firstSome_none (l := l) h o htail

section
variable {s : State} {x : ArgX} {fill : Bool}

/-- A copy whose checks pass posts no expectation that overflows. -/
theorem expectErr_none (hc : copyChk x fill s = none) (hroom : bufferFull s = false) : expectErr s (boxAt x s) = none := by
  simp only [copyChk, hroom, Bool.false_eq_true, if_false] at hc
  split at hc
  next => cases hc
  next =>
    split_ifs at hc
    exact firstSome_none hc _ (by simp)

theorem copyShape_posts (i : Instr) (hc : copyChk x fill s = none) : firstOver s (barPend s) [copyShape x i fill] = none := by
  by_cases hfull : bufferFull s = true
  · simp only [firstOver, copyShape, hfull, if_true]
  · have herr := expectErr_none hc (Bool.eq_false_iff.mpr hfull)
    by_cases hb : (boxAt x s).bar = 0
    · simp only [firstOver, copyShape, if_neg hfull, expectOf, if_pos hb]
    · have hle : ¬((2 ^ 47 : Int) - 1 <
          barPend s (barAddr (s.homeCore s.cur) (boxAt x s).bar) + (boxAt x s).bytes) := fun hlt => by
        rw [expectErr, if_pos ⟨hb, decide_eq_true hlt⟩] at herr
        cases herr
      simp only [firstOver, copyShape, if_neg hfull, expectOf, if_neg hb, if_neg hle]

theorem copyChk_misaligned (h : (s.me.rA x.adesc).toNat % 64 ≠ 0) : copyChk x fill s = some (illegal 6 0x68 0) := by
  have hdesc : descErr x 192 s = some (illegal 6 0x68 0) := if_pos (.inl h)
  rw [copyChk, hdesc]

/-- The acceptance of a copy or fill: its pages are asked for, its reads recorded, then its job joins. -/
theorem copyIssue_joins (x : ArgX) (fill : Bool) (pre cur : State) : ∃ p j k want reads,
    let e := traceReads k reads (wantPages k want cur)
    copyIssue x fill pre cur = givePromise x.sreg p (acceptJob j e) ∧ j.promise = p ∧ j.ctx = e.cur ∧ j.bundle = pre.me.point
      ∧ j.began = false ∧ j.done = [] ∧ j.kind = (if fill then .fill else .copy) ∧ j.box = boxAt x pre
      ∧ j.inv = optInv x :=
  ⟨_, _, _, _, _, rfl, rfl, rfl, rfl, rfl, rfl, rfl, rfl, rfl⟩

section
variable (hq : Quiet s)
include hq

theorem bufferWait_room (h : (s.core (s.cur / 4)).jobs.length < 128) : bufferWait s = none := by
  rw [bufferWait, bufferFull_room hq h, if_neg Bool.false_ne_true]

theorem bufferWait_full (h : ¬(s.core (s.cur / 4)).jobs.length < 128) : bufferWait s = some (2, id) := by
  rw [bufferWait, bufferFull_full hq h, if_pos rfl]

theorem runs_expectBars (x : ArgX) : (expectBars (beginIssue s) (boxAt x (beginIssue s))).foldl runBar (beginIssue s)
    = if (boxAt x s).bar = 0 then beginIssue s
      else barUpdate (beginIssue s) (barAddr (s.cur / 4) (boxAt x s).bar) (boxAt x s).bytes 0 := by
  rw [begin_boxAt hq, expectBars, homeCore_issuing hq.1 (beginIssue_cur s)]
  split
  · rfl
  · rw [List.foldl_cons, List.foldl_nil, runBar_post]

section
variable {i : Instr} (hi : exec i s = issueOne (copyShape x i fill) s) (hr : Ready s (descSrcs x [srcS x.sarg x.b]))
  (hodd : oddDesc x = none)
include hi hr hodd

omit hq in
theorem copyShape_misaligned (h : (s.me.rA x.adesc).toNat % 64 ≠ 0) : Raises s i (illegal 6 0x68 0) :=
  raises_of hi hodd hr (copyChk_misaligned h)

variable (hc : copyChk x fill s = none)
include hc

theorem copyShape_waits (hfull : ¬(s.core (s.cur / 4)).jobs.length < 128) : Waits s i 2 id :=
  waits_of hi hodd hr hc (bufferWait_full hq hfull) rfl (copyShape_posts i hc)

theorem copyShape_accepts (hroom : (s.core (s.cur / 4)).jobs.length < 128) :
    Accepts s i (heldX s x.hold i) (expected s (s.cur / 4) (boxAt x s)) (fun j c => c.wSnow x.sreg (n64 j.promise))
      (fun j => j.kind = (if fill then .fill else .copy) ∧ j.box = boxAt x s ∧ j.inv = optInv x) := by
  obtain ⟨L, hmem, hjobs⟩ := expect_leads hq (Leads.start hq) rfl (beginIssue_mem s) (s.cur / 4) (boxAt x s)
  rw [← runs_expectBars hq x] at L hmem hjobs
  obtain ⟨p, j, k, want, reads, he, hp, hctx, hbundle, hbegan, hdone, hkind, hbox, hinv⟩ :=
    copyIssue_joins x fill (beginIssue s) ((expectBars (beginIssue s) (boxAt x (beginIssue s))).foldl runBar (beginIssue s))
  obtain ⟨r, L', hmem', hjobs'⟩ := trace_mid hq k want reads _ _ L
  have ⟨_, _, hcur, _⟩ := L'
  exact accepts_of_job hq hi (verdict_go _ _ hodd hr hc (bufferWait_room hq hroom) rfl (copyShape_posts i hc)) he L' rfl
    (hmem'.trans hmem) ((hjobs' _).trans ((hjobs _).trans (begin_jobs hq.1)))
    ⟨hp, hctx.trans hcur, hbundle.trans (point_begin hq), hbegan, hdone⟩
    (fun _ => ⟨hkind, hbox.trans (begin_boxAt hq x), hinv⟩)

end

end

end

/-- Settles O32: it holds. `XCOPY` and `XFILL` are one shape, whose expectation comes before the job that it announces. -/
theorem copies : Obligations.Copies := by
  intro s x hq hr hodd
  exact ⟨copyShape_accepts (fill := false) hq (exec_xcopy x s) hr hodd,
    copyShape_accepts (fill := true) hq (exec_xfill x s) hr hodd,
    copyShape_waits hq (exec_xcopy x s) hr hodd, copyShape_waits hq (exec_xfill x s) hr hodd,
    fun h => ⟨copyShape_misaligned (exec_xcopy x s) hr hodd h, copyShape_misaligned (exec_xfill x s) hr hodd h⟩⟩

end Sys2Proof.Machine

/-! # Multicasts and withdrawals at issue (O34)

Multicasts, the groups of a launch, and the jobs that `XCANCEL` withdraws (R313 to R315). -/

namespace Sys2Proof.Machine

open Sys2Proof

/-! ### What the ops read -/

theorem Elsewhere.launchOf {s t : State} (h : Elsewhere s t) (k : Nat) : t.launchOf k = s.launchOf k := by rw [h.1]; rfl

section
variable {s : State} (hc : s.cur < residents)
include hc

theorem begin_cyc : (beginIssue s).cyc = s.cyc := by rw [begin_fields s hc]

theorem begin_launch : (beginIssue s).me.launch = s.me.launch := by rw [beginIssue_me s hc]; rfl

theorem begin_mcGroup (x : ArgX) : mcGroup x (beginIssue s).me = mcGroup x s.me := by rw [mcGroup, mcGroup, me_begin_rS hc]

theorem begin_mcMembers (grp : Nat) : mcMembers (beginIssue s) grp = mcMembers s grp := by
  rw [mcMembers, mcMembers, beginIssue_cur, begin_ctxLaunch s hc]

theorem begin_withdraws (x : ArgX) : withdraws x (beginIssue s) = withdraws x s := by
  funext j
  simp only [withdraws, beginIssue_cur, begin_cyc hc, begin_launch hc, begin_mcGroup hc]

end

/-! ### Multicasts (R314) -/

/-- A multicast to a group with members: its reads are recorded, then its job joins; it posts no expectation yet (log entry 32). -/
theorem mcastIssue_joins {x : ArgX} {pre cur : State} (h : mcMembers cur (mcGroup x pre.me) ≠ []) : ∃ p j k reads,
    let e := traceReads k reads cur
    mcastIssue x pre cur = givePromise x.sreg p (acceptJob j e) ∧ j.promise = p ∧ j.ctx = e.cur ∧ j.bundle = pre.me.point
      ∧ j.began = false ∧ j.done = [] ∧ j.kind = .mcast ∧ j.box = boxAt x pre ∧ j.group = mcGroup x pre.me
      ∧ j.members = mcMembers cur (mcGroup x pre.me) ∧ j.noexp = optNoexp x :=
  ⟨_, _, _, _, if_neg (mt List.isEmpty_iff.mp h), rfl, rfl, rfl, rfl, rfl, rfl, rfl, rfl, rfl, rfl⟩

theorem mcastIssue_empty {x : ArgX} {pre cur : State} (h : mcMembers cur (mcGroup x pre.me) = []) :
    mcastIssue x pre cur = givePromise x.sreg (pre.cyc.toNat + 1) cur := if_pos (List.isEmpty_iff.mpr h)

section
variable {s : State} {x : ArgX} (hq : Quiet s)
include hq

section
variable (hr : Ready s (descSrcs x [srcS x.sarg x.b])) (hodd : oddDesc x = none) (hc : mcastChk x s = none)
  (hroom : (s.core (s.cur / 4)).jobs.length < 128)
include hr hodd hc hroom

theorem xmcast_accepts (hms : mcMembers s (mcGroup x s.me) ≠ []) :
    Accepts s (.xmcast x) (heldX s false (.xmcast x)) s.mem (fun j c => c.wSnow x.sreg (n64 j.promise))
      (fun j => j.kind = .mcast ∧ j.box = boxAt x s ∧ j.group = mcGroup x s.me ∧ j.members = mcMembers s (mcGroup x s.me)
        ∧ j.noexp = optNoexp x) := by
  obtain ⟨p, j, k, reads, he, hp, hctx, hbundle, hbegan, hdone, hkind, hbox, hgroup, hmembers, hnoexp⟩ :=
    mcastIssue_joins (x := x) (pre := beginIssue s) (cur := beginIssue s) (by rwa [begin_mcGroup hq.1, begin_mcMembers hq.1])
  rw [begin_mcGroup hq.1] at hgroup hmembers
  rw [begin_mcMembers hq.1] at hmembers
  obtain ⟨r, L, hmem, hjobs⟩ := traceReads_leads hq (Leads.start hq) k reads
  have ⟨_, _, hcur, _⟩ := L
  exact accepts_of_job (o := xmcastOp x) hq (exec_xmcast x s) (verdict_go _ _ hodd hr hc (bufferWait_room hq hroom)) he L rfl
    (hmem.trans (beginIssue_mem s)) ((hjobs _).trans (begin_jobs hq.1))
    ⟨hp, hctx.trans hcur, hbundle.trans (point_begin hq), hbegan, hdone⟩
    (fun _ => ⟨hkind, hbox.trans (begin_boxAt hq x), hgroup, hmembers, hnoexp⟩)

theorem xmcast_empty (hms : mcMembers s (mcGroup x s.me) = []) :
    Writes s (.xmcast x) (heldX s false (.xmcast x)) (fun c => c.wSnow x.sreg (n64 (s.cyc.toNat + 1))) := by
  have he : mcastIssue x (beginIssue s) (beginIssue s) = givePromise x.sreg (s.cyc.toNat + 1) (beginIssue s) := by
    rw [mcastIssue_empty (by rwa [begin_mcGroup hq.1, begin_mcMembers hq.1]), begin_cyc hq.1]
  exact ((Leads.begin hq).promise hq x.sreg (s.cyc.toNat + 1)).writes (o := xmcastOp x) (exec_xmcast x s) hq
    (verdict_go _ _ hodd hr hc (bufferWait_room hq hroom)) ((effects_none _ _ _ _ rfl).trans he) (Context.keeps_wSnow _ _ _)

end

/-! ### The groups of a launch (R313) -/

/-- The launch with the members of a group set. -/
def Launch.withGroup (grp : Nat) (ms : List Nat) (l : Launch) : Launch := { l with mc := Sparse.set [] l.mc grp ms }

theorem xmcastSet_results (hr : Ready s [srcA x.adesc x.b, srcS x.sarg x.b]) (hc : mcsetChk x s = none) {k : Nat} {l : Launch}
    (hk : s.me.launch = some k) (hl : s.launchOf k = some l) :
    Results s (.xmcastSet x) (heldX s false (.xmcastSet x)) s.mem (fun c => c) (fun t =>
      t.launchOf k = some (l.withGroup (mcGroup x s.me) (memberList (descBytes s { x with opt := 0 } 64)))) := by
  let setGroup := Launch.withGroup (mcGroup x s.me) (memberList (descBytes s { x with opt := 0 } 64))
  have hA : Apart (beginIssue s) ((beginIssue s).updLaunch k setGroup) := apart_updLaunch ..
  have L := (Leads.start hq).apart hA
  refine results_of (o := xmcastSetOp x) hq (exec_xmcastSet x s) (verdict_go _ _ rfl hr hc rfl) rfl ?_ L (.refl _) rfl
    (beginIssue_mem s) rfl (fun t ht => ?_) (by show (6 : Nat) ≠ 0; decide)
  · have hlaunch : (beginIssue s).me.launch.getD 0 = k := by rw [begin_launch hq.1, hk]; rfl
    show (beginIssue s).updLaunch ((beginIssue s).me.launch.getD 0) (Launch.withGroup (mcGroup x (beginIssue s).me) _) = _
    rw [hlaunch, begin_mcGroup hq.1, begin_descBytes hq]
  · rw [ht.launchOf]
    exact find_updLaunch (beginIssue s) k l (((beginIssue_elsewhere s hq.1).launchOf k).trans hl) setGroup (fun _ => rfl)

end

/-! ### Withdrawals (R315) -/

/-- The expectation that a withdrawn job of core `g` posted is settled. -/
def unpost (g : Nat) (e : State) (j : CopyJob) : State :=
  if j.kind ≠ .mcast ∧ j.box.bar ≠ 0 then barUpdate e (barAddr g j.box.bar) (-(j.box.bytes : Int)) 0 else e

theorem runs_settleBars (g : Nat) (e : State) (j : CopyJob) : (settleBars g j).foldl runBar e = unpost g e j := by
  unfold settleBars unpost
  by_cases h : j.kind ≠ .mcast ∧ j.box.bar ≠ 0
  · rw [if_pos h, if_pos (by simpa using h), List.foldl_cons, List.foldl_nil, runBar_update]
  · rw [if_neg h, if_neg (by simpa using h), List.foldl_nil]

theorem runs_settleAll (g : Nat) (l : List CopyJob) : ∀ e, (l.flatMap (settleBars g)).foldl runBar e = l.foldl (unpost g) e := by
  induction l with
  | nil => exact fun _ => rfl
  | cons j l ih =>
    intro e
    rw [List.flatMap_cons, List.foldl_append, runs_settleBars, ih, List.foldl_cons]

/-- The capacity of a list of jobs is given back: those counted in BUSY leave it. -/
def uncount (l : List CopyJob) (s : State) : State := l.foldl (fun s j => if j.bound then freeBusy s j.job j.segs else s) s

theorem apart_uncount (l : List CopyJob) (s : State) : Apart s (uncount l s) := by
  refine Apart.foldl _ (fun s j => ?_) l s
  split
  · exact apart_freeBusy ..
  · exact .refl s

/-- The jobs that `p` selects leave core `g`, where `out` are they. -/
def Core.without (p : CopyJob → Bool) (out : List CopyJob) (k : Core) : Core :=
  { k with jobs := k.jobs.filter (fun j => !p j), cal := k.cal.filter (fun c => !out.any (fun j => j.cycles.contains c)) }

theorem dropJobs_eq (p : CopyJob → Bool) (s : State) (g : Nat) :
    dropJobs p s g = (uncount ((s.core g).jobs.filter p) s).updCore g (Core.without p ((s.core g).jobs.filter p)) := rfl

theorem dropJobs_leads {s e : State} {F : Context → Context} (h : Leads s e F e) (p : CopyJob → Bool) (g : Nat) :
    Leads s (dropJobs p e g) F (dropJobs p e g) :=
  ((h.apart (apart_uncount _ e)).updCore g (Core.without p _) (fun _ _ _ _ => rfl)).self

theorem mem_dropJobs (p : CopyJob → Bool) (s : State) (g : Nat) : (dropJobs p s g).mem = s.mem := by
  obtain ⟨-, -, -, -, hmem⟩ := apart_uncount ((s.core g).jobs.filter p) s
  exact hmem

theorem jobs_dropJobs (p : CopyJob → Bool) (s : State) (g k : Nat) : ((dropJobs p s g).core k).jobs
    = if k = g then (s.core k).jobs.filter (fun j => !p j) else (s.core k).jobs := by
  have hcore := (apart_uncount ((s.core g).jobs.filter p) s).core
  rw [dropJobs_eq, core_updCore]
  split
  next h => rw [hcore, h]; rfl
  next h => rw [hcore]

theorem dropAll_leads {s : State} {F : Context → Context} (p : CopyJob → Bool) (l : List Nat) : ∀ e, Leads s e F e →
    Leads s (l.foldl (dropJobs p) e) F (l.foldl (dropJobs p) e) := by
  induction l with
  | nil => exact fun _ h => h
  | cons g t ih => exact fun e h => ih _ (dropJobs_leads h p g)

theorem mem_dropAll (p : CopyJob → Bool) (l : List Nat) : ∀ s, (l.foldl (dropJobs p) s).mem = s.mem := by
  induction l with
  | nil => exact fun _ => rfl
  | cons g t ih => exact fun s => (ih _).trans (mem_dropJobs p s g)

/-- The jobs that `p` selects leave the cores of a list, and no other. -/
theorem jobs_dropAll (p : CopyJob → Bool) (k : Nat) (l : List Nat) : ∀ s, ((l.foldl (dropJobs p) s).core k).jobs
    = if k ∈ l then (s.core k).jobs.filter (fun j => !p j) else (s.core k).jobs := by
  induction l with
  | nil => exact fun s => by simp
  | cons g t ih =>
    intro s
    rw [List.foldl_cons, ih, jobs_dropJobs]
    by_cases hg : k = g
    · simp [hg, List.filter_filter]
    · simp [hg]

section
variable {s : State} {x : ArgX} (hq : Quiet s)
include hq

/-- What an `XCANCEL` does: its settlements `l` are made, the jobs `out` leave the cores, and their number is given. -/
theorem xcancel_results {l : List BarOp} {cores : List Nat} {out : List CopyJob} (hr : Ready s (xcancelOp x).srcs)
    (hl : (xcancelOp x).bars (beginIssue s) = l) (hcores : cancelCores x (l.foldl runBar (beginIssue s)) = cores)
    (hout : cancelled x s (l.foldl runBar (beginIssue s)) = out) :
    Results s (.xcancel x) (heldX s false (.xcancel x)) (l.foldl runBar s).mem (fun c => c.wS x.sreg (n64 out.length))
      (fun t => ∀ k, (t.core k).jobs
        = if k ∈ cores then (s.core k).jobs.filter (fun j => !withdraws x s j) else (s.core k).jobs) := by
  let v := cores.foldl (dropJobs (withdraws x s)) (l.foldl runBar (beginIssue s))
  have L : Leads s v (fun c => c) v := dropAll_leads _ cores _ (runBars_leads hq rfl l _ (Leads.start hq))
  have ⟨_, _, hcur, _⟩ := L
  have he : (xcancelOp x).eff (beginIssue s) (l.foldl runBar (beginIssue s)) = v.updMe (fun c => c.wS x.sreg (n64 out.length)) := by
    simp only [xcancelOp, Op.plain, begin_withdraws hq.1, hcores, v, ← hout, cancelled]
  have hmem : v.mem = (l.foldl runBar s).mem := (mem_dropAll ..).trans (runBars_mem_congr l (beginIssue_mem s))
  have hjobs : ∀ k, (v.core k).jobs
      = if k ∈ cores then (s.core k).jobs.filter (fun j => !withdraws x s j) else (s.core k).jobs := fun k => by
    obtain ⟨hbars, -⟩ := runBars_rest l (beginIssue s)
    rw [jobs_dropAll, hbars, begin_jobs hq.1]
  refine results_of (o := xcancelOp x) hq (exec_xcancel x s) (verdict_go _ _ rfl hr rfl rfl) rfl (by rw [hl]; exact he)
    (L.updMe hq _).self (Context.keeps_wS _ _ _) rfl ((updMe_mem _ _).trans hmem) rfl (fun t ht k => ?_)
    (by show (6 : Nat) ≠ 0; decide)
  obtain ⟨-, hcore, -⟩ := ((Elsewhere.refl v).updMe (hcur ▸ hq.1) _).trans ht
  rw [hcore k]
  exact hjobs k

/-- `XCANCEL.cp`: the copies and fills of the issuing context that have not begun leave its engine. -/
theorem xcancelCopies (ho : x.opt = 1) :
    Results s (.xcancel x) (heldX s false (.xcancel x))
      (((s.core (s.cur / 4)).jobs.filter (withdraws x s)).foldl (unpost (s.cur / 4)) s).mem
      (fun c => c.wS x.sreg (n64 ((s.core (s.cur / 4)).jobs.filter (withdraws x s)).length))
      (fun t => (t.core (s.cur / 4)).jobs = (s.core (s.cur / 4)).jobs.filter (fun j => !withdraws x s j)
        ∧ ∀ k, k ≠ s.cur / 4 → (t.core k).jobs = (s.core k).jobs) := by
  let bars := ((s.core (s.cur / 4)).jobs.filter (withdraws x s)).flatMap (settleBars (s.cur / 4))
  have hbars : (xcancelOp x).bars (beginIssue s) = bars := by
    simp only [xcancelOp, cancelled, if_pos ho, homeCore_issuing hq.1 (beginIssue_cur s), begin_jobs hq.1,
      begin_withdraws hq.1, bars]
  have hsrcs : (xcancelOp x).srcs = [] := if_pos ho
  have ⟨_, _, hcur, _⟩ := runBars_leads hq rfl bars _ (Leads.start hq)
  have hhome : (bars.foldl runBar (beginIssue s)).homeCore (bars.foldl runBar (beginIssue s)).cur = s.cur / 4 :=
    homeCore_issuing hq.1 hcur
  obtain ⟨hjobs, -⟩ := runBars_rest bars (beginIssue s)
  obtain ⟨t, ht, hdrop, hmem, hme⟩ := xcancel_results hq (by rw [hsrcs]; rfl) hbars
    (cores := [s.cur / 4]) (out := (s.core (s.cur / 4)).jobs.filter (withdraws x s))
    (by rw [cancelCores, if_pos ho, hhome]) (by rw [cancelled, if_pos ho, hhome, hjobs, begin_jobs hq.1])
  exact ⟨t, ht, ⟨(hdrop _).trans (if_pos (List.mem_singleton.mpr rfl)),
    fun k hk => (hdrop k).trans (if_neg (mt List.mem_singleton.mp hk))⟩, hmem.trans (by rw [runs_settleAll]), hme⟩

end

/-! ### The jobs of every core (R315) -/

theorem get_unlisted {α : Type} (d : α) (k : Nat) : ∀ {t : Sparse α}, k ∉ t.map (·.1) → Sparse.get d t k = d
  | [], _ => rfl
  | (j, v) :: t, h => by
    obtain ⟨hj, ht⟩ := not_or.mp (mt List.mem_cons.mpr h)
    rw [Sparse.get, if_neg hj, get_unlisted d k ht]

section
variable {α β : Type} [DecidableEq α] {d : α} {f : α → List β} (hd : f d = []) (k : Nat)

include hd

/-- An entry that gives nothing can leave the table. -/
theorem flatMap_del : ∀ {t : Sparse α} {lo : Nat}, Sparse.wfFrom d lo t = true → f (Sparse.get d t k) = [] →
    (Sparse.del k t).flatMap (fun p => f p.2) = t.flatMap (fun p => f p.2)
  | [], _, _, _ => rfl
  | (j, v) :: t, lo, hwf, h => by
    simp only [Sparse.wfFrom, Bool.and_eq_true] at hwf
    obtain ⟨-, ht⟩ := hwf
    by_cases hk : k = j
    · rw [Sparse.get, if_pos hk] at h
      have hrest : f (Sparse.get d t k) = [] := by rw [get_below d ht (by omega), hd]
      rw [Sparse.del, if_pos hk, flatMap_del ht hrest, List.flatMap_cons, h, List.nil_append]
    · rw [Sparse.get, if_neg hk] at h
      rw [Sparse.del, if_neg hk, List.flatMap_cons, List.flatMap_cons, flatMap_del ht h]

/-- An entry can take the place of one that gives the same. -/
theorem flatMap_ins {v : α} : ∀ {t : Sparse α} {lo : Nat}, Sparse.wfFrom d lo t = true → f v = f (Sparse.get d t k) →
    (Sparse.ins k v t).flatMap (fun p => f p.2) = t.flatMap (fun p => f p.2)
  | [], _, _, h => by simpa [Sparse.ins, hd] using h
  | (j, w) :: t, lo, hwf, h => by
    simp only [Sparse.wfFrom, Bool.and_eq_true] at hwf
    obtain ⟨-, ht⟩ := hwf
    by_cases hlt : k < j
    · rw [Sparse.get, if_neg (by omega), get_below d ht (by omega), hd] at h
      rw [Sparse.ins, if_pos hlt, List.flatMap_cons, h, List.nil_append]
    · by_cases hk : k = j
      · rw [Sparse.get, if_pos hk] at h
        rw [Sparse.ins, if_neg hlt, if_pos hk, List.flatMap_cons, List.flatMap_cons, h]
      · rw [Sparse.get, if_neg hk] at h
        rw [Sparse.ins, if_neg hlt, if_neg hk, List.flatMap_cons, List.flatMap_cons, flatMap_ins ht h]

theorem flatMap_set {v : α} {t : Sparse α} (hwf : Sparse.wf d t = true) (h : f v = f (Sparse.get d t k)) :
    (Sparse.set d t k v).flatMap (fun p => f p.2) = t.flatMap (fun p => f p.2) := by
  unfold Sparse.set
  split
  next hv => exact flatMap_del hd k hwf (by rw [← h, hv, hd])
  next => exact flatMap_ins hd k hwf h

end

theorem cores_updMe {s : State} (hc : s.cur < residents) (f : Context → Context) : ∃ c : Core,
    (s.updMe f).cores = Sparse.set Core.cold s.cores (coreOf s.cur) c ∧ c.jobs = (s.core (coreOf s.cur)).jobs := by
  rw [State.updMe, State.updCtx, State.setCtx, if_pos hc]
  exact ⟨_, rfl, rfl⟩

/-- The jobs that `p` selects on all cores are the same as the issue begins. -/
theorem begin_selected {s : State} (hc : s.cur < residents) (hwf : Sparse.wf Core.cold s.cores = true) (p : CopyJob → Bool) :
    (beginIssue s).cores.flatMap (fun k => k.2.jobs.filter p) = s.cores.flatMap (fun k => k.2.jobs.filter p) := by
  obtain ⟨c, hcores, hjobs⟩ := cores_updMe (s := s.latched fun l => latchBegin l s.me) hc Context.begin
  rw [beginIssue, hcores]
  exact flatMap_set (f := fun k : Core => k.jobs.filter p) rfl _ hwf (congrArg (List.filter p) hjobs)

/-- `XCANCEL.grp`: the multicasts of the launch's group that have not begun leave every core's engine. -/
theorem xcancelMulticasts {s : State} {x : ArgX} (hq : Quiet s) (hr : Ready s [srcS x.sarg x.b]) (ho : x.opt = 2)
    (hwf : Sparse.wf Core.cold s.cores = true) :
    Results s (.xcancel x) (heldX s false (.xcancel x)) s.mem
      (fun c => c.wS x.sreg (n64 (s.cores.flatMap (fun k => k.2.jobs.filter (withdraws x s))).length))
      (fun t => ∀ k, (t.core k).jobs = (s.core k).jobs.filter (fun j => !withdraws x s j)) := by
  have hne : x.opt ≠ 1 := by rw [ho]; decide
  have hsrcs : (xcancelOp x).srcs = [srcS x.sarg x.b] := if_neg hne
  have hbars : (xcancelOp x).bars (beginIssue s) = [] := by
    refine List.flatMap_eq_nil_iff.mpr fun j hj => ?_
    rw [cancelled, if_neg hne] at hj
    obtain ⟨k, -, hk⟩ := List.mem_flatMap.mp hj
    have hkind : j.kind = .mcast := by
      obtain ⟨-, hw⟩ := List.mem_filter.mp hk
      simp only [withdraws, if_neg hne, Bool.and_eq_true, beq_iff_eq] at hw
      obtain ⟨-, ⟨hkind, -⟩, -⟩ := hw
      exact hkind
    simp [settleBars, hkind]
  obtain ⟨t, ht, hdrop, hmem, hme⟩ := xcancel_results hq (hsrcs ▸ hr) hbars
    (if_neg hne) ((if_neg hne).trans (begin_selected hq.1 hwf _))
  refine ⟨t, ht, fun k => (hdrop k).trans ?_, hmem, hme⟩
  split
  next => rfl
  next hk =>
    have hcold : (s.core k).jobs = [] := by
      rw [← begin_jobs hq.1, State.core, get_unlisted Core.cold k (t := (beginIssue s).cores) hk]
      rfl
    rw [hcold]
    rfl

/-- Settles O34: it holds. A multicast to members is one more job, one to an empty group a promise alone; a withdrawal settles the
expectations of the jobs that it takes from their engines. -/
theorem multicasts : Obligations.Multicasts := by
  intro s x hq
  exact ⟨fun hr hodd hc hroom => ⟨xmcast_accepts hq hr hodd hc hroom, xmcast_empty hq hr hodd hc hroom⟩,
    fun hr hc k l hk hl => by
      obtain ⟨t, ht, hlaunch, hrest⟩ := xmcastSet_results hq hr hc hk hl
      exact ⟨t, ht, ⟨_, hlaunch, Sparse.get_set_self .., fun n hn => Sparse.get_set_ne _ _ _ hn⟩, hrest⟩,
    fun hr => ⟨xcancelCopies hq, xcancelMulticasts hq hr⟩⟩

end Sys2Proof.Machine

/-! # Subscriptions at issue (O35)

Rings opened, passed on and closed (R307, R308, R311, R312, R317). -/

namespace Sys2Proof.Machine

open Sys2Proof

/-! ### Free entries of a quay (R308) -/

theorem freeEntry_free {s : State} {q i : Nat} : ∀ {n j : Nat}, freeEntry s q n j = some i → i < 64 ∧ s.sub q i = none
  | 0, _, h => by cases h
  | n + 1, j, h => by
    rw [freeEntry] at h
    split at h
    next hnone =>
      obtain rfl := Option.some.inj h
      exact ⟨Nat.mod_lt _ (by decide), Option.isNone_iff_eq_none.mp hnone⟩
    next => exact freeEntry_free h

/-- A search that passes a free entry finds one. -/
theorem freeEntry_finds {s : State} {q : Nat} : ∀ {n k j : Nat}, k < n → s.sub q ((j + k) % 64) = none →
    ∃ i, freeEntry s q n j = some i
  | n + 1, k, j, hk, h => by
    rw [freeEntry]
    split
    next => exact ⟨_, rfl⟩
    next hsome =>
      cases k with
      | zero => exact absurd (Option.isNone_iff_eq_none.mpr h) hsome
      | succ k => exact freeEntry_finds (k := k) (by omega) (by rwa [show j + 1 + k = j + (k + 1) by omega])

/-- From any entry on, the search of a quay that has a free entry finds one. -/
theorem freeEntry_any {s : State} {q m : Nat} (hm : m < 64) (h : s.sub q m = none) (j : Nat) : ∃ i, freeEntry s q 64 j = some i :=
  freeEntry_finds (k := (m + 64 - j % 64) % 64) (Nat.mod_lt _ (by decide))
    (by rwa [show (j + (m + 64 - j % 64) % 64) % 64 = m by omega])

/-! ### What the ops read -/

theorem Elsewhere.quays {s t : State} (h : Elsewhere s t) : t.quays = s.quays := by rw [h.1]

/-- A handle names the same subscription in a state with the same quays whose issuing context is of the same launch. -/
theorem handleSub_congr {s t : State} (hquays : t.quays = s.quays) (hlaunch : t.me.launch = s.me.launch) (h : Word64) :
    handleSub t h = handleSub s h := by
  rw [handleSub, handleSub, hlaunch, sub_congr hquays]

section
variable {s : State} (hq : Quiet s)
include hq

theorem begin_quays : (beginIssue s).quays = s.quays := by rw [begin_fields s hq.1]

theorem begin_ringAt (x : ArgX) : ringAt x (beginIssue s) = ringAt x s := by
  rw [ringAt, ringAt, begin_descBytes hq, beginIssue_me s hq.1]
  rfl

theorem begin_ringQuay (j : Nat) (r : Ring) : ringQuay (beginIssue s) j r = ringQuay s j r := by
  rw [begin_fields s hq.1]; rfl

theorem begin_handleSub (h : Word64) : handleSub (beginIssue s) h = handleSub s h :=
  handleSub_congr (begin_quays hq) (begin_launch hq.1) h

end

/-- Recorded reads change no quay. -/
theorem quays_traceReads (j : Nat) (l : List Word64) (e : State) : (traceReads j l e).quays = e.quays := by
  unfold traceReads
  split
  · rfl
  · exact updMe_quays ..

theorem quays_bindBusy (s : State) (j : Nat) (l : List Nat) : (bindBusy s j l).quays = s.quays := by rw [bindBusy_segs]

theorem apart_setSub (s : State) (q i : Nat) (v : Option Sub) : Apart s (s.setSub q i v) := ⟨rfl, rfl, rfl, rfl, rfl⟩

/-! ### The ops -/

/-- The state counts one op number and `n` free choices more. -/
def State.counted (n : Nat) (s : State) : State := { s with num := s.num + 1, free := s.free + n }

theorem apart_counted (n : Nat) (s : State) : Apart s (s.counted n) := ⟨rfl, rfl, rfl, rfl, rfl⟩

/-- The issue closes on a scalar result after the op's barrier writes and what else its effect leads to. -/
theorem results_wS_bars {s a : State} {i : Instr} {o : Op} {h : Held} {F : Context → Context} {r : Nat} {v : Word64}
    {l : List BarOp} {m : List Host.Cell} {P : State → Prop} (hq : Quiet s) (hi : exec i s = issueOne o s)
    (hv : verdict [o] s = .go) (hb : o.bars (beginIssue s) = l)
    (he : o.eff (beginIssue s) (l.foldl runBar (beginIssue s)) = a.updMe (fun c => c.wS r v)) (L : Leads s a F a) (hmem : a.mem = m)
    (hP : ∀ t, Elsewhere a t → P t) (hF : F s.me.begin = { s.me.begin with trec := (F s.me.begin).trec } := by rfl)
    (hh : h = Held.after s.me.held o := by rfl) (hm : o.mem = none := by rfl) (hs : o.slot = 6 := by rfl) :
    Results s i h m (fun c => c.wS r v) P := by
  have ⟨_, _, hcur, _⟩ := L
  have hkeeps : s.me.begin.Keeps (F s.me.begin) := by rw [hF]; exact ⟨rfl, rfl, rfl, rfl, rfl, rfl⟩
  refine results_of (F := fun c => (F c).wS r v) hq hi hv hm (by rw [hb]; exact he) (L.updMe hq _).self
    (hkeeps.trans (Context.keeps_wS _ _ _)) hh ((updMe_mem _ _).trans hmem) ?_
    (fun t ht => hP t (((Elsewhere.refl a).updMe (hcur ▸ hq.1) _).trans ht)) (by omega)
  dsimp only
  rw [hF, wS_trec]

/-- The reads of a loader are recorded, a storer has none: the trace record is all that changes. -/
theorem ringReads_leads {s e : State} {F : Context → Context} (hq : Quiet s) (h : Leads s e F e) (storer : Bool) (j : Nat)
    (l : List Word64) :
    let v := if storer then e else traceReads j l e
    ∃ r, Leads s v (fun c => { F c with trec := r }) v ∧ v.mem = e.mem ∧ v.quays = e.quays := by
  cases storer with
  | true =>
    obtain ⟨helse, hlatch, hcur, hme⟩ := h
    exact ⟨(F s.me.begin).trec, ⟨helse, hlatch, hcur, hme⟩, rfl, rfl⟩
  | false =>
    obtain ⟨r, L, hmem, -⟩ := traceReads_leads hq h j l
    exact ⟨r, L, hmem, quays_traceReads j l e⟩

/-! ### The opening of a subscription (R308) -/

/-- Subscription `y` in its entry, counted in BUSY where nothing holds it back, and the reads of a loader recorded. -/
def openedAt (ok storer : Bool) (j : Nat) (segs : List Nat) (reads : List Word64) (q i : Nat) (y : Sub) (s : State) : State :=
  let u := (if ok then bindBusy s j segs else s).setSub q i (some y)
  (if storer then u else traceReads j reads u).counted 2

theorem openedAt_leads {s e : State} {F : Context → Context} (hq : Quiet s) (h : Leads s e F e) (ok storer : Bool) (j : Nat)
    (segs : List Nat) (reads : List Word64) (q i : Nat) (y : Sub) :
    let a := openedAt ok storer j segs reads q i y e
    ∃ r, Leads s a (fun c => { F c with trec := r }) a ∧ a.mem = e.mem ∧ a.sub q i = some y
      ∧ ∀ p k, (p, k) ≠ (q, i) → a.sub p k = e.sub p k := by
  have hb : Apart e (if ok then bindBusy e j segs else e) ∧ (if ok then bindBusy e j segs else e).quays = e.quays := by
    split
    · exact ⟨apart_bindBusy .., quays_bindBusy ..⟩
    · exact ⟨.refl e, rfl⟩
  unfold openedAt
  revert hb
  generalize (if ok then bindBusy e j segs else e) = b
  intro ⟨hapart, hquays⟩ a
  have hA := hapart.trans (apart_setSub b q i (some y))
  obtain ⟨r, L, hmem, hrest⟩ := ringReads_leads hq (h.apart hA) storer j reads
  have hsub : ∀ p k, a.sub p k = (b.setSub q i (some y)).sub p k := sub_congr (t := a) hrest
  obtain ⟨-, -, -, -, hmemA⟩ := hA
  exact ⟨r, L.apart (apart_counted 2 _), hmem.trans hmemA, (hsub q i).trans (sub_setSub_self ..),
    fun p k hne => (hsub p k).trans ((sub_setSub_ne _ _ hne).trans (sub_congr hquays p k))⟩

theorem xsubOp_opens {x : ArgX} {pre cur : State} {i : Nat}
    (h : freeEntry cur (ringQuay pre (pre.jobOf pre.cur) (ringAt x pre)) 64 (Config.pick cur.free) = some i) :
    ∃ (y : Sub) (segs : List Nat) (ok : Bool),
      let q := ringQuay pre (pre.jobOf pre.cur) (ringAt x pre)
      (xsubOp x).eff pre cur
          = (openedAt ok (ringAt x pre).storer (pre.jobOf pre.cur) segs (ringAddrs (ringAt x pre)) q i y cur).updMe
          (fun c => c.wS x.sreg (handleOf y.serial q i))
        ∧ y.ring = ringAt x pre ∧ y.core = pre.homeCore pre.cur ∧ y.ctx = cur.cur ∧ y.cursor = 0 ∧ y.next = 0
        ∧ y.closing = false := by
  simp only [xsubOp, Op.plain, xsubIssue, h]
  exact ⟨_, _, _, rfl, rfl, rfl, rfl, rfl, rfl, rfl⟩

theorem xsubWait_free {s : State} {x : ArgX} (h : xsubWait x s = none) :
    ∃ m, m < 64 ∧ s.sub (ringQuay s (s.jobOf s.cur) (ringAt x s)) m = none := by
  unfold xsubWait at h
  split at h
  next m hm => exact ⟨m, freeEntry_free hm⟩
  next => cases h

section
variable {s : State} {x : ArgX} (hq : Quiet s)
include hq

theorem xsub_bars (x : ArgX) : (xsubOp x).bars (beginIssue s) = ringBars (s.cur / 4) (ringAt x s) := by
  simp only [xsubOp, homeCore_issuing hq.1 (beginIssue_cur s), begin_ringAt hq]

theorem xsub_results (hr : Ready s (descSrcs x [])) (hodd : oddDesc x = none) (hc : xsubChk x s = none)
    (hw : xsubWait x s = none) :
    ∃ i y, let q := ringQuay s (s.jobOf s.cur) (ringAt x s)
      s.sub q i = none ∧ i < 64 ∧ y.ring = ringAt x s ∧ y.core = s.cur / 4 ∧ y.ctx = s.cur ∧ y.cursor = 0 ∧ y.next = 0
      ∧ y.closing = false
      ∧ Results s (.xsub x) (heldX s false (.xsub x)) ((ringBars (s.cur / 4) (ringAt x s)).foldl runBar s).mem
        (fun c => c.wS x.sreg (handleOf y.serial q i))
        (fun t => t.sub q i = some y ∧ ∀ p k, (p, k) ≠ (q, i) → t.sub p k = s.sub p k) := by
  let bars := ringBars (s.cur / 4) (ringAt x s)
  let u := bars.foldl runBar (beginIssue s)
  have L : Leads s u (fun c => c) u := runBars_leads hq rfl bars _ (Leads.start hq)
  have ⟨_, _, hcur, _⟩ := L
  have hsub : ∀ q i, u.sub q i = s.sub q i := by
    obtain ⟨-, hquays⟩ := runBars_rest bars (beginIssue s)
    exact sub_congr (hquays.trans (begin_quays hq))
  obtain ⟨m, hm, hfree⟩ := xsubWait_free hw
  obtain ⟨i, hi⟩ := freeEntry_any hm ((hsub _ m).trans hfree) (Config.pick u.free)
  obtain ⟨hlt, hnone⟩ := freeEntry_free hi
  have hquay : ringQuay (beginIssue s) ((beginIssue s).jobOf (beginIssue s).cur) (ringAt x (beginIssue s))
      = ringQuay s (s.jobOf s.cur) (ringAt x s) := by rw [begin_job hq, begin_ringAt hq, begin_ringQuay hq]
  obtain ⟨y, segs, ok, he, hring, hcore, hctx, hcursor, hnext, hclosing⟩ := xsubOp_opens (by rw [hquay]; exact hi)
  rw [hquay] at he
  obtain ⟨r, L', hmem, hself, hothers⟩ := openedAt_leads hq L ok (ringAt x (beginIssue s)).storer _ segs
    (ringAddrs (ringAt x (beginIssue s))) (ringQuay s (s.jobOf s.cur) (ringAt x s)) i y
  refine ⟨i, y, (hsub _ i).symm.trans hnone, hlt, hring.trans (begin_ringAt hq x),
    hcore.trans (homeCore_issuing hq.1 (beginIssue_cur s)),
    hctx.trans hcur, hcursor, hnext, hclosing, ?_⟩
  exact results_wS_bars (o := xsubOp x) hq (exec_xsub x s) (verdict_go _ _ hodd hr hc hw) (xsub_bars hq x) he L'
    (hmem.trans (runBars_mem_congr bars (beginIssue_mem s)))
    (fun t ht => ⟨(sub_congr ht.quays _ _).trans hself,
      fun p k hne => (sub_congr ht.quays p k).trans ((hothers p k hne).trans (hsub p k))⟩)

end

/-! ### A subscription passed on, and its close (R311, R312) -/

theorem xslot_stale {s : State} {x : ArgX} (hr : Ready s [srcS x.sarg x.b]) (hh : handleSub s (s.me.rS x.sarg) = none) :
    Raises s (.xslot x) (illegal 6 0x66 0) :=
  raises_of (o := xslotOp x) (exec_xslot x s) rfl hr (by simp only [xslotOp, handleErr, hh, firstSome])

section
variable {s : State} {x : ArgX} {q i : Nat} {y : Sub} (hh : handleSub s (s.me.rS x.sarg) = some (q, i, y))
include hh

/-- The handle of an open subscription fails an `XSLOT` past its last tile alone. -/
theorem xslotChk_eq : (xslotOp x).chk s = if y.cursor = y.ring.tiles then some (illegal 6 0x65 0) else none := by
  simp only [xslotOp, handleErr, lastErr, hh]
  split <;> rfl

theorem xslot_past (hr : Ready s [srcS x.sarg x.b]) (hlast : y.cursor = y.ring.tiles) : Raises s (.xslot x) (illegal 6 0x65 0) :=
  raises_of (o := xslotOp x) (exec_xslot x s) rfl hr ((xslotChk_eq hh).trans (if_pos hlast))

omit hh in
/-- The entry with the slot passed on: the next tile, and the quay's own list of tiles. -/
theorem xslotOp_passes {pre cur : State} (h : handleSub cur (pre.me.rS x.sarg) = some (q, i, y)) : ∃ n : Sparse Nat,
    (xslotOp x).eff pre cur = ((cur.setSub q i (some { y with cursor := y.cursor + 1, tnums := n })).counted 0).updMe
      (fun c => c.wS x.sreg (n64 y.cursor)) := by
  simp only [xslotOp, Op.plain, h]
  exact ⟨_, rfl⟩

section
variable (hq : Quiet s)
include hq

theorem xslot_bars : (xslotOp x).bars (beginIssue s) = slotBars y := by
  simp only [xslotOp, me_begin_rS hq.1, begin_handleSub hq, hh]
  rfl

theorem xslot_results (hr : Ready s [srcS x.sarg x.b]) (hlast : y.cursor ≠ y.ring.tiles) :
    Results s (.xslot x) (heldX s x.hold (.xslot x)) ((slotBars y).foldl runBar s).mem (fun c => c.wS x.sreg (n64 y.cursor))
      (fun t => (∀ p k, (p, k) ≠ (q, i) → t.sub p k = s.sub p k)
        ∧ (t.sub q i).map (·.cursor) = some (y.cursor + 1) ∧ (t.sub q i).map (·.ring) = some y.ring) := by
  let u := (slotBars y).foldl runBar (beginIssue s)
  have L : Leads s u (fun c => c) u := runBars_leads hq rfl (slotBars y) _ (Leads.start hq)
  have ⟨_, _, _, hme⟩ := L
  obtain ⟨-, hquays⟩ := runBars_rest (slotBars y) (beginIssue s)
  have hu : u.quays = s.quays := hquays.trans (begin_quays hq)
  have hhandle : handleSub u ((beginIssue s).me.rS x.sarg) = some (q, i, y) := by
    rw [me_begin_rS hq.1, handleSub_congr hu (by rw [hme]; rfl), hh]
  obtain ⟨n, he⟩ := xslotOp_passes hhandle
  have hA := (apart_setSub u q i (some { y with cursor := y.cursor + 1, tnums := n })).trans (apart_counted 0 _)
  refine results_wS_bars (o := xslotOp x) hq (exec_xslot x s) (verdict_go _ _ rfl hr ((xslotChk_eq hh).trans (if_neg hlast)) rfl)
    (xslot_bars hh hq) he (L.apart hA) (runBars_mem_congr (slotBars y) (beginIssue_mem s)) (fun t ht => ?_)
  have hsub : ∀ p k, t.sub p k = (u.setSub q i (some { y with cursor := y.cursor + 1, tnums := n })).sub p k := sub_congr ht.quays
  rw [hsub q i, sub_setSub_self]
  exact ⟨fun p k hne => (hsub p k).trans ((sub_setSub_ne _ _ hne).trans (sub_congr hu p k)), rfl, rfl⟩

omit hh hq in
/-- The entry of a subscription that closes: its counter is noted, and a loader drops the tiles that it has not begun. -/
theorem xunsubOp_closes {pre cur : State} (h : handleSub cur (pre.me.rS x.sarg) = some (q, i, y)) : ∃ n : Sparse Nat,
    (xunsubOp x).eff pre cur = cur.setSub q i (some { y with closing := true, ctr := pre.me.rA x.adesc, tnums := n }) := by
  simp only [xunsubOp, Op.plain, h]
  exact ⟨_, rfl⟩

theorem xunsub_results (hr : Ready s [srcA x.adesc x.b, srcS x.sarg x.b]) (hctr : ctrErr (s.me.rA x.adesc) = none)
    (hreach : ctrReach s (s.me.rA x.adesc) = none) :
    Results s (.xunsub x) (heldX s false (.xunsub x)) s.mem (fun c => c)
      (fun t => (∀ p k, (p, k) ≠ (q, i) → t.sub p k = s.sub p k)
        ∧ (t.sub q i).map (·.closing) = some true ∧ (t.sub q i).map (·.ctr) = some (s.me.rA x.adesc)) := by
  have hchk : (xunsubOp x).chk s = none := by simp only [xunsubOp, handleErr, hctr, hh, hreach, firstSome]
  obtain ⟨n, he⟩ := xunsubOp_closes (x := x) (pre := beginIssue s) (cur := beginIssue s) (q := q) (i := i) (y := y)
    (by rw [me_begin_rS hq.1, begin_handleSub hq, hh])
  rw [me_begin_rA hq.1] at he
  refine results_of (o := xunsubOp x) hq (exec_xunsub x s) (verdict_go _ _ rfl hr hchk rfl) rfl he
    ((Leads.start hq).apart (apart_setSub ..)) (.refl _) rfl (beginIssue_mem s) rfl (fun t ht => ?_)
    (by show (6 : Nat) ≠ 0; decide)
  have hsub := sub_congr ht.quays
  rw [hsub q i, sub_setSub_self]
  exact ⟨fun p k hne => (hsub p k).trans ((sub_setSub_ne _ _ hne).trans (sub_congr (begin_quays hq) p k)), rfl, rfl⟩

end

end

/-- Settles O35: it holds. An opening writes one free entry, and an op with a handle the entry that the handle names, whose quay the
barrier writes leave alone. -/
theorem rings : Obligations.Rings := by
  intro s x hq
  exact ⟨fun hr hodd hc hw => xsub_results hq hr hodd hc hw,
    fun hr => ⟨fun q i y hh => ⟨xslot_results hh hq hr, xslot_past hh hr,
      fun hr' hctr hreach => xunsub_results hh hq (ready_cons hr' hr) hctr hreach⟩, xslot_stale hr⟩⟩

end Sys2Proof.Machine
